-- ==== Sys2Proof/Word.lean ====
section
/-! DEFINITION. The word types of the engine and the exact-number type its arithmetic is stated in. -/

namespace Sys2Proof

/-- A byte of SRAM or of a port beat. -/
abbrev Byte := BitVec 8

/-- A register, slot or descriptor word (00 Registers: every register is 64 bits wide). -/
abbrev W64 := BitVec 64

/-- An FP32 bit pattern (R31). -/
abbrev F32 := BitVec 32

/-- A context C0 to C15 (R231). -/
abbrev Ctx := Fin 16

/-- A strand of a context (R233). -/
abbrev Strand := Fin 4

/-- An array A0 to A3, its feeder, drain and staging (R13). -/
abbrev Arr := Fin 4

/-- A saggar index (R71); the unwalled tile position is saggar 0. -/
abbrev Sag := Fin 16

/-- An accumulation group G0 to G63 (R96). -/
abbrev Grp := Fin 64

/-- A peg pair P0 to P255 (R236). -/
abbrev Peg := Fin 256

/-- A check channel CHK0 to CHK3 (R304). -/
abbrev Chk := Fin 4

/-- One of the two tile banks of a position (R55). -/
abbrev BankIx := Fin 2

/-- An exact value of the arithmetic: a NaN, a signed infinity, or `(-1)^neg * m * 2^e` (R31). A zero keeps its sign (R34). -/
inductive Num where
  | nan
  | inf (neg : Bool)
  | fin (neg : Bool) (m : Nat) (e : Int)
  deriving DecidableEq, Repr

/-- How one rounding is made (R46, R47): to nearest even, truncated toward zero, or stochastic with the 16-bit draw `r`. -/
inductive Rnd where
  | rne
  | trunc
  | stoch (r : Nat)
  deriving DecidableEq, Repr

/-- Bits `hi:lo` of a word as a number. -/
def bitsOf (w : Nat) (hi lo : Nat) : Nat := (w >>> lo) % 2 ^ (hi + 1 - lo)

/-- One bit of a word. -/
def bitAt (w i : Nat) : Bool := (w >>> i) % 2 == 1

end Sys2Proof
end

