-- ==== Sys2Proof/Syntax.lean ====
section
/-! DEFINITION. The commands of the block: one constructor per row of the opcode table. -/

namespace Sys2Proof

/-- The check-channel register a CHK_REGISTER_WRITE names (R310, R315). -/
inductive ChkReg where
  | ctl
  | value
  | expect
  deriving DecidableEq, Repr

/-- A control-port read as it arrives: CP_REQ_ADDR and CP_REQ_BE (R369). -/
structure CpRead where
  addr : BitVec 24
  be : BitVec 8
  deriving DecidableEq, Repr

/-- A command. The first block are the strand instructions: the issue stage takes the NEXT instruction of strand `s` of
context `c`, whose opcode is the row's (R251, R252). The rest are events, arrivals at the ports and register accesses;
their operands are what the table row leaves to the outside: which unit, which tag, the data that arrives. -/
inductive Instr where
  -- issue stage and strand instructions (R259)
  | nop (c : Ctx) (s : Strand)
  | setq (c : Ctx) (s : Strand)
  | addq (c : Ctx) (s : Strand)
  | jump (c : Ctx) (s : Strand)
  | loop (c : Ctx) (s : Strand)
  | event (c : Ctx) (s : Strand)
  | yield (c : Ctx) (s : Strand)
  | yieldExpiry (c : Ctx) (s : Strand)
  | halt (c : Ctx) (s : Strand)
  | pwait (c : Ctx) (s : Strand)
  | ppost (c : Ctx) (s : Strand)
  | mark (c : Ctx) (s : Strand)
  | fence (c : Ctx) (s : Strand)
  | load (c : Ctx) (s : Strand)
  | store (c : Ctx) (s : Strand)
  | copy (c : Ctx) (s : Strand)
  | fill (c : Ctx) (s : Strand)
  | short (c : Ctx) (s : Strand)
  | pass (c : Ctx) (s : Strand)
  -- array events; `e` is the number of a dispatched instruction (log 1)
  | passStart (n : Arr)
  | inputCycle (n : Arr) (g : Sag)
  | rowRead (n : Arr)
  | passComplete (e : Nat)
  | gang (c : Ctx) (s : Strand)
  | wall (c : Ctx) (s : Strand)
  | swap (c : Ctx) (s : Strand)
  | rampStep (n : Arr)
  | arrayClockGate (n : Arr)
  | preemptStop (n : Arr) (g : Sag)
  -- kiln
  | gopen (c : Ctx) (s : Strand)
  | gpark (c : Ctx) (s : Strand)
  | gresume (c : Ctx) (s : Strand)
  | gclose (c : Ctx) (s : Strand)
  | gmerge (c : Ctx) (s : Strand)
  | gmergeReoffer (g : Grp)
  | kilnTransferDone (x : Nat)
  | kilnMergeComplete (g : Grp)
  | peerTimeout (g : Grp)
  -- glaze drain and wheels
  | glzcfg (c : Ctx) (s : Strand)
  | glzcfgLoad (n : Arr)
  | glazeCompareResult (n : Arr)
  | glazeRowOut (n : Arr)
  | wheelService (w : Fin 2)
  -- vector engine and rule sequencer
  | vop (c : Ctx) (s : Strand)
  | norm (c : Ctx) (s : Strand)
  | rulecfgBegin (c : Ctx) (s : Strand)
  | rulecfgAbort (c : Ctx) (s : Strand)
  | rulecfgCheck (c : Ctx) (s : Strand)
  | update (c : Ctx) (s : Strand)
  | precond (c : Ctx) (s : Strand)
  | sequencerJobStart
  | rulePassEntry (n : Arr)
  -- line
  | line (c : Ctx) (s : Strand)
  | lineStripRestart
  -- chain and check instructions, checkpoints
  | chsend (c : Ctx) (s : Strand)
  | chrecv (c : Ctx) (s : Strand)
  | chkseed (c : Ctx) (s : Strand)
  | chkcmp (c : Ctx) (s : Strand)
  | ckpt (c : Ctx) (s : Strand)
  | restore (c : Ctx) (s : Strand)
  -- completion, streams, translation, M-ports, launch
  | instructionComplete (e : Nat)
  | streamRequestIssue (i : Nat)
  | translationWalkDone (i : Nat) (ptes : List W64) (err : Bool)
  | mpReadResponse (tag : BitVec 13) (err : BitVec 2) (data : List Byte)
  | mpWriteCompletion (tag : BitVec 13) (err : BitVec 2)
  | tagTimeout (tag : BitVec 13)
  | launchEntry (ent : List Byte) (img : List (List Byte)) (err : Bool)
  -- chain port
  | chainFrameArrival (hdr : BitVec 192) (data : List Byte)
  | chainFrameSend
  | chainCreditReturn (cnt : BitVec 11)
  | chainFrameRepair
  | chainHoldLimit
  | chainLinkReset (downstream : Bool)
  -- fabric port: header of R292 and payload
  | fabRxWrite (hdr : BitVec 512) (data : List Byte)
  | fabRxWack (hdr : BitVec 512)
  | fabRxOffer (hdr : BitVec 512)
  | fabRxGrant (hdr : BitVec 512)
  | fabRxCdata (hdr : BitVec 512) (data : List Byte)
  | fabRxCdone (hdr : BitVec 512)
  | fabRxPost (hdr : BitVec 512)
  | fabRxPack (hdr : BitVec 512)
  | fabRxRevoke (hdr : BitVec 512)
  | fabRxRack (hdr : BitVec 512)
  | fabRetryResend (tag : BitVec 10)
  | fabTagTimeout (tag : BitVec 10)
  | grantTimeout (slot : BitVec 10)
  -- notices, steward, cone, supply and temperature
  | noticeSend
  | stewardHeartbeat
  | swdtLost
  | scrubPatrol
  | coneWindowEnd
  | vwarnAssert
  | vwarnSettleExpiry
  | thermWarnAssert
  | thermWarnClear
  | thermTripAssert
  | thermSettleExpiry
  -- resets, start-up
  | rstColdNAssert
  | rstColdNRelease (arrayEn : BitVec 4) (engineIndex : BitVec 3)
  | rstEngNAssert
  | rstEngNRelease
  | engAbsentChange (absent : Bool)
  | bootVerifyDone
  | startUpEnd (arrFail : BitVec 4) (unitFail : Bool) (found : List (Nat × Bool))
  | engineResetReady (arrFail : BitVec 4)
  | engResetContext (c : Ctx)
  | engResetEngine
  | fenceComplete (c : Ctx)
  | fenceLimitExpiry (c : Ctx)
  | schCtlPreempt (c : Ctx)
  | preemptRest (c : Ctx)
  | schCtlResume (c : Ctx)
  | resumeEntry (n : Arr)
  -- register writes with behaviour of their own
  | strResume (c : Ctx)
  | xltInvalPage (c : Ctx) (va : BitVec 49)
  | xltInvalContext (c : Ctx)
  | xltInvalAll
  | xltRootWrite (c : Ctx) (v : W64)
  | strSplitWrite (c : Ctx) (v : W64)
  | strPortmapWrite (k : Option (Fin 32)) (v : W64)
  | schCqTailWrite (v : W64)
  | schCqConfigWrite (size : Bool) (v : W64)
  | schPegCfgWrite (p : Peg) (v : W64)
  | schPegWrite (p : Peg) (v : W64)
  | schWinWrite (c : Ctx) (k : Fin 8) (v : W64)
  | schFixedWrite (v : W64)
  | schLogSizeWrite (c : Ctx) (v : W64)
  | fabPeerWrite (n : Fin 4096) (v : W64)
  | chnCfgWrite (v : W64)
  | chkFeed (n : Chk) (v : W64)
  | chkRegisterWrite (n : Chk) (r : ChkReg) (v : W64)
  | engFaultPtrWrite (v : W64)
  | mgtRetireRequest (v : W64)
  | mgtPwrReqP0
  | mgtPwrReqP1
  | mgtPwrReqP2
  | mgtPwrReqP3
  | p1Entry
  | powerDown
  | mgtClkCfgWrite (v : W64)
  | mgtConeLimitsWrite (v : W64)
  | mgtBootPtrWrite (v : W64)
  | mgtBootDataWrite (v : W64)
  | mgtBootGo (v : W64)
  | dbgRespGo (v : W64)
  | dbgVerifyDone
  | dbgStewardHalt (v : W64)
  | dbgStewardStep
  | dbgMemDataRead
  | readClearCounter (req : CpRead)
  -- test port
  | dbgacc (dr : BitVec 96)
  | idcode
  | samplePreload (preload : BitVec 16)
  | bypass (tdi : Bool)
  | registerWrite (addr : BitVec 24) (be : BitVec 8) (data : W64)
  | vwarnNRelease
  | thermTripNRelease
  | powerRemoval
  | arrAbftCtlWrite (n : Arr) (v : W64)
  deriving DecidableEq, Repr

end Sys2Proof
end

