-- ==== Sys2Proof/Config.lean ====
section
/-! DEFINITION. Values the spec leaves to the implementation: constants without a body, so that no proof sees a value (log 10). -/

namespace Sys2Proof.Config

/-- Energy of one event of kind `k`, which the steward loads from its firmware image; the spec gives none (R352, log 10). -/
opaque eventEnergy : List Byte → Nat → Nat

/-- The fixed idle term of a window, in the same unit (R352, log 10). -/
opaque idleEnergy : List Byte → Nat

/-- How many of these units make a microjoule, less one (R352, log 10). -/
opaque energyUnit : List Byte → Nat

/-- SHA-384 digest of the firmware key, held in the mask ROM (R360). -/
opaque fwKeyDigest : BitVec 384

/-- SHA-384 digest of the debug key, held in the mask ROM (R390). -/
opaque dbgKeyDigest : BitVec 384

/-- Word `k` of the `n`-th random challenge (R390, R404). -/
opaque challenge : Nat → Nat → BitVec 64

/-- Program counter of the steward core after its `n`-th observed instruction (R403). -/
opaque stewardPc : Nat → BitVec 32

/-- A result the spec does not state, by the number of free values taken before it and its place in the result (log 10). -/
opaque openWord : Nat → Nat → BitVec 64

/-- A byte of the shadow area the steward keeps over P2 and P3, by save and address (R349). -/
opaque shadowWord : Nat → Nat → BitVec 64

end Sys2Proof.Config
end

