-- ==== Sys2Proof/Machine/State.lean ====
section
/-! DEFINITION. The state of the engine as plain data, the fault and refusal types, and the state after cold reset. -/

namespace Sys2Proof.Machine

open Sys2Proof

/-- Reasons to stop with a fault. The spec gives every event of this block a next state, so no meaning raises one; the type
is kept for the interface. Safe: nothing raises it. -/
inductive Fault where
  /-- Raised by no meaning. Safe. -/
  | none
  deriving DecidableEq, Repr

/-- Reasons to refuse. -/
inductive Refusal where
  /-- The arm of a row that has no meaning yet; raised by no meaning. Safe. -/
  | notModelled (mnemonic : String)
  deriving DecidableEq, Repr

/-! ### Sparse maps -/

/-- A sparse byte memory in canonical form: addresses strictly rising, no entry equal to 0, what an unlisted byte reads as. -/
abbrev Mem := List Host.Cell

/-- Stored register values, keyed by register address in the 16 MiB window, in the same form; an unlisted register holds its reset value. -/
abbrev RegMap := List (Nat × W64)

/-! ### Contexts and strands (R231 to R235) -/

/-- Context states of R231. -/
inductive CtxState where
  | free | running | done | preempting | preempted | faulted | fencing | quarantine
  deriving DecidableEq, Repr

/-- A strand (R233): position of its next instruction, scalar slots, and whether it was started, halted or yielded. -/
structure StrandSt where
  pos : Nat
  started : Bool
  halted : Bool
  yielded : Bool
  yieldUntil : Nat          -- last ARR cycle of the YIELD (R235)
  markAt : Nat              -- ARR cycle of its previous MARK, or of its start (R240)
  slots : Vector W64 32
  deriving DecidableEq, Repr

/-- A fence in progress (R327). -/
structure FenceSt where
  since : Nat               -- beat of step 1
  unsent : List Nat         -- peer entries whose REVOKE has not gone out
  oldGen : BitVec 16        -- generation before the increment
  deriving DecidableEq, Repr

/-- A context: state, generation (R232), strands, launch tag (R274), time in RUNNING (R242), regulators (R218), remote posts
not yet acknowledged (R243), the fence, and the progress watchdog's record (R325). -/
structure CtxSt where
  state : CtxState
  gen : BitVec 16
  strands : Vector StrandSt 4
  tagVal : BitVec 16
  elapsed : W64
  regRead : Nat
  regWrite : Nat
  regRemote : Nat
  unacked : Nat
  fence : Option FenceSt
  progressed : Bool
  stall : Nat
  deriving DecidableEq, Repr

/-- FULL and EMPTY counts of a peg pair (R236, R237). -/
structure PegSt where
  full : BitVec 16
  empty : BitVec 16
  deriving DecidableEq, Repr

/-! ### Dispatched instructions (R19 to R24) -/

/-- What a scoreboard token covers: a byte range `[lo, hi)` of the flat engine address space, a group, or a wheel (R20). -/
inductive TokObj where
  | range (lo hi : Nat)
  | group (g : Grp)
  | wheel (w : Fin 2)
  deriving DecidableEq, Repr

structure Token where
  obj : TokObj
  write : Bool
  deriving DecidableEq, Repr

/-- The queue an instruction goes to (R21). -/
inductive EUnit where
  | issue | load | store | short | array | kiln | vec | line | chain
  | chk (n : Chk)
  deriving DecidableEq, Repr

/-- A dispatched, uncompleted instruction. `arrays` are the array queues it stands in; `reads` the slots read at dispatch, in
the order its layout names them; `descs` the descriptors copied at dispatch (R203); `prog` the drain program copied or bound;
`started` that it has left its queue; `phase` and `aux` the progress of its unit on it. -/
structure Entry where
  id : Nat
  ctx : Ctx
  gen : BitVec 16
  strand : Strand
  pos : Nat
  word : BitVec 128
  eunit : EUnit
  arrays : List Arr
  started : Bool
  mark : Bool
  tokens : List Token
  reads : List W64
  descs : List (List W64)
  prog : List W64
  progNo : Nat              -- number of the GLZCFG bound
  seed : W64
  walk : Nat
  slotOut : Option (Fin 32)
  phase : Nat
  aux : Nat
  left : Nat                -- parts of the instruction still at work (members of a GANG)
  deriving DecidableEq, Repr

/-! ### Streams, tags and translation (R201 to R230) -/

/-- Where a byte of a stream lies on the engine side: a flat engine address, the address of an MX scale byte, which rides a wheel's scale lane
(R123), a constant (fill, drain output), or the engine bit address of each of its bits (turned sub-byte elements, R208), `none` for a bit
that no element of the block holds. -/
inductive ByteRef where
  | mem (a : Nat)
  | scale (a : Nat)
  | const (b : Byte)
  | bits (l : List (Option Nat))
  deriving DecidableEq, Repr

/-- One byte a stream moves: virtual address and engine side. -/
structure Seg where
  va : Nat
  ref : ByteRef
  deriving DecidableEq, Repr

/-- Whose work a stream is. -/
inductive Owner where
  | entry (e : Nat)         -- a dispatched instruction, its glaze drain output included
  | job (j : Nat)           -- a sequencer job
  | xfer (x : Nat)          -- a kiln spill or return
  | log                     -- a mark-log record (R241)
  | inbound (hdr : BitVec 512)  -- an incoming remote WRITE (R295)
  deriving DecidableEq, Repr

/-- A check feed of a stream's block with CHKEN (R227, R307 to R309): its channel and the fields of its prefix, its bytes `[lo, hi)` in the
stream's order, how many of them have folded, whether it holds its channel. -/
structure Feed where
  ch : Chk
  seq : Nat
  base : Nat
  lo : Nat
  hi : Nat
  folded : Nat
  on : Bool
  deriving DecidableEq, Repr

/-- A stream (R216): what it has still to move in request order, its quota and its halt (R222). `segs` are the bytes of the blocks
reached so far, `desc` the descriptor of the block reached last; `tail` is that of the block before it while bytes of that block still
head `todo`; `next` says where the following block goes on: descriptor index, element and scale offsets, blocks done. `feed` is the check
feed that is due or under way, `fed` those that have ended, `later` those that a refetch starts again. `turned` says that the block passes
`wheel`, `turnNo` when its transfer started, `wq` which bytes read wait for the wheel, `wcredit` how many bytes the wheel has turned for a write. -/
structure Stream where
  id : Nat
  owner : Owner
  ctx : Ctx
  gen : BitVec 16
  write : Bool
  desc : Nat
  segs : List Seg
  todo : List Seg
  quota : Nat
  peer : Option Nat
  halted : Option Nat       -- virtual address of the page fault
  slotless : Bool           -- resumed, without a transfer slot yet (R222)
  next : Option (Nat × Nat × Nat × Nat)
  tail : Option Nat
  feed : Option Feed
  fed : List Feed
  later : List Feed
  wheel : Option (Fin 2)
  turned : Bool
  turnNo : Nat
  wq : List (ByteRef × Byte)
  wcredit : Nat
  deriving DecidableEq, Repr

/-- A stream that has its bytes and nothing besides: no further block, no feed, no wheel. -/
def Stream.plain (id : Nat) (o : Owner) (c : Ctx) (gen : BitVec 16) (write : Bool) (desc : Nat) (segs : List Seg) (quota : Nat) (peer : Option Nat) : Stream :=
  { id := id, owner := o, ctx := c, gen := gen, write := write, desc := desc, segs := segs, todo := segs, quota := quota, peer := peer, halted := none
    slotless := false, next := none, tail := none, feed := none, fed := [], later := [], wheel := none, turned := false, turnNo := 0, wq := [], wcredit := 0 }

/-- An outstanding M-port or short request (R216, R217, R375). -/
structure MpReq where
  tag : Nat
  stream : Nat
  ctx : Ctx
  gen : BitVec 16
  write : Bool
  pa : Nat                  -- physical address of its first unit
  va : Nat                  -- virtual address of its first unit
  beats : Nat
  segs : List Seg
  data : List (Nat × Byte)  -- written bytes, by offset from pa
  issued : Nat              -- beat of issue
  port : Nat
  key : Nat                 -- bank key of R219
  zombie : Bool
  redo : Bool               -- a store landed on one of its units: read again (R226)
  turned : Bool             -- its bytes pass the stream's wheel (R210)
  deriving DecidableEq, Repr

/-- A cached leaf translation (R221). -/
structure TlbEnt where
  ctx : Ctx
  vpn : Nat                 -- virtual address divided by the page size
  big : Bool                -- 1 GiB page
  pa : Nat                  -- physical base
  w : Bool
  deriving DecidableEq, Repr

/-- A page-table walk in flight (R220, R221): the level whose entry is being read and that entry's physical address, with the port and bank
key of the read; `stale` when an invalidation has named what the walk will find. -/
structure Walk where
  idx : Nat
  ctx : Ctx
  gen : BitVec 16
  va : Nat
  write : Bool
  stream : Nat
  issued : Nat              -- beat of the read's issue
  lvl : Nat
  pa : Nat
  port : Nat
  key : Nat
  stale : Bool
  denied : Bool             -- W = 0 in an entry read before
  deriving DecidableEq, Repr

/-! ### Arrays (03) -/

/-- One bank of one cell (R55): leaf register (and its compensation, or the 20-bit register of P1), the three stack slots, the total,
the pass-start copy, and the segment sum of an integer pass or the FP32 accumulator of a P1 pass. -/
structure Cell where
  leaf : F32
  leafLo : F32
  s0 : Option F32
  s1 : Option F32
  s2 : Option F32
  total : W64
  start : W64
  acc : BitVec 32
  deriving DecidableEq, Repr

/-- Cells of a tile by row-major index; an unlisted cell is all zero. -/
abbrev Cells := List (Nat × Cell)

inductive BankState where
  | empty | filling | held | reading | loading
  deriving DecidableEq, Repr

/-- One tile bank of a position. `pass` is the number of the ungrouped pass or entry whose tile it holds. -/
structure BankSt where
  state : BankState
  grp : Option Grp
  pass : Nat
  ctx : Ctx
  single : Bool
  m : Nat
  n : Nat
  cells : Cells
  deriving DecidableEq, Repr

/-- Progress of a pass at its position (R57 to R64): the K position, sub-pass and split step, leaf and segment counters, draw index,
pass number, check state and edge sums (R74), and whether it stopped, replays or was aborted. -/
structure PassRun where
  entry : Nat
  ctx : Ctx
  gen : BitVec 16
  grp : Option Grp
  bank : BankIx
  m : Nat
  n : Nat
  k : Nat
  ta : Nat
  tb : Nat
  refA : W64
  refB : W64
  baseA : Arr               -- array whose staging holds the A panel (the lead of a GANG under R69)
  baseB : Arr
  kpos : Nat
  sub : Nat
  split : Nat
  leafCnt : Nat
  leaves : Nat              -- leaves completed in the current segment
  draw : Nat
  passNum : Nat
  checked : Bool
  replay : Bool
  segs : Nat                -- segments ended in this attempt
  counted : Nat             -- segments of the pass counted so far (R99)
  edgeCol : List W64        -- e_j and mu_j by column, imaginary bank behind the real one
  edgeColMu : List W64
  edgeRow : List W64
  edgeRowMu : List W64
  ended : Bool              -- every input cycle issued
  aborted : Bool
  gang : Bool
  orient : Bool
  rule : Option Nat         -- sequencer job of a rule pass
  deriving DecidableEq, Repr

structure PosSt where
  b0 : BankSt
  b1 : BankSt
  last : BankIx
  run : Option PassRun
  deriving DecidableEq, Repr

/-- What a tile on the row path is read for (R136). -/
inductive ReadKind where
  | drain                   -- PASS ending DRAIN
  | check                   -- stage 1 only
  | park                    -- PARK or GPARK
  | close                   -- GCLOSE LOCAL
  | peer                    -- GCLOSE PEER
  | merge                   -- GMERGE of a RESIDENT source
  | preempt                 -- stack form
  deriving DecidableEq, Repr

/-- A tile being read out of an array or through its row path (R65): the source rows, where the next row comes from, its program binding. -/
structure TileRead where
  tid : Nat
  kind : ReadKind
  entry : Nat
  ctx : Ctx
  gen : BitVec 16
  grp : Option Grp
  sag : Sag
  bank : Option BankIx      -- none: from the kiln or the spill buffer
  h : Nat
  w : Nat
  m : Nat
  n : Nat
  next : Nat
  checked : Bool
  prog : List W64
  seed : W64
  walk : Nat
  data : Cells              -- totals of a tile read from the kiln
  dataIm : Cells
  complex : Bool
  integer : Bool
  thenPark : Bool           -- a checked HOLD or PARK, by END
  xfer : Nat                -- kiln transfer that the read serves, 0 for none
  run : Option PassRun      -- the pass whose tile it is, for its check and replay (R75, R76)
  deriving DecidableEq, Repr

/-- A converted or waiting row inside a drain. -/
structure DRow where
  tid : Nat
  row : Nat
  vals : List W64           -- totals of the row
  valsIm : List W64
  deriving DecidableEq, Repr

/-- A tile inside a drain (R136, R156): what it drains for, the compare state, sums of stage 1, counts of stage 7. -/
structure DTile where
  tid : Nat
  src : TileRead
  rowsIn : Nat
  rowsOut : Nat
  colSum : List W64
  rowSum : List W64
  checkDone : Bool
  nan : Nat
  pos : Nat
  negc : Nat
  folded : Bool             -- guard prefix folded
  red : List (Nat × List F32)  -- column reductions so far, by column (R150)
  deriving DecidableEq, Repr

/-- A program slot of a drain (R141), and the latest program a context dispatched of a kind (R142). -/
structure ProgSlot where
  ctx : Ctx
  close : Bool
  prog : Nat                -- number of the GLZCFG instruction
  deriving DecidableEq, Repr

structure ProgLatest where
  ctx : Ctx
  close : Bool
  prog : Nat
  words : List W64
  seed : W64
  walks : Nat
  loaded : Bool
  deriving DecidableEq, Repr

/-- A ramp of a level (R67). -/
structure Ramp where
  from_ : Nat
  to_ : Nat
  step : Nat                -- steps completed
  steps : Nat               -- S; 0 when the level is at rest
  level : Nat
  acc : Nat
  deriving DecidableEq, Repr

inductive Gate where
  | gated | ramping | running
  deriving DecidableEq, Repr

/-- A resume entry at the head of an array queue (R250, R109). -/
structure ResumeEnt where
  ctx : Ctx
  grp : Grp
  sag : Sag
  wall : Nat
  deriving DecidableEq, Repr

/-- The record of a pre-empted pass (R108): its progress, kept with its stack-form tile. -/
structure StackRec where
  run : PassRun
  arr : Arr
  sag : Sag
  wall : Nat
  deriving DecidableEq, Repr

/-- An array with its feeder, row path and drain. -/
structure ArraySt where
  wall : Nat                -- mode that holds (R71)
  wallNext : Nat            -- mode of the latest WALL dispatched (R267)
  pos : Vector PosSt 16
  gate : Gate
  adv : Ramp
  inp : Ramp
  idleSince : Nat           -- ARR cycle since which it has been idle (R68)
  abftCount : Nat           -- pass counter of R75
  reads : List TileRead     -- row path, in order
  tiles : List DTile        -- drain, in order
  rows : List DRow          -- rows waiting at stage 9, in order
  slots : List ProgSlot
  latest : List ProgLatest
  credit : Vector Nat 2     -- credit in bytes at each wheel (R407)
  resume : List ResumeEnt
  replays : List (Sag × PassRun)  -- passes to replay next (R76)
  deriving DecidableEq, Repr

/-! ### Groups and the kiln (04) -/

inductive GrpState where
  | free | open_ | resident | parked | parkedStack | spilled | waiting | draining | closed | poisoned
  deriving DecidableEq, Repr

/-- Where a group's local total is, apart from its state (a WAITING group keeps it, R98). -/
inductive Where where
  | nowhere
  | zero                    -- implicitly +0
  | bank (n : Arr) (g : Sag)
  | kiln (rec_ : Nat)
  | stack (rec_ : Nat)
  | spill (unit_ : Nat)
  deriving DecidableEq, Repr

/-- A group record (R96 to R105). -/
structure GroupSt where
  state : GrpState
  ctx : Ctx
  strand : Strand
  arr : Arr
  sag : Sag
  mode : Nat
  rnd : Bool
  kind : Nat
  shape : Nat
  leaf : Nat
  lapsed : Bool
  round : BitVec 16
  nremote : Nat
  expect : Nat
  localCnt : Nat
  remoteCnt : Nat
  nadd : Nat
  tally : Nat
  passes : Nat              -- PASS instructions accepted (R48)
  seed : W64
  loc : Where
  arrived : List Nat        -- ranks accepted
  nextRank : Nat            -- next rank to merge
  mRec : Option Nat         -- kiln record of M
  resRec : Option Nat       -- kiln record of the reserve's second part
  merging : Option Nat      -- rank being merged into M
  mHas : Bool
  close : Option Nat        -- entry of the pending GCLOSE or GMERGE
  waitFrom : Nat            -- beat from which R103 counts
  stack : Option StackRec
  cTr : Nat                 -- tile row, column and slot of the LOCAL close (R143)
  cTc : Nat
  cSlot : Nat
  cProg : List W64          -- close program bound
  cArr : Arr
  nfNan : Nat
  nfPos : Nat
  nfNeg : Nat
  nfValid : Bool
  deriving DecidableEq, Repr

/-- What a kiln record holds. -/
inductive KRole where
  | tile | stack | m | reserve | arrival (rank : Nat)
  deriving DecidableEq, Repr

/-- A record in the kiln: group, role, the (slot, sub-slot) places it takes, elements of T0 and T1, order of parking. -/
structure KRec where
  id : Nat
  grp : Grp
  ctx : Ctx
  role : KRole
  shape : Nat
  places : List (Nat × Nat)
  cells : Cells
  cellsIm : Cells
  nadd : Nat
  lapsed : Bool
  deriving DecidableEq, Repr

inductive XKind where
  | park | resume | closeRead | spill | return_ | gmerge
  deriving DecidableEq, Repr

/-- A kiln transfer in progress (R107). -/
structure Xfer where
  id : Nat
  kind : XKind
  grp : Grp
  ctx : Ctx
  entry : Nat
  rec_ : Nat
  unit_ : Nat
  arr : Arr
  sag : Sag
  bank : BankIx
  ready : Bool              -- its rows or its memory traffic are done
  target : Nat              -- GMERGE: destination group and rank
  rank : Nat
  deriving DecidableEq, Repr

/-- An open grant (R101, R297): the slot number given out, group, rank, sender and rows landed. -/
structure Grant where
  slot : Nat
  grp : Grp
  rank : Nat
  rec_ : Nat
  peer : Nat                -- BACK_IDX of the sender's entry
  tag : Nat                 -- remote tag of its OFFER
  rows : List Nat
  last : Nat                -- beat of the grant or of its latest CDATA
  nadd : Nat
  lapsed : Bool
  deriving DecidableEq, Repr

/-! ### Vector engine, sequencer, line (07, 08) -/

/-- A sparse matrix of FP32 elements by row-major index; an unlisted element is +0. -/
structure Mat where
  rows : Nat
  cols : Nat
  vals : List (Nat × F32)
  deriving DecidableEq, Repr

/-- The working state of an OPEN rule header: BEGIN strand, the scratch reserved, the slices of this step with their SHAPE, the elements of the
shard that they skip, and which elements of w, m, v and of the factors have a commit copy in scratch (HOLD); the values are in memory. -/
structure RuleSt where
  hdr : Nat
  ctx : Ctx
  strand : Strand
  pool : Nat                -- virtual address of the context's scratch pool at BEGIN
  base : Nat                -- scratch range reserved in it (R171)
  size : Nat
  slices : List (Nat × Nat)
  skips : List Nat          -- elements of the shard that R176 skips
  cw : List Nat
  cm : List Nat
  cv : List Nat
  cf : List Nat
  wdescs : List (Nat × Nat × List W64)  -- slice, descriptor index and words
  deriving DecidableEq, Repr

inductive JobKind where
  | pair (slice : Nat)
  | layerEnd
  | root
  deriving DecidableEq, Repr

/-- One product of rule passes: C = A·B of working matrices by name, in FP32 split or BF16, and its output tiles still to run
(tile row, tile column, K range). -/
structure Prod where
  a : Nat
  b : Nat
  c : Nat
  fp32 : Bool
  transA : Bool
  transB : Bool
  tiles : List (Nat × Nat × Nat × Nat)
  deriving DecidableEq, Repr

/-- A sequencer job (R166): `mats` are its working matrices, `prods` the products still to run in the current stage, `cfg` the rule
configuration at hand-over (R187), `eps` VEC_EPS at its start (R182). -/
structure Job where
  id : Nat
  ctx : Ctx
  gen : BitVec 16
  hdr : Nat
  kind : JobKind
  running : Bool
  stage : Nat
  iter : Nat
  block : Nat
  entry : Nat               -- UPDATE that waits for it, 0 for none
  held : Bool
  mats : List (Nat × Mat)
  prods : List Prod
  cfg : W64
  eps : F32
  deriving DecidableEq, Repr

/-- The LINE in progress (R188 to R199): the strip that accumulates and its next step, its lanes by vector * strip width + column (leaf and
total), the strip whose totals the epilogue reads beside it (R190), how many weight bytes have left the intake buffer, and results that wait
for the last strip because they feed a check channel (R207): vector, element bytes, scale bytes. -/
structure LineRun where
  entry : Nat
  ctx : Ctx
  v : Nat
  strip : Nat
  step : Nat
  leaf : List (Nat × F32)
  tot : List (Nat × W64)
  epi : Option (Nat × List (Nat × W64))
  taken : Nat
  out : List (Nat × List Seg × List Seg)
  waitFault : Bool
  deriving DecidableEq, Repr

/-! ### Chain and fabric (12) -/

/-- A chain frame (R280) with what the taker knows of it: its tile, the result of its check, whether it has still to go on, and
whether it needs no local copy any more. -/
structure Frame where
  seq : BitVec 32
  chainId : BitVec 16
  fidx : Nat
  nfr : Nat
  hops : Nat
  len : Nat
  crc : BitVec 32
  data : List Byte
  tile : Nat
  good : Bool
  fwd : Bool
  copied : Bool
  slot : Nat                -- slot of the chain buffers that holds it: of the ring, or from INTAKE on of the keep area
  deriving DecidableEq, Repr

/-- A tile that arrives on the chain (R284, R285): its first SEQ, NFR and HOPS on arrival, SEQ and FIDX of its latest frame, the
frames copied to staging, and whether it is broken, kept, dropped (R287) or taken by its CHRECV. -/
structure ChTile where
  id : Nat
  seq : BitVec 32
  nfr : Nat
  hops : Nat
  last : Nat
  lastSeq : BitVec 32
  done : Nat
  broken : Bool
  kept : Bool
  dropped : Bool
  taken : Bool
  deriving DecidableEq, Repr

structure ChainSt where
  ring : List Frame         -- intake ring, oldest first
  keep : List Frame
  tiles : List ChTile       -- oldest first; the last is the tile that arrives
  tileNo : Nat              -- tiles numbered so far
  credits : Nat
  cut : Bool
  linkUp : Bool
  out : Option Frame        -- the frame last sent on CHAIN_OUT
  ownTile : Bool            -- CHAIN_OUT is inside an own tile
  fwdTile : Bool            -- CHAIN_OUT is inside a forwarded tile
  creditsOut : Nat          -- credits given upstream since the last link reset
  holdFrom : Option Nat     -- PORT cycle from which the hold timer counts
  lrstDown : Nat            -- PORT cycle until which CO_LRST_OUT is high (R379, R380)
  lrstUp : Nat              -- PORT cycle until which CI_LRST_OUT is high
  deriving DecidableEq, Repr

/-- What a remote tag was taken for (R294). -/
inductive FabKind where
  | write (stream : Nat) (segs : List Seg)
  | offer (g : Grp)
  | post (entry : Nat)
  | revoke
  deriving DecidableEq, Repr

/-- Which half of the table of R236 a strand acts as. -/
inductive Role where
  | producer | consumer
  deriving DecidableEq, Repr

/-- A sync-field post to a remote pair that has not gone out yet (R238). -/
structure PostOut where
  ctx : Ctx
  gen : BitVec 16
  peg : Peg
  role : Role
  n : Nat
  deriving DecidableEq, Repr

/-- A packet and the lane it was given (R292, R294). -/
structure FabPkt where
  hdr : BitVec 512
  data : List Byte
  lane : Fin 2
  deriving DecidableEq, Repr

/-- A remote tag held (R294, R296). -/
structure FabTag where
  tag : Nat
  kind : FabKind
  ctx : Ctx
  gen : BitVec 16
  peer : Nat
  pkt : FabPkt
  first : Nat               -- beat of the first send
  retryAt : Option Nat      -- beat of the resend after RETRY
  granted : Bool
  zombie : Bool
  deriving DecidableEq, Repr

/-! ### Check channels, steward, power, test port -/

/-- What holds a channel (R308, CHK_STATUS.HOLDER). -/
inductive Holder where
  | none
  | streamRead (i : Nat)
  | streamWrite (i : Nat)
  | glaze (n : Arr)
  | ckpt (e : Nat)
  | restore (e : Nat)
  deriving DecidableEq, Repr

/-- A check channel: its holder, the value at the fold-start copy, the value before the hardware folds of this beat (R316). -/
structure ChkSt where
  holder : Holder
  foldStart : W64
  preFold : Option W64
  last : Option (Nat × Nat) -- stream and block whose hold the fold-start copy belongs to (R309)
  busyUntil : Nat           -- beat until which a register feed folds (R310)
  deriving DecidableEq, Repr

/-- The launch entry in progress (R275, R276): its counter value, its words once they have been read, 64-byte units of its image copied. -/
structure LaunchRun where
  idx : Nat
  words : Option (Vector W64 8)
  copied : Nat
  deriving DecidableEq, Repr

/-- The read that is out under tag 0x1840 (R275, R375): address and bytes wanted, its request's 256-byte units; `zombie` when an engine reset has
ended its launch. -/
structure LaunchRead where
  src : Nat
  len : Nat
  beats : Nat
  port : Nat
  key : Nat
  issued : Nat
  zombie : Bool
  deriving DecidableEq, Repr

/-- An engine reset in progress (R330, R332). -/
inductive RstPhase where
  | idle
  | fencing
  | computeReset
  | steward
  | failed                  -- Verify failed: READY does not follow, the fabric port goes on answering FENCED (R330, R364)
  deriving DecidableEq, Repr

/-- Levels of the management inputs and the power state outside registers. `true` is a high level. The last four are inputs that no row
of the table moves: CP_REQ_ID with the request made, CP_RSP_READY, FBl_TX_READY by lane and TRST_N (R368, R369, R382, R389, log 119). -/
structure Pins where
  rstCold : Bool
  rstEng : Bool
  vwarn : Bool
  thermWarn : Bool
  thermTrip : Bool
  absent : Bool
  arrayEn : BitVec 4
  engineIndex : BitVec 3
  pwrOffOk : Bool
  powered : Bool
  cpReqId : BitVec 6
  cpRspReady : Bool
  txReady : BitVec 2
  trst : Bool
  deriving DecidableEq, Repr

/-- The steward and its timers. -/
structure StewardSt where
  running : Bool            -- firmware started, heartbeat beating (R362)
  beatAt : Nat              -- beat of the latest heartbeat
  patrol : Nat              -- next line of the patrol (R340)
  patrolAt : Nat
  p2Exit : Bool             -- an exit from P2 is under way (R350)
  chal : Nat                -- challenges issued
  steps : Nat               -- single steps made under DBG_STEWARD
  dead : Nat                -- REASON of a failed start that only a cold reset ends, else 0 (R364)
  deriving DecidableEq, Repr

/-- Supply, temperature and cone state outside registers (R352 to R358). -/
structure PowerSt where
  vClearAt : Option Nat     -- beat from which VWARN_N has stayed clear
  tClearAt : Option Nat
  coneAt : Nat              -- beat of the latest window end
  wake : Nat                -- beat until which units ungated from P1 still wait (R348)
  p1Gated : Bool
  shadowSaves : Nat         -- how often the steward has written the shadow area (R349)
  deriving DecidableEq, Repr

/-- A control-port response (R369). -/
structure CpRsp where
  id : BitVec 6
  data : W64
  err : BitVec 2
  deriving DecidableEq, Repr

/-- Test-port state (R389). -/
structure Jtag where
  ir : BitVec 8
  dr : BitVec 96
  boundary : BitVec 16
  tdo : Bool
  deriving DecidableEq, Repr

/-- A hardware increment of a counter field, or set of a bit, in this beat: register address, field, its value before, how much (R9). -/
structure Coin where
  reg : Nat
  lo : Nat
  wid : Nat
  before : Nat
  n : Nat
  deriving DecidableEq, Repr

/-- What the estimator has counted in the window that runs (R352): multiply-adds by format class (16, 8, 6 and 4 bits), input cycles, glaze
rows, SRAM accesses by region, beats of the M-ports, the chain and the fabric, lane operations of the vector engine and of the line. -/
structure Acts where
  macs : Vector Nat 4
  inputs : Nat
  rows : Nat
  sram : Vector Nat 10
  mport : Nat
  chain : Nat
  fabric : Nat
  vec : Nat
  line : Nat
  deriving DecidableEq, Repr

/-- Everything the engine holds. -/
structure Block where
  beat : Nat                -- beats since reset; one beat is one MGT cycle (R17)
  pins : Pins
  regs : RegMap
  ctxs : Vector CtxSt 16
  pegs : Vector PegSt 256
  rot : Nat                 -- rotation pointer: strand that last dispatched (R234)
  lastDispatch : Nat        -- instructions dispatched, numbering entries
  fetched : List (Nat × Nat × BitVec 128)  -- instructions fetched ahead of dispatch: strand by number, position, word (R252)
  entries : List Entry
  sram : Mem
  boot : Mem
  ecc1 : List Nat           -- words with a correctable error, by flat word index (R340)
  ecc2 : List Nat           -- words with an uncorrectable error (R341)
  streams : List Stream
  mp : List MpReq
  tlb : List TlbEnt         -- most recently used first
  walks : List Walk
  invalBusy : List Nat      -- tags of the requests whose return releases XLT_INVAL.BUSY (R221)
  invalUntil : Nat
  hotKeys : List Nat        -- bank keys that raised HOT_BANK and have not fallen back (R219)
  arrays : Vector ArraySt 4
  groups : Vector GroupSt 64
  kiln : List KRec
  xfers : List Xfer
  grants : List Grant
  spillUse : List (Ctx × Nat × Grp)  -- units taken in the spill regions, and by whom (R112)
  preParked : List (Arr × ResumeEnt)  -- tiles parked by a pre-emption, in order (R250)
  spares : List (Nat × Nat × Nat × Nat)  -- rows replaced: region, bank, row, spare (R361)
  wheelNext : Vector Nat 2  -- where each wheel's rotation goes on: array, or 4 and the number of a turn (R407)
  vecNext : Nat             -- array at which the rotation of the vector-store port goes on (R407)
  rules : List RuleSt
  jobs : List Job
  line : Option LineRun
  chain : ChainSt
  fabTags : List FabTag
  fabTx : List FabPkt       -- packets waiting in the lanes' queues, answers first (R383)
  fabLoop : List FabPkt     -- packets in the internal loopback (R291)
  posts : List PostOut      -- sync-field posts that still wait to be sent (R238)
  inbuf : List (Ctx × Nat)  -- incoming WRITE payload bytes held, by context (R295)
  chks : Vector ChkSt 4
  launch : Option LaunchRun
  launchRead : Option LaunchRead
  notices : List W64        -- notice queue, oldest first (R372)
  noticeOut : Option W64    -- the notice last sent
  recNext : Nat             -- fault records written (R323)
  engFault : Option Nat     -- code of the engine fault that stops the command queue (R320)
  rst : RstPhase
  steward : StewardSt
  power : PowerSt
  cp : CpRsp                -- the latest control-port response
  cpQ : List CpRsp          -- responses that CP_RSP_READY has not taken, oldest first (R371)
  coins : List Coin         -- what hardware counted and set in this beat (R9)
  noticeNew : Nat           -- notices of the queue that arose in this beat (R372)
  acts : Acts
  jtag : Jtag
  rlocks : List Nat         -- addresses of RWL fields locked (R8)
  freeTick : Nat            -- model's own: how many free values have been taken (log 10)
  deriving DecidableEq, Repr

/-- The machine: the engine and the queue of commands that are waiting, first in, first out. -/
structure State where
  blk : Block
  pending : List Instr
  deriving DecidableEq, Repr

/-! ### Reset values -/

def StrandSt.reset : StrandSt :=
  ⟨0, false, false, false, 0, 0, Vector.replicate 32 0#64⟩

/-- Regulators start full at the reset BURST of 4 units of 4 KiB (R218, R228). -/
def CtxSt.reset : CtxSt :=
  ⟨.free, 0#16, Vector.replicate 4 StrandSt.reset, 0#16, 0#64, 16384, 16384, 16384, 0, none, false, 0⟩

def Cell.zero : Cell := ⟨0#32, 0#32, none, none, none, 0#64, 0#64, 0#32⟩

def BankSt.reset : BankSt := ⟨.empty, none, 0, 0, false, 0, 0, []⟩

def PosSt.reset : PosSt := ⟨BankSt.reset, BankSt.reset, 1, none⟩

def Ramp.rest (level : Nat) : Ramp := ⟨level, level, 0, 0, level, 0⟩

/-- An array after reset is gated (ARR_STATUS.STATE 0x2), unwalled, with empty banks and no program (R85). -/
def ArraySt.reset : ArraySt :=
  ⟨0, 0, Vector.replicate 16 PosSt.reset, .gated, Ramp.rest 0, Ramp.rest 64, 0, 0, [], [], [], [], [], Vector.replicate 2 0, [], []⟩

def GroupSt.reset : GroupSt :=
  { state := .free, ctx := 0, strand := 0, arr := 0, sag := 0, mode := 0, rnd := false, kind := 0, shape := 0, leaf := 0,
    lapsed := false, round := 0#16, nremote := 0, expect := 0, localCnt := 0, remoteCnt := 0, nadd := 0, tally := 0,
    passes := 0, seed := 0#64, loc := .nowhere, arrived := [], nextRank := 0, mRec := none, resRec := none,
    merging := none, mHas := false, close := none, waitFrom := 0, stack := none, cTr := 0, cTc := 0, cSlot := 0,
    cProg := [], cArr := 0, nfNan := 0, nfPos := 0, nfNeg := 0, nfValid := false }

def ChainSt.reset : ChainSt :=
  { ring := [], keep := [], tiles := [], tileNo := 0, credits := 0, cut := false, linkUp := false, out := none,
    ownTile := false, fwdTile := false, creditsOut := 0, holdFrom := none, lrstDown := 0, lrstUp := 0 }

/-- The management inputs at reset: cold reset held, every other input inactive, power on, straps not sampled (log 5). -/
def Pins.reset : Pins :=
  { rstCold := false, rstEng := true, vwarn := true, thermWarn := true, thermTrip := true, absent := false,
    arrayEn := 0#4, engineIndex := 0#3, pwrOffOk := false, powered := true,
    cpReqId := 0#6, cpRspReady := true, txReady := 3#2, trst := true }

def StewardSt.reset : StewardSt := ⟨false, 0, 0, 0, false, 0, 0, 0⟩

/-- A window begins with nothing counted (R352). -/
def Acts.zero : Acts := ⟨Vector.replicate 4 0, 0, 0, Vector.replicate 10 0, 0, 0, 0, 0, 0⟩

def PowerSt.reset : PowerSt := ⟨none, none, 0, 0, false, 0⟩

/-- After Test-Logic-Reset the instruction register holds IDCODE (IEEE 1149.1, log 5). -/
def Jtag.reset : Jtag := ⟨0x01#8, 0#96, 0#16, false⟩

/-- The engine while RST_COLD_N is low: every register at its reset value, nothing in flight (R333). -/
def Block.reset : Block :=
  { beat := 0, pins := Pins.reset, regs := [], ctxs := Vector.replicate 16 CtxSt.reset,
    pegs := Vector.replicate 256 ⟨0#16, 0#16⟩, rot := 63, lastDispatch := 0, fetched := [], entries := [], sram := [], boot := [],
    ecc1 := [], ecc2 := [], streams := [], mp := [], tlb := [], walks := [], invalBusy := [], invalUntil := 0,
    hotKeys := [], arrays := Vector.replicate 4 ArraySt.reset, groups := Vector.replicate 64 GroupSt.reset,
    kiln := [], xfers := [], grants := [], spillUse := [], preParked := [], spares := [], wheelNext := Vector.replicate 2 0, vecNext := 0, rules := [], jobs := [],
    line := none, chain := ChainSt.reset, fabTags := [], fabTx := [], fabLoop := [], posts := [], inbuf := [],
    chks := Vector.replicate 4 ⟨.none, 0#64, none, none, 0⟩, launch := none, launchRead := none, notices := [], noticeOut := none, recNext := 0, engFault := none,
    rst := .idle, steward := StewardSt.reset, power := PowerSt.reset, cp := ⟨0#6, 0#64, 0#2⟩, cpQ := [], coins := [],
    noticeNew := 0, acts := Acts.zero, jtag := Jtag.reset,
    rlocks := [], freeTick := 0 }

/-- The machine right after cold reset, with no command waiting. -/
def State.reset : State := ⟨Block.reset, []⟩

end Sys2Proof.Machine
end

