-- ==== Sys2Proof/Machine/Regs.lean ====
section
/-! DEFINITION. The register map (17) as one table: every register of the block, its address and its fields with access code (R8),
reset value and reset class (R11), as the register tables of the chapters give them. -/

namespace Sys2Proof.Machine

open Sys2Proof

/-- Access codes of R8. -/
inductive Access where
  | RW | RO | WO | W1C | W1S | RC | RWL
  deriving DecidableEq, Repr

/-- Reset classes of R11. -/
inductive RClass where
  | K | E | X | V
  deriving DecidableEq, Repr

/-- A field of a register: lowest bit, width, access, reset value, class. -/
structure Field where
  lo : Nat
  wid : Nat
  acc : Access
  rst : Nat
  cls : RClass
  deriving DecidableEq, Repr

/-- The registers of R406. -/
inductive Reg where
  | engId
  | engStatus
  | engConfig
  | engNotice
  | engReset
  | engFaultPtr
  | engFaultCtl
  | engTagTimeout
  | engFenceLimit
  | engEventCnt (k : Fin 26)
  | engFaultRec (n : Fin 64) (w : Fin 4)
  | engCtxFault (c : Ctx) (w : Fin 4)
  | arrRamp (n : Arr)
  | arrAbftCtl (n : Arr)
  | arrStatus (n : Arr)
  | arrAbftFirst (n : Arr)
  | arrAbftStrikes (n : Arr)
  | arrAbftLast (n : Arr)
  | arrRetireLimit (n : Arr)
  | klnCfg
  | klnStatus
  | klnSpills
  | klnRejects
  | klnArriveSel
  | klnSpillBase (c : Ctx)
  | klnSpillSize (c : Ctx)
  | klnGrpStat (g : Grp)
  | klnGrpCnt (g : Grp)
  | klnGrpExp (g : Grp)
  | klnGrpNadd (g : Grp)
  | klnArriveMap (k : Fin 64)
  | glzStatus (n : Arr)
  | glzNan (n : Arr)
  | glzInf (n : Arr)
  | glzNfg (g : Grp)
  | vecStatus
  | vecGuardCnt
  | vecGuard (c : Ctx)
  | vecEps (c : Ctx)
  | vecRuleCfg (c : Ctx)
  | vecScratchBase (c : Ctx)
  | vecScratchSize (c : Ctx)
  | lineStatus
  | lineDone
  | strCfg
  | strStatus
  | strTaguse
  | strHazard
  | strHotbank
  | strResume
  | strPortmapCfg
  | strSplit (c : Ctx)
  | strTags (c : Ctx)
  | strPf (c : Ctx)
  | strPortmap (k : Fin 32)
  | schStatus
  | schCtl
  | schFixed
  | schOverrun
  | schLogDrops
  | schCqBase
  | schCqSize
  | schCqTail
  | schCqHead
  | schCqStatus
  | schCtxStat (c : Ctx)
  | schElapsed (c : Ctx)
  | schLogBase (c : Ctx)
  | schLogSize (c : Ctx)
  | schEvent (c : Ctx)
  | schEventData (c : Ctx)
  | schStrand (c : Ctx) (s : Strand)
  | schPegCfg (p : Peg)
  | schPeg (p : Peg)
  | schWin (c : Ctx) (k : Fin 8)
  | chnCfg
  | chnHoldLimit
  | chnStatus
  | chnCount
  | fabSelf
  | fabCfg
  | fabPeerTimeout
  | fabStatus
  | fabCount
  | fabRxcount
  | fabRxpf
  | fabRcap (c : Ctx)
  | fabPeer (n : Fin 4096)
  | chkCtl (n : Chk)
  | chkValue (n : Chk)
  | chkExpect (n : Chk)
  | chkFeed (n : Chk)
  | chkStatus (n : Chk)
  | chkCount (n : Chk)
  | mgtHeartbeat
  | mgtProgress
  | mgtSwdt
  | mgtRetire
  | mgtEcc
  | mgtEccLog
  | mgtPwr
  | mgtClkCfg
  | mgtConeLimits
  | mgtConeBudget
  | mgtConeStatus
  | mgtConeCnt
  | mgtTherm
  | mgtVwarn
  | mgtBootCtl
  | mgtBootPtr
  | mgtBootData
  | mgtBootStatus
  | mgtBootMinver
  | mgtFw
  | xltInval
  | xltStatus
  | xltMiss
  | xltRoot (c : Ctx)
  | dbgChal (k : Fin 6)
  | dbgChalStatus
  | dbgResp (k : Fin 12)
  | dbgRespGo
  | dbgSteward
  | dbgStewardPc
  | dbgMemAddr
  | dbgMemData
  deriving DecidableEq, Repr

/-- Address of a register in the 16 MiB window (R392, R393, R406). -/
def Reg.addr : Reg → Nat
  | .engId => 0x000000
  | .engStatus => 0x000008
  | .engConfig => 0x000010
  | .engNotice => 0x000018
  | .engReset => 0x000100
  | .engFaultPtr => 0x000108
  | .engFaultCtl => 0x000110
  | .engTagTimeout => 0x000118
  | .engFenceLimit => 0x000120
  | .engEventCnt k => 0x000800 + 8 * k.val
  | .engFaultRec n w => 0x001000 + 32 * n.val + 8 * w.val
  | .engCtxFault c w => 0x002000 + 32 * c.val + 8 * w.val
  | .arrRamp n => 0x010000 + 16384 * n.val
  | .arrAbftCtl n => 0x010008 + 16384 * n.val
  | .arrStatus n => 0x010010 + 16384 * n.val
  | .arrAbftFirst n => 0x010018 + 16384 * n.val
  | .arrAbftStrikes n => 0x010020 + 16384 * n.val
  | .arrAbftLast n => 0x010028 + 16384 * n.val
  | .arrRetireLimit n => 0x010030 + 16384 * n.val
  | .klnCfg => 0x020000
  | .klnStatus => 0x020008
  | .klnSpills => 0x020010
  | .klnRejects => 0x020018
  | .klnArriveSel => 0x022000
  | .klnSpillBase c => 0x020100 + 8 * c.val
  | .klnSpillSize c => 0x020180 + 8 * c.val
  | .klnGrpStat g => 0x021000 + 32 * g.val
  | .klnGrpCnt g => 0x021008 + 32 * g.val
  | .klnGrpExp g => 0x021010 + 32 * g.val
  | .klnGrpNadd g => 0x021018 + 32 * g.val
  | .klnArriveMap k => 0x022100 + 8 * k.val
  | .glzStatus n => 0x040000 + 4096 * n.val
  | .glzNan n => 0x040008 + 4096 * n.val
  | .glzInf n => 0x040010 + 4096 * n.val
  | .glzNfg g => 0x048000 + 8 * g.val
  | .vecStatus => 0x050000
  | .vecGuardCnt => 0x050008
  | .vecGuard c => 0x050100 + 8 * c.val
  | .vecEps c => 0x050180 + 8 * c.val
  | .vecRuleCfg c => 0x050200 + 8 * c.val
  | .vecScratchBase c => 0x050280 + 8 * c.val
  | .vecScratchSize c => 0x050300 + 8 * c.val
  | .lineStatus => 0x060000
  | .lineDone => 0x060008
  | .strCfg => 0x070000
  | .strStatus => 0x070008
  | .strTaguse => 0x070010
  | .strHazard => 0x070018
  | .strHotbank => 0x070020
  | .strResume => 0x070028
  | .strPortmapCfg => 0x070300
  | .strSplit c => 0x070100 + 8 * c.val
  | .strTags c => 0x070180 + 8 * c.val
  | .strPf c => 0x070200 + 8 * c.val
  | .strPortmap k => 0x070400 + 8 * k.val
  | .schStatus => 0x080000
  | .schCtl => 0x080008
  | .schFixed => 0x080010
  | .schOverrun => 0x080018
  | .schLogDrops => 0x080020
  | .schCqBase => 0x080040
  | .schCqSize => 0x080048
  | .schCqTail => 0x080050
  | .schCqHead => 0x080058
  | .schCqStatus => 0x080060
  | .schCtxStat c => 0x080100 + 8 * c.val
  | .schElapsed c => 0x080400 + 8 * c.val
  | .schLogBase c => 0x080480 + 8 * c.val
  | .schLogSize c => 0x080500 + 8 * c.val
  | .schEvent c => 0x080580 + 8 * c.val
  | .schEventData c => 0x080600 + 8 * c.val
  | .schStrand c s => 0x080200 + 32 * c.val + 8 * s.val
  | .schPegCfg p => 0x081000 + 8 * p.val
  | .schPeg p => 0x081800 + 8 * p.val
  | .schWin c k => 0x082000 + 64 * c.val + 8 * k.val
  | .chnCfg => 0x090000
  | .chnHoldLimit => 0x090008
  | .chnStatus => 0x090010
  | .chnCount => 0x090018
  | .fabSelf => 0x0A0000
  | .fabCfg => 0x0A0008
  | .fabPeerTimeout => 0x0A0010
  | .fabStatus => 0x0A0018
  | .fabCount => 0x0A0020
  | .fabRxcount => 0x0A0028
  | .fabRxpf => 0x0A0030
  | .fabRcap c => 0x0A0100 + 8 * c.val
  | .fabPeer n => 0x0A8000 + 8 * n.val
  | .chkCtl n => 0x0B0000 + 64 * n.val
  | .chkValue n => 0x0B0008 + 64 * n.val
  | .chkExpect n => 0x0B0010 + 64 * n.val
  | .chkFeed n => 0x0B0018 + 64 * n.val
  | .chkStatus n => 0x0B0020 + 64 * n.val
  | .chkCount n => 0x0B0028 + 64 * n.val
  | .mgtHeartbeat => 0x0C0000
  | .mgtProgress => 0x0C0008
  | .mgtSwdt => 0x0C0010
  | .mgtRetire => 0x0C0018
  | .mgtEcc => 0x0C0020
  | .mgtEccLog => 0x0C0028
  | .mgtPwr => 0x0C0040
  | .mgtClkCfg => 0x0C0048
  | .mgtConeLimits => 0x0C0050
  | .mgtConeBudget => 0x0C0058
  | .mgtConeStatus => 0x0C0060
  | .mgtConeCnt => 0x0C0068
  | .mgtTherm => 0x0C0070
  | .mgtVwarn => 0x0C0078
  | .mgtBootCtl => 0x0C0080
  | .mgtBootPtr => 0x0C0088
  | .mgtBootData => 0x0C0090
  | .mgtBootStatus => 0x0C0098
  | .mgtBootMinver => 0x0C00A0
  | .mgtFw => 0x0C00A8
  | .xltInval => 0x0D0000
  | .xltStatus => 0x0D0008
  | .xltMiss => 0x0D0010
  | .xltRoot c => 0x0D0100 + 8 * c.val
  | .dbgChal k => 0x0E0000 + 8 * k.val
  | .dbgChalStatus => 0x0E0030
  | .dbgResp k => 0x0E0100 + 8 * k.val
  | .dbgRespGo => 0x0E0160
  | .dbgSteward => 0x0E0200
  | .dbgStewardPc => 0x0E0208
  | .dbgMemAddr => 0x0E0210
  | .dbgMemData => 0x0E0218

/-- An index from a remainder, when it is below the count and lands on the stride. -/
def idx? (n : Nat) [NeZero n] (stride off : Nat) : Option (Fin n) :=
  if off % stride == 0 && off / stride < n then some (Fin.ofNat n (off / stride)) else none

/-- Registers of a page by offset: each candidate with its range; the first that fits. -/
def regsPage0 (o : Nat) : Option Reg :=
  match o with
  | 0x0000 => some .engId
  | 0x0008 => some .engStatus
  | 0x0010 => some .engConfig
  | 0x0018 => some .engNotice
  | 0x0100 => some .engReset
  | 0x0108 => some .engFaultPtr
  | 0x0110 => some .engFaultCtl
  | 0x0118 => some .engTagTimeout
  | 0x0120 => some .engFenceLimit
  | _ =>
    (if 0x0800 ≤ o then (idx? 26 8 (o - 0x0800)).map .engEventCnt else none)
    <|> (if 0x1000 ≤ o && (o - 0x1000) % 32 < 32 then (idx? 64 32 ((o - 0x1000) / 32 * 32)).bind (fun a => (idx? 4 8 ((o - 0x1000) % 32)).map (fun b => .engFaultRec a b)) else none)
    <|> (if 0x2000 ≤ o && (o - 0x2000) % 32 < 32 then (idx? 16 32 ((o - 0x2000) / 32 * 32)).bind (fun a => (idx? 4 8 ((o - 0x2000) % 32)).map (fun b => .engCtxFault a b)) else none)

def regsPage1 (o : Nat) : Option Reg :=
    (if 0x0000 ≤ o then (idx? 4 16384 (o - 0x0000)).map .arrRamp else none)
    <|> (if 0x0008 ≤ o then (idx? 4 16384 (o - 0x0008)).map .arrAbftCtl else none)
    <|> (if 0x0010 ≤ o then (idx? 4 16384 (o - 0x0010)).map .arrStatus else none)
    <|> (if 0x0018 ≤ o then (idx? 4 16384 (o - 0x0018)).map .arrAbftFirst else none)
    <|> (if 0x0020 ≤ o then (idx? 4 16384 (o - 0x0020)).map .arrAbftStrikes else none)
    <|> (if 0x0028 ≤ o then (idx? 4 16384 (o - 0x0028)).map .arrAbftLast else none)
    <|> (if 0x0030 ≤ o then (idx? 4 16384 (o - 0x0030)).map .arrRetireLimit else none)

def regsPage2 (o : Nat) : Option Reg :=
  match o with
  | 0x0000 => some .klnCfg
  | 0x0008 => some .klnStatus
  | 0x0010 => some .klnSpills
  | 0x0018 => some .klnRejects
  | 0x2000 => some .klnArriveSel
  | _ =>
    (if 0x0100 ≤ o then (idx? 16 8 (o - 0x0100)).map .klnSpillBase else none)
    <|> (if 0x0180 ≤ o then (idx? 16 8 (o - 0x0180)).map .klnSpillSize else none)
    <|> (if 0x1000 ≤ o then (idx? 64 32 (o - 0x1000)).map .klnGrpStat else none)
    <|> (if 0x1008 ≤ o then (idx? 64 32 (o - 0x1008)).map .klnGrpCnt else none)
    <|> (if 0x1010 ≤ o then (idx? 64 32 (o - 0x1010)).map .klnGrpExp else none)
    <|> (if 0x1018 ≤ o then (idx? 64 32 (o - 0x1018)).map .klnGrpNadd else none)
    <|> (if 0x2100 ≤ o then (idx? 64 8 (o - 0x2100)).map .klnArriveMap else none)

def regsPage4 (o : Nat) : Option Reg :=
    (if 0x0000 ≤ o then (idx? 4 4096 (o - 0x0000)).map .glzStatus else none)
    <|> (if 0x0008 ≤ o then (idx? 4 4096 (o - 0x0008)).map .glzNan else none)
    <|> (if 0x0010 ≤ o then (idx? 4 4096 (o - 0x0010)).map .glzInf else none)
    <|> (if 0x8000 ≤ o then (idx? 64 8 (o - 0x8000)).map .glzNfg else none)

def regsPage5 (o : Nat) : Option Reg :=
  match o with
  | 0x0000 => some .vecStatus
  | 0x0008 => some .vecGuardCnt
  | _ =>
    (if 0x0100 ≤ o then (idx? 16 8 (o - 0x0100)).map .vecGuard else none)
    <|> (if 0x0180 ≤ o then (idx? 16 8 (o - 0x0180)).map .vecEps else none)
    <|> (if 0x0200 ≤ o then (idx? 16 8 (o - 0x0200)).map .vecRuleCfg else none)
    <|> (if 0x0280 ≤ o then (idx? 16 8 (o - 0x0280)).map .vecScratchBase else none)
    <|> (if 0x0300 ≤ o then (idx? 16 8 (o - 0x0300)).map .vecScratchSize else none)

def regsPage6 (o : Nat) : Option Reg :=
  match o with
  | 0x0000 => some .lineStatus
  | 0x0008 => some .lineDone
  | _ =>
    none

def regsPage7 (o : Nat) : Option Reg :=
  match o with
  | 0x0000 => some .strCfg
  | 0x0008 => some .strStatus
  | 0x0010 => some .strTaguse
  | 0x0018 => some .strHazard
  | 0x0020 => some .strHotbank
  | 0x0028 => some .strResume
  | 0x0300 => some .strPortmapCfg
  | _ =>
    (if 0x0100 ≤ o then (idx? 16 8 (o - 0x0100)).map .strSplit else none)
    <|> (if 0x0180 ≤ o then (idx? 16 8 (o - 0x0180)).map .strTags else none)
    <|> (if 0x0200 ≤ o then (idx? 16 8 (o - 0x0200)).map .strPf else none)
    <|> (if 0x0400 ≤ o then (idx? 32 8 (o - 0x0400)).map .strPortmap else none)

def regsPage8 (o : Nat) : Option Reg :=
  match o with
  | 0x0000 => some .schStatus
  | 0x0008 => some .schCtl
  | 0x0010 => some .schFixed
  | 0x0018 => some .schOverrun
  | 0x0020 => some .schLogDrops
  | 0x0040 => some .schCqBase
  | 0x0048 => some .schCqSize
  | 0x0050 => some .schCqTail
  | 0x0058 => some .schCqHead
  | 0x0060 => some .schCqStatus
  | _ =>
    (if 0x0100 ≤ o then (idx? 16 8 (o - 0x0100)).map .schCtxStat else none)
    <|> (if 0x0400 ≤ o then (idx? 16 8 (o - 0x0400)).map .schElapsed else none)
    <|> (if 0x0480 ≤ o then (idx? 16 8 (o - 0x0480)).map .schLogBase else none)
    <|> (if 0x0500 ≤ o then (idx? 16 8 (o - 0x0500)).map .schLogSize else none)
    <|> (if 0x0580 ≤ o then (idx? 16 8 (o - 0x0580)).map .schEvent else none)
    <|> (if 0x0600 ≤ o then (idx? 16 8 (o - 0x0600)).map .schEventData else none)
    <|> (if 0x0200 ≤ o && (o - 0x0200) % 32 < 32 then (idx? 16 32 ((o - 0x0200) / 32 * 32)).bind (fun a => (idx? 4 8 ((o - 0x0200) % 32)).map (fun b => .schStrand a b)) else none)
    <|> (if 0x1000 ≤ o then (idx? 256 8 (o - 0x1000)).map .schPegCfg else none)
    <|> (if 0x1800 ≤ o then (idx? 256 8 (o - 0x1800)).map .schPeg else none)
    <|> (if 0x2000 ≤ o && (o - 0x2000) % 64 < 64 then (idx? 16 64 ((o - 0x2000) / 64 * 64)).bind (fun a => (idx? 8 8 ((o - 0x2000) % 64)).map (fun b => .schWin a b)) else none)

def regsPage9 (o : Nat) : Option Reg :=
  match o with
  | 0x0000 => some .chnCfg
  | 0x0008 => some .chnHoldLimit
  | 0x0010 => some .chnStatus
  | 0x0018 => some .chnCount
  | _ =>
    none

def regsPageA (o : Nat) : Option Reg :=
  match o with
  | 0x0000 => some .fabSelf
  | 0x0008 => some .fabCfg
  | 0x0010 => some .fabPeerTimeout
  | 0x0018 => some .fabStatus
  | 0x0020 => some .fabCount
  | 0x0028 => some .fabRxcount
  | 0x0030 => some .fabRxpf
  | _ =>
    (if 0x0100 ≤ o then (idx? 16 8 (o - 0x0100)).map .fabRcap else none)
    <|> (if 0x8000 ≤ o then (idx? 4096 8 (o - 0x8000)).map .fabPeer else none)

def regsPageB (o : Nat) : Option Reg :=
    (if 0x0000 ≤ o then (idx? 4 64 (o - 0x0000)).map .chkCtl else none)
    <|> (if 0x0008 ≤ o then (idx? 4 64 (o - 0x0008)).map .chkValue else none)
    <|> (if 0x0010 ≤ o then (idx? 4 64 (o - 0x0010)).map .chkExpect else none)
    <|> (if 0x0018 ≤ o then (idx? 4 64 (o - 0x0018)).map .chkFeed else none)
    <|> (if 0x0020 ≤ o then (idx? 4 64 (o - 0x0020)).map .chkStatus else none)
    <|> (if 0x0028 ≤ o then (idx? 4 64 (o - 0x0028)).map .chkCount else none)

def regsPageC (o : Nat) : Option Reg :=
  match o with
  | 0x0000 => some .mgtHeartbeat
  | 0x0008 => some .mgtProgress
  | 0x0010 => some .mgtSwdt
  | 0x0018 => some .mgtRetire
  | 0x0020 => some .mgtEcc
  | 0x0028 => some .mgtEccLog
  | 0x0040 => some .mgtPwr
  | 0x0048 => some .mgtClkCfg
  | 0x0050 => some .mgtConeLimits
  | 0x0058 => some .mgtConeBudget
  | 0x0060 => some .mgtConeStatus
  | 0x0068 => some .mgtConeCnt
  | 0x0070 => some .mgtTherm
  | 0x0078 => some .mgtVwarn
  | 0x0080 => some .mgtBootCtl
  | 0x0088 => some .mgtBootPtr
  | 0x0090 => some .mgtBootData
  | 0x0098 => some .mgtBootStatus
  | 0x00A0 => some .mgtBootMinver
  | 0x00A8 => some .mgtFw
  | _ =>
    none

def regsPageD (o : Nat) : Option Reg :=
  match o with
  | 0x0000 => some .xltInval
  | 0x0008 => some .xltStatus
  | 0x0010 => some .xltMiss
  | _ =>
    (if 0x0100 ≤ o then (idx? 16 8 (o - 0x0100)).map .xltRoot else none)

def regsPageE (o : Nat) : Option Reg :=
  match o with
  | 0x0030 => some .dbgChalStatus
  | 0x0160 => some .dbgRespGo
  | 0x0200 => some .dbgSteward
  | 0x0208 => some .dbgStewardPc
  | 0x0210 => some .dbgMemAddr
  | 0x0218 => some .dbgMemData
  | _ =>
    (if 0x0000 ≤ o then (idx? 6 8 (o - 0x0000)).map .dbgChal else none)
    <|> (if 0x0100 ≤ o then (idx? 12 8 (o - 0x0100)).map .dbgResp else none)

/-- The register at an address, if one lies there (R392). -/
def Reg.ofAddr (a : Nat) : Option Reg :=
  match a / 0x10000 with
  | 0x0 => regsPage0 (a % 0x10000)
  | 0x1 => regsPage1 (a % 0x10000)
  | 0x2 => regsPage2 (a % 0x10000)
  | 0x4 => regsPage4 (a % 0x10000)
  | 0x5 => regsPage5 (a % 0x10000)
  | 0x6 => regsPage6 (a % 0x10000)
  | 0x7 => regsPage7 (a % 0x10000)
  | 0x8 => regsPage8 (a % 0x10000)
  | 0x9 => regsPage9 (a % 0x10000)
  | 0xA => regsPageA (a % 0x10000)
  | 0xB => regsPageB (a % 0x10000)
  | 0xC => regsPageC (a % 0x10000)
  | 0xD => regsPageD (a % 0x10000)
  | 0xE => regsPageE (a % 0x10000)
  | _ => none

/-- Fields of each register; bits not named are reserved (R10). -/
def Reg.fields : Reg → List Field
  | .engId => [⟨0, 32, .RO, 0x4C585032, .K⟩]   -- R395
  | .engStatus => [⟨0, 1, .RO, 0x0, .E⟩, ⟨1, 1, .RO, 0x0, .K⟩, ⟨2, 1, .RO, 0x0, .K⟩, ⟨3, 1, .W1C, 0x0, .K⟩, ⟨4, 1, .W1C, 0x1, .K⟩]   -- R395
  | .engConfig => [⟨0, 4, .RO, 0x0, .K⟩, ⟨4, 4, .RO, 0x0, .K⟩, ⟨8, 3, .RO, 0x0, .K⟩, ⟨12, 3, .RO, 0x0, .K⟩, ⟨16, 8, .RO, 0x2, .K⟩]   -- R395
  | .engNotice => [⟨0, 16, .RC, 0x0, .V⟩, ⟨16, 6, .RO, 0x0, .E⟩]   -- R395
  | .engReset => [⟨0, 4, .WO, 0x0, .E⟩, ⟨4, 2, .WO, 0x0, .E⟩]   -- R344
  | .engFaultPtr => [⟨0, 16, .RO, 0x0, .E⟩, ⟨16, 16, .RW, 0x0, .E⟩, ⟨32, 16, .RC, 0x0, .V⟩]   -- R344
  | .engFaultCtl => [⟨0, 32, .RW, 0x0, .E⟩, ⟨32, 1, .RW, 0x1, .E⟩, ⟨33, 1, .RW, 0x1, .E⟩]   -- R344
  | .engTagTimeout => [⟨0, 32, .RW, 0x800000, .E⟩]   -- R344
  | .engFenceLimit => [⟨0, 32, .RW, 0x55730, .E⟩]   -- R344
  | .engEventCnt _ => [⟨0, 32, .RC, 0x0, .V⟩]   -- R344
  | .engFaultRec _ _ => [⟨0, 64, .RO, 0x0, .E⟩]   -- R344
  | .engCtxFault _ _ => [⟨0, 64, .RO, 0x0, .E⟩]   -- R344
  | .arrRamp _ => [⟨0, 4, .RW, 0x3, .E⟩, ⟨4, 1, .RW, 0x0, .E⟩, ⟨16, 16, .RW, 0x100, .E⟩]   -- R83
  | .arrAbftCtl _ => [⟨0, 2, .RW, 0x1, .E⟩, ⟨8, 16, .RW, 0x10, .E⟩, ⟨24, 6, .RW, 0xB, .E⟩, ⟨32, 6, .RW, 0x7, .E⟩]   -- R84
  | .arrStatus _ => [⟨0, 3, .RO, 0x2, .E⟩, ⟨4, 7, .RO, 0x40, .E⟩, ⟨12, 3, .RO, 0x0, .E⟩, ⟨16, 3, .RO, 0x0, .E⟩, ⟨19, 1, .RO, 0x0, .E⟩, ⟨20, 2, .RO, 0x0, .E⟩, ⟨22, 1, .RO, 0x0, .E⟩]   -- R85
  | .arrAbftFirst _ => [⟨0, 32, .RC, 0x0, .V⟩]   -- R86
  | .arrAbftStrikes _ => [⟨0, 16, .RO, 0x0, .K⟩]   -- R86
  | .arrAbftLast _ => [⟨0, 4, .RO, 0x0, .E⟩, ⟨4, 1, .RO, 0x0, .E⟩, ⟨5, 9, .RO, 0x0, .E⟩, ⟨14, 6, .RO, 0x0, .E⟩, ⟨20, 1, .RO, 0x0, .E⟩, ⟨21, 4, .RO, 0x0, .E⟩, ⟨25, 1, .RO, 0x0, .E⟩, ⟨63, 1, .W1C, 0x0, .E⟩]   -- R86
  | .arrRetireLimit _ => [⟨0, 8, .RW, 0x2, .K⟩]   -- R345
  | .klnCfg => [⟨0, 4, .RW, 0x8, .E⟩, ⟨4, 1, .RW, 0x1, .E⟩]   -- R115
  | .klnStatus => [⟨0, 6, .RO, 0x30, .E⟩, ⟨6, 4, .RO, 0x0, .E⟩, ⟨10, 6, .RO, 0x0, .E⟩, ⟨16, 6, .RO, 0x0, .E⟩]   -- R115
  | .klnSpills => [⟨0, 32, .RC, 0x0, .V⟩]   -- R116
  | .klnRejects => [⟨0, 16, .RC, 0x0, .V⟩, ⟨16, 16, .RC, 0x0, .V⟩, ⟨32, 16, .RC, 0x0, .V⟩]   -- R116
  | .klnArriveSel => [⟨0, 6, .RW, 0x0, .E⟩]   -- R118
  | .klnSpillBase _ => [⟨21, 28, .RW, 0x0, .X⟩]   -- R116
  | .klnSpillSize _ => [⟨0, 16, .RW, 0x0, .X⟩]   -- R116
  | .klnGrpStat _ => [⟨0, 4, .RO, 0x0, .X⟩, ⟨4, 4, .RO, 0x0, .X⟩, ⟨8, 2, .RO, 0x0, .X⟩, ⟨10, 2, .RO, 0x0, .X⟩, ⟨12, 4, .RO, 0x0, .X⟩, ⟨16, 2, .RO, 0x0, .X⟩, ⟨18, 1, .RO, 0x0, .X⟩, ⟨19, 2, .RO, 0x0, .X⟩, ⟨21, 2, .RO, 0x0, .X⟩, ⟨23, 1, .RO, 0x0, .X⟩, ⟨32, 16, .RO, 0x0, .X⟩, ⟨48, 12, .RO, 0x0, .X⟩]   -- R117
  | .klnGrpCnt _ => [⟨0, 32, .RO, 0x0, .X⟩, ⟨32, 12, .RO, 0x0, .X⟩]   -- R117
  | .klnGrpExp _ => [⟨0, 32, .RO, 0x0, .X⟩]   -- R117
  | .klnGrpNadd _ => [⟨0, 32, .RO, 0x0, .X⟩]   -- R117
  | .klnArriveMap _ => [⟨0, 64, .RO, 0x0, .X⟩]   -- R118
  | .glzStatus _ => [⟨0, 6, .RO, 0x0, .E⟩, ⟨6, 6, .RO, 0x0, .E⟩, ⟨12, 10, .RO, 0x0, .E⟩, ⟨22, 1, .RO, 0x0, .E⟩, ⟨23, 1, .W1C, 0x0, .E⟩]   -- R159
  | .glzNan _ => [⟨0, 32, .RC, 0x0, .V⟩]   -- R159
  | .glzInf _ => [⟨0, 32, .RC, 0x0, .V⟩, ⟨32, 32, .RC, 0x0, .V⟩]   -- R159
  | .glzNfg _ => [⟨0, 21, .RO, 0x0, .X⟩, ⟨21, 21, .RO, 0x0, .X⟩, ⟨42, 21, .RO, 0x0, .X⟩, ⟨63, 1, .RO, 0x0, .X⟩]   -- R160
  | .vecStatus => [⟨0, 5, .RO, 0x0, .E⟩, ⟨5, 3, .RO, 0x0, .E⟩, ⟨8, 4, .RO, 0x0, .E⟩, ⟨12, 1, .RO, 0x0, .E⟩]   -- R186
  | .vecGuardCnt => [⟨0, 16, .RC, 0x0, .V⟩, ⟨16, 16, .RC, 0x0, .V⟩, ⟨32, 16, .RC, 0x0, .V⟩, ⟨48, 16, .RC, 0x0, .V⟩]   -- R186
  | .vecGuard _ => [⟨0, 1, .RW, 0x0, .X⟩]   -- R187
  | .vecEps _ => [⟨0, 32, .RW, 0x3727C5AC, .X⟩]   -- R187
  | .vecRuleCfg _ => [⟨0, 4, .RW, 0x0, .X⟩, ⟨4, 20, .RW, 0x0, .X⟩, ⟨24, 20, .RW, 0x0, .X⟩]   -- R187
  | .vecScratchBase _ => [⟨12, 37, .RW, 0x0, .X⟩]   -- R187
  | .vecScratchSize _ => [⟨0, 32, .RW, 0x0, .X⟩]   -- R187
  | .lineStatus => [⟨0, 4, .RO, 0x0, .E⟩, ⟨4, 1, .RO, 0x0, .E⟩, ⟨5, 4, .RO, 0x0, .E⟩, ⟨9, 1, .RO, 0x0, .E⟩, ⟨10, 3, .RO, 0x0, .E⟩, ⟨13, 19, .RO, 0x0, .E⟩]   -- R200
  | .lineDone => [⟨0, 32, .RC, 0x0, .V⟩]   -- R200
  | .strCfg => [⟨0, 10, .RW, 0x80, .E⟩, ⟨12, 6, .RW, 0xD, .E⟩, ⟨20, 4, .RW, 0x4, .E⟩]   -- R228
  | .strStatus => [⟨0, 6, .RO, 0x0, .E⟩, ⟨6, 6, .RO, 0x0, .E⟩, ⟨12, 7, .RO, 0x0, .E⟩, ⟨19, 4, .RO, 0x0, .E⟩, ⟨23, 4, .RO, 0x0, .E⟩, ⟨27, 6, .RO, 0x0, .E⟩, ⟨33, 1, .W1C, 0x0, .E⟩]   -- R228
  | .strTaguse => [⟨0, 13, .RO, 0x0, .E⟩, ⟨16, 12, .RO, 0x0, .E⟩, ⟨32, 7, .RO, 0x0, .E⟩, ⟨48, 13, .RO, 0x0, .E⟩]   -- R229
  | .strHazard => [⟨0, 32, .RC, 0x0, .V⟩]   -- R229
  | .strHotbank => [⟨0, 16, .RC, 0x0, .V⟩, ⟨16, 5, .RO, 0x0, .E⟩, ⟨24, 6, .RO, 0x0, .E⟩, ⟨63, 1, .W1C, 0x0, .E⟩]   -- R229
  | .strResume => [⟨0, 4, .WO, 0x0, .E⟩]   -- R229
  | .strPortmapCfg => [⟨0, 6, .RW, 0xC, .E⟩]   -- R378
  | .strSplit _ => [⟨0, 7, .RW, 0x0, .X⟩, ⟨8, 7, .RW, 0x0, .X⟩, ⟨16, 7, .RW, 0x0, .X⟩]   -- R230
  | .strTags _ => [⟨0, 13, .RW, 0x100, .X⟩, ⟨16, 12, .RW, 0x80, .X⟩]   -- R230
  | .strPf _ => [⟨0, 49, .RO, 0x0, .X⟩, ⟨49, 1, .RO, 0x0, .X⟩, ⟨50, 3, .RO, 0x0, .X⟩, ⟨63, 1, .RO, 0x0, .X⟩]   -- R230
  | .strPortmap k => [⟨0, 5, .RW, (8 * k.val + 0) % 24, .E⟩, ⟨8, 5, .RW, (8 * k.val + 1) % 24, .E⟩, ⟨16, 5, .RW, (8 * k.val + 2) % 24, .E⟩, ⟨24, 5, .RW, (8 * k.val + 3) % 24, .E⟩, ⟨32, 5, .RW, (8 * k.val + 4) % 24, .E⟩, ⟨40, 5, .RW, (8 * k.val + 5) % 24, .E⟩, ⟨48, 5, .RW, (8 * k.val + 6) % 24, .E⟩, ⟨56, 5, .RW, (8 * k.val + 7) % 24, .E⟩]
  | .schStatus => [⟨0, 1, .W1C, 0x0, .E⟩]   -- R398
  | .schCtl => [⟨0, 4, .WO, 0x0, .E⟩, ⟨4, 2, .WO, 0x0, .E⟩]   -- R398
  | .schFixed => [⟨0, 1, .RW, 0x0, .E⟩, ⟨1, 4, .RW, 0x0, .E⟩, ⟨5, 1, .RO, 0x0, .E⟩, ⟨8, 1, .RW, 0x0, .E⟩, ⟨9, 4, .RW, 0x0, .E⟩, ⟨13, 1, .RO, 0x0, .E⟩, ⟨16, 1, .RW, 0x0, .E⟩, ⟨17, 4, .RW, 0x0, .E⟩, ⟨21, 1, .RO, 0x0, .E⟩, ⟨24, 1, .RW, 0x0, .E⟩, ⟨25, 4, .RW, 0x0, .E⟩, ⟨29, 1, .RO, 0x0, .E⟩]   -- R398
  | .schOverrun => [⟨0, 32, .RC, 0x0, .V⟩]   -- R398
  | .schLogDrops => [⟨0, 32, .RC, 0x0, .V⟩]   -- R398
  | .schCqBase => [⟨12, 36, .RW, 0x0, .E⟩]   -- R277
  | .schCqSize => [⟨0, 4, .RW, 0x0, .E⟩]   -- R277
  | .schCqTail => [⟨0, 32, .RW, 0x0, .E⟩]   -- R277
  | .schCqHead => [⟨0, 32, .RO, 0x0, .E⟩]   -- R277
  | .schCqStatus => [⟨0, 1, .W1C, 0x0, .E⟩, ⟨1, 3, .RO, 0x0, .E⟩, ⟨8, 32, .RO, 0x0, .E⟩, ⟨40, 1, .RO, 0x0, .E⟩]   -- R277
  | .schCtxStat _ => [⟨0, 3, .RO, 0x0, .E⟩, ⟨16, 16, .RO, 0x0, .K⟩]   -- R398
  | .schElapsed _ => [⟨0, 64, .RO, 0x0, .V⟩]   -- R398
  | .schLogBase _ => [⟨4, 45, .RW, 0x0, .X⟩]   -- R398
  | .schLogSize _ => [⟨0, 20, .RW, 0x0, .X⟩, ⟨20, 32, .RO, 0x0, .X⟩]   -- R398
  | .schEvent _ => [⟨0, 16, .RO, 0x0, .X⟩, ⟨16, 2, .RO, 0x0, .X⟩, ⟨32, 16, .RC, 0x0, .X⟩]   -- R277
  | .schEventData _ => [⟨0, 64, .RO, 0x0, .X⟩]   -- R277
  | .schStrand _ _ => [⟨0, 18, .RO, 0x0, .X⟩, ⟨20, 4, .RO, 0x0, .X⟩]   -- R398
  | .schPegCfg _ => [⟨0, 4, .RW, 0x0, .E⟩, ⟨4, 3, .RW, 0x0, .E⟩, ⟨8, 3, .RW, 0x1, .E⟩, ⟨12, 12, .RW, 0x0, .E⟩, ⟨24, 1, .RW, 0x0, .E⟩]   -- R398
  | .schPeg _ => [⟨0, 16, .RW, 0x0, .X⟩, ⟨16, 16, .RW, 0x0, .X⟩]   -- R398
  | .schWin _ _ => [⟨0, 20, .RW, 0x0, .X⟩, ⟨32, 21, .RW, 0x0, .X⟩]   -- R400
  | .chnCfg => [⟨0, 2, .RW, 0x1, .E⟩, ⟨2, 4, .RW, 0x0, .E⟩, ⟨6, 10, .RW, 0x80, .E⟩, ⟨16, 10, .RW, 0x80, .E⟩, ⟨32, 16, .RW, 0x0, .E⟩]   -- R301
  | .chnHoldLimit => [⟨0, 32, .RW, 0x10000, .E⟩]   -- R301
  | .chnStatus => [⟨0, 11, .RO, 0x0, .E⟩, ⟨11, 11, .RO, 0x0, .E⟩, ⟨22, 11, .RO, 0x0, .E⟩, ⟨33, 1, .RO, 0x0, .E⟩, ⟨34, 1, .W1C, 0x0, .E⟩, ⟨35, 1, .RO, 0x0, .E⟩]   -- R301
  | .chnCount => [⟨0, 16, .RC, 0x0, .V⟩, ⟨16, 16, .RC, 0x0, .V⟩, ⟨32, 16, .RC, 0x0, .V⟩, ⟨48, 16, .RC, 0x0, .V⟩]   -- R301
  | .fabSelf => [⟨0, 16, .RW, 0x0, .E⟩, ⟨16, 12, .RW, 0x0, .E⟩]   -- R302
  | .fabCfg => [⟨0, 16, .RW, 0x400, .E⟩, ⟨16, 4, .RW, 0x4, .E⟩]   -- R302
  | .fabPeerTimeout => [⟨0, 32, .RW, 0x20000000, .E⟩]   -- R302
  | .fabStatus => [⟨0, 11, .RO, 0x0, .E⟩, ⟨11, 11, .RO, 0x0, .E⟩, ⟨22, 9, .RO, 0x0, .E⟩, ⟨31, 2, .RO, 0x0, .E⟩, ⟨33, 1, .W1C, 0x0, .E⟩]   -- R302
  | .fabCount => [⟨0, 16, .RC, 0x0, .V⟩, ⟨16, 16, .RC, 0x0, .V⟩, ⟨32, 16, .RC, 0x0, .V⟩, ⟨48, 16, .RC, 0x0, .V⟩]   -- R302
  | .fabRxcount => [⟨0, 16, .RC, 0x0, .V⟩, ⟨16, 16, .RC, 0x0, .V⟩, ⟨32, 16, .RC, 0x0, .V⟩, ⟨48, 16, .RC, 0x0, .V⟩]   -- R302
  | .fabRxpf => [⟨0, 49, .RO, 0x0, .E⟩, ⟨49, 4, .RO, 0x0, .E⟩, ⟨53, 1, .RO, 0x0, .E⟩, ⟨63, 1, .W1C, 0x0, .E⟩]   -- R302
  | .fabRcap _ => [⟨0, 11, .RW, 0x40, .X⟩]   -- R302
  | .fabPeer _ => [⟨0, 1, .RW, 0x0, .E⟩, ⟨1, 4, .RW, 0x0, .E⟩, ⟨5, 16, .RW, 0x0, .E⟩, ⟨21, 3, .RW, 0x0, .E⟩, ⟨24, 4, .RW, 0x0, .E⟩, ⟨28, 16, .RW, 0x0, .E⟩, ⟨44, 12, .RW, 0x0, .E⟩, ⟨56, 1, .RO, 0x0, .E⟩]   -- R303
  | .chkCtl _ => [⟨0, 1, .RW, 0x0, .E⟩, ⟨1, 4, .RW, 0x0, .E⟩, ⟨5, 1, .RW, 0x0, .E⟩, ⟨6, 1, .RW, 0x0, .E⟩]   -- R315
  | .chkValue _ => [⟨0, 64, .RW, 0x0, .X⟩]   -- R315
  | .chkExpect _ => [⟨0, 64, .RW, 0x0, .X⟩]   -- R315
  | .chkFeed _ => [⟨0, 32, .WO, 0x0, .E⟩, ⟨32, 2, .WO, 0x0, .E⟩]   -- R315
  | .chkStatus _ => [⟨0, 1, .RO, 0x0, .E⟩, ⟨1, 1, .RO, 0x0, .E⟩, ⟨2, 3, .RO, 0x0, .E⟩, ⟨5, 2, .RO, 0x0, .E⟩, ⟨7, 1, .RO, 0x1, .E⟩, ⟨8, 1, .W1C, 0x0, .E⟩, ⟨9, 3, .RO, 0x0, .E⟩]   -- R315
  | .chkCount _ => [⟨0, 16, .RC, 0x0, .V⟩]   -- R315
  | .mgtHeartbeat => [⟨0, 32, .RO, 0x0, .V⟩]   -- R345
  | .mgtProgress => [⟨0, 16, .RW, 0x64, .E⟩, ⟨16, 16, .RO, 0x0, .E⟩]   -- R345
  | .mgtSwdt => [⟨0, 24, .RW, 0x155CC0, .E⟩, ⟨24, 1, .RO, 0x0, .E⟩]   -- R345
  | .mgtRetire => [⟨0, 4, .RO, 0x0, .K⟩, ⟨4, 4, .W1S, 0x0, .E⟩]   -- R345
  | .mgtEcc => [⟨0, 32, .RC, 0x0, .V⟩, ⟨32, 16, .RC, 0x0, .V⟩]   -- R345
  | .mgtEccLog => [⟨0, 4, .RO, 0x0, .E⟩, ⟨4, 24, .RO, 0x0, .E⟩, ⟨28, 1, .RO, 0x0, .E⟩, ⟨29, 1, .RO, 0x0, .E⟩, ⟨63, 1, .W1C, 0x0, .E⟩]   -- R345
  | .mgtPwr => [⟨0, 2, .RW, 0x0, .E⟩, ⟨2, 2, .RO, 0x0, .E⟩, ⟨4, 1, .RO, 0x0, .E⟩]   -- R366
  | .mgtClkCfg => [⟨0, 13, .RWL, 0x1068, .K⟩]   -- R366
  | .mgtConeLimits => [⟨0, 10, .RWL, 0x1E0, .E⟩, ⟨10, 10, .RW, 0x1E0, .E⟩, ⟨20, 10, .RW, 0x258, .E⟩, ⟨30, 1, .RW, 0x1, .E⟩]   -- R366
  | .mgtConeBudget => [⟨0, 32, .RW, 0x16E3600, .E⟩, ⟨32, 32, .RW, 0x2DC6C0, .E⟩]   -- R366
  | .mgtConeStatus => [⟨0, 32, .RO, 0x0, .K⟩, ⟨32, 10, .RO, 0x0, .E⟩, ⟨42, 7, .RO, 0x40, .E⟩, ⟨49, 1, .RO, 0x0, .E⟩]   -- R366
  | .mgtConeCnt => [⟨0, 32, .RC, 0x0, .V⟩]   -- R366
  | .mgtTherm => [⟨0, 24, .RW, 0x88B8, .E⟩, ⟨24, 1, .RO, 0x0, .E⟩, ⟨25, 1, .RO, 0x0, .E⟩, ⟨26, 1, .RO, 0x0, .E⟩, ⟨32, 16, .RC, 0x0, .V⟩, ⟨48, 16, .RC, 0x0, .V⟩]   -- R367
  | .mgtVwarn => [⟨0, 24, .RW, 0xDAC, .E⟩, ⟨24, 1, .RO, 0x0, .E⟩, ⟨25, 1, .RO, 0x0, .E⟩]   -- R367
  | .mgtBootCtl => [⟨0, 1, .WO, 0x0, .E⟩, ⟨1, 2, .RW, 0x0, .E⟩]   -- R367
  | .mgtBootPtr => [⟨0, 14, .RW, 0x0, .E⟩]   -- R367
  | .mgtBootData => [⟨0, 64, .WO, 0x0, .E⟩]   -- R367
  | .mgtBootStatus => [⟨0, 4, .RO, 0x0, .E⟩, ⟨4, 4, .RO, 0x0, .E⟩, ⟨8, 1, .RO, 0x0, .E⟩, ⟨9, 10, .RO, 0x0, .E⟩, ⟨19, 10, .RO, 0x0, .E⟩, ⟨29, 4, .RO, 0x0, .E⟩, ⟨33, 1, .W1C, 0x0, .E⟩]   -- R367
  | .mgtBootMinver => [⟨0, 32, .RWL, 0x0, .K⟩]   -- R367
  | .mgtFw => [⟨0, 32, .RO, 0x0, .E⟩, ⟨32, 16, .RO, 0x0, .E⟩]   -- R397
  | .xltInval => [⟨0, 4, .WO, 0x0, .E⟩, ⟨4, 2, .WO, 0x0, .E⟩, ⟨21, 28, .WO, 0x0, .E⟩, ⟨63, 1, .RO, 0x0, .E⟩]   -- R401
  | .xltStatus => [⟨0, 13, .RO, 0x0, .E⟩, ⟨13, 5, .RO, 0x0, .E⟩, ⟨18, 1, .W1C, 0x0, .E⟩, ⟨19, 1, .W1C, 0x0, .E⟩]   -- R401
  | .xltMiss => [⟨0, 32, .RC, 0x0, .V⟩]   -- R401
  | .xltRoot _ => [⟨0, 1, .RW, 0x0, .X⟩, ⟨13, 35, .RW, 0x0, .X⟩]   -- R401
  | .dbgChal _ => [⟨0, 64, .RO, 0x0, .E⟩]   -- R403
  | .dbgChalStatus => [⟨0, 1, .RO, 0x0, .K⟩, ⟨1, 1, .RO, 0x0, .E⟩, ⟨2, 1, .RO, 0x0, .E⟩, ⟨8, 8, .RC, 0x0, .V⟩]   -- R403
  | .dbgResp _ => [⟨0, 64, .WO, 0x0, .E⟩]   -- R403
  | .dbgRespGo => [⟨0, 1, .WO, 0x0, .E⟩]   -- R403
  | .dbgSteward => [⟨0, 1, .RW, 0x0, .E⟩, ⟨1, 1, .WO, 0x0, .E⟩]   -- R403
  | .dbgStewardPc => [⟨0, 32, .RO, 0x0, .E⟩]   -- R403
  | .dbgMemAddr => [⟨3, 14, .RW, 0x0, .E⟩]   -- R403
  | .dbgMemData => [⟨0, 64, .RO, 0x0, .E⟩]   -- R403

end Sys2Proof.Machine
end

