-- ==== Sys2Proof/Machine/Ops.lean ====
section
/-! DEFINITION. The named operations every meaning is written over: sparse memory, registers, the parts of the block, notices,
fault records and raising a code, SRAM access with ECC, the scoreboard and the queues, posting and completion. -/

namespace Sys2Proof.Machine

open Sys2Proof

/-! ### Sparse maps -/

/-- Entry of a sparse map; an unlisted key holds `d`. -/
def spGet {α : Type} (d : α) : List (Nat × α) → Nat → α
  | [], _ => d
  | (k, v) :: r, a => if k = a then v else spGet d r a

/-- Without the entries of key `a`. -/
def spDel {α : Type} (l : List (Nat × α)) (a : Nat) : List (Nat × α) := l.filter (fun p => p.1 != a)

/-- `v` at key `a`, before the first larger key. -/
def spIns {α : Type} : List (Nat × α) → Nat → α → List (Nat × α)
  | [], a, v => [(a, v)]
  | (k, w) :: r, a, v => if k < a then (k, w) :: spIns r a v else (a, v) :: spDel ((k, w) :: r) a

/-- Write of a sparse map that keeps keys rising and lists no `d`. -/
def spPut {α : Type} [DecidableEq α] (d : α) (l : List (Nat × α)) (a : Nat) (v : α) : List (Nat × α) :=
  if v = d then spDel l a else spIns l a v

/-- The canonical form: keys at or above `lo` and strictly rising, no entry equal to what an unlisted key reads as. -/
def spWf {α : Type} [DecidableEq α] (d : Nat → α) : Nat → List (Nat × α) → Bool
  | _, [] => true
  | lo, (k, v) :: r => decide (lo ≤ k) && decide (v ≠ d k) && spWf d (k + 1) r

/-- Canonical form of a byte memory. -/
def Memory.wf (m : Mem) : Bool := spWf (fun _ => (0#8 : Byte)) 0 m

def memGet (m : Mem) (a : Nat) : Byte := spGet 0#8 m a
def memPut (m : Mem) (a : Nat) (v : Byte) : Mem := spPut 0#8 m a v

/-- `n` bytes from `a`, lowest address first. -/
def memBytes (m : Mem) (a n : Nat) : List Byte := (List.range n).map (fun i => memGet m (a + i))

/-- Little-endian number in a list of bytes. -/
def leNat : List Byte → Nat
  | [] => 0
  | b :: r => b.toNat + 256 * leNat r

/-- The low `n` bytes of a number, little-endian. -/
def leBytes : Nat → Nat → List Byte
  | 0, _ => []
  | n + 1, v => BitVec.ofNat 8 v :: leBytes n (v / 256)

def memPutBytes (m : Mem) : Nat → List Byte → Mem
  | _, [] => m
  | a, b :: r => memPutBytes (memPut m a b) (a + 1) r

/-- Little-endian 64-bit words of a byte list. -/
def wordsOf : Nat → List Byte → List W64
  | 0, _ => []
  | n + 1, bs => BitVec.ofNat 64 (leNat (bs.take 8)) :: wordsOf n (bs.drop 8)

/-! ### Flat engine address space (R6, R14): region `r` of MGT_ECC_LOG.REGION starts at `r * 2^27` (log 2) -/

def regionBase (r : Nat) : Nat := r * 0x8000000
def regionSize (r : Nat) : Nat :=
  match r with
  | 0 | 1 | 2 | 3 => 0x4000000
  | 4 => 0x6000000
  | 5 | 6 => 0x800000
  | 7 => 0x1800000
  | 8 | 9 => 0x400000
  | _ => 0
def stagBase (n : Arr) : Nat := regionBase n.val
def klnBase : Nat := regionBase 4
def vecBase : Nat := regionBase 7
def chnBase : Nat := regionBase 8
def cmdBase : Nat := regionBase 9
/-- Flat address of a wheel. -/
def wheelBase (w : Fin 2) : Nat := regionBase (5 + w.val)
/-- Buffers inside units that the regions do not list: COPY wheel images, CKPT and RESTORE areas, LINE intake, spill buffers; by owner number. -/
def bufBase (k : Nat) : Nat := 0x10000000000000 * (k + 1)

/-! ### Registers -/

/-- Reset value of a register from its fields. -/
def Reg.resetVal (r : Reg) : W64 :=
  BitVec.ofNat 64 (r.fields.foldl (fun acc f => acc + f.rst <<< f.lo) 0)

/-- The stored value of a register: what the last write or update left, else its reset value. -/
def rawReg (b : Block) (r : Reg) : W64 := spGet r.resetVal b.regs r.addr

def setRaw (b : Block) (r : Reg) (v : W64) : Block :=
  { b with regs := spPut r.resetVal b.regs r.addr v }

/-- Bits `lo + wid - 1 : lo` of a word replaced by `v`. -/
def insertBits (w : W64) (lo wid v : Nat) : W64 :=
  let mask : W64 := BitVec.ofNat 64 ((2 ^ wid - 1) <<< lo)
  (w &&& ~~~mask) ||| (BitVec.ofNat 64 (v <<< lo) &&& mask)

def getFld (b : Block) (r : Reg) (lo wid : Nat) : Nat := ((rawReg b r).toNat >>> lo) % 2 ^ wid

def setFld (b : Block) (r : Reg) (lo wid v : Nat) : Block := setRaw b r (insertBits (rawReg b r) lo wid v)

/-- What hardware adds to field `lo` of a register in this beat, beside what it has added before (R9). -/
def coinPut (l : List Coin) (reg lo wid before n : Nat) : List Coin :=
  if l.any (fun k => k.reg == reg && k.lo == lo) then
    l.map (fun k => if k.reg == reg && k.lo == lo then { k with n := k.n + n } else k)
  else l ++ [⟨reg, lo, wid, before, n⟩]

/-- Adds to a counter field that saturates; the beat keeps what was added (R9). -/
def bumpFld (b : Block) (r : Reg) (lo wid n : Nat) : Block :=
  { setFld b r lo wid (min (2 ^ wid - 1) (getFld b r lo wid + n)) with coins := coinPut b.coins r.addr lo wid (getFld b r lo wid) n }

/-- Hardware sets a bit; the beat keeps that it did (R9). -/
def hwSet (b : Block) (r : Reg) (lo : Nat) : Block :=
  { setFld b r lo 1 1 with coins := coinPut b.coins r.addr lo 1 (getFld b r lo 1) 1 }

/-- Adds modulo the width of the field. -/
def wrapFld (b : Block) (r : Reg) (lo wid n : Nat) : Block :=
  setFld b r lo wid ((getFld b r lo wid + n) % 2 ^ wid)

/-! ### Parts of the block -/

def getCtx (b : Block) (c : Ctx) : CtxSt := b.ctxs.get c
def modCtx (b : Block) (c : Ctx) (f : CtxSt → CtxSt) : Block :=
  { b with ctxs := b.ctxs.set c.val (f (b.ctxs.get c)) c.isLt }
def getStrand (b : Block) (c : Ctx) (s : Strand) : StrandSt := (getCtx b c).strands.get s
def modStrand (b : Block) (c : Ctx) (s : Strand) (f : StrandSt → StrandSt) : Block :=
  modCtx b c (fun x => { x with strands := x.strands.set s.val (f (x.strands.get s)) s.isLt })
def getPeg (b : Block) (p : Peg) : PegSt := b.pegs.get p
def setPeg (b : Block) (p : Peg) (x : PegSt) : Block := { b with pegs := b.pegs.set p.val x p.isLt }
def getArr (b : Block) (n : Arr) : ArraySt := b.arrays.get n
def modArr (b : Block) (n : Arr) (f : ArraySt → ArraySt) : Block :=
  { b with arrays := b.arrays.set n.val (f (b.arrays.get n)) n.isLt }
def getPos (b : Block) (n : Arr) (g : Sag) : PosSt := (getArr b n).pos.get g
def modPos (b : Block) (n : Arr) (g : Sag) (f : PosSt → PosSt) : Block :=
  modArr b n (fun x => { x with pos := x.pos.set g.val (f (x.pos.get g)) g.isLt })
def PosSt.bank (p : PosSt) (t : BankIx) : BankSt := if t = 0 then p.b0 else p.b1
def PosSt.setBank (p : PosSt) (t : BankIx) (k : BankSt) : PosSt := if t = 0 then { p with b0 := k } else { p with b1 := k }
def getGrp (b : Block) (g : Grp) : GroupSt := b.groups.get g
def modGrp (b : Block) (g : Grp) (f : GroupSt → GroupSt) : Block :=
  { b with groups := b.groups.set g.val (f (b.groups.get g)) g.isLt }
def getChk (b : Block) (n : Chk) : ChkSt := b.chks.get n
def modChk (b : Block) (n : Chk) (f : ChkSt → ChkSt) : Block :=
  { b with chks := b.chks.set n.val (f (b.chks.get n)) n.isLt }

def getSlot (b : Block) (c : Ctx) (s : Strand) (q : Fin 32) : W64 := (getStrand b c s).slots.get q
def setSlot (b : Block) (c : Ctx) (s : Strand) (q : Fin 32) (v : W64) : Block :=
  modStrand b c s (fun x => { x with slots := x.slots.set q.val v q.isLt })

/-- All of a finite type, ascending. -/
def allFin (n : Nat) : List (Fin n) := List.finRange n

/-- The ARR cycle now: one beat is 3 ARR cycles (R17). -/
def arrNow (b : Block) : Nat := 3 * b.beat
/-- The PORT cycle now: one beat is 6 PORT cycles (R17). -/
def portNow (b : Block) : Nat := 6 * b.beat

/-! ### Straps and usable arrays (R1 to R4, R396) -/

def popcount4 (m : Nat) : Nat := m % 2 + m / 2 % 2 + m / 4 % 2 + m / 8 % 2

/-- Grade of a map of arrays (R2, R4). -/
def gradeOf (m : Nat) : Nat := if popcount4 m == 4 then 4 else if popcount4 m == 3 then 3 else 0

/-- An array that instructions may name: in ARRAY_MAP and not retired since (R3, R342). -/
def usable (b : Block) (n : Arr) : Bool :=
  bitAt (getFld b .engConfig 0 4) n.val && !bitAt (getFld b .mgtRetire 0 4) n.val

/-- Units stopped by VWARN_N (R357). -/
def frozenV (b : Block) : Bool := getFld b .mgtVwarn 25 1 == 1
/-- Arrays stopped by THERM_TRIP_N (R356). -/
def stoppedT (b : Block) : Bool := getFld b .mgtTherm 26 1 == 1

/-- A free value is taken (log 10). -/
def tickFree (b : Block) : Block := { b with freeTick := b.freeTick + 1 }

/-! ### Notices (R372) -/

def noticeWord (b : Block) (kind : Nat) (ctx : Option Ctx) (data code : Nat) (rejected : Bool) : W64 :=
  BitVec.ofNat 64 (kind + (match ctx with | some c => 16 + c.val * 32 | none => 0) + data % 65536 * 2 ^ 16
    + code % 256 * 2 ^ 32 + (if rejected then 2 ^ 40 else 0) + getFld b .engConfig 12 3 * 2 ^ 48)

/-- A notice put among those of its own beat, in ascending order of KIND. -/
def noticeIns (n : W64) : List W64 → List W64
  | [] => [n]
  | x :: r => if n.toNat % 16 < x.toNat % 16 then n :: x :: r else x :: noticeIns n r

/-- A notice enters the queue of 32, behind those of earlier beats and in the order of KIND among those of its beat; what the queue has no
room for is dropped and counted. -/
def notify (b : Block) (kind : Nat) (ctx : Option Ctx) (data code : Nat) (rejected : Bool) : Block :=
  let old := b.notices.length - b.noticeNew
  let q := b.notices.take old ++ noticeIns (noticeWord b kind ctx data code rejected) (b.notices.drop old)
  if b.notices.length < 32 then { b with notices := q, noticeNew := b.noticeNew + 1 }
  else bumpFld { b with notices := q.take 32 } .engNotice 0 16 1

/-! ### Codes (R317, R318) and fault records (R319 to R323) -/

inductive Code where
  | pageFault | translation | overlap | chkMismatch | stepSkew | scheduleOverrun | peerTimeout | nonfinite | spike
  | abftMismatch | sramUncorrectable | chainSeq | illegalInstr | groupState | fenced | boundLapsed | precondFallback
  | hazardRefetch | kilnFull | contextRevoked | hang | hotBank | vwarn | coneThrottle | arrayRetired
  deriving DecidableEq, Repr

def Code.num : Code → Nat
  | .pageFault => 0x01 | .translation => 0x02 | .overlap => 0x03 | .chkMismatch => 0x04 | .stepSkew => 0x05
  | .scheduleOverrun => 0x06 | .peerTimeout => 0x07 | .nonfinite => 0x08 | .spike => 0x09 | .abftMismatch => 0x0A
  | .sramUncorrectable => 0x0B | .chainSeq => 0x0C | .illegalInstr => 0x0D | .groupState => 0x0E | .fenced => 0x0F
  | .boundLapsed => 0x10 | .precondFallback => 0x11 | .hazardRefetch => 0x12 | .kilnFull => 0x13
  | .contextRevoked => 0x14 | .hang => 0x15 | .hotBank => 0x16 | .vwarn => 0x17 | .coneThrottle => 0x18
  | .arrayRetired => 0x19

/-- The event codes of R318; every other code but ARRAY_RETIRED is a context fault (SRAM_UNCORRECTABLE: without a context, an engine fault). -/
def Code.isEvent : Code → Bool
  | .pageFault | .scheduleOverrun | .nonfinite | .spike | .abftMismatch | .boundLapsed | .precondFallback
  | .hazardRefetch | .hang | .hotBank | .vwarn | .coneThrottle => true
  | _ => false

/-- Codes whose record is marked "always" (R318). -/
def Code.always : Code → Bool
  | .scheduleOverrun | .nonfinite | .spike | .boundLapsed | .precondFallback | .hazardRefetch | .hotBank | .vwarn
  | .coneThrottle => false
  | _ => true

/-- What a fault record names besides its code (R322). -/
structure Site where
  ctx : Option Ctx := none
  gen : BitVec 16 := 0#16
  strand : Option Strand := none
  pos : Option (Nat × Nat) := none          -- instruction index and opcode
  unit : Nat := 0
  arr : Option (Arr × Sag) := none
  grp : Option Grp := none
  obj : Option (Nat × Nat) := none          -- OBJ_KIND, OBJ
  addr : Option Nat := none
  write : Bool := false
  deriving DecidableEq, Repr

/-- MGT cycles since the heartbeat, saturating (R322). -/
def phaseNow (b : Block) : Nat := min 349999 (b.beat - b.steward.beatAt)

/-- The four words of a record numbered `seq` (R322). -/
def recordWords (b : Block) (code cls : Nat) (t : Site) (seq : Nat) : List W64 :=
  let w0 := code + cls * 2 ^ 8
    + (match t.ctx with | some c => c.val * 2 ^ 10 + 2 ^ 14 + t.gen.toNat * 2 ^ 16 | none => 0)
    + (match t.strand with | some s => s.val * 2 ^ 32 + 2 ^ 34 | none => 0)
    + (match t.pos with | some (p, o) => p % 2 ^ 18 * 2 ^ 35 + 2 ^ 53 + o % 256 * 2 ^ 54 | none => 0)
  let w1 := t.unit
    + (match t.arr with | some (n, g) => n.val * 2 ^ 4 + g.val * 2 ^ 6 + 2 ^ 10 | none => 0)
    + (match t.grp with | some g => g.val * 2 ^ 11 + 2 ^ 17 | none => 0)
    + (match t.obj with | some (k, o) => o % 2 ^ 15 * 2 ^ 18 + k * 2 ^ 33 | none => 0)
  let w2 := (match t.addr with | some a => a % 2 ^ 49 + 2 ^ 49 + (if t.write then 2 ^ 50 else 0) | none => 0)
    + seq % 8192 * 2 ^ 51
  let w3 := getFld b .mgtHeartbeat 0 32 + phaseNow b * 2 ^ 32
  [BitVec.ofNat 64 w0, BitVec.ofNat 64 w1, BitVec.ofNat 64 w2, BitVec.ofNat 64 w3]

/-- ENG_FAULT_PTR.WR (R323). -/
def ptrWR (b : Block) : Nat := getFld b .engFaultPtr 0 16
def ptrRD (b : Block) : Nat := getFld b .engFaultPtr 16 16
def ringFull (b : Block) : Bool := (ptrWR b + 65536 - ptrRD b) % 65536 == 64

/-- Four words stored in registers. -/
def putRec (b : Block) (at_ : Fin 4 → Reg) (ws : List W64) : Block :=
  (allFin 4).foldl (fun b i => setRaw b (at_ i) (ws.getD i.val 0#64)) b

/-- A record goes to the ring, or is dropped when the ring is full (R323). -/
def ringRecord (b : Block) (code : Nat) (ws : List W64) (ctx : Option Ctx) (isEvent : Bool) : Block :=
  if ringFull b then
    let b := bumpFld b .engFaultPtr 32 16 1
    if !isEvent && getFld b .engFaultCtl 32 1 == 1 then notify b 1 ctx (ptrWR b) code false else b
  else
    let b := putRec b (fun w => .engFaultRec (Fin.ofNat 64 b.recNext) w) ws
    let b := setFld { b with recNext := b.recNext + 1 } .engFaultPtr 0 16 ((b.recNext + 1) % 65536)
    if getFld b .engFaultCtl 32 1 == 1 then notify b 1 ctx (ptrWR b) code false else b

/-- A context stops: FAULTED, its record kept (R319). -/
def enterFaulted (b : Block) (c : Ctx) (ws : List W64) : Block :=
  modCtx (putRec b (fun w => .engCtxFault c w) ws) c (fun x => { x with state := .faulted })

/-- Whether a context fault against `c` still stops it (R321); against a FREE context nothing is running (log 14). -/
def faultable (b : Block) (c : Ctx) : Bool :=
  match (getCtx b c).state with
  | .faulted | .fencing | .quarantine | .free => false
  | _ => true

/-- An active context of R320. -/
def activeCtx (b : Block) (c : Ctx) : Bool :=
  match (getCtx b c).state with
  | .running | .preempting | .preempted => true
  | _ => false

/-- RAISING A CODE (R317 to R323): it is counted; an event records as its mask says and work goes on; a context fault halts its
context; an engine fault halts every active context and the command queue. -/
def raise (b : Block) (code : Code) (t : Site) : Block :=
  let b := bumpFld b (.engEventCnt (Fin.ofNat 26 code.num)) 0 32 1
  if code.isEvent then
    if code.always || bitAt (getFld b .engFaultCtl 0 32) code.num then
      ringRecord b code.num (recordWords b code.num 0 t b.recNext) t.ctx true
    else b
  else
    match (if code = .arrayRetired then none else t.ctx) with
    | some c =>
      if faultable b c then
        let ws := recordWords b code.num 1 t b.recNext
        ringRecord (enterFaulted b c ws) code.num ws (some c) false
      else b
    | none =>
      let t := { t with ctx := none }
      let b := (allFin 16).foldl (fun b c =>
        if activeCtx b c then
          enterFaulted b c (recordWords b code.num 2 { t with ctx := some c, gen := (getCtx b c).gen } b.recNext)
        else b) b
      ringRecord { b with engFault := some code.num } code.num (recordWords b code.num 2 t b.recNext) none false

/-! ### SRAM with ECC (R16, R340, R341) -/

/-- Region and word index of a flat word. -/
def eccLog (b : Block) (w : Nat) (uncorr scrub : Bool) : Block :=
  hwSet (setRaw b .mgtEccLog (BitVec.ofNat 64 (w / 0x1000000 % 16 + w % 0x1000000 % 2 ^ 24 * 16
    + (if uncorr then 2 ^ 28 else 0) + (if scrub then 2 ^ 29 else 0) + getFld b .mgtEccLog 63 1 * 2 ^ 63))) .mgtEccLog 63

/-! ### Activity (R352, log 10) -/

/-- An access to the SRAM words that overlap `[lo, lo + n)` is counted with its region. -/
def countSram (b : Block) (lo n : Nat) : Block :=
  { b with acts := { b.acts with sram := b.acts.sram.mapIdx (fun r k => if r == lo / 0x8000000 then k + ((lo + n + 7) / 8 - lo / 8) else k) } }

/-- `n` multiply-adds of a format class: 0 for 16 bits, 1 for 8, 2 for 6, 3 for 4. -/
def countMacs (b : Block) (cls n : Nat) : Block :=
  { b with acts := { b.acts with macs := b.acts.macs.mapIdx (fun c k => if c == cls then k + n else k) } }

def countAct (b : Block) (f : Acts → Acts) : Block := { b with acts := f b.acts }

/-- A read meets the words overlapping `[lo, lo + n)`: single errors are corrected, logged and written back; says whether one word is uncorrectable. -/
def eccRead (b : Block) (lo n : Nat) (scrub : Bool) : Block × Bool :=
  let hit := fun w => decide (lo / 8 ≤ w) && decide (8 * w < lo + n)
  let ones := b.ecc1.filter hit
  let twos := b.ecc2.filter hit
  let b := countSram b lo n
  let b := ones.foldl (fun b w => eccLog (bumpFld b .mgtEcc 0 32 1) w false scrub) { b with ecc1 := b.ecc1.filter (fun w => !hit w) }
  let b := twos.foldl (fun b w => eccLog (bumpFld b .mgtEcc 32 16 1) w true scrub) b
  (b, !twos.isEmpty)

/-- A write of all bytes of `[lo, lo + n)`: the words that lie inside hold fresh ECC (R16). -/
def freshEcc (b : Block) (lo n : Nat) : Block :=
  let full := fun w => decide (lo ≤ 8 * w) && decide (8 * w + 8 ≤ lo + n)
  { b with ecc1 := b.ecc1.filter (fun w => !full w), ecc2 := b.ecc2.filter (fun w => !full w) }

/-- A write of `bs` at flat address `a`: full words get fresh ECC; a partly written word that holds an uncorrectable error stays
as it is and the write meets the error (R16). -/
def sramWrite (b : Block) (a : Nat) (bs : List Byte) : Block × Bool :=
  let n := bs.length
  let (b, bad) := eccRead (freshEcc b a n) a n false
  let keep := fun x => b.ecc2.contains (x / 8)
  let m := (List.range n).foldl (fun m i => if keep (a + i) then m else memPut m (a + i) (bs.getD i 0)) b.sram
  ({ b with sram := m }, bad)

def sramBytes (b : Block) (a n : Nat) : List Byte := memBytes b.sram a n
def sramWord (b : Block) (a : Nat) : W64 := BitVec.ofNat 64 (leNat (sramBytes b a 8))

/-! ### Scoreboard and queues (R19 to R21) -/

def TokObj.overlap : TokObj → TokObj → Bool
  | .range a c, .range x y => decide (a < y) && decide (x < c)
  | .group g, .group h => decide (g = h)
  | .wheel w, .wheel v => decide (w = v)
  | _, _ => false

/-- Whether a dispatched, uncompleted instruction of `c` holds a token against one of `ts` (R19). -/
def tokenBlocked (b : Block) (c : Ctx) (ts : List Token) : Bool :=
  b.entries.any (fun e => decide (e.ctx = c) &&
    e.tokens.any (fun t => ts.any (fun u => (t.write || u.write) && t.obj.overlap u.obj)))

/-- Capacity of a unit queue (R21). -/
def EUnit.cap : EUnit → Nat
  | .issue => 0 | .load => 32 | .store => 32 | .short => 64 | .array => 8 | .kiln => 16 | .vec => 16 | .line => 8
  | .chain => 8 | .chk _ => 4

def waiting (b : Block) (u : EUnit) : List Entry := b.entries.filter (fun e => decide (e.eunit = u) && !e.started)
def waitingArr (b : Block) (n : Arr) : List Entry :=
  b.entries.filter (fun e => decide (e.eunit = .array) && !e.started && e.arrays.contains n)

/-- A unit runs entries of RUNNING contexts; those of a stopped context are passed over (R249, R319). -/
def eligible (b : Block) (e : Entry) : Bool := decide ((getCtx b e.ctx).state = .running)

/-- Head of a unit queue: the first waiting entry that is not passed over. -/
def queueHead (b : Block) (u : EUnit) : Option Entry := (waiting b u).find? (eligible b)
def arrHead (b : Block) (n : Arr) : Option Entry := (waitingArr b n).find? (eligible b)

def findEntry (b : Block) (e : Nat) : Option Entry := b.entries.find? (fun x => x.id == e)
def modEntry (b : Block) (e : Nat) (f : Entry → Entry) : Block :=
  { b with entries := b.entries.map (fun x => if x.id == e then f x else x) }
def dropEntry (b : Block) (e : Nat) : Block := { b with entries := b.entries.filter (fun x => x.id != e) }

/-- The site of a fault met by a dispatched instruction. -/
def Entry.site (e : Entry) (unit : Nat) : Site :=
  { ctx := some e.ctx, gen := e.gen, strand := some e.strand, pos := some (e.pos, e.word.toNat % 256), unit := unit }

def progress (b : Block) (c : Ctx) : Block :=
  let b := modCtx b c (fun x => { x with progressed := true, stall := 0 })
  setFld b .mgtProgress (16 + c.val) 1 0

/-! ### Pegs (R236, R237) -/

def pegCfg (b : Block) (p : Peg) : Nat := (rawReg b (.schPegCfg p)).toNat
def pegOwner (b : Block) (p : Peg) : Ctx := Fin.ofNat 16 (bitsOf (pegCfg b p) 3 0)
def pegProd (b : Block) (p : Peg) : Nat := bitsOf (pegCfg b p) 6 4
def pegCons (b : Block) (p : Peg) : Nat := bitsOf (pegCfg b p) 10 8
def pegPeer (b : Block) (p : Peg) : Nat := bitsOf (pegCfg b p) 23 12
def pegEn (b : Block) (p : Peg) : Bool := bitAt (pegCfg b p) 24

def pegRole (b : Block) (p : Peg) (c : Ctx) (s : Strand) : Option Role :=
  if !pegEn b p || pegOwner b p ≠ c then none
  else if pegProd b p == s.val then some .producer
  else if pegCons b p == s.val then some .consumer
  else none

/-- The count a strand waits on. -/
def pegCount (b : Block) (p : Peg) : Role → Nat
  | .producer => (getPeg b p).empty.toNat
  | .consumer => (getPeg b p).full.toNat

def pegTake (b : Block) (p : Peg) (r : Role) (n : Nat) : Block :=
  let x := getPeg b p
  match r with
  | .producer => setPeg b p { x with empty := x.empty - BitVec.ofNat 16 n }
  | .consumer => setPeg b p { x with full := x.full - BitVec.ofNat 16 n }

/-- The poster's other side is remote. -/
def postRemote (b : Block) (p : Peg) : Role → Bool
  | .producer => pegCons b p == 4
  | .consumer => pegProd b p == 4

/-- A post of `n` lands on FULL (by the producer) or EMPTY (by the consumer); above 65,535 it saturates and halts the owner (R237). -/
def pegAdd (b : Block) (p : Peg) (r : Role) (n : Nat) : Block :=
  let x := getPeg b p
  let old := match r with | .producer => x.full.toNat | .consumer => x.empty.toNat
  let v := BitVec.ofNat 16 (min 65535 (old + n))
  let b := match r with
    | .producer => setPeg b p { x with full := v }
    | .consumer => setPeg b p { x with empty := v }
  if old + n > 65535 then
    raise b .illegalInstr { ctx := some (pegOwner b p), gen := (getCtx b (pegOwner b p)).gen, obj := some (3, p.val) }
  else b

/-! ### Meanings -/

/-- The engine runs: its cold reset is released, it has power and is not in P3 (R388, R391). -/
def live (b : Block) : Bool := b.pins.rstCold && b.pins.powered && getFld b .mgtPwr 2 2 != 3

/-- A command whose effect is `f` on the block. -/
def State.on (s : State) (f : Block → Block) : Host.Outcome State Fault Refusal := .next { s with blk := f s.blk }

/-- A command that is no event of a pin leaves the pins as the integration holds them (R368). -/
def State.onBlk (s : State) (f : Block → Block) : Host.Outcome State Fault Refusal :=
  s.on (fun b => { f b with pins := b.pins })

/-- A command that needs a running engine; without one it does not occur (log 2). -/
def State.onLive (s : State) (f : Block → Block) : Host.Outcome State Fault Refusal :=
  s.onBlk (fun b => if live b then f b else b)

/-- CP_REQ_READY is high: not in cold reset or P3, nor while the compute part is in reset, nor with 16 responses outstanding (R370, R371, R391). -/
def cpOpen (b : Block) : Bool := live b && decide (b.rst ≠ .computeReset) && decide (b.cpQ.length < 16)

/-- The response to a request, under the ID the request came with; it is held until CP_RSP_READY takes it, behind those held already (R369 to R371). -/
def respond (b : Block) (data : W64) (err : Nat) : Block :=
  let r : CpRsp := ⟨b.pins.cpReqId, data, BitVec.ofNat 2 err⟩
  { b with cp := r, cpQ := if b.pins.cpRspReady && b.cpQ.isEmpty then [] else b.cpQ ++ [r] }

/-- The page of an address answers: it is assigned, and in P2 it belongs to a unit that stays powered (R350, R370, R392). -/
def pageUp (b : Block) (a : Nat) : Bool :=
  let p := a / 0x10000
  p < 0x0F && (getFld b .mgtPwr 2 2 != 2 || p == 0x00 || p == 0x09 || p == 0x0A || p == 0x0C)

/-- A control-port write of register `r` whose effect is `f` (R370): its completion is OK, or UNAVAILABLE without effect. -/
def State.onWrite (s : State) (r : Reg) (f : Block → Block) : Host.Outcome State Fault Refusal :=
  s.onBlk (fun b => if !cpOpen b then b else if !pageUp b r.addr then respond b 0#64 2 else respond (f b) 0#64 0)

end Sys2Proof.Machine
end

