-- ==== Sys2Proof/Machine/Links.lean ====
section
/-! DEFINITION. Shared operations that reach outside the engine: check folds (13), the peer table, packets and remote tags (12),
posts and completion (R22, R236 to R238). -/

namespace Sys2Proof.Machine

open Sys2Proof

/-! ### Cyclic checks (R281, R304, R305) -/

/-- One bit of a bit-reflected CRC register. -/
def crcBit (poly r : Nat) : Nat := if r % 2 == 1 then (r / 2) ^^^ poly else r / 2

def crcByte (poly r : Nat) (x : Byte) : Nat :=
  let r := r ^^^ x.toNat
  crcBit poly (crcBit poly (crcBit poly (crcBit poly (crcBit poly (crcBit poly (crcBit poly (crcBit poly r)))))))

/-- Width and reflected polynomial of a check: CRC-32C or CRC-64 (R304). -/
def crcWidth (poly : Nat) : Nat := if poly == 0 then 32 else 64
def crcPoly (poly : Nat) : Nat := if poly == 0 then 0x82F63B78 else 0xC96C5795D7870F42

/-- Folds bytes into a running value (R305): inverted in, bytes through, inverted out. -/
def crcFold (poly v : Nat) (bs : List Byte) : Nat :=
  let m := 2 ^ crcWidth poly - 1
  (bs.foldl (crcByte (crcPoly poly)) (v % (m + 1) ^^^ m)) ^^^ m

/-- Frame check of R281: guard of SEQ, CHAIN_ID and FIDX, then the payload, under CRC-32C from 0. -/
def frameCrc (seq chainId fidx : Nat) (data : List Byte) : Nat :=
  crcFold 0 0 (leBytes 4 seq ++ leBytes 2 chainId ++ leBytes 2 fidx ++ data)

def chkPoly (b : Block) (n : Chk) : Nat := getFld b (.chkCtl n) 0 1
def chkOwner (b : Block) (n : Chk) : Ctx := Fin.ofNat 16 (getFld b (.chkCtl n) 1 4)
def chkV (b : Block) (n : Chk) : Nat := (rawReg b (.chkValue n)).toNat % 2 ^ crcWidth (chkPoly b n)
def setChkV (b : Block) (n : Chk) (v : Nat) : Block :=
  setRaw b (.chkValue n) (BitVec.ofNat 64 (v % 2 ^ crcWidth (chkPoly b n)))

/-- Folds bytes into channel `n`. -/
def chkFold (b : Block) (n : Chk) (bs : List Byte) : Block := setChkV b n (crcFold (chkPoly b n) (chkV b n) bs)

/-- A hardware feed folds bytes: a register read in the same beat still meets the value before (R316). -/
def hwFold (b : Block) (n : Chk) (bs : List Byte) : Block :=
  chkFold (modChk b n (fun x => { x with preFold := some (x.preFold.getD (BitVec.ofNat 64 (chkV b n))) })) n bs

/-- The running value is set: by a register write, by CHKSEED, by a restart or by RESTORE. -/
def chkSet (b : Block) (n : Chk) (v : Nat) : Block := setChkV (modChk b n (fun x => { x with preFold := none })) n v

/-- The guard prefix of R311; CTX and GEN fold as 0 where the channel or the feed says so (R312). -/
def guardPrefix (b : Block) (n : Chk) (dest region seq : Nat) (ctxGen : Option (Ctx × BitVec 16)) : List Byte :=
  let c := match ctxGen with | some (c, _) => if getFld b (.chkCtl n) 5 1 == 1 then 0 else c.val | none => 0
  let g := match ctxGen with | some (_, g) => if getFld b (.chkCtl n) 6 1 == 1 then 0 else g.toNat | none => 0
  leBytes 8 (dest % 2 ^ 49 + region * 2 ^ 56) ++ leBytes 8 (seq % 2 ^ 32) ++ leBytes 4 c ++ leBytes 4 g

/-- A feed takes the channel: fold-start copy, then the prefix (R307 to R309). `who` names the block of a stream; one that takes the channel
again for a refetch, with nothing folded by another feed since, starts from the copy of its first hold. -/
def chkHold (b : Block) (n : Chk) (h : Holder) (who : Option (Nat × Nat)) (prefixBytes : List Byte) : Block :=
  let b := if who.isSome && decide ((getChk b n).last = who) then chkSet b n (getChk b n).foldStart.toNat else b
  let v := BitVec.ofNat 64 (chkV b n)
  hwFold (modChk b n (fun x => { x with holder := h, foldStart := v, last := who })) n prefixBytes

def chkRelease (b : Block) (n : Chk) : Block := modChk b n (fun x => { x with holder := .none })

/-! ### Peer table (R291, R303) and packets (R292) -/

def peerWord (b : Block) (i : Fin 4096) : Nat := (rawReg b (.fabPeer i)).toNat
def peerValid (w : Nat) : Bool := bitAt w 0
def peerLocal (w : Nat) : Nat := bitsOf w 4 1
def peerRevoked (w : Nat) : Bool := bitAt w 56

/-- Whether an instruction of `c` may name an entry: none for yes, else the code of R291. -/
def peerCheck (b : Block) (c : Ctx) (i : Nat) : Option Code :=
  let w := peerWord b (Fin.ofNat 4096 i)
  if !peerValid w || peerLocal w != c.val then some .illegalInstr
  else if peerRevoked w then some .contextRevoked
  else none

/-- Header of a request sent through entry word `w` (R292). -/
def reqHdr (b : Block) (w kind : Nat) (c : Ctx) (gen : BitVec 16) (tag beats arg mask : Nat) : BitVec 512 :=
  BitVec.ofNat 512 (kind + getFld b .fabSelf 0 16 * 2 ^ 8 + getFld b .engConfig 12 3 * 2 ^ 24 + c.val * 2 ^ 27
    + gen.toNat * 2 ^ 32 + bitsOf w 20 5 * 2 ^ 48 + bitsOf w 23 21 * 2 ^ 64 + bitsOf w 27 24 * 2 ^ 67
    + bitsOf w 43 28 * 2 ^ 72 + bitsOf w 55 44 * 2 ^ 88 + tag * 2 ^ 100 + beats * 2 ^ 110 + arg * 2 ^ 128 + mask * 2 ^ 256)

/-- Header of the answer to a request: TAG copied, SRC and DST exchanged (R292). -/
def ansHdr (h : Nat) (kind status arg : Nat) : BitVec 512 :=
  BitVec.ofNat 512 (kind + status * 2 ^ 4 + bitsOf h 63 48 * 2 ^ 8 + bitsOf h 66 64 * 2 ^ 24 + bitsOf h 70 67 * 2 ^ 27
    + bitsOf h 87 72 * 2 ^ 32 + bitsOf h 23 8 * 2 ^ 48 + bitsOf h 26 24 * 2 ^ 64 + bitsOf h 30 27 * 2 ^ 67
    + bitsOf h 47 32 * 2 ^ 72 + bitsOf h 99 88 * 2 ^ 88 + bitsOf h 109 100 * 2 ^ 100 + arg * 2 ^ 128)

/-- Answer kinds of R293: the even ones. -/
def isAnswer (p : FabPkt) : Bool := p.hdr.toNat % 16 % 2 == 0

/-- Bytes of a packet in its lane's queue: its payload, or 64 without one (R294, log 13). -/
def pktBytes (p : FabPkt) : Nat := if p.data.isEmpty then 64 else p.data.length

def laneBytes (b : Block) (l : Fin 2) : Nat := ((b.fabTx.filter (fun p => decide (p.lane = l))).map pktBytes).foldl (· + ·) 0

/-- The lane whose queue holds fewer bytes, lane 0 on a tie (R294). -/
def pickLane (b : Block) : Fin 2 := if laneBytes b 1 < laneBytes b 0 then 1 else 0

/-- A packet whose DST_CHIP and DST_ENG are this engine's takes the internal loopback instead of a lane (R291). -/
def isLoop (b : Block) (hdr : BitVec 512) : Bool :=
  bitsOf hdr.toNat 63 48 == getFld b .fabSelf 0 16 && bitsOf hdr.toNat 66 64 == getFld b .engConfig 12 3

/-- An answer goes out: by the loopback, or on a lane ahead of the requests at the next packet boundary (R291, R383). -/
def sendAnswer (b : Block) (hdr : BitVec 512) : Block :=
  let p : FabPkt := ⟨hdr, [], pickLane b⟩
  if isLoop b hdr then { b with fabLoop := b.fabLoop ++ [p] }
  else { b with fabTx := b.fabTx.filter isAnswer ++ [p] ++ b.fabTx.filter (fun q => !isAnswer q) }

/-- The queue of 512 answers has room: answers that wait, and those that incoming WRITEs under way will take (R383). -/
def answerRoom (b : Block) : Bool :=
  (b.fabTx.filter isAnswer).length + (b.streams.filter (fun x => match x.owner with | .inbound _ => true | _ => false)).length < 512

/-- A request goes out: by the loopback, or behind the packets of its lane (R291, R294). -/
def sendRequest (b : Block) (hdr : BitVec 512) (data : List Byte) : Block :=
  let p : FabPkt := ⟨hdr, data, pickLane b⟩
  if isLoop b hdr then { b with fabLoop := b.fabLoop ++ [p] } else { b with fabTx := b.fabTx ++ [p] }

/-- Smallest number below `n` not in a list. -/
def lowestFree (n : Nat) (used : List Nat) : Option Nat := (List.range n).find? (fun i => !used.contains i)

/-- A remote tag for context `c` (R294): one of 1,024, within FAB_RCAP. The lowest free one is taken (log 13). -/
def freeRemoteTag (b : Block) (c : Ctx) : Option Nat :=
  if (b.fabTags.filter (fun t => decide (t.ctx = c))).length < getFld b (.fabRcap c) 0 11 then
    lowestFree 1024 (b.fabTags.map (·.tag))
  else none

/-- Charges `n` bytes to the remote regulator, when it holds them (R218, R294). -/
def chargeRemote (b : Block) (c : Ctx) (n : Nat) : Option Block :=
  if n ≤ (getCtx b c).regRemote then some (modCtx b c (fun x => { x with regRemote := x.regRemote - n })) else none

/-- Sends a request that takes a remote tag; none while tag, cap or regulator do not allow it. -/
def sendTagged (b : Block) (c : Ctx) (gen : BitVec 16) (peer : Nat) (kind : FabKind) (pk beats arg mask : Nat) (data : List Byte) :
    Option Block :=
  match freeRemoteTag b c, chargeRemote b c (if data.isEmpty then 64 else data.length) with
  | some t, some b =>
    let hdr := reqHdr b (peerWord b (Fin.ofNat 4096 peer)) pk c gen t beats arg mask
    some (sendRequest { b with fabTags := b.fabTags ++ [⟨t, kind, c, gen, peer, ⟨hdr, data, 0⟩, b.beat, none, false, false⟩] } hdr data)
  | _, _ => none

/-! ### Posts and completion (R22, R236 to R238, R254) -/

/-- A POST message of `n` for pair `p` by a strand in role `r`; SIDE is FULL for a producer (R236, R293). -/
def sendPost (b : Block) (c : Ctx) (gen : BitVec 16) (p : Peg) (r : Role) (n : Nat) (entry : Nat) : Option Block :=
  (sendTagged b c gen (pegPeer b p) (.post entry) 7 0
    (p.val + (match r with | .producer => 0 | .consumer => 2 ^ 8) + n * 2 ^ 9) 0 []).map
    (fun b => modCtx b c (fun x => { x with unacked := x.unacked + 1 }))

/-- The posts of completed instructions that no tag or regulator has let out yet go as they can, oldest first (R238, R294). -/
def flushPosts (b : Block) : Block :=
  b.posts.foldl (fun b q => match sendPost b q.ctx q.gen q.peg q.role q.n 0 with
    | some b => { modCtx b q.ctx (fun x => { x with unacked := x.unacked - 1 }) with posts := b.posts.erase q }
    | none => b) b

/-- The post of a sync field, after its instruction has completed: local, or a message to the other engine, which FENCE waits for from now
on and which waits for a tag and the regulator (R238, R243). -/
def strandPost (b : Block) (c : Ctx) (s : Strand) (gen : BitVec 16) (p : Peg) (n : Nat) : Block :=
  match pegRole b p c s with
  | none => b
  | some r =>
    if postRemote b p r then
      flushPosts { modCtx b c (fun x => { x with unacked := x.unacked + 1 }) with posts := b.posts ++ [⟨c, gen, p, r, n⟩] }
    else pegAdd b p r n

def wordPen (w : BitVec 128) : Bool := bitAt w.toNat 13
def wordPpeg (w : BitVec 128) : Peg := Fin.ofNat 256 (bitsOf w.toNat 31 24)

/-- The post of the sync field. -/
def syncPost (b : Block) (c : Ctx) (s : Strand) (gen : BitVec 16) (w : BitVec 128) : Block :=
  if wordPen w then strandPost b c s gen (wordPpeg w) 1 else b

/-- A RUNNING context whose started strands have all halted and that has nothing outstanding is DONE (R231, R276). -/
def ctxDone (b : Block) (c : Ctx) : Block :=
  let x := getCtx b c
  if x.state = .running && (allFin 4).all (fun s => !(x.strands.get s).started || (x.strands.get s).halted)
      && b.entries.all (fun e => !decide (e.ctx = c)) then
    notify (modCtx b c (fun x => { x with state := .done })) 4 (some c) x.tagVal.toNat 0 false
  else b

/-- COMPLETION of a dispatched instruction: it posts, leaves, and its tokens free (R20, R22, R238). -/
def completeEntry (b : Block) (eid : Nat) : Block :=
  match findEntry b eid with
  | none => b
  | some e => ctxDone (progress (dropEntry (syncPost b e.ctx e.strand e.gen e.word) eid) e.ctx) e.ctx

/-- A fault met by a dispatched instruction: raised against its context; it does not complete and posts nothing (R257, R319). -/
def failEntry (b : Block) (e : Entry) (code : Code) (t : Site) : Block := raise (modEntry b e.id (fun x => { x with phase := 255 })) code t

end Sys2Proof.Machine
end

