-- ==== Sys2Proof/Machine/Numeric.lean ====
section
/-! DEFINITION. Number formats and rounding (02): decoding, exact products and sums, every rounding of R46 and R47, DS64
(R49 to R51, R90), MX blocks (R52), the draw of R48, and the correctly rounded functions of R146, R147 and R164. -/

namespace Sys2Proof


/-! ### Exact arithmetic -/

/-- The value +0. -/
def Num.zero : Num := .fin false 0 0

def Num.isNan : Num → Bool
  | .nan => true
  | _ => false

def Num.isFin : Num → Bool
  | .fin _ _ _ => true
  | _ => false

def Num.isZero : Num → Bool
  | .fin _ m _ => m == 0
  | _ => false

def Num.isNeg : Num → Bool
  | .nan => false
  | .inf n => n
  | .fin n _ _ => n

def Num.neg : Num → Num
  | .nan => .nan
  | .inf n => .inf (!n)
  | .fin n m e => .fin (!n) m e

def Num.abs : Num → Num
  | .nan => .nan
  | .inf _ => .inf false
  | .fin _ m e => .fin false m e

/-- The signed integer `m * 2^(e - base)` for a base exponent at or below `e`. -/
def alignTo (base : Int) (neg : Bool) (m : Nat) (e : Int) : Int :=
  let v : Int := (m <<< (e - base).toNat : Nat)
  if neg then -v else v

/-- The exact sum of two values, with the zero signs of R34 and the NaN rule of R33. -/
def Num.add : Num → Num → Num
  | .nan, _ => .nan
  | _, .nan => .nan
  | .inf a, .inf b => if a == b then .inf a else .nan
  | .inf a, _ => .inf a
  | _, .inf b => .inf b
  | .fin a m e, .fin b n f =>
    if m == 0 && n == 0 then .fin (a && b) 0 0
    else
      let base := min e f
      let v := alignTo base a m e + alignTo base b n f
      .fin (decide (v < 0)) v.natAbs base

/-- The exact difference. -/
def Num.sub (x y : Num) : Num := Num.add x (Num.neg y)

/-- The exact product (R42); an infinity times a zero is NaN (R33). -/
def Num.mul : Num → Num → Num
  | .nan, _ => .nan
  | _, .nan => .nan
  | .inf a, .inf b => .inf (a != b)
  | .inf a, .fin b n _ => if n == 0 then .nan else .inf (a != b)
  | .fin a m _, .inf b => if m == 0 then .nan else .inf (a != b)
  | .fin a m e, .fin b n f => .fin (a != b) (m * n) (e + f)

/-- Multiplication by a power of two, exact. -/
def Num.scale2 (x : Num) (k : Int) : Num :=
  match x with
  | .fin n m e => .fin n m (e + k)
  | y => y

/-- An integer as an exact value. -/
def Num.ofInt (i : Int) : Num := .fin (decide (i < 0)) i.natAbs 0

/-- Strict order on values that are not NaN; false when either is NaN. -/
def Num.lt : Num → Num → Bool
  | .nan, _ => false
  | _, .nan => false
  | .inf a, .inf b => a && !b
  | .inf a, .fin _ _ _ => a
  | .fin _ _ _, .inf b => !b
  | .fin a m e, .fin b n f => let base := min e f; decide (alignTo base a m e < alignTo base b n f)

/-- Numerator of a dyadic magnitude. -/
def dyNum (m : Nat) (e : Int) : Nat := if e < 0 then m else m <<< e.toNat

/-- Denominator of a dyadic magnitude. -/
def dyDen (e : Int) : Nat := if e < 0 then 1 <<< (-e).toNat else 1

/-! ### Formats -/

/-- How a format spends its top exponent (R31). -/
inductive Special where
  | ieee    -- exponent all ones: Inf and NaN
  | e4m3    -- one NaN code, no Inf
  | none    -- neither
  deriving DecidableEq, Repr

/-- A floating-point layout of R31. -/
structure Fmt where
  ebits : Nat
  mbits : Nat
  bias : Nat
  special : Special
  deriving DecidableEq, Repr

def fmtFP32 : Fmt := ⟨8, 23, 127, .ieee⟩
def fmtBF16 : Fmt := ⟨8, 7, 127, .ieee⟩
def fmtFP16 : Fmt := ⟨5, 10, 15, .ieee⟩
def fmtE4M3 : Fmt := ⟨4, 3, 7, .e4m3⟩
def fmtE5M2 : Fmt := ⟨5, 2, 15, .ieee⟩
def fmtE2M3 : Fmt := ⟨2, 3, 1, .none⟩
def fmtE3M2 : Fmt := ⟨3, 2, 3, .none⟩
def fmtE2M1 : Fmt := ⟨2, 1, 1, .none⟩
/-- The 20-bit accumulator of P1 compatibility mode (R54). -/
def fmtP20 : Fmt := ⟨8, 11, 127, .ieee⟩

def Fmt.width (f : Fmt) : Nat := 1 + f.ebits + f.mbits

/-- The largest magnitude code that is finite (R31). -/
def Fmt.maxCode (f : Fmt) : Nat :=
  match f.special with
  | .ieee => (2 ^ f.ebits - 1) * 2 ^ f.mbits - 1
  | .e4m3 => 2 ^ (f.ebits + f.mbits) - 2
  | .none => 2 ^ (f.ebits + f.mbits) - 1

/-- The canonical NaN (R33); formats without NaN never reach it. -/
def Fmt.nanCode (f : Fmt) : Nat :=
  match f.special with
  | .ieee => (2 ^ f.ebits - 1) * 2 ^ f.mbits + 2 ^ (f.mbits - 1)
  | .e4m3 => 2 ^ (f.ebits + f.mbits) - 1
  | .none => 0

/-- The exponent emax of R31: that of the largest finite value. -/
def Fmt.emax (f : Fmt) : Int := ((f.maxCode / 2 ^ f.mbits : Nat) : Int) - f.bias

/-- The value of a code (R31, R32). -/
def Fmt.decode (f : Fmt) (code : Nat) : Num :=
  let mag := code % 2 ^ (f.ebits + f.mbits)
  let neg := bitAt code (f.ebits + f.mbits)
  let ex := mag / 2 ^ f.mbits
  let fr := mag % 2 ^ f.mbits
  if mag > f.maxCode then
    match f.special with
    | .ieee => if fr == 0 then .inf neg else .nan
    | _ => .nan
  else if ex == 0 then .fin neg fr (1 - (f.bias : Int) - f.mbits)
  else .fin neg (2 ^ f.mbits + fr) ((ex : Int) - f.bias - f.mbits)

/-- floor(log2 (num/den)) of a positive ratio. -/
def floorLog2 (num den : Nat) : Int :=
  let k : Int := (Nat.log2 num : Int) - Nat.log2 den
  let ge := if k < 0 then decide (den ≤ num <<< (-k).toNat) else decide (den <<< k.toNat ≤ num)
  if ge then k else k - 1

/-- One rounding of the positive ratio num/den to a magnitude code, before the overflow test. Codes rise with the value
and go on past the largest finite one, so RNE with an unbounded exponent (R47) is this with `.rne`. -/
def Fmt.roundCode (f : Fmt) (r : Rnd) (num den : Nat) : Nat :=
  let emin : Int := 1 - (f.bias : Int)
  let ex := max (floorLog2 num den) emin
  let q := ex - f.mbits
  let n := if q < 0 then num <<< (-q).toNat else num
  let d := if q < 0 then den else den <<< q.toNat
  let fl := n / d
  let rem := n % d
  let up := match r with
    | .rne => decide (d < 2 * rem) || (2 * rem == d && fl % 2 == 1)
    | .trunc => false
    | .stoch draw => decide (2 ^ 16 ≤ (rem * 2 ^ 16) / d + draw) && rem != 0
  (ex - emin).toNat * 2 ^ f.mbits + fl + (if up then 1 else 0)

/-- What an overflow or an Inf input becomes (R47). -/
def Fmt.overCode (f : Fmt) (isInf sat neg : Bool) : Nat :=
  let s := if neg then 2 ^ (f.ebits + f.mbits) else 0
  let satd := s + f.maxCode
  match f.special with
  | .ieee => if !isInf && f.ebits == 5 && f.mbits == 2 && sat then satd else s + (2 ^ f.ebits - 1) * 2 ^ f.mbits
  | .e4m3 => if isInf || !sat then f.nanCode else satd
  | .none => satd

/-- One rounding of a signed ratio to a format (R47). -/
def Fmt.encodeRat (f : Fmt) (r : Rnd) (sat neg : Bool) (num den : Nat) : Nat :=
  let s := if neg then 2 ^ (f.ebits + f.mbits) else 0
  if num == 0 then s
  else if f.roundCode .rne num den > f.maxCode then f.overCode false sat neg
  else s + min (f.roundCode r num den) f.maxCode

/-- One rounding of an exact value to a format (R47). -/
def Fmt.encode (f : Fmt) (r : Rnd) (sat : Bool) : Num → Nat
  | .nan => f.nanCode
  | .inf n => f.overCode true sat n
  | .fin n m e => f.encodeRat r sat n (dyNum m e) (dyDen e)

/-- Rounding to an integer type of the given width, saturating (R47). -/
def encodeInt (bits : Nat) (r : Rnd) (v : Num) : Nat :=
  let top : Int := 2 ^ (bits - 1)
  let i : Int := match v with
    | .nan => 0
    | .inf n => if n then -top else top - 1
    | .fin n m e =>
      let num := dyNum m e
      let d := dyDen e
      let fl := num / d
      let rem := num % d
      let up := match r with
        | .rne => decide (d < 2 * rem) || (2 * rem == d && fl % 2 == 1)
        | .trunc => false
        | .stoch draw => decide (2 ^ 16 ≤ (rem * 2 ^ 16) / d + draw) && rem != 0
      let a : Int := (fl + (if up then 1 else 0) : Nat)
      if n then -a else a
  let c := max (-top) (min (top - 1) i)
  (c % (2 ^ bits : Int)).toNat

/-- Two's-complement value of the low `bits` of a code. -/
def intOf (bits code : Nat) : Int :=
  let c := code % 2 ^ bits
  if c ≥ 2 ^ (bits - 1) then (c : Int) - 2 ^ bits else c

/-! ### FP32 operations, one RNE rounding each -/

def dec32 (x : F32) : Num := fmtFP32.decode x.toNat
def enc32 (v : Num) : F32 := BitVec.ofNat 32 (fmtFP32.encode .rne true v)
def enc32r (r : Rnd) (v : Num) : F32 := BitVec.ofNat 32 (fmtFP32.encode r true v)

def f32add (a b : F32) : F32 := enc32 (Num.add (dec32 a) (dec32 b))
def f32sub (a b : F32) : F32 := enc32 (Num.sub (dec32 a) (dec32 b))
def f32mul (a b : F32) : F32 := enc32 (Num.mul (dec32 a) (dec32 b))

/-- Correctly rounded quotient. -/
def f32div (a b : F32) : F32 :=
  match dec32 a, dec32 b with
  | .nan, _ => enc32 .nan
  | _, .nan => enc32 .nan
  | .inf _, .inf _ => enc32 .nan
  | .inf n, .fin k _ _ => enc32 (.inf (n != k))
  | .fin n _ _, .inf k => enc32 (.fin (n != k) 0 0)
  | .fin n m e, .fin k p q =>
    if p == 0 then (if m == 0 then enc32 .nan else enc32 (.inf (n != k)))
    else BitVec.ofNat 32 (fmtFP32.encodeRat .rne true (n != k) (dyNum m e * dyDen q) (dyDen e * dyNum p q))

def f32abs (a : F32) : F32 := a &&& 0x7FFFFFFF#32
def f32neg (a : F32) : F32 := enc32 (Num.neg (dec32 a))
def f32lt (a b : F32) : Bool := Num.lt (dec32 a) (dec32 b)
def f32isNan (a : F32) : Bool := (dec32 a).isNan
def f32isInf (a : F32) : Bool := match dec32 a with | .inf _ => true | _ => false
def f32zero : F32 := 0#32
def f32one : F32 := 0x3F800000#32
/-- A natural number rounded once to FP32. -/
def f32ofNat (n : Nat) : F32 := enc32 (.fin false n 0)

/-! ### DS64 (R49 to R51, R90) -/

def dsHi (d : W64) : F32 := d.extractLsb' 0 32
def dsLo (d : W64) : F32 := d.extractLsb' 32 32
def dsMk (hi lo : F32) : W64 := lo ++ hi
def dsOfF32 (h : F32) : W64 := dsMk h f32zero

/-- The exact value of a DS64. -/
def dsVal (d : W64) : Num :=
  match dec32 (dsHi d) with
  | .fin n m e =>
    match dec32 (dsLo d) with
    | .fin n2 m2 e2 => if m2 == 0 then .fin n m e else Num.add (.fin n m e) (.fin n2 m2 e2)
    | v => v
  | v => v

/-- The DS64 that R90 writes for an exact finite sum; `negZero` says that every part was a zero and both hi parts were -0. -/
def dsOfExact (v : Num) (negZero : Bool) : W64 :=
  match v with
  | .fin n m e =>
    if m == 0 then dsMk (if negZero then 0x80000000#32 else f32zero) f32zero
    else
      let hi := enc32 (.fin n m e)
      match dec32 hi with
      | .fin hn hm he =>
        let lo := enc32r .trunc (Num.sub (.fin n m e) (.fin hn hm he))
        dsMk hi (if lo == 0x80000000#32 then f32zero else lo)
      | _ => dsMk hi f32zero
  | w => dsMk (enc32 w) f32zero

/-- Addition into a DS64 value (R90). -/
def dsAdd (a b : W64) : W64 :=
  let va := dsVal a
  let vb := dsVal b
  match va, vb with
  | .fin _ _ _, .fin _ _ _ =>
    let parts := [dec32 (dsHi a), dec32 (dsLo a), dec32 (dsHi b), dec32 (dsLo b)]
    let allZero := parts.all Num.isZero
    dsOfExact (Num.add va vb) (allZero && (dec32 (dsHi a)).isNeg && (dec32 (dsHi b)).isNeg)
  | _, _ => dsMk (f32add (dsHi a) (dsHi b)) f32zero

/-- Renormalisation of a DS64 read from memory (R50). -/
def dsNormalise (d : W64) : W64 :=
  match dec32 (dsHi d), dec32 (dsLo d) with
  | .fin n m e, .fin n2 m2 e2 => dsOfExact (Num.add (.fin n m e) (.fin n2 m2 e2)) (m == 0 && n && m2 == 0)
  | _, _ => dsMk (f32add (dsHi d) (dsLo d)) f32zero

/-! ### The stochastic draw (R48) -/

def mix64 (z0 : W64) : W64 :=
  let z1 := (z0 ^^^ (z0 >>> 30)) * 0xbf58476d1ce5e4b9#64
  let z2 := (z1 ^^^ (z1 >>> 27)) * 0x94d049bb133111eb#64
  z2 ^^^ (z2 >>> 31)

/-- Bits 63:48 of the draw with index `d` under `key`. -/
def draw16 (key : W64) (d : Nat) : Nat :=
  ((mix64 (key + BitVec.ofNat 64 (d + 1) * 0x9E3779B97F4A7C15#64)) >>> 48).toNat

/-- The key of R48 from its fields. -/
def drawKey (seed : W64) (pass bank row col : Nat) : W64 :=
  seed ^^^ BitVec.ofNat 64 ((pass % 2 ^ 40) <<< 24) ^^^ BitVec.ofNat 64 (bank <<< 18) ^^^ BitVec.ofNat 64 (row <<< 9)
    ^^^ BitVec.ofNat 64 col

/-! ### Element types (R28, R35, R36) -/

/-- Bits of one element; 0 for a code that R29 refuses. -/
def typeBits (t : Nat) : Nat :=
  match t with
  | 0x00 => 32 | 0x01 => 16 | 0x02 => 16 | 0x03 => 8 | 0x04 => 8 | 0x05 => 8 | 0x06 => 6 | 0x07 => 6 | 0x08 => 4
  | 0x09 => 8 | 0x0A => 32 | 0x0B => 64 | 0x0C => 64 | 0x0D => 32 | 0x0E => 8 | _ => 0

def typeValid (t : Nat) : Bool := t ≤ 0x0E
def typeIsMX (t : Nat) : Bool := 0x05 ≤ t && t ≤ 0x08
def typeIsComplex (t : Nat) : Bool := t == 0x0C || t == 0x0D
/-- Allowed as an array operand (R28). -/
def typeArray (t : Nat) : Bool := t ≤ 0x09 || t == 0x0C || t == 0x0D
/-- Allowed as a glaze output (R28). -/
def typeGlaze (t : Nat) : Bool := t ≤ 0x0D
/-- Bytes of one MX block (R35); 0 for other types. -/
def mxBlockBytes (t : Nat) : Nat := if typeIsMX t then typeBits t * 4 else 0

/-- The floating-point layout of a type's elements. -/
def typeFmt (t : Nat) : Fmt :=
  match t with
  | 0x01 => fmtBF16 | 0x02 => fmtFP16 | 0x03 => fmtE4M3 | 0x04 => fmtE5M2 | 0x05 => fmtE4M3 | 0x06 => fmtE2M3
  | 0x07 => fmtE3M2 | 0x08 => fmtE2M1 | 0x0D => fmtBF16 | _ => fmtFP32

/-- The decoded value of an element (R31, R37); `scale` is its MX block's E8M0 code, ignored for other types. -/
def decodeElem (t code scale : Nat) : Num :=
  if t == 0x09 then Num.ofInt (intOf 8 code)
  else if t == 0x0A then Num.ofInt (intOf 32 code)
  else if t == 0x0B then dsVal (dsNormalise (BitVec.ofNat 64 code))
  else if t == 0x0E then Num.ofInt (code % 256 : Nat)
  else if typeIsMX t then
    if scale == 0xFF then .nan else ((typeFmt t).decode code).scale2 ((scale : Int) - 127)
  else (typeFmt t).decode code

/-- One element converted to a non-MX, non-complex type (R47, R51). DS64 takes the value as an exact sum; a total of an integer group is written
as the DS64 of its value (DESIGN CHOICE, log 120: R137 says "passes the total unchanged" and types it DS64). -/
def encodeElem (t : Nat) (r : Rnd) (sat : Bool) (v : Num) : Nat :=
  if t == 0x09 then encodeInt 8 r v
  else if t == 0x0A then encodeInt 32 r v
  else if t == 0x0B then (dsOfExact v v.isNeg).toNat
  else if t == 0x0E then (match encodeInt 16 r v with | n => min (if intOf 16 n < 0 then 0 else n) 255)
  else (typeFmt t).encode r sat v

/-- Scale and element codes of one MX block from its valid elements (R52). -/
def mxEncode (t : Nat) (rnds : List Rnd) (vs : List Num) : Nat × List Nat :=
  let f := typeFmt t
  if vs.any (fun v => !v.isFin) then (0xFF, vs.map (fun _ => 0))
  else
    let amax := vs.foldl (fun a v => if Num.lt a v.abs then v.abs else a) Num.zero
    match amax with
    | .fin _ m e =>
      if m == 0 then (0x7F, vs.map (fun _ => 0))
      else
        let ex := max (-127) (min 127 (floorLog2 (dyNum m e) (dyDen e) - f.emax))
        ((ex + 127).toNat, (vs.zip rnds).map (fun p => f.encode p.2 true (p.1.scale2 (-ex))))
    | _ => (0xFF, vs.map (fun _ => 0))

/-! ### Big-float arithmetic for the correctly rounded functions (R147, log 9) -/

/-- `m * 2^e` with a signed mantissa. -/
structure BF where
  m : Int
  e : Int
  deriving DecidableEq, Repr

/-- Working precision in bits. -/
def bfPrec : Nat := 640

def bfTrim (x : BF) : BF :=
  let n := Nat.log2 x.m.natAbs
  if n ≤ bfPrec then x
  else
    let k := n - bfPrec
    ⟨if x.m < 0 then -((x.m.natAbs >>> k : Nat) : Int) else ((x.m.natAbs >>> k : Nat) : Int), x.e + k⟩

def bfOfInt (i : Int) : BF := ⟨i, 0⟩
def bfNeg (x : BF) : BF := ⟨-x.m, x.e⟩
def bfAdd (x y : BF) : BF :=
  if x.m == 0 then y else if y.m == 0 then x
  else
    let base := min x.e y.e
    -- terms more than 4 * bfPrec bits apart do not meet; the larger one stands
    if x.e - base > 4 * bfPrec && Nat.log2 y.m.natAbs ≤ 2 * bfPrec then x
    else if y.e - base > 4 * bfPrec && Nat.log2 x.m.natAbs ≤ 2 * bfPrec then y
    else bfTrim ⟨x.m * 2 ^ (x.e - base).toNat + y.m * 2 ^ (y.e - base).toNat, base⟩
def bfSub (x y : BF) : BF := bfAdd x (bfNeg y)
def bfMul (x y : BF) : BF := bfTrim ⟨x.m * y.m, x.e + y.e⟩
def bfDiv (x y : BF) : BF :=
  if y.m == 0 then ⟨0, 0⟩
  else
    let s := 2 * bfPrec + 64
    let q := (x.m.natAbs <<< s) / y.m.natAbs
    bfTrim ⟨if (x.m < 0) == (y.m < 0) then (q : Int) else -(q : Int), x.e - y.e - s⟩
def bfScale (x : BF) (k : Int) : BF := ⟨x.m, x.e + k⟩

/-- floor of a big float as an integer. -/
def bfFloor (x : BF) : Int := if x.e < 0 then x.m / (2 ^ (-x.e).toNat : Int) else x.m * 2 ^ x.e.toNat

/-- Integer square root by Newton steps from above. -/
def isqrtAux : Nat → Nat → Nat → Nat
  | 0, _, x => x
  | fuel + 1, n, x => let y := (x + n / x) / 2; if y < x then isqrtAux fuel n y else x

def isqrt (n : Nat) : Nat := if n == 0 then 0 else isqrtAux 4096 n (2 ^ (Nat.log2 n / 2 + 1))

def bfSqrt (x : BF) : BF :=
  let odd := x.e % 2 != 0
  let m := if odd then x.m.natAbs * 2 else x.m.natAbs
  let e := if odd then x.e - 1 else x.e
  let s := bfPrec + 64
  bfTrim ⟨(isqrt (m <<< (2 * s)) : Nat), e / 2 - s⟩

/-- sum of z^(2n+1)/(2n+1), alternating when `alt`. -/
def atanSeries (alt : Bool) : Nat → Nat → BF → BF → BF → BF
  | 0, _, _, _, acc => acc
  | fuel + 1, n, z2, p, acc =>
    if p.m == 0 || (Nat.log2 p.m.natAbs : Int) + p.e < -(2 * bfPrec : Int) then acc
    else
      let t := bfDiv p (bfOfInt (2 * n + 1))
      atanSeries alt fuel (n + 1) z2 (bfMul p z2) (if alt && n % 2 == 1 then bfSub acc t else bfAdd acc t)

def bfAtanh (z : BF) : BF := atanSeries false 1400 0 (bfMul z z) z ⟨0, 0⟩
def bfAtan (z : BF) : BF := atanSeries true 1400 0 (bfMul z z) z ⟨0, 0⟩

def bfLn2 : BF := bfScale (bfAtanh (bfDiv (bfOfInt 1) (bfOfInt 3))) 1
def bfPi : BF :=
  bfScale (bfSub (bfScale (bfAtan (bfDiv (bfOfInt 1) (bfOfInt 5))) 2) (bfAtan (bfDiv (bfOfInt 1) (bfOfInt 239)))) 2

def expSeries : Nat → Nat → BF → BF → BF → BF
  | 0, _, _, _, acc => acc
  | fuel + 1, n, x, t, acc =>
    if t.m == 0 || (Nat.log2 t.m.natAbs : Int) + t.e < -(bfPrec + 32 : Int) then acc
    else let t' := bfDiv (bfMul t x) (bfOfInt n); expSeries fuel (n + 1) x t' (bfAdd acc t')

/-- e^x; beyond |x| = 2^13 the result is taken far outside every finite format, on the same side. -/
def bfExp (x : BF) : BF :=
  if x.m == 0 then bfOfInt 1
  else if (Nat.log2 x.m.natAbs : Int) + x.e ≥ 13 then ⟨1, if x.m < 0 then -11000 else 11000⟩
  else
    let k := bfFloor (bfDiv x bfLn2)
    bfScale (expSeries 400 1 (bfSub x (bfMul (bfOfInt k) bfLn2)) (bfOfInt 1) (bfOfInt 1)) k

/-- ln (1 + y) for y in (0, 1]. -/
def bfLog1p (y : BF) : BF := bfScale (bfAtanh (bfDiv y (bfAdd (bfOfInt 2) y))) 1

/-- ln x for x > 0. -/
def bfLog (x : BF) : BF :=
  let k : Int := (Nat.log2 x.m.natAbs : Int) + x.e
  let y := bfScale x (-k)
  let big := decide (bfFloor (bfScale (bfMul y y) (-1)) ≥ 1)
  let k' := if big then k + 1 else k
  let y' := if big then bfScale y (-1) else y
  bfAdd (bfMul (bfOfInt k') bfLn2)
    (bfScale (bfAtanh (bfDiv (bfSub y' (bfOfInt 1)) (bfAdd y' (bfOfInt 1)))) 1)

/-- σ(x) = 1/(1 + e^(-x)), precise on both sides. -/
def bfSigmoid (x : BF) : BF :=
  if x.m < 0 then let t := bfExp x; bfDiv t (bfAdd (bfOfInt 1) t)
  else bfDiv (bfOfInt 1) (bfAdd (bfOfInt 1) (bfExp (bfNeg x)))

def gaussSeries : Nat → Nat → BF → BF → BF → BF
  | 0, _, _, _, acc => acc
  | fuel + 1, n, x2, t, acc =>
    if t.m == 0 || (Nat.log2 t.m.natAbs : Int) + t.e < -(bfPrec : Int) then acc
    else let t' := bfDiv (bfMul t x2) (bfOfInt (2 * n + 1)); gaussSeries fuel (n + 1) x2 t' (bfAdd acc t')

/-- φ(x), the standard normal density. -/
def bfDensity (x : BF) : BF :=
  bfDiv (bfExp (bfScale (bfNeg (bfMul x x)) (-1))) (bfSqrt (bfScale bfPi 1))

/-- Φ(x), the standard normal distribution function; for |x| > 16 a value on the right side of every rounding. -/
def bfPhi (x : BF) : BF :=
  if (Nat.log2 x.m.natAbs : Int) + x.e ≥ 4 && x.m != 0 then
    (if x.m < 0 then ⟨1, -400⟩ else bfSub (bfOfInt 1) ⟨1, -400⟩)
  else bfAdd ⟨1, -1⟩ (bfMul (bfDensity x) (gaussSeries 2500 1 (bfMul x x) x x))

/-- A finite nonzero exact value as a big float. -/
def bfOfNum : Num → BF
  | .fin n m e => ⟨if n then -(m : Int) else m, e⟩
  | _ => ⟨0, 0⟩

/-- A big float rounded once to FP32; a zero takes the given sign. -/
def bfRound (neg0 : Bool) (x : BF) : F32 :=
  enc32 (.fin (if x.m == 0 then neg0 else decide (x.m < 0)) x.m.natAbs x.e)

/-! ### Activation functions (R146, R147) -/

/-- 2u = 2c(x + 0.044715 x^3) of the tanh form of GELU. -/
def gelu2u (x : BF) : BF :=
  bfScale (bfMul (bfSqrt (bfDiv (bfOfInt 2) bfPi))
    (bfAdd x (bfDiv (bfMul (bfOfInt 44715) (bfMul x (bfMul x x))) (bfOfInt 1000000)))) 1

/-- d(2u)/dx. -/
def gelu2u' (x : BF) : BF :=
  bfScale (bfMul (bfSqrt (bfDiv (bfOfInt 2) bfPi))
    (bfAdd (bfOfInt 1) (bfDiv (bfMul (bfOfInt 134145) (bfMul x x)) (bfOfInt 1000000)))) 1

/-- The base function f of R146 as a correctly rounded FP32 value (R147). -/
def actF (fn : Nat) (x : F32) : F32 :=
  match fn, dec32 x with
  | _, .nan => enc32 .nan
  | 0x00, v => enc32 v
  | 0x01, .inf n => if n then f32zero else x
  | 0x01, .fin n m _ => if n || m == 0 then f32zero else x
  | 0x02, .inf n => if n then f32zero else x
  | 0x02, .fin n m e => if n || m == 0 then f32zero else enc32 (.fin false (m * m) (e + e))
  | 0x03, .inf n => if n then 0x80000000#32 else x
  | 0x04, .inf n => if n then 0x80000000#32 else x
  | 0x05, .inf n => if n then 0x80000000#32 else x
  | 0x06, .inf n => if n then f32zero else f32one
  | 0x07, .inf n => if n then f32neg f32one else f32one
  | 0x08, .inf n => if n then f32zero else x
  | k, .fin n m e =>
    if m == 0 then
      (if k == 0x06 then enc32 (.fin false 1 (-1))
       else if k == 0x08 then bfRound false bfLn2
       else enc32 (.fin n 0 0))
    else
      let y : BF := ⟨if n then -(m : Int) else m, e⟩
      let v := match k with
        | 0x03 => bfMul y (bfSigmoid (gelu2u y))
        | 0x04 => bfMul y (bfPhi y)
        | 0x05 => bfMul y (bfSigmoid y)
        | 0x06 => bfSigmoid y
        | 0x07 =>
          let t := bfExp (bfScale ⟨-(m : Int), e⟩ 1)
          let r := bfDiv (bfSub (bfOfInt 1) t) (bfAdd (bfOfInt 1) t)
          if n then bfNeg r else r
        | 0x08 => if n then bfLog1p (bfExp y) else bfAdd y (bfLog1p (bfExp (bfNeg y)))
        | _ => y
      bfRound (n && !(k == 0x06 || k == 0x08)) v
  | _, v => enc32 v

/-- The derivative f' of R146 as a correctly rounded FP32 value (R147). -/
def actF' (fn : Nat) (x : F32) : F32 :=
  match fn, dec32 x with
  | _, .nan => enc32 .nan
  | 0x00, _ => f32one
  | 0x01, .inf n => if n then f32zero else f32one
  | 0x01, .fin n m _ => if n || m == 0 then f32zero else f32one
  | 0x02, .inf n => if n then f32zero else x
  | 0x02, .fin n m e => if n || m == 0 then f32zero else enc32 (.fin false m (e + 1))
  | 0x03, .inf n => if n then 0x80000000#32 else f32one
  | 0x04, .inf n => if n then 0x80000000#32 else f32one
  | 0x05, .inf n => if n then 0x80000000#32 else f32one
  | 0x08, .inf n => if n then f32zero else f32one
  | _, .inf _ => f32zero
  | k, .fin n m e =>
    if m == 0 then
      (if k == 0x06 then enc32 (.fin false 1 (-2)) else if k == 0x07 then f32one else enc32 (.fin false 1 (-1)))
    else
      let y : BF := ⟨if n then -(m : Int) else m, e⟩
      let far := decide ((Nat.log2 m : Int) + e ≥ 12)
      let v := match k with
        | 0x03 =>
          if far then (if n then ⟨-1, -400⟩ else bfAdd (bfOfInt 1) ⟨1, -400⟩)
          else
            let u := gelu2u y
            let s := bfSigmoid u
            bfMul s (bfAdd (bfOfInt 1) (bfMul (bfMul y (bfSigmoid (bfNeg u))) (gelu2u' y)))
        | 0x04 =>
          if far then (if n then ⟨-1, -400⟩ else bfAdd (bfOfInt 1) ⟨1, -400⟩)
          else if (Nat.log2 m : Int) + e ≥ 4 then (if n then ⟨-1, -400⟩ else bfAdd (bfOfInt 1) ⟨1, -400⟩)
          else bfAdd (bfPhi y) (bfMul y (bfDensity y))
        | 0x05 =>
          if far then (if n then ⟨-1, -400⟩ else bfAdd (bfOfInt 1) ⟨1, -400⟩)
          else bfMul (bfSigmoid y) (bfAdd (bfOfInt 1) (bfMul y (bfSigmoid (bfNeg y))))
        | 0x06 => bfMul (bfSigmoid y) (bfSigmoid (bfNeg y))
        | 0x07 =>
          let t := bfExp (bfScale ⟨-(m : Int), e⟩ 1)
          let d := bfAdd (bfOfInt 1) t
          bfDiv (bfScale t 2) (bfMul d d)
        | 0x08 => bfSigmoid y
        | _ => bfOfInt 1
      bfRound false v

/-! ### Vector-engine functions (R164) -/

def numSqrt (x : Num) : F32 :=
  match x with
  | .nan => enc32 .nan
  | .inf n => if n then enc32 .nan else enc32 x
  | .fin n m e => if m == 0 then enc32 x else if n then enc32 .nan else bfRound false (bfSqrt ⟨m, e⟩)

def numRsqrt (x : Num) : F32 :=
  match x with
  | .nan => enc32 .nan
  | .inf n => if n then enc32 .nan else f32zero
  | .fin n m e =>
    if m == 0 then enc32 (.inf n) else if n then enc32 .nan
    else bfRound false (bfDiv (bfOfInt 1) (bfSqrt ⟨m, e⟩))

def numRecip (x : Num) : F32 :=
  match x with
  | .nan => enc32 .nan
  | .inf n => enc32 (.fin n 0 0)
  | .fin n m e => if m == 0 then enc32 (.inf n) else bfRound false (bfDiv (bfOfInt 1) ⟨if n then -(m : Int) else m, e⟩)

def numExp (x : Num) : F32 :=
  match x with
  | .nan => enc32 .nan
  | .inf n => if n then f32zero else enc32 x
  | .fin n m e => bfRound false (bfExp ⟨if n then -(m : Int) else m, e⟩)

def numLog (x : Num) : F32 :=
  match x with
  | .nan => enc32 .nan
  | .inf n => if n then enc32 .nan else enc32 x
  | .fin n m e => if m == 0 then enc32 (.inf true) else if n then enc32 .nan else bfRound false (bfLog ⟨m, e⟩)

def f32sqrt (x : F32) : F32 := numSqrt (dec32 x)
def f32rsqrt (x : F32) : F32 := numRsqrt (dec32 x)

/-- Larger of two exact values, NaN if either is NaN (R164). -/
def numMax (a b : Num) : Num :=
  match a, b with
  | .nan, _ => .nan
  | _, .nan => .nan
  | va, vb => if Num.lt va vb then vb else va

def numMin (a b : Num) : Num :=
  match a, b with
  | .nan, _ => .nan
  | _, .nan => .nan
  | va, vb => if Num.lt vb va then vb else va

/-- The high and low BF16 parts of an FP32 operand (R44), as exact values. -/
def splitHi (x : F32) : Num :=
  match dec32 x with
  | .fin _ _ _ => dec32 (x &&& 0xFFFF0000#32)
  | v => v

def splitLo (x : F32) : Num :=
  match dec32 x with
  | .fin n m e => fmtBF16.decode (fmtBF16.encode .rne true (Num.sub (.fin n m e) (splitHi x)))
  | _ => Num.zero

/-- Balanced pairwise tree in ascending order (R165). One round of pairing. -/
def pairUp (f : F32 → F32 → F32) : List F32 → List F32
  | a :: b :: r => f a b :: pairUp f r
  | l => l

def pairTree (f : F32 → F32 → F32) : Nat → List F32 → F32
  | 0, l => l.headD f32zero
  | n + 1, l => pairTree f n (pairUp f l)

end Sys2Proof
end

