-- ==== Sys2Proof/Machine/Operands.lean ====
section
/-! DEFINITION. Operand forms: instruction-word fields, block descriptors (R201 to R209), the bytes a block moves, and context windows. -/

namespace Sys2Proof.Machine

open Sys2Proof

/-! ### Instruction words (R251) -/

def wOpc (w : Nat) : Nat := w % 256
def wStrand (w : Nat) : Nat := bitsOf w 10 8
def wMark (w : Nat) : Bool := bitAt w 11
def wWen (w : Nat) : Bool := bitAt w 12
def wPen (w : Nat) : Bool := bitAt w 13
def wWpeg (w : Nat) : Peg := Fin.ofNat 256 (bitsOf w 23 16)
def wPpeg (w : Nat) : Peg := Fin.ofNat 256 (bitsOf w 31 24)

def slotAt (w hi lo : Nat) : Fin 32 := Fin.ofNat 32 (bitsOf w hi lo)
def arrAt (w hi lo : Nat) : Arr := Fin.ofNat 4 (bitsOf w hi lo)

/-- Signed reading of the low `n` bits. -/
def sext (n v : Nat) : Int := if v % 2 ^ n < 2 ^ (n - 1) then ((v % 2 ^ n : Nat) : Int) else ((v % 2 ^ n : Nat) : Int) - 2 ^ n

/-! ### Windows (R400) -/

def winBase (b : Block) (c : Ctx) (k : Nat) : Nat := 64 * getFld b (.schWin c (Fin.ofNat 8 k)) 0 20
def winSize (b : Block) (c : Ctx) (k : Nat) : Nat := 64 * getFld b (.schWin c (Fin.ofNat 8 k)) 32 21

/-- Offsets `[lo, lo + n)` of the region of window `k` lie in the window; an empty range names nothing. -/
def inWin (b : Block) (c : Ctx) (k lo n : Nat) : Bool :=
  n == 0 || (decide (winBase b c k ≤ lo) && decide (lo + n ≤ winBase b c k + winSize b c k))

def fixedEn (b : Block) (n : Arr) : Bool := getFld b .schFixed (8 * n.val) 1 == 1
def fixedCtx (b : Block) (n : Arr) : Nat := getFld b .schFixed (8 * n.val + 1) 4
def fixedSide (b : Block) (n : Arr) : Nat := getFld b .schFixed (8 * n.val + 5) 1

/-- Fixed mode reserves An for strand n of its context (R247). -/
def fixedOk (b : Block) (n : Arr) (c : Ctx) (s : Strand) : Bool :=
  !fixedEn b n || (fixedCtx b n == c.val && s.val == n.val)

/-- Size of the staging range that offsets of An run over (R15, R247). -/
def stagSpan (b : Block) (n : Arr) : Nat := if fixedEn b n then 0x2000000 else 0x4000000
/-- Flat address of a staging offset on the feeder side. -/
def feederAddr (b : Block) (n : Arr) (off : Nat) : Nat :=
  stagBase n + off + (if fixedEn b n && fixedSide b n == 1 then 0x2000000 else 0)
/-- Flat address of a staging offset on the load side. -/
def loadAddr (b : Block) (n : Arr) (off : Nat) : Nat :=
  stagBase n + off + (if fixedEn b n && fixedSide b n == 0 then 0x2000000 else 0)

/-- A stream's on-engine region (R211): window index, limit and flat address of an offset. -/
def regWin (r : Nat) : Nat := if r < 4 then r + 1 else if r == 4 then 5 else if r == 5 then 6 else 0
def regLimit (b : Block) (r : Nat) : Nat :=
  if r < 4 then stagSpan b (Fin.ofNat 4 r) else if r == 4 then regionSize 7 else if r == 5 then regionSize 8 else regionSize 9
def regAddr (b : Block) (r off : Nat) : Nat :=
  if r < 4 then loadAddr b (Fin.ofNat 4 r) off else if r == 4 then vecBase + off else if r == 5 then chnBase + off else cmdBase + off

/-! ### Block descriptors (R201, R202) -/

structure Desc where
  base : Nat
  typ : Nat
  ndim : Nat
  sbase : Nat
  stride : List Int
  ext : List Nat
  wlo : List Int
  whi : List Int
  perm : List Nat
  fillv : Nat
  chkEn : Bool
  chkCh : Chk
  seq : Nat
  next : Nat
  nextEn : Bool
  peerEn : Bool
  peer : Nat
  tagq : Nat
  deriving DecidableEq, Repr

/-- Descriptor `i` in the command and descriptor store. -/
def descWords (b : Block) (i : Nat) : List W64 := wordsOf 16 (sramBytes b (cmdBase + 128 * i) 128)

def wordN (ws : List W64) (i : Nat) : Nat := (ws.getD i 0#64).toNat

/-- Fields of a descriptor; a dimension at or above NDIM acts as extent 1 with window [0, 1). -/
def parseDesc (ws : List W64) : Desc :=
  let nd := bitsOf (wordN ws 0) 59 57
  let dims := List.range 5
  { base := bitsOf (wordN ws 0) 48 0, typ := bitsOf (wordN ws 0) 56 49, ndim := nd, sbase := bitsOf (wordN ws 1) 48 0
    stride := dims.map (fun d => if d < nd then sext 40 (bitsOf (wordN ws (2 + d)) 39 0) else 0)
    ext := dims.map (fun d => if d < nd then bitsOf (wordN ws (2 + d)) 63 40 else 1)
    wlo := dims.map (fun d => if d < nd then sext 25 (bitsOf (wordN ws (7 + d)) 24 0) else 0)
    whi := dims.map (fun d => if d < nd then sext 25 (bitsOf (wordN ws (7 + d)) 49 25) else 1)
    perm := dims.map (fun k => if k < nd then bitsOf (wordN ws 12) (3 * k + 2) (3 * k) else k)
    fillv := wordN ws 13, chkEn := bitAt (wordN ws 14) 0, chkCh := Fin.ofNat 4 (bitsOf (wordN ws 14) 2 1)
    seq := bitsOf (wordN ws 14) 63 32, next := bitsOf (wordN ws 15) 14 0, nextEn := bitAt (wordN ws 15) 15
    peerEn := bitAt (wordN ws 15) 16, peer := bitsOf (wordN ws 15) 28 17, tagq := bitsOf (wordN ws 15) 40 32 }

def Desc.strideAt (d : Desc) (i : Nat) : Int := d.stride.getD i 0
def Desc.extAt (d : Desc) (i : Nat) : Nat := d.ext.getD i 1
def Desc.wloAt (d : Desc) (i : Nat) : Int := d.wlo.getD i 0
def Desc.whiAt (d : Desc) (i : Nat) : Int := d.whi.getD i 1
def Desc.permAt (d : Desc) (k : Nat) : Nat := d.perm.getD k k
/-- Window count of descriptor dimension `i`. -/
def Desc.cnt (d : Desc) (i : Nat) : Nat := (d.whiAt i - d.wloAt i).toNat
/-- Count of on-engine dimension `k` (R208). -/
def Desc.c (d : Desc) (k : Nat) : Nat := d.cnt (d.permAt k)
def Desc.isMX (d : Desc) : Bool := typeIsMX d.typ
def Desc.bits (d : Desc) : Nat := typeBits d.typ
/-- On-engine dimension that holds descriptor dimension `i`. -/
def Desc.place (d : Desc) (i : Nat) : Nat := (d.perm.findIdx (· == i))

/-- The cases of R202; `asRead` for a descriptor used as a read source. -/
def malformed (ws : List W64) (asRead : Bool) : Bool :=
  let d := parseDesc ws
  let esz : Int := (d.bits / 8 : Nat)
  let live := List.range d.ndim
  bitsOf (wordN ws 0) 63 60 != 0 || bitsOf (wordN ws 1) 63 49 != 0
  || (List.range 5).any (fun i => bitsOf (wordN ws (7 + i)) 63 50 != 0 && i < d.ndim)
  || bitsOf (wordN ws 12) 63 15 != 0 || bitsOf (wordN ws 14) 31 3 != 0
  || bitsOf (wordN ws 15) 31 29 != 0 || bitsOf (wordN ws 15) 63 41 != 0
  || d.ndim == 0 || d.ndim > 5
  || live.any (fun i => decide (d.whiAt i ≤ d.wloAt i))
  || live.any (fun i => !(d.perm.take d.ndim).contains i)
  || !typeValid d.typ
  || (if d.isMX then
        live.any (fun i => decide (1 ≤ i) && d.strideAt i % (mxBlockBytes d.typ : Nat) != 0)
        || d.wloAt 0 % 32 != 0
        || (d.whiAt 0 % 32 != 0 && d.whiAt 0 != (d.extAt 0 : Nat))
        || decide (1 < d.place 0)
      else
        (d.base : Int) % esz != 0 || live.any (fun i => d.strideAt i % esz != 0))
  || (asRead && d.peerEn)

/-! ### Positions and addresses (R204, R205) -/

/-- Window position number `k` in request order: dimension 0 fastest (R207). -/
def Desc.pos (d : Desc) (k : Nat) : List Int :=
  let c0 := d.cnt 0; let c1 := d.cnt 1; let c2 := d.cnt 2; let c3 := d.cnt 3
  [d.wloAt 0 + (k % c0 : Nat), d.wloAt 1 + (k / c0 % c1 : Nat), d.wloAt 2 + (k / (c0 * c1) % c2 : Nat),
   d.wloAt 3 + (k / (c0 * c1 * c2) % c3 : Nat), d.wloAt 4 + (k / (c0 * c1 * c2 * c3) : Nat)]

def Desc.count (d : Desc) : Nat := d.cnt 0 * d.cnt 1 * d.cnt 2 * d.cnt 3 * d.cnt 4

def Desc.inBounds (d : Desc) (p : List Int) : Bool :=
  (List.range 5).all (fun i => decide (0 ≤ p.getD i 0) && decide (p.getD i 0 < (d.extAt i : Nat)))

def Desc.inWindow (d : Desc) (p : List Int) : Bool :=
  (List.range 5).all (fun i => decide (d.wloAt i ≤ p.getD i 0) && decide (p.getD i 0 < d.whiAt i))

/-- Byte address of an element, or of the 32-element block that holds it for an MX type (R204). -/
def Desc.addr (d : Desc) (p : List Int) : Int :=
  if d.isMX then
    (List.range 4).foldl (fun a i => a + p.getD (i + 1) 0 * d.strideAt (i + 1)) (d.base : Int)
      + p.getD 0 0 / 32 * (mxBlockBytes d.typ : Nat)
  else (List.range 5).foldl (fun a i => a + p.getD i 0 * d.strideAt i) (d.base : Int)

/-- Address of the scale byte of the block at byte address `a`. -/
def Desc.scaleAddr (d : Desc) (a : Int) : Int := (d.sbase : Int) + (a - d.base) / (mxBlockBytes d.typ : Nat)

/-- An address outside the 49-bit space (R204, R223). -/
def outOf49 (a : Int) : Bool := decide (a < 0) || decide ((2 : Int) ^ 49 ≤ a)

/-- A byte address as a stream holds it: from 2^49 on it lies outside the space, and its low 49 bits are those of the address. -/
def va49 (a : Int) : Nat := if outOf49 a then 2 ^ 49 + (a % 2 ^ 49).toNat else a.toNat

/-! ### The on-engine side (R208, R209) -/

/-- How a block lies on the engine: flat bit base, flat scale byte base, elements per line; or one element per 8 bytes of a wheel image (COPY). -/
structure Box where
  off : Nat
  soff : Nat
  pitch : Nat
  image : Bool
  deriving DecidableEq, Repr

def Desc.q (d : Desc) (p : List Int) (k : Nat) : Nat := (p.getD (d.permAt k) 0 - d.wloAt (d.permAt k)).toNat

/-- Line number of a position (R208). -/
def Desc.lineNo (d : Desc) (p : List Int) : Nat :=
  d.q p 1 + d.c 1 * (d.q p 2 + d.c 2 * (d.q p 3 + d.c 3 * d.q p 4))

/-- Engine bit address of an element. -/
def Desc.engBit (d : Desc) (x : Box) (p : List Int) : Nat :=
  let i := d.lineNo p * x.pitch + d.q p 0
  if x.image then 8 * (x.off + 8 * (d.lineNo p * d.c 0 + d.q p 0)) else 8 * x.off + i * d.bits

/-- Engine address of the scale byte of the block that starts at `p` (R209). -/
def Desc.engScale (d : Desc) (x : Box) (p : List Int) : Nat :=
  if x.image then x.soff + (d.lineNo p * d.c 0 + d.q p 0)
  else if d.permAt 0 == 0 then x.soff + d.lineNo p * (x.pitch / 32) + d.q p 0 / 32
  else
    let g := d.q p 1 / 32 + (d.c 1 + 31) / 32 * (d.q p 2 + d.c 2 * (d.q p 3 + d.c 3 * d.q p 4))
    x.soff + g * x.pitch + d.q p 0

/-- The position `i` further along dimension 0. -/
def shift0 (p : List Int) (i : Nat) : List Int := (p.getD 0 0 + (i : Nat)) :: p.drop 1

/-- Engine bit of bit `j` of byte `i` of the MX block at `p`; none beyond the window or beyond EXT. -/
def Desc.mxBit (d : Desc) (x : Box) (p : List Int) (i j : Nat) : Option Nat :=
  let k := (8 * i + j) / d.bits
  let q := shift0 p k
  if d.inWindow q && decide (q.getD 0 0 < (d.extAt 0 : Nat)) then some (d.engBit x q + (8 * i + j) % d.bits) else none

/-- Positions of the window that start an MX block, in request order. -/
def Desc.blocks (d : Desc) : List (List Int) :=
  ((List.range d.count).map d.pos).filter (fun p => p.getD 0 0 % 32 == 0)

/-- The bytes of a block in request order (R207): element bytes, then scale bytes in ascending address order; in-bounds positions only. -/
def Desc.segs (d : Desc) (x : Box) : List Seg :=
  if d.isMX then
    let bl := d.blocks.filter d.inBounds
    let el := bl.flatMap (fun p => (List.range (mxBlockBytes d.typ)).map (fun i =>
      (⟨va49 (d.addr p + (i : Nat)), .bits ((List.range 8).map (d.mxBit x p i))⟩ : Seg)))
    let sc := bl.map (fun p => (⟨va49 (d.scaleAddr (d.addr p)), .scale (d.engScale x p)⟩ : Seg))
    el ++ sc.mergeSort (fun u v => decide (u.va ≤ v.va))
  else
    (((List.range d.count).map d.pos).filter d.inBounds).flatMap (fun p => (List.range (d.bits / 8)).map (fun i =>
      (⟨va49 (d.addr p + (i : Nat)), .mem (d.engBit x p / 8 + i)⟩ : Seg)))

/-- What a read delivers without a request (R205, R206): engine bit address, width and value of each. -/
def Desc.fills (d : Desc) (x : Box) : List (Nat × Nat × Nat) :=
  if d.isMX then
    let out := (d.blocks.filter (fun p => !d.inBounds p)).flatMap (fun p =>
      ((List.range 32).filter (fun i => d.inWindow (shift0 p i))).map (fun i => (d.engBit x (shift0 p i), d.bits, d.fillv % 2 ^ d.bits))
        ++ [(8 * d.engScale x p, 8, bitsOf d.fillv 39 32)])
    let part := (d.blocks.filter d.inBounds).flatMap (fun p =>
      ((List.range 32).filter (fun i => d.inWindow (shift0 p i) && decide ((d.extAt 0 : Int) ≤ p.getD 0 0 + (i : Nat)))).map
        (fun i => (d.engBit x (shift0 p i), d.bits, 0)))
    out ++ part
  else
    (((List.range d.count).map d.pos).filter (fun p => !d.inBounds p)).map (fun p => (d.engBit x p, d.bits, d.fillv % 2 ^ d.bits))

/-- Constant bytes that FILL writes (R215): the pattern at every in-bounds window position, the fill scale at every block; a
last MX block holds +0 beyond EXT (R205). -/
def Desc.fillSegs (d : Desc) : List Seg :=
  if d.isMX then
    let bl := d.blocks.filter d.inBounds
    let img := fun (p : List Int) => (List.range 32).foldl (fun a i =>
      if decide (p.getD 0 0 + (i : Nat) < (d.extAt 0 : Nat)) && d.inWindow (shift0 p i) then a + (d.fillv % 2 ^ d.bits) * 2 ^ (i * d.bits) else a) 0
    let el := bl.flatMap (fun p => (leBytes (mxBlockBytes d.typ) (img p)).mapIdx (fun i x => (⟨va49 (d.addr p + (i : Nat)), .const x⟩ : Seg)))
    let sc := bl.map (fun p => (⟨va49 (d.scaleAddr (d.addr p)), .const (BitVec.ofNat 8 (bitsOf d.fillv 39 32))⟩ : Seg))
    el ++ sc.mergeSort (fun u v => decide (u.va ≤ v.va))
  else
    (((List.range d.count).map d.pos).filter d.inBounds).flatMap (fun p =>
      (leBytes (d.bits / 8) (d.fillv % 2 ^ d.bits)).mapIdx (fun i x => (⟨va49 (d.addr p + (i : Nat)), .const x⟩ : Seg)))

/-- Footprint of a block: lowest and highest address of its in-bounds window elements and scale bytes (R214). -/
def footprint (segs : List Seg) : Option (Nat × Nat) :=
  match segs with
  | [] => none
  | s :: r => some (r.foldl (fun (p : Nat × Nat) t => (min p.1 t.va, max p.2 t.va)) (s.va, s.va))

/-! ### Bits and bytes on the engine -/

def setBit1 (m : Mem) (a : Nat) (v : Bool) : Mem :=
  let x := memGet m (a / 8)
  memPut m (a / 8) (if v then x ||| BitVec.ofNat 8 (2 ^ (a % 8)) else x &&& ~~~(BitVec.ofNat 8 (2 ^ (a % 8))))

def getBit1 (m : Mem) (a : Nat) : Bool := bitAt (memGet m (a / 8)).toNat (a % 8)

/-- `n` bits from bit address `a`. -/
def getBits (m : Mem) (a n : Nat) : Nat := leNat (memBytes m (a / 8) ((a % 8 + n + 7) / 8)) >>> (a % 8) % 2 ^ n

def setBits (m : Mem) (a n v : Nat) : Mem :=
  if a % 8 == 0 && n % 8 == 0 then memPutBytes m (a / 8) (leBytes (n / 8) v)
  else (List.range n).foldl (fun m i => setBit1 m (a + i) (bitAt v i)) m

/-- The byte a reference reads as. -/
def getRef (m : Mem) : ByteRef → Byte
  | .mem a | .scale a => memGet m a
  | .const x => x
  | .bits l => (l.mapIdx (fun i o => match o with
      | some a => if getBit1 m a then (BitVec.ofNat 8 (2 ^ i)) else 0#8
      | none => 0#8)).foldl (fun acc x => acc ||| x) 0#8

def putRef (m : Mem) (r : ByteRef) (x : Byte) : Mem :=
  match r with
  | .mem a | .scale a => memPut m a x
  | .const _ => m
  | .bits l => (l.zipIdx).foldl (fun m p => match p.1 with | some a => setBit1 m a (bitAt x.toNat p.2) | none => m) m

def refAddrs : ByteRef → List Nat
  | .mem a | .scale a => [a]
  | .const _ => []
  | .bits l => (l.filterMap (fun o => o.map (· / 8))).eraseDups

/-- Reads of engine bytes meet ECC (R16): corrected errors are written back; says whether an uncorrectable word was met. -/
def eccTouch (b : Block) (addrs : List Nat) : Block × Bool :=
  if b.ecc1.isEmpty && b.ecc2.isEmpty then (countSram b (addrs.headD 0) addrs.length, false)
  else ((addrs.map (· / 8)).eraseDups).foldl (fun (p : Block × Bool) w =>
    let (b, bad) := eccRead p.1 (8 * w) 8 false
    (b, p.2 || bad)) (b, false)

/-- Delivery of bytes to the engine: words written whole get fresh ECC, words written in part keep an uncorrectable error (R16). -/
def scatter (b : Block) (l : List (ByteRef × Byte)) : Block × Bool :=
  let addrs := l.flatMap (fun p => refAddrs p.1)
  let full := fun w => (List.range 8).all (fun i => addrs.contains (8 * w + i))
  let b := { b with ecc1 := b.ecc1.filter (fun w => !full w), ecc2 := b.ecc2.filter (fun w => !full w) }
  let (b, bad) := eccTouch b (addrs.filter (fun a => !full (a / 8)))
  let keep := fun r => (refAddrs r).any (fun a => b.ecc2.contains (a / 8))
  ({ b with sram := l.foldl (fun m p => if keep p.1 then m else putRef m p.1 p.2) b.sram }, bad)

/-! ### Laying a stream's blocks out (R211, R212) -/

/-- PITCH in elements: 0 acts as c0, rounded up to 32 for MX types (R209, R211). -/
def pitchOf (d : Desc) (pitch : Nat) : Nat :=
  if pitch == 0 then (if d.isMX then (d.c 0 + 31) / 32 * 32 else d.c 0) else pitch

def Desc.lines (d : Desc) : Nat := d.c 1 * d.c 2 * d.c 3 * d.c 4
/-- On-engine element bytes and scale bytes of a block. -/
def Desc.elemBytes (d : Desc) (pitch : Nat) : Nat := (((d.lines - 1) * pitch + d.c 0) * d.bits + 7) / 8
def Desc.scaleBytes (d : Desc) (pitch : Nat) : Nat :=
  if !d.isMX then 0
  else if d.permAt 0 == 0 then (d.lines - 1) * (pitch / 32) + (d.c 0 + 31) / 32
  else ((d.c 1 + 31) / 32 * (d.c 2 * d.c 3 * d.c 4) - 1) * pitch + d.c 0

def up64 (n : Nat) : Nat := (n + 63) / 64 * 64

/-- The on-engine faults of one block (R210, R212): none when the block may stand there. -/
def blockOk (b : Block) (c : Ctx) (d : Desc) (region off soff pitch : Nat) : Bool :=
  let p := pitchOf d pitch
  decide (d.c 0 ≤ p) && !(d.isMX && pitch % 32 != 0)
  && !(d.permAt 0 != 0 && decide (4 ≤ region))
  && decide (off + d.elemBytes p ≤ regLimit b region) && inWin b c (regWin region) off (d.elemBytes p)
  && (!d.isMX || (decide (soff + d.scaleBytes p ≤ regLimit b region) && inWin b c (regWin region) soff (d.scaleBytes p)))

end Sys2Proof.Machine
end

