-- ==== Sys2Proof/Machine/Cells.lean ====
section
/-! DEFINITION. The arithmetic of a cell (R42 to R54, R87 to R95): operand elements, products, leaves, the pairwise stack, segments
and totals, and the checksum edge of R74. -/

namespace Sys2Proof.Machine

open Sys2Proof

/-! ### Tile positions (R71) -/

/-- Saggar height, width and number, and grid columns, of a wall mode. -/
def wallH (m : Nat) : Nat := match m with | 0 => 512 | 1 => 256 | 2 => 256 | _ => 128
def wallW (m : Nat) : Nat := match m with | 0 => 512 | 1 => 512 | 2 => 256 | _ => 128
def wallCount (m : Nat) : Nat := match m with | 0 => 1 | 1 => 2 | 2 => 4 | _ => 16

/-! ### Operands (R40, R58) -/

/-- K-rows per input cycle of an operand type. -/
def typeRows (t : Nat) : Nat := if typeBits t == 8 then 2 else if typeBits t ≤ 6 then 4 else 1
/-- K-rows per input cycle of a pair: the lower rate (R40). -/
def rowsPerCycle (ta tb : Nat) : Nat := min (typeRows ta) (typeRows tb)
/-- Split steps of a K-row (R44). -/
def splitSteps (t : Nat) : Nat := if t == 0x00 || t == 0x0C then 3 else 1
/-- Sub-passes of a pass (R45). -/
def subPasses (t : Nat) : Nat := if typeIsComplex t then 3 else 1

/-- Fields of a panel reference (R58). -/
def refPanel (r : W64) : Nat := bitsOf r.toNat 25 0
def refScale (r : W64) : Nat := 64 * bitsOf r.toNat 51 32
def refBkdir (r : W64) : Bool := bitAt r.toNat 63
/-- Bytes of a panel of `k` lines of `e` elements, and of its scale panel. -/
def panelBytes (t k e : Nat) : Nat := k * e * typeBits t / 8
def scalePanelBytes (t k e : Nat) (bkdir : Bool) : Nat :=
  if !typeIsMX t then 0 else if bkdir then (k + 31) / 32 * e else k * (e / 32)

/-- Code and scale of element `i` of line `k` of a panel whose staging range starts at flat address `base`. -/
def panelCode (m : Mem) (base : Nat) (r : W64) (t e k i : Nat) : Nat × Nat :=
  let code := getBits m (8 * (base + refPanel r) + (k * e + i) * typeBits t) (typeBits t)
  let sa := if refBkdir r then k / 32 * e + i else k * (e / 32) + i / 32
  (code, if typeIsMX t then (memGet m (base + refScale r + sa)).toNat else 127)

/-- Real or imaginary half of a complex code (R45: the real part lies lower). -/
def complexHalf (t code : Nat) (im : Bool) : Nat :=
  let n := typeBits t / 2
  if im then code / 2 ^ n % 2 ^ n else code % 2 ^ n

/-- Real type of a complex type's halves. -/
def halfType (t : Nat) : Nat := if t == 0x0C then 0x00 else if t == 0x0D then 0x01 else t

/-- The operand that sub-pass `sub` (0 to 2) presents of an element (R45): a, b, or a + b rounded once; a real type as it is. -/
def operandCode (t code sub : Nat) : Nat :=
  if !typeIsComplex t then code
  else
    let re := complexHalf t code false
    let im := complexHalf t code true
    if sub == 0 then re else if sub == 1 then im
    else
      let f := typeFmt t
      f.encode .rne true (Num.add (f.decode re) (f.decode im))

/-- The exact value that split step `st` takes of an operand (R42, R44); `first` for A. Steps: lo·hi, hi·lo, hi·hi. -/
def operandNum (t code scale sub st : Nat) (first : Bool) : Num :=
  let c := operandCode t code sub
  let h := halfType t
  if h == 0x00 then
    let x : F32 := BitVec.ofNat 32 c
    if (st == 0 && first) || (st == 1 && !first) then splitLo x else splitHi x
  else decodeElem h c scale

/-! ### Leaf additions (R87, R46 to R48, R54, R95) -/

/-- A DS64 pair plus an exact product (R90, R95). -/
def dsAddExact (d : W64) (p : Num) : W64 :=
  match dsVal d, p with
  | .fin n m e, .fin k q z =>
    dsOfExact (Num.add (.fin n m e) (.fin k q z))
      (m == 0 && q == 0 && (dec32 (dsHi d)).isNeg && k)
  | v, p => dsMk (enc32 (Num.add v p)) f32zero

/-- Arithmetic of a pass: leaf length, mode (0 native, 1 compensated, 2 P1), stochastic rounding, integer kind, seed and pass number. -/
structure CellCfg where
  leaf : Nat
  mode : Nat
  stoch : Bool
  integer : Bool
  seed : W64
  passNum : Nat
  deriving DecidableEq, Repr

def leafLen (code : Nat) : Nat := match code with | 0 => 256 | 1 => 64 | 2 => 128 | _ => 192

/-- One rounding of a leaf addition or fold: RNE, or stochastic with draw `d` at the element's place (R48). -/
def leafRnd (g : CellCfg) (bank row col d : Nat) : Rnd :=
  if g.stoch then .stoch (draw16 (drawKey g.seed g.passNum bank row col) d) else .rne

/-- A signed exact product enters a bank of a cell; `row`, `col` are its tile coordinates and `d` the draw index. -/
def cellAdd (g : CellCfg) (bank row col d : Nat) (x : Cell) (p : Num) : Cell :=
  if g.integer then
    (match p with
     | .fin n m e => { x with acc := x.acc + BitVec.ofInt 32 (let v : Int := (dyNum m e : Nat); if n then -v else v) }
     | _ => x)
  else if g.mode == 2 then
    { x with leaf := BitVec.ofNat 32 (fmtP20.encode .rne false (Num.add (fmtP20.decode x.leaf.toNat) p)) }
  else if g.mode == 1 then
    let q := dsAddExact (dsMk x.leaf x.leafLo) p
    { x with leaf := dsHi q, leafLo := dsLo q }
  else { x with leaf := enc32r (leafRnd g bank row col d) (Num.add (dec32 x.leaf) p) }

/-- P1: the 20-bit register goes into the FP32 accumulator after every eighth product and at the end (R54). -/
def p1Flush (x : Cell) : Cell :=
  { x with acc := enc32 (Num.add (dec32 x.acc) (fmtP20.decode x.leaf.toNat)), leaf := f32zero }

/-- A segment result enters the total (R90, R91). -/
def segmentResult (x : Cell) (v : F32) : Cell := { x with total := dsAdd x.total (dsOfF32 v) }

/-- A leaf value enters the pairwise stack (R88). -/
def stackPush (x : Cell) (v : F32) : Cell :=
  match x.s0 with
  | none => { x with s0 := some v }
  | some a =>
    let v := f32add a v
    let x := { x with s0 := none }
    match x.s1 with
    | none => { x with s1 := some v }
    | some a =>
      let v := f32add a v
      let x := { x with s1 := none }
      match x.s2 with
      | none => { x with s2 := some v }
      | some a => segmentResult { x with s2 := none } (f32add a v)

/-- A leaf ends: its value (folded once in compensated mode, R95) enters the stack and the leaf returns to +0. -/
def leafEnd (g : CellCfg) (bank row col d : Nat) (x : Cell) : Cell :=
  let v := if g.mode == 1 then enc32r (leafRnd g bank row col d) (dsVal (dsMk x.leaf x.leafLo)) else x.leaf
  stackPush { x with leaf := f32zero, leafLo := f32zero } v

/-- The stack collapses at the end of a pass (R88). -/
def collapse (x : Cell) : Cell :=
  let join := fun (v : Option F32) (s : Option F32) => match v, s with
    | none, s => s
    | some v, none => some v
    | some v, some a => some (f32add a v)
  match join (join (join none x.s0) x.s1) x.s2 with
  | none => x
  | some v => segmentResult { x with s0 := none, s1 := none, s2 := none } v

/-- An integer segment ends: its INT32 sum enters the 64-bit total (R43). -/
def intSegEnd (x : Cell) : Cell := { x with total := x.total + x.acc.signExtend 64, acc := 0#32 }

/-- A P1 pass ends: its FP32 accumulator enters the total in FP32 (R54). -/
def p1End (x : Cell) : Cell := { x with total := dsOfF32 (f32add (dsHi x.total) x.acc), acc := 0#32 }

def cellGet (cs : Cells) (k : Nat) : Cell := spGet Cell.zero cs k
def cellPut (cs : Cells) (k : Nat) (x : Cell) : Cells := spPut Cell.zero cs k x

/-- Every cell of the M × N part of a tile of width `w`, changed by `f row col`. -/
def mapTile (cs : Cells) (w m n : Nat) (f : Nat → Nat → Cell → Cell) : Cells :=
  (List.range m).foldl (fun cs i => (List.range n).foldl (fun cs j => cellPut cs (i * w + j) (f i j (cellGet cs (i * w + j)))) cs) cs

/-! ### The checksum edge (R74) -/

/-- FP32 sum in ascending order (log 11). -/
def sumF32 (l : List F32) : F32 := l.foldl f32add f32zero

/-- Low 32 bits of an edge value as FP32. -/
def eF (x : W64) : F32 := x.setWidth 32
/-- An FP32 value held as an edge value. -/
def eOf (x : F32) : W64 := x.setWidth 64

/-- Value of an operand at the edge: FP32, or a 64-bit integer of an INT8 pass. -/
def edgeVal (integer : Bool) (v : Num) : W64 :=
  if integer then (match v with | .fin n m e => BitVec.ofInt 64 (let k : Int := (dyNum m e : Nat); if n then -k else k) | _ => 0#64)
  else eOf (enc32 v)

def edgeSum (integer : Bool) (l : List W64) : W64 := if integer then l.foldl (· + ·) 0#64 else eOf (sumF32 (l.map eF))
def edgeAbs (integer : Bool) (x : W64) : W64 := if integer then (if x.toInt < 0 then -x else x) else eOf (f32abs (eF x))

/-- Adds `s * x` to an edge accumulator, or subtracts it; product and sum each rounded once; exact integers for INT8. -/
def edgeAdd (integer neg : Bool) (acc s x : W64) : W64 :=
  if integer then (if neg then acc - s * x else acc + s * x)
  else
    let p := f32mul (eF s) (eF x)
    eOf (if neg then f32sub (eF acc) p else f32add (eF acc) p)

end Sys2Proof.Machine
end

