-- ==== Sys2Proof/Machine/Streams.lean ====
section
/-! DEFINITION. Streams, tags, regulators, translation (09) and the M-port events (16): how a stream's bytes become requests and
what responses, walks, timeouts and invalidations do. -/

namespace Sys2Proof.Machine

open Sys2Proof

/-- A serial number for an entry, a stream or a transfer. -/
def fresh (b : Block) : Nat × Block := (b.lastDispatch + 1, { b with lastDispatch := b.lastDispatch + 1 })

def findStream (b : Block) (i : Nat) : Option Stream := b.streams.find? (fun x => x.id == i)
def modStream (b : Block) (i : Nat) (f : Stream → Stream) : Block :=
  { b with streams := b.streams.map (fun x => if x.id == i then f x else x) }
def dropStream (b : Block) (i : Nat) : Block := { b with streams := b.streams.filter (fun x => x.id != i) }

/-- Requests of a stream that are out: M-port requests and remote WRITEs. -/
def streamOut (b : Block) (i : Nat) : Nat :=
  (b.mp.filter (fun r => r.stream == i && !r.zombie)).length
    + (b.fabTags.filter (fun t => !t.zombie && (match t.kind with | .write j _ => j == i | _ => false))).length

/-- Nothing of the stream is left to issue or to turn. -/
def Stream.empty_ (x : Stream) : Bool := x.todo.isEmpty && x.next.isNone && x.later.isEmpty && x.wq.isEmpty

/-- Every byte of the stream has moved. -/
def streamDone (b : Block) (i : Nat) : Bool :=
  match findStream b i with
  | some x => x.empty_ && streamOut b i == 0 && x.halted.isNone && x.feed.isNone
  | none => true

/-- The streams of an entry. -/
def entryStreams (b : Block) (e : Nat) : List Stream := b.streams.filter (fun x => decide (x.owner = .entry e))
def entryStreamsDone (b : Block) (e : Nat) : Bool := (entryStreams b e).all (fun x => streamDone b x.id)

/-- UNIT code of R322 for the queue an entry stands in. -/
def EUnit.code : EUnit → Nat
  | .issue => 0 | .load => 1 | .store => 2 | .short => 3 | .array => 4 | .kiln => 6 | .vec => 7 | .line => 8 | .chain => 9
  | .chk _ => 0xB

/-- The site of a fault that a stream meets at `va` (R222, R377). -/
def streamSite (b : Block) (x : Stream) (va : Nat) : Site :=
  let t : Site := { ctx := some x.ctx, gen := x.gen, obj := some (1, x.tail.getD x.desc), addr := some va, write := x.write }
  match x.owner with
  | .entry e => (match findEntry b e with
      | some en => { t with strand := some en.strand, pos := some (en.pos, en.word.toNat % 256), unit := en.eunit.code }
      | none => { t with unit := if x.write then 2 else 1 })
  | .job _ => { t with unit := 7 }
  | .xfer _ => { t with unit := 6 }
  | .log => { t with unit := 0 }
  | .inbound _ => { t with unit := 0xA }

/-- A stream stops: it issues nothing more and folds nothing more, and its channel is free (R223, log 16). Its instruction does not complete;
a spill is given up and its tile stays in the kiln. -/
def stopStream (b : Block) (x : Stream) : Block :=
  let b := match (findStream b x.id).bind (·.feed) with
    | some f => if f.on then chkRelease b f.ch else b
    | none => b
  let b := modStream b x.id (fun x => { x with todo := [], next := none, feed := none, later := [], wq := [] })
  match x.owner with
  | .entry e => modEntry { b with line := b.line.filter (fun l => l.entry != e) } e (fun y => { y with phase := 255 })
  | .xfer k =>
    let b := dropStream b x.id
    match b.xfers.find? (fun y => y.id == k) with
    | some y =>
      if y.kind = .spill then
        { b with xfers := b.xfers.filter (fun z => z.id != k), spillUse := b.spillUse.filter (fun u => !decide (u.1 = y.ctx ∧ u.2.2 = y.grp)) }
      else modEntry b y.entry (fun z => { z with phase := 255 })
    | none => b
  | _ => b

/-- Answer to an incoming remote WRITE (R295). -/
def answerWrite (b : Block) (hdr : BitVec 512) (status : Nat) : Block :=
  sendAnswer b (ansHdr hdr.toNat 2 status 0)

/-- Payload bytes of a packet by its header. -/
def hdrBytes (hdr : BitVec 512) : Nat := 256 * bitsOf hdr.toNat 114 110

/-- Frees the inbound buffer space of a WRITE for context `c`. -/
def freeInbuf (b : Block) (c : Ctx) (hdr : BitVec 512) : Block := { b with inbuf := b.inbuf.erase (c, hdrBytes hdr) }

/-- An incoming WRITE that its translation refuses is answered PAGE or XLATE and recorded (R295). -/
def refuseInbound (b : Block) (x : Stream) (hdr : BitVec 512) (va : Nat) (xlate : Bool) : Block :=
  let b := setRaw b .fabRxpf (BitVec.ofNat 64 (va % 2 ^ 49 + x.ctx.val * 2 ^ 49 + (if xlate then 2 ^ 53 else 0) + getFld b .fabRxpf 63 1 * 2 ^ 63))
  let b := hwSet b .fabRxpf 63
  let b := bumpFld b .fabRxcount 48 16 1
  answerWrite (freeInbuf (dropStream b x.id) x.ctx hdr) hdr (if xlate then 7 else 6)

/-- TRANSLATION of a stream, by what the stream is (R223, R241, R295). -/
def streamXlate (b : Block) (x : Stream) (va : Nat) : Block :=
  match x.owner with
  | .log => dropStream (bumpFld b .schLogDrops 0 32 1) x.id
  | .inbound h => refuseInbound b x h va true
  | _ => raise (stopStream b x) .translation (streamSite b x va)

/-- PAGE_FAULT of a stream: it halts at its first untranslated request, last of its context's halts (R222). -/
def streamPage (b : Block) (x : Stream) (va : Nat) : Block :=
  match x.owner with
  | .log => dropStream (bumpFld b .schLogDrops 0 32 1) x.id
  | .inbound h => refuseInbound b x h va false
  | _ =>
    let mine := fun (l : LineRun) => decide (x.owner = .entry l.entry) && !x.write
    raise { b with
      streams := b.streams.filter (fun y => y.id != x.id) ++ [{ x with halted := some va }]
      line := b.line.map (fun l => if mine l then { l with waitFault := true } else l) }
      .pageFault (streamSite b x va)

/-- The weight stream of a LINE that met a page fault issues nothing until its strip restarts (R199). -/
def lineWaits (b : Block) (x : Stream) : Bool :=
  match b.line with
  | some l => l.waitFault && !x.write && decide (x.owner = .entry l.entry)
  | none => false

/-! ### Transfer slots (R216, R222) -/

def haltedOf (b : Block) (c : Ctx) : List Stream := b.streams.filter (fun x => decide (x.ctx = c) && x.halted.isSome)

/-- The halt records of a streamer, in the order of the halts: at most 4 of each context and 16 in all; further halts keep their slots. -/
def haltRecords (b : Block) (u : EUnit) : List (Ctx × Nat) :=
  let all := (b.streams.filter (·.halted.isSome)).filterMap (fun x => match x.owner with
    | .entry e => (findEntry b e).bind (fun y => if y.eunit = u && y.started then some (x.ctx, e) else none)
    | _ => none)
  all.eraseDups.foldl (fun l p => if l.length < 16 && (l.filter (fun q => decide (q.1 = p.1))).length < 4 then l ++ [p] else l) []

/-- A transfer that STR_RESUME has taken out of its halt record waits for a slot. -/
def slotless (b : Block) (e : Nat) : Bool := (entryStreams b e).any (·.slotless)

/-- Transfers that hold one of the 8 slots of a streamer. -/
def transfersRunning (b : Block) (u : EUnit) : Nat :=
  (b.entries.filter (fun e => decide (e.eunit = u) && e.started && e.phase != 255 && !slotless b e.id)).length - (haltRecords b u).length

/-! ### Check feeds by instruction (R271, R308) -/

/-- Whether a chain of blocks from descriptor words `ws` feeds channel `n`. -/
def chainFeeds (b : Block) (n : Chk) : Nat → List W64 → Bool
  | 0, _ => false
  | k + 1, ws =>
    let d := parseDesc ws
    (d.chkEn && decide (d.chkCh = n)) || (d.nextEn && chainFeeds b n k (descWords b d.next))

/-- Whether a drain program feeds channel `n` (R140, R158, R307: CHKEN and CHKCH; under DEST 0x3 the feed has no payload byte). -/
def progFeeds (prog : List W64) (n : Chk) : Bool :=
  match prog with
  | [] => false
  | w :: _ => bitAt w.toNat 48 && decide (Fin.ofNat 4 (bitsOf w.toNat 50 49) = n)

/-- Whether a dispatched instruction feeds channel `n`. -/
def entryFeeds (b : Block) (e : Entry) (n : Chk) : Bool :=
  let w := e.word.toNat
  match wOpc w with
  | 0x10 | 0x11 | 0x13 => chainFeeds b n 4097 (e.descs.getD 0 [])
  | 0x12 | 0x40 | 0x3B => e.descs.any (fun ws => let d := parseDesc ws; d.chkEn && decide (d.chkCh = n))
  | 0x20 | 0x21 | 0x2B => e.descs.any (fun p => progFeeds p n)
  | 0x58 | 0x59 => decide (Fin.ofNat 4 (bitsOf w 38 37) = n)
  | _ => false

/-- Whether entry `e` may take channel `n` now: nothing holds it, no earlier feeding instruction and no earlier CHKSEED of its
context is uncompleted (R271, R308). -/
def chkTurn (b : Block) (n : Chk) (c : Ctx) (e : Nat) : Bool :=
  decide ((getChk b n).holder = .none) &&
  b.entries.all (fun x => !(decide (x.ctx = c) && decide (x.id < e)
    && (entryFeeds b x n || (wOpc x.word.toNat == 0x50 && decide (x.eunit = .chk n)))))

/-! ### Opening blocks (R203, R211) -/

/-- A block's bytes join the stream's next bytes, behind what is left of the block before it (R216). -/
def openBlock (b : Block) (x : Stream) (ws : List W64) (idx : Nat) (segs : List Seg) (turned : Bool) (next : Option (Nat × Nat × Nat × Nat)) : Block :=
  let d := parseDesc ws
  modStream b x.id (fun y => { y with
    tail := if y.todo.isEmpty then none else some (y.tail.getD y.desc)
    desc := idx, segs := y.segs ++ segs, todo := y.todo ++ segs, next := next, turned := turned
    peer := if d.peerEn then some d.peer else none
    feed := if d.chkEn then some ⟨d.chkCh, d.seq, d.base, y.segs.length, y.segs.length + segs.length, 0, false⟩ else none })

/-- Fill positions delivered to the engine. -/
def deliverFills (b : Block) (fs : List (Nat × Nat × Nat)) : Block :=
  { b with sram := fs.foldl (fun m f => setBits m f.1 f.2.1 f.2.2) b.sram }

/-- Bits of word `w` that fills write. -/
def fillBits (fs : List (Nat × Nat × Nat)) (w : Nat) : Nat :=
  fs.foldl (fun n f => n + (min (f.1 + f.2.1) (64 * w + 64) - max f.1 (64 * w))) 0

/-- Fill that meets ECC: words filled whole get fresh ECC; a word filled in part keeps an uncorrectable error, and the write meets it (R16). -/
def deliverFillsEcc (b : Block) (fs : List (Nat × Nat × Nat)) : Block × Bool :=
  if b.ecc1.isEmpty && b.ecc2.isEmpty then (deliverFills b fs, false)
  else
    let full := fun w => fillBits fs w == 64
    let b := { b with ecc1 := b.ecc1.filter (fun w => !full w), ecc2 := b.ecc2.filter (fun w => !full w) }
    let hit := (b.ecc1 ++ b.ecc2).filter (fun w => fillBits fs w != 0)
    let (b, bad) := eccTouch b (hit.map (8 * ·))
    (deliverFills b (fs.filter (fun f => b.ecc2.all (fun w => fillBits [f] w == 0))), bad)

/-- A block that a LOAD or STORE turns: between memory and staging, with PERM0 other than 0 (R210). -/
def blockTurns (d : Desc) (region : Nat) : Bool := d.permAt 0 != 0 && decide (region < 4)

/-- Slots of the intake ring and of the keep area (R282, R301). -/
def chnIntake (b : Block) : Nat := getFld b .chnCfg 6 10
def chnKeep (b : Block) : Nat := getFld b .chnCfg 16 10

/-- Bytes from `off` on of the chain buffers that LOAD and CHSEND may name: none in the intake ring or the keep area (R282). -/
def chnSendArea (b : Block) (off n : Nat) : Bool := decide (4096 * (chnIntake b + chnKeep b) ≤ off) || n == 0

/-- Opens block `ws` of a LOAD, STORE or FILL stream at on-engine offsets `off`, `soff`; `done` blocks precede it. -/
def openTransferBlock (b : Block) (x : Stream) (e : Entry) (ws : List W64) (idx off soff done_ : Nat) : Block :=
  let d := parseDesc ws
  let w := e.word.toNat
  let region := bitsOf w 49 47
  let p := pitchOf d (bitsOf w 86 70)
  let box : Box := ⟨regAddr b region off, regAddr b region soff, p, false⟩
  let next := if d.nextEn then some (d.next, off + up64 (d.elemBytes p), soff + up64 (d.scaleBytes p), done_ + 1) else none
  if wOpc w == 0x13 then openBlock b x ws idx d.fillSegs false (if d.nextEn then some (d.next, 0, 0, done_ + 1) else none)
  else
    let (b, bad) := if x.write then (b, false) else deliverFillsEcc b (d.fills box)
    if bad then raise (stopStream b x) .sramUncorrectable { streamSite b x d.base with addr := none }
    else openBlock b x ws idx (d.segs box) (blockTurns d region) next

/-- The code with which the next block of a chain stops its stream, none for a block that may run (R203, R212, R282, R291, R306). -/
def nextBad (b : Block) (x : Stream) (e : Entry) (ws : List W64) (idx off soff done_ : Nat) : Option Code :=
  let d := parseDesc ws
  let w := e.word.toNat
  let region := bitsOf w 49 47
  let p := pitchOf d (bitsOf w 86 70)
  if done_ ≥ 4096 || !inWin b x.ctx 0 (128 * idx) 128 || malformed ws (!x.write) || (d.peerEn && !x.write)
      || (d.chkEn && decide (chkOwner b d.chkCh ≠ x.ctx))
      || (wOpc w != 0x13 && !blockOk b x.ctx d region off soff (bitsOf w 86 70))
      || (wOpc w == 0x10 && region == 5 && !(chnSendArea b off (d.elemBytes p) && (!d.isMX || chnSendArea b soff (d.scaleBytes p)))) then
    some .illegalInstr
  else if d.peerEn then peerCheck b x.ctx d.peer else none

/-- The next block of the chain, read from the store when the stream reaches it (R203); one that may not run halts the context when the blocks
before it have completed. -/
def openNext (b : Block) (x : Stream) (e : Entry) (idx off soff done_ : Nat) : Block :=
  let ws := descWords b idx
  let site := { streamSite b x (parseDesc ws).base with addr := none, obj := some (1, idx) }
  let (c, ecc) := if inWin b x.ctx 0 (128 * idx) 128 then eccRead b (cmdBase + 128 * idx) 128 false else (b, false)
  match (if ecc then some Code.sramUncorrectable else nextBad b x e ws idx off soff done_) with
  | none => openTransferBlock c x e ws idx off soff done_
  | some code => if streamOut b x.id == 0 && x.wq.isEmpty then raise (stopStream c x) code site else b

/-- Box of a COPY's wheel image: one element per 8 bytes of the entry's buffer, its scale bytes behind (R213). -/
def copyBox (e : Nat) : Box := ⟨bufBase e, bufBase e + 0x80000000, 0, true⟩

/-- Blocks of a COPY whose footprints share a virtual byte (R214). -/
def copyShares (src dst : Desc) : Bool :=
  !dst.peerEn && (match footprint (src.segs (copyBox 0)), footprint (dst.segs (copyBox 0)) with
    | some x, some y => decide (x.1 ≤ y.2) && decide (y.1 ≤ x.2)
    | _, _ => false)

/-- An overlapping COPY whose destination moves more than 8 MiB (R214). -/
def copyOverlap (e : Entry) : Bool :=
  let dst := parseDesc (e.descs.getD 1 [])
  copyShares (parseDesc (e.descs.getD 0 [])) dst && decide (0x800000 < (dst.segs (copyBox e.id)).length)

/-- The wheel of a transfer: bit 62 of COPY, bit 107 of LOAD and STORE (R211, R213). -/
def wheelOf (w : Nat) : Fin 2 := if wOpc w == 0x12 then Fin.ofNat 2 (bitsOf w 62 62) else Fin.ofNat 2 (bitsOf w 107 107)

/-- A transfer leaves its queue and its first block opens; its turn stands behind those that started before it (R407). -/
def startTransfer (b : Block) (e : Entry) : Block :=
  let b := modEntry b e.id (fun y => { y with started := true })
  let (k, b) := fresh b
  let b := (entryStreams b e.id).foldl (fun b x => modStream b x.id (fun y => { y with
    turnNo := k
    wheel := if wOpc e.word.toNat == 0x13 || (wOpc e.word.toNat == 0x12 && x.write) then none else some (wheelOf e.word.toNat) })) b
  if wOpc e.word.toNat == 0x12 && copyOverlap e then failEntry b e .overlap (e.site 1)
  else (entryStreams b e.id).foldl (fun b x =>
    let w := e.word.toNat
    match wOpc w with
    | 0x12 =>
      let ws := e.descs.getD (if x.write then 1 else 0) []
      let d := parseDesc ws
      let idx := if x.write then bitsOf w 61 47 else bitsOf w 46 32
      let b := if x.write then b else deliverFills b (d.fills (copyBox e.id))
      openBlock b x ws idx (d.segs (copyBox e.id)) (!x.write) none
    | 0x10 | 0x11 | 0x13 =>
      openTransferBlock b x e (e.descs.getD 0 []) (bitsOf w 46 32) (64 * bitsOf w 69 50) (64 * bitsOf w 106 87) 0
    | _ => b) b

/-- Whether a stream's instruction is under way, or can start now in queue order with a transfer slot free (R216). -/
def canStart (b : Block) (e : Entry) : Bool :=
  match queueHead b e.eunit with
  | some h => h.id == e.id && transfersRunning b e.eunit < 8
  | none => false

/-! ### Requests (R216 to R219) -/

/-- The bytes of the next request: consecutive 256-byte units in request order, within 4 KiB; `cur` is the unit reached. -/
def takeReq : Nat → List Seg → List Seg × List Seg
  | _, [] => ([], [])
  | cur, s :: r =>
    let u := s.va / 256
    if u == cur || (u == cur + 1 && u % 16 != 0) then
      let (a, z) := takeReq u r
      (s :: a, z)
    else ([], s :: r)

/-- Bytes of one unit only. -/
def takeUnit : Nat → List Seg → List Seg × List Seg
  | _, [] => ([], [])
  | u, s :: r => if s.va / 256 == u then (let (a, z) := takeUnit u r; (s :: a, z)) else ([], s :: r)

def unitsOf (l : List Seg) : List Nat := (l.map (fun s => s.va / 256)).eraseDups
def sharesUnit (l k : List Seg) : Bool := l.any (fun s => k.any (fun t => s.va / 256 == t.va / 256))

/-- M-port of a physical address (R378). -/
def portOf (b : Block) (pa : Nat) : Nat :=
  let i := pa >>> getFld b .strPortmapCfg 0 6 % 256
  getFld b (.strPortmap (Fin.ofNat 32 (i / 8))) (8 * (i % 8)) 5

/-- Bank key: port and bank field (R219). -/
def bankKey (b : Block) (pa : Nat) : Nat := portOf b pa * 64 + pa >>> getFld b .strCfg 12 6 % 64

/-- Outstanding tags of a bank key: requests, walk reads and the read of a launch (R219). -/
def keyCount (b : Block) (key : Nat) : Nat :=
  (b.mp.filter (fun q => q.key == key)).length + (b.walks.filter (fun w => w.key == key)).length + (if b.launchRead.any (fun q => q.key == key) then 1 else 0)

/-- A request with this key has been issued: HOT_BANK when the count rises above HOT_THR (R219). -/
def hotRaise (b : Block) (key : Nat) (c : Option Ctx) (gen : BitVec 16) (unit : Nat) : Block :=
  if getFld b .strCfg 0 10 < keyCount b key && !b.hotKeys.contains key then
    let b := hwSet (setFld (setFld b .strHotbank 16 5 (key / 64)) .strHotbank 24 6 (key % 64)) .strHotbank 63
    let b := bumpFld { b with hotKeys := key :: b.hotKeys } .strHotbank 0 16 1
    raise b .hotBank { ctx := c, gen := gen, unit := unit }
  else b

def hotCheck (b : Block) (r : MpReq) : Block := hotRaise b r.key (some r.ctx) r.gen (if r.write then 2 else 1)

/-- A tag with this key has been freed: a key that fell to HOT_THR/2 is armed again (R219). -/
def keyFreed (b : Block) (key : Nat) : Block :=
  if keyCount b key ≤ getFld b .strCfg 0 10 / 2 then { b with hotKeys := b.hotKeys.erase key } else b

/-- A tag has been freed, and XLT_INVAL stops waiting for it (R219, R221). -/
def tagFreed (b : Block) (r : MpReq) : Block := keyFreed { b with invalBusy := b.invalBusy.erase r.tag } r.key

/-- The translation of a virtual address, used last (R221). -/
def tlbHit (e : TlbEnt) (c : Ctx) (va : Nat) : Bool :=
  decide (e.ctx = c) && e.vpn == va / (if e.big then 0x40000000 else 0x200000)

def tlbPa (e : TlbEnt) (va : Nat) : Nat := e.pa + va % (if e.big then 0x40000000 else 0x200000)

def tlbUse (b : Block) (e : TlbEnt) : Block := { b with tlb := e :: b.tlb.filter (fun x => x != e) }

def classRegulator (x : CtxSt) (write : Bool) : Nat := if write then x.regWrite else x.regRead
def chargeClass (b : Block) (c : Ctx) (write : Bool) (n : Nat) : Block :=
  modCtx b c (fun x => if write then { x with regWrite := x.regWrite - n } else { x with regRead := x.regRead - n })

/-- Physical address of the entry that level `lvl` of a walk reads in the table at `base` (R220). -/
def pteAddr (base lvl va : Nat) : Nat :=
  base + 8 * (if lvl == 3 then bitsOf va 48 39 else if lvl == 2 then bitsOf va 38 30 else bitsOf va 29 21)

/-- A walk issues the read of its next entry: 256 bytes of the context's read class, with a bank key (R218, R219, R221). -/
def walkRead (b : Block) (w : Walk) : Block :=
  let w := { w with issued := b.beat, port := portOf b w.pa, key := bankKey b w.pa }
  hotRaise (chargeClass { b with walks := b.walks.filter (fun v => v.idx != w.idx) ++ [w] } w.ctx false 256) w.key (some w.ctx) w.gen 0xC

/-- A miss starts a walk, when one of the 16 is free, none is under way for this page and the regulator holds its read (R218, R221). -/
def startWalk (b : Block) (x : Stream) (va : Nat) : Block :=
  if b.walks.any (fun w => decide (w.ctx = x.ctx) && w.va / 0x200000 == va / 0x200000) then
    (if b.walks.any (fun w => w.stream == x.id && w.va == va) then b else bumpFld b .xltMiss 0 32 1)
  else match lowestFree 16 (b.walks.map (·.idx)) with
    | none => b
    | some k =>
      if (getCtx b x.ctx).regRead < 256 then b
      else walkRead (bumpFld b .xltMiss 0 32 1)
        ⟨k, x.ctx, x.gen, va, x.write, x.id, b.beat, 3, pteAddr (getFld b (.xltRoot x.ctx) 13 35 * 2 ^ 13) 3 va, 0, 0, false, false⟩

/-- A context whose shares are all 0 issues no memory traffic (R230). -/
def sharesZero (b : Block) (c : Ctx) : Bool :=
  getFld b (.strSplit c) 0 7 == 0 && getFld b (.strSplit c) 8 7 == 0 && getFld b (.strSplit c) 16 7 == 0

/-- Tag ranges of R375. -/
def isReadTag (t : Nat) : Bool := t < 0x1000
def isWriteTag (t : Nat) : Bool := 0x1000 ≤ t && t < 0x1800
def isShortTag (t : Nat) : Bool := 0x1800 ≤ t && t < 0x1840

def Stream.isShort (b : Block) (x : Stream) : Bool :=
  match x.owner with
  | .entry e => (match findEntry b e with | some en => decide (en.eunit = .short) | none => false)
  | _ => false

/-- A free tag for a stream's request, within its quota, its context's cap and the pool (R217, R224). -/
def freeTag (b : Block) (x : Stream) : Option Nat :=
  let used := b.mp.map (·.tag)
  if x.isShort b then (lowestFree 64 ((used.filter isShortTag).map (· - 0x1800))).map (· + 0x1800)
  else if x.quota ≤ streamOut b x.id then none
  else
    let mine := (b.mp.filter (fun r => decide (r.ctx = x.ctx) && r.write == x.write && !isShortTag r.tag)).length
    if x.write then
      if mine < getFld b (.strTags x.ctx) 16 12 then
        (lowestFree 2048 ((used.filter isWriteTag).map (· - 0x1000))).map (· + 0x1000)
      else none
    else if mine < getFld b (.strTags x.ctx) 0 13 then lowestFree 4096 (used.filter isReadTag) else none

/-- The entry whose instruction a stream serves, for the order of R226. -/
def Stream.entryId (x : Stream) : Nat := match x.owner with | .entry e => e | _ => 0

/-- A LOAD or COPY source stream. -/
def isLoadStream (b : Block) (x : Stream) : Bool :=
  !x.write && (match findEntry b x.entryId with
    | some e => (let o := wOpc e.word.toNat; o == 0x10 || o == 0x12)
    | none => false)

/-- A load that has not left its queue has all its first block still to read, and blocks beyond it that it has not met. -/
def unstartedShares (b : Block) (y : Stream) (req : List Seg) : Bool :=
  match findEntry b y.entryId with
  | some e =>
    let d := parseDesc (e.descs.getD 0 [])
    !e.started && ((d.nextEn && wOpc e.word.toNat != 0x12) || sharesUnit (d.segs ⟨0, 0, 0, true⟩) req)
  | none => false

/-- Load before store (R226): an earlier uncompleted load of the context has still to read a unit of `req`. -/
def heldByLoad (b : Block) (x : Stream) (req : List Seg) : Bool :=
  b.streams.any (fun y => isLoadStream b y && decide (y.ctx = x.ctx) && decide (y.entryId < x.entryId)
    && (sharesUnit y.todo req || y.next.isSome
        || (b.mp.any (fun r => r.stream == y.id && sharesUnit r.segs req))
        || unstartedShares b y req))

/-- A write of the same stream to one of the units is outstanding (R207). -/
def heldByOwnWrite (b : Block) (x : Stream) (req : List Seg) : Bool :=
  b.mp.any (fun r => r.stream == x.id && sharesUnit r.segs req)
    || b.fabTags.any (fun t => match t.kind with | .write j sg => j == x.id && sharesUnit sg req | _ => false)

/-- COPY issues its writes when its source has been read whole and has passed its wheel, a refetch included (log 15). -/
def copyWaits (b : Block) (x : Stream) : Bool :=
  x.write && (match findEntry b x.entryId with
    | some e => wOpc e.word.toNat == 0x12 && (entryStreams b e.id).any (fun y => !y.write && !streamDone b y.id)
    | none => false)

/-- Bytes of a request read from the engine side. -/
def reqData (b : Block) (va0 : Nat) (req : List Seg) : List (Nat × Byte) := req.map (fun s => (s.va - va0, getRef b.sram s.ref))

/-- Element bytes among a stream's bytes: scale bytes ride the wheel's scale lane (R123). -/
def elemCount (l : List Seg) : Nat := (l.filter (fun s => match s.ref with | .scale _ => false | _ => true)).length

/-- A turned write waits until the wheel has turned the element bytes of its next request (R407). -/
def turnWaits (x : Stream) (req : List Seg) : Bool := x.turned && x.write && decide (x.wcredit < elemCount req)

/-- The last byte of a block has folded: its channel is free; CKPT and RESTORE keep theirs to the end of the area (R308). -/
def feedRelease (b : Block) (n : Chk) : Block :=
  match (getChk b n).holder with
  | .streamRead _ | .streamWrite _ => chkRelease b n
  | _ => b

/-- Bytes `[f.lo + f.folded, f.lo + n)` of the stream's bytes fold; with the last byte the feed ends and its channel is free (R227, R308). -/
def foldUpTo (b : Block) (x : Stream) (f : Feed) (n : Nat) (bytes : Seg → Byte) (ends : Bool) : Block :=
  let b := hwFold b f.ch (((x.segs.drop (f.lo + f.folded)).take (n - f.folded)).map bytes)
  if ends then feedRelease (modStream b x.id (fun y => { y with feed := none, fed := y.fed ++ [{ f with folded := n, on := false }] })) f.ch
  else modStream b x.id (fun y => { y with feed := some { f with folded := max f.folded n } })

/-- The bytes of a CHKEN write block that have been issued fold, in request order (R227, R315). -/
def foldWritten (b : Block) (i : Nat) : Block :=
  match findStream b i with
  | some x => (match x.feed with
      | some f => if f.on && x.write then
          foldUpTo b x f (max f.folded (f.hi - f.lo - x.todo.length)) (fun s => getRef b.sram s.ref) x.todo.isEmpty
        else b
      | none => b)
  | none => b

/-- Issue of one M-port request of a translated, permitted range. -/
def sendMp (b : Block) (x : Stream) (req rest : List Seg) (t pa : Nat) : Block :=
  let va0 := (req.headD ⟨0, .const 0⟩).va / 256 * 256
  let beats := (unitsOf req).length
  let r : MpReq := {
    tag := t, stream := x.id, ctx := x.ctx, gen := x.gen, write := x.write, pa := pa / 256 * 256, va := va0,
    beats := beats, segs := req, data := (if x.write then reqData b va0 req else []), issued := b.beat, port := (portOf b pa),
    key := bankKey b pa, zombie := false, redo := false, turned := x.turned }
  let (b, bad) := if x.write then eccTouch b (req.flatMap (fun s => refAddrs s.ref)) else (b, false)
  if bad then raise (stopStream b x) .sramUncorrectable { streamSite b x va0 with addr := none }
  else
    let b := chargeClass (countAct b (fun a => { a with mport := a.mport + beats })) x.ctx x.write (256 * beats)
    let b := modStream { b with mp := b.mp ++ [r] } x.id (fun y => { y with todo := rest, tail := none, wcredit := y.wcredit - elemCount req })
    foldWritten (hotCheck b r) x.id

/-- Issue through the fabric (R294): one WRITE of whole units, or one masked beat. -/
def sendRemoteWrite (b : Block) (x : Stream) (peer : Nat) : Block :=
  match x.todo with
  | [] => b
  | s :: _ =>
    if 2 ^ 49 ≤ s.va then streamXlate b x s.va else
    let u := s.va / 256
    let (one, rest1) := takeUnit u x.todo
    let masked := one.length != 256
    let (run, rest) := if masked then (one, rest1) else
      (let (a, _) := takeReq u x.todo
       let units := (unitsOf a).takeWhile (fun v => (a.filter (fun s => s.va / 256 == v)).length == 256)
       let n := (a.takeWhile (fun s => units.contains (s.va / 256))).length
       (x.todo.take n, x.todo.drop n))
    let va0 := u * 256
    let (b, bad) := eccTouch b (run.flatMap (fun s => refAddrs s.ref))
    if bad then raise (stopStream b x) .sramUncorrectable { streamSite b x va0 with addr := none }
    else
      let bytes := (reqData b va0 run).foldl (fun m p => memPut m p.1 p.2) ([] : Mem)
      let beats := (unitsOf run).length
      let mask := if masked then run.foldl (fun m s => m ||| 2 ^ (s.va % 256)) 0 else 0
      if heldByOwnWrite b x run || x.quota ≤ streamOut b x.id || turnWaits x run then b
      else match sendTagged b x.ctx x.gen peer (.write x.id run) 1 beats (va0 % 2 ^ 49 + (if masked then 2 ^ 49 else 0)) (if masked then mask else 0)
            (memBytes bytes 0 (256 * beats)) with
        | none => b
        | some b => foldWritten (modStream b x.id (fun y => { y with todo := rest, tail := none, wcredit := y.wcredit - elemCount run })) x.id

/-- The 256 KiB intake buffer of the line has room for every byte that a weight request returns, beside what it holds and what is on its way
(R196, R216). -/
def lineSpace (b : Block) (x : Stream) (req : List Seg) : Bool :=
  match b.line with
  | some l => x.write || decide (x.owner ≠ .entry l.entry) || decide (x.segs.length - x.todo.length - l.taken + req.length ≤ 262144)
  | none => true

/-- Issue of the stream's next request on its M-port: translation, tags, regulator and order allowing (R216 to R221, R226). -/
def sendLocal (b : Block) (x : Stream) : Block :=
  match x.todo with
  | [] => b
  | s :: _ =>
    let (req, rest) := takeReq (s.va / 256) x.todo
    let va := s.va / 256 * 256
    if getFld b (.xltRoot x.ctx) 0 1 == 0 || decide (2 ^ 49 ≤ s.va) then streamXlate b x s.va
    else match b.tlb.find? (fun e => tlbHit e x.ctx va) with
      | none => startWalk b x va
      | some e =>
        if x.write && !e.w then streamXlate (tlbUse b e) x s.va
        else if x.write && (heldByLoad b x req || heldByOwnWrite b x req || turnWaits x req) then b
        else if !lineSpace b x req then b
        else match freeTag b x with
          | none => b
          | some t =>
            if classRegulator (getCtx b x.ctx) x.write < 256 * (unitsOf req).length then b
            else sendMp (tlbUse b e) x req rest t (tlbPa e va)

/-- A CHKEN block takes its channel before its first request (R227, R308). -/
def takeChannel (b : Block) (x : Stream) : Option Block :=
  match x.feed with
  | none => some b
  | some f =>
    if f.on then some b
    else if chkTurn b f.ch x.ctx x.entryId then
      some (modStream (chkHold b f.ch (if x.write then .streamWrite x.id else .streamRead x.id) (some (x.id, f.lo))
        (guardPrefix b f.ch f.base 0 f.seq (some (x.ctx, x.gen)))) x.id (fun y => { y with feed := some { f with on := true } }))
    else none

/-- The bytes of a CHKEN read block that have arrived fold, in request order; after the last one the channel is free (R227, R308, R315). -/
def foldRead (b : Block) (i : Nat) : Block :=
  match findStream b i with
  | some x => (match x.feed with
      | some f => if f.on && !x.write then
          let out := x.todo ++ (b.mp.filter (fun r => r.stream == i && !r.zombie)).flatMap (·.segs)
          let n := (((x.segs.drop f.lo).take (f.hi - f.lo)).takeWhile (fun s => !out.contains s)).length
          foldUpTo b x f (max f.folded n) (fun s => memGet b.sram (bufBase x.id + s.va)) (out.isEmpty)
        else b
      | none => b)
  | none => b

/-- The next block joins the bytes that are left, while those end in a request that it can carry on (R216): neither block feeds a channel, and
both go the same way. -/
def mergeBlocks : Nat → Block → Nat → Entry → Block
  | 0, b, _, _ => b
  | k + 1, b, i, e =>
    match findStream b i with
    | some x => (match x.next, x.todo with
        | some (idx, off, soff, n), s :: _ =>
          let ws := descWords b idx
          let d := parseDesc ws
          if x.feed.isNone && !d.chkEn && decide (x.peer = if d.peerEn then some d.peer else none) && (takeReq (s.va / 256) x.todo).2.isEmpty
              && x.turned == (wOpc e.word.toNat != 0x13 && blockTurns d (bitsOf e.word.toNat 49 47))
              && !(eccRead b (cmdBase + 128 * idx) 128 false).2 && (nextBad b x e ws idx off soff n).isNone then
            mergeBlocks k (openNext b x e idx off soff n) i e
          else b
        | _, _ => b)
    | none => b

/-- What a stream does when nothing is left of its bytes: a feed that a refetch starts again comes first, then the next block. -/
def advanceBlock (b : Block) (x : Stream) (e : Entry) : Block :=
  if !x.todo.isEmpty || x.feed.isSome then mergeBlocks 4096 b x.id e
  else match x.later, x.next with
    | f :: r, _ => modStream b x.id (fun y => { y with
        later := r, feed := some { f with folded := 0, on := false }, todo := (y.segs.drop f.lo).take (f.hi - f.lo) })
    | [], some (idx, off, soff, n) => openNext b x e idx off soff n
    | [], none => b

/-- STREAM_REQUEST_ISSUE (R216): start in queue order, open the block in turn, take its channel, then issue one request. -/
def streamIssue (b : Block) (i : Nat) : Block :=
  match findStream b i with
  | none => b
  | some x =>
    let ent := match x.owner with | .entry e => findEntry b e | _ => none
    let free := (match x.owner with | .inbound _ => true | _ => false) || ent.any (fun e => decide (e.eunit = .short))
    if x.halted.isSome || lineWaits b x || (frozenV b && !free) then b
    else
      match (match ent with
        | some e => if x.slotless then
                      (if decide (transfersRunning b e.eunit < 8) then some (modStream b i (fun y => { y with slotless := false })) else none)
                    else if e.started || decide (e.eunit ≠ .load ∧ e.eunit ≠ .store ∧ e.eunit ≠ .short) then some b
                    else if decide (e.eunit = .short) then
                      (if (queueHead b .short).any (fun h => h.id == e.id) then some (modEntry b e.id (fun y => { y with started := true })) else none)
                    else if canStart b e then some (startTransfer b e) else none
        | none => some b) with
      | none => b
      | some b =>
        let b := match findStream b i, ent with
          | some x, some e => advanceBlock b x e
          | _, _ => b
        match findStream b i with
        | none => b
        | some x =>
          if x.todo.isEmpty && x.feed.isNone then b
          else if copyWaits b x then b
          else match takeChannel b x with
            | none => b
            | some b =>
              (match findStream b i with
              | none => b
              | some x =>
                if x.todo.isEmpty then (if x.write then foldWritten b i else foldRead b i)
                else if sharesZero b x.ctx then b
                else match x.peer with
                  | some p => sendRemoteWrite b x p
                  | none => sendLocal b x)

/-! ### Walks (R220 to R223) -/

/-- What one entry of a walk says: not present, malformed, a table at `pa`, or a leaf. -/
inductive WalkRes where
  | page | xlate
  | table (pa : Nat)
  | leaf (pa : Nat) (big : Bool)
  deriving DecidableEq, Repr

def pteBad (v : Nat) : Bool := bitsOf v 11 3 != 0 || bitsOf v 55 48 != 0

/-- What entry `p` read at level `lvl` means (R220, R222, R223): V = 0 is a page not present; reserved or forbidden bits, a leaf at the root
and a table at level 1 are malformed. -/
def walkStep (lvl : Nat) (p : W64) : WalkRes :=
  let v := p.toNat
  if !bitAt v 0 then .page
  else if pteBad v then .xlate
  else if bitAt v 1 then
    if lvl == 2 then (if bitsOf v 29 12 != 0 then .xlate else .leaf (bitsOf v 47 12 * 4096) true)
    else if lvl == 1 then (if bitsOf v 20 12 != 0 then .xlate else .leaf (bitsOf v 47 12 * 4096) false)
    else .xlate
  else if lvl == 1 then .xlate
  else .table (bitsOf v 47 12 * 4096)

def tlbFill (b : Block) (c : Ctx) (va pa : Nat) (big w : Bool) : Block :=
  let e : TlbEnt := ⟨c, va / (if big then 0x40000000 else 0x200000), big, pa, w⟩
  { b with tlb := e :: (b.tlb.filter (fun x => !(tlbHit x c va))).take 4095 }

/-- A walk is over: its tag and key are free; one that an invalidation named is walked again by its stream. -/
def walkOver (b : Block) (w : Walk) : Block := keyFreed { b with walks := b.walks.filter (fun v => v.idx != w.idx) } w.key

/-- The reads of a walk with the entries they return, from the read that is out (R220, R221): a table entry leads to the read of the next level,
which waits for the regulator; the last entry fills the cache or faults the stream. -/
def walkReads (b : Block) (w : Walk) : List W64 → Block
  | [] => b
  | p :: r =>
    let on := fun (b : Block) (f : Stream → Block) => match findStream b w.stream with | some x => f x | none => b
    let first := fun (x : Stream) => (x.todo.headD ⟨w.va, .const 0⟩).va
    match walkStep w.lvl p with
    | .page => on (walkOver b w) (fun x => streamPage (walkOver b w) x (first x))
    | .xlate => on (walkOver b w) (fun x => streamXlate (walkOver b w) x (first x))
    | .table pa =>
      if (getCtx b w.ctx).regRead < 256 then b
      else
        let v := { w with lvl := w.lvl - 1, pa := pteAddr pa (w.lvl - 1) w.va, denied := w.denied || !bitAt p.toNat 2 }
        walkReads (walkRead (keyFreed { b with walks := b.walks.filter (fun u => u.idx != w.idx) } w.key) v) v r
    | .leaf pa big =>
      let wr := !w.denied && bitAt p.toNat 2
      if w.stale then walkOver b w
      else if w.write && !wr then on (walkOver b w) (fun x => streamXlate (walkOver b w) x (first x))
      else tlbFill (walkOver b w) w.ctx w.va pa big wr

/-- TRANSLATION_WALK_DONE (R221): the walk's reads return the entries `ptes`; a failed read is a failed request (R377). -/
def walkDone (b : Block) (k : Nat) (ptes : List W64) (err : Bool) : Block :=
  match b.walks.find? (fun w => w.idx == k) with
  | none => b
  | some w =>
    if w.gen != (getCtx b w.ctx).gen then walkOver b w
    else if err then
      (match findStream b w.stream with
      | some x => streamXlate (walkOver b w) x w.va
      | none => walkOver b w)
    else walkReads b w ptes

/-! ### Responses and timeouts (R376, R377, R328) -/

/-- QUARANTINE ends when no tag of a fenced generation is left (R231, R328). -/
def zombieLeft (b : Block) (c : Ctx) : Bool :=
  b.mp.any (fun r => decide (r.ctx = c) && r.zombie) || b.fabTags.any (fun t => decide (t.ctx = c) && t.zombie)

def quarantineEnd (b : Block) (c : Ctx) : Block :=
  if (getCtx b c).state = .quarantine && !zombieLeft b c then
    notify (modCtx b c (fun x => { x with state := .free })) 6 (some c) 0 0 false
  else b

/-- A failed request (R377): TRANSLATION at the virtual address of its first byte. -/
def requestFailed (b : Block) (r : MpReq) : Block :=
  match findStream b r.stream with
  | none => b
  | some x => streamXlate b x r.va

/-! ### Bytes that move again (R226, R227, R309) -/

/-- The bytes of a check feed of a stream. -/
def feedSegs (x : Stream) (f : Feed) : List Seg := (x.segs.drop f.lo).take (f.hi - f.lo)

/-- Bytes `again` of a stream move once more. A CHKEN block among them moves whole, and its fold starts again from the fold-start copy and the
prefix: at once where the block holds its channel, else when its turn comes again. -/
def moveAgain (b : Block) (x : Stream) (again : List Seg) : Block :=
  let hit := fun (f : Feed) => again.any (fun s => (feedSegs x f).contains s)
  let cur := x.feed.filter (fun f => f.on && hit f)
  let ended := x.fed.filter hit
  let inFeed := fun (s : Seg) => (cur.toList ++ ended).any (fun f => (feedSegs x f).contains s)
  let b := match cur with
    | some f => hwFold (chkSet b f.ch (getChk b f.ch).foldStart.toNat) f.ch (guardPrefix b f.ch f.base 0 f.seq (some (x.ctx, x.gen)))
    | none => b
  modStream b x.id (fun y => { y with
    todo := (match cur with | some f => feedSegs x f ++ y.todo.filter (fun s => !(feedSegs x f).contains s) | none => y.todo)
      ++ again.filter (fun s => !inFeed s)
    feed := y.feed.map (fun f => if cur.isSome then { f with folded := 0 } else f)
    fed := y.fed.filter (fun f => !hit f), later := y.later ++ ended })

/-- The destination bytes of a COPY that were written from source bytes `again`. -/
def copiedFrom (y : Stream) (again : List Seg) : List Seg :=
  let src := again.flatMap (fun s => refAddrs s.ref)
  y.segs.filter (fun s => !y.todo.contains s && (refAddrs s.ref).any (fun a => src.contains a))

/-- A refetch (R226): HAZARD_REFETCH, the units are read again, and what a COPY has written from them is written again behind it. -/
def refetch (b : Block) (x : Stream) (again : List Seg) : Block :=
  let b := bumpFld b .strHazard 0 32 1
  let b := raise b .hazardRefetch { streamSite b x ((again.headD ⟨0, .const 0⟩).va) with addr := none }
  let b := moveAgain b x again
  (b.streams.filter (fun y => y.write && decide (y.owner = x.owner) && !(copiedFrom y again).isEmpty)).foldl
    (fun b y => moveAgain b y (copiedFrom y again)) b

/-- A stream whose bytes feed a check channel keeps them until they have folded. -/
def Stream.feeds (x : Stream) : Bool := x.feed.isSome || !x.fed.isEmpty || !x.later.isEmpty

/-- MP_READ_RESPONSE (R376, R377): the bytes reach the engine, or the wheel that turns them (R123); the tag frees. -/
def readResponse (b : Block) (tag : Nat) (err : Nat) (data : List Byte) : Block :=
  match b.mp.find? (fun r => r.tag == tag && !r.write) with
  | none => b
  | some r =>
    let b := tagFreed { b with mp := b.mp.filter (fun q => q.tag != tag) } r
    if r.zombie || r.gen != (getCtx b r.ctx).gen then quarantineEnd b r.ctx
    else if err != 0 then requestFailed b r
    else match findStream b r.stream with
      | none => b
      | some x =>
        if r.redo then refetch b x r.segs
        else
          let got := r.segs.map (fun s => (s.ref, data.getD (s.va - r.va) 0))
          let (b, bad) := if r.turned then (modStream b x.id (fun y => { y with wq := y.wq ++ got }), false) else scatter b got
          let b := if x.feeds then
              { b with sram := r.segs.foldl (fun m s => memPut m (bufBase x.id + s.va) (data.getD (s.va - r.va) 0)) b.sram }
            else b
          if bad then raise (stopStream b x) .sramUncorrectable { streamSite b x r.va with addr := none }
          else progress (foldRead b x.id) r.ctx

/-- Store before load (R226): loads dispatched after the writer that have read a unit of `segs` read it again. -/
def hazardScan (b : Block) (x : Stream) (segs : List Seg) : Block :=
  let op := match findEntry b x.entryId with | some e => wOpc e.word.toNat | none => 0
  if !(op == 0x11 || op == 0x12 || op == 0x13) then b
  else
    let b := { b with mp := b.mp.map (fun (r : MpReq) =>
      match findStream b r.stream with
      | some y => if isLoadStream b y && decide (y.ctx = x.ctx) && decide (x.entryId < y.entryId) && sharesUnit r.segs segs then { r with redo := true } else r
      | none => r) }
    b.streams.foldl (fun b y =>
      if isLoadStream b y && decide (y.ctx = x.ctx) && decide (x.entryId < y.entryId) then
        let out := (b.mp.filter (fun (r : MpReq) => r.stream == y.id)).flatMap (·.segs)
        let again := y.segs.filter (fun s => !y.todo.contains s && !out.contains s && segs.any (fun t => t.va / 256 == s.va / 256))
        if again.isEmpty then b else refetch b y again
      else b) b

/-- A log record or an incoming WRITE that is done leaves; the WRITE is answered OK (R241, R295). -/
def streamEnd (b : Block) (i : Nat) : Block :=
  match findStream b i with
  | some x => if streamDone b i then (match x.owner with
      | .log => dropStream b i
      | .inbound h => answerWrite (freeInbuf (dropStream b i) x.ctx h) h 0
      | _ => b) else b
  | none => b

/-- MP_WRITE_COMPLETION (R376, R377). -/
def writeCompletion (b : Block) (tag : Nat) (err : Nat) : Block :=
  match b.mp.find? (fun r => r.tag == tag && r.write) with
  | none => b
  | some r =>
    let b := tagFreed { b with mp := b.mp.filter (fun q => q.tag != tag) } r
    if r.zombie then quarantineEnd b r.ctx
    else if err != 0 then requestFailed b r
    else match findStream b r.stream with
      | none => b
      | some x => streamEnd (progress (hazardScan b x r.segs) r.ctx) x.id

def tagTimeoutLimit (b : Block) : Nat := max 1 (getFld b .engTagTimeout 0 32)

/-- TAG_TIMEOUT (R328): a request or a walk without a response for ENG_TAG_TIMEOUT cycles frees its tag and has failed; a zombie is dropped. -/
def tagTimedOut (b : Block) (tag : Nat) : Block :=
  if 0x1841 ≤ tag && tag ≤ 0x1850 then
    match b.walks.find? (fun w => w.idx == tag - 0x1841) with
    | some w => if tagTimeoutLimit b ≤ b.beat - w.issued then walkDone b w.idx [] true else b
    | none => b
  else match b.mp.find? (fun r => r.tag == tag) with
    | some r =>
      if tagTimeoutLimit b ≤ b.beat - r.issued then
        let b := tagFreed { b with mp := b.mp.filter (fun q => q.tag != tag) } r
        if r.zombie then quarantineEnd b r.ctx else requestFailed b r
      else b
    | none => b

/-! ### Registers of streams and translation with behaviour of their own -/

/-- STR_RESUME (R222): every halted stream of the context resumes from its saved position; one whose halt record freed its slot waits for another. -/
def strResume (b : Block) (c : Ctx) : Block :=
  let freed := (haltRecords b .load ++ haltRecords b .store).map (·.2)
  { b with streams := b.streams.map (fun x => if x.ctx = c && x.halted.isSome then
      { x with halted := none, slotless := (match x.owner with | .entry e => freed.contains e | _ => false) } else x) }

/-- XLT_INVAL (R221, R401, R402): ignored while BUSY; else the matching entries go, and BUSY waits for requests already translated through them. -/
def xltBusy (b : Block) : Bool := b.beat < b.invalUntil || !b.invalBusy.isEmpty

/-- A walk in flight that the write names fills nothing: its stream walks again. A walk of page size not yet known is taken for the larger page. -/
def xltInval (b : Block) (sel : TlbEnt → Bool) (req : MpReq → Bool) (wk : Walk → Bool) : Block :=
  if xltBusy b then hwSet b .xltStatus 18
  else { b with
    tlb := b.tlb.filter (fun e => !sel e), invalBusy := (b.mp.filter req).map (·.tag), invalUntil := b.beat + 2
    walks := b.walks.map (fun w => if wk w then { w with stale := true } else w) }

def invalPage (b : Block) (c : Ctx) (va : Nat) : Block :=
  let big := b.tlb.any (fun e => e.big && tlbHit e c va)
  xltInval b (fun e => tlbHit e c va)
    (fun r => decide (r.ctx = c) && r.va / (if big then 0x40000000 else 0x200000) == va / (if big then 0x40000000 else 0x200000))
    (fun w => decide (w.ctx = c) && w.va / 0x40000000 == va / 0x40000000)
def invalContext (b : Block) (c : Ctx) : Block :=
  xltInval b (fun e => decide (e.ctx = c)) (fun r => decide (r.ctx = c)) (fun w => decide (w.ctx = c))
def invalAll (b : Block) : Block := xltInval b (fun _ => true) (fun _ => true) (fun _ => true)

end Sys2Proof.Machine
end

