-- ==== Sys2Proof/Machine/Glaze.lean ====
section
/-! DEFINITION. The glaze drain (06): drain programs, binding, the ten stages of a row, checks of GLZCFG, the compare and the wheels. -/

namespace Sys2Proof.Machine

open Sys2Proof

/-! ### Drain programs (R140) -/

/-- Bits of word `i` of a drain program. -/
def gp (prog : List W64) (i hi lo : Nat) : Nat := bitsOf (wordN prog i) hi lo

def gpScale (p : List W64) : Nat := gp p 0 3 0
def gpBias (p : List W64) : Nat := gp p 0 5 4
def gpAct (p : List W64) : Nat := gp p 0 10 6
def gpDeriv (p : List W64) : Bool := gp p 0 11 11 == 1
def gpRmask (p : List W64) : Bool := gp p 0 12 12 == 1
def gpCmask (p : List W64) : Bool := gp p 0 13 13 == 1
def gpRaxis (p : List W64) : Nat := gp p 0 15 14
def gpRkind (p : List W64) : Nat := gp p 0 17 16
def gpRacc (p : List W64) : Bool := gp p 0 18 18 == 1
def gpNfEvent (p : List W64) : Bool := gp p 0 19 19 == 1
def gpOtype (p : List W64) : Nat := gp p 0 27 20
def gpStoch (p : List W64) : Bool := gp p 0 28 28 == 1
def gpSat (p : List W64) : Bool := gp p 0 29 29 == 1
def gpDest (p : List W64) : Nat := gp p 0 31 30
def gpStype (p : List W64) : Nat := gp p 0 39 32
def gpSide (p : List W64) : Bool := gp p 0 40 40 == 1
def gpWheel (p : List W64) : Fin 2 := Fin.ofNat 2 (gp p 0 41 41)
def gpChkEn (p : List W64) : Bool := gp p 0 48 48 == 1
def gpChkCh (p : List W64) : Chk := Fin.ofNat 4 (gp p 0 50 49)
def gpPtype (p : List W64) : Nat := gp p 0 59 52
def gpRows (p : List W64) : Nat := gp p 7 31 0
def gpCols (p : List W64) : Nat := gp p 7 63 32
def gpPre (p : List W64) : Nat := gp p 2 25 0
def gpGate (p : List W64) : Nat := gp p 2 51 26
def gpOut (p : List W64) : Nat := gp p 5 25 0
def gpSideOff (p : List W64) : Nat := gp p 5 51 26
def gpOut2 (p : List W64) : Nat := gp p 6 25 0
def gpRed (p : List W64) : Nat := gp p 6 51 26

/-- The exact path of R137. -/
def gpExact (p : List W64) : Bool := gpScale p == 0 && gpBias p == 0 && gpAct p == 0
def gpGated (p : List W64) : Bool := 16 ≤ gpAct p
/-- A second output exists: gated derivative mode (R147). -/
def gpSecond (p : List W64) : Bool := gpGated p && gpDeriv p
/-- Side rows are read. -/
def gpSideRows (p : List W64) : Bool := gpGated p || gpDeriv p

def up32 (n : Nat) : Nat := (n + 31) / 32

/-- Bytes of a tile's main output: elements and MX scales, rounded up to 64 (R153). -/
def tileOutBytes (t h w : Nat) : Nat := up64 (h * w * typeBits t / 8 + (if typeIsMX t then h * up32 w else 0))

/-- Element bytes of one row. -/
def rowElemBytes (t w : Nat) : Nat := w * typeBits t / 8
def rowBytes (t w : Nat) : Nat := rowElemBytes t w + (if typeIsMX t then up32 w else 0)

def recSize (rkind : Nat) : Nat := match rkind with | 0 => 4 | 1 => 4 | 2 => 8 | _ => 16

/-- Latest program of a context and kind on an array (R142). -/
def latestProg (b : Block) (n : Arr) (c : Ctx) (close : Bool) : Option ProgLatest :=
  (getArr b n).latest.find? (fun l => decide (l.ctx = c) && l.close == close)

/-! ### Checks of GLZCFG (R141) -/

/-- Of `tiles` pieces of `step` bytes at `off`: the piece of walk index `k`, or all of them. -/
def tilePiece (walk : Option Nat) (off step tiles : Nat) : Nat × Nat :=
  match walk with
  | some k => (off + k * step, step)
  | none => (off, tiles * step)

/-- Staging ranges a program names, with whether each is written (R140, R144, R153); `h`, `w` are the tile's size; with `walk` the part of one tile. -/
def progStaging (p : List W64) (close : Bool) (h w : Nat) (walk : Option Nat) : List (Nat × Nat × Bool) :=
  let rows := gpRows p
  let cols := gpCols p
  let tiles := ((rows + h - 1) / h) * ((cols + w - 1) / w)
  let pre := if close then gpPre p + 256 else gpPre p
  let piece := fun (off step : Nat) (write : Bool) => let r := tilePiece walk off step tiles; (r.1, r.2, write)
  let side := h * w * typeBits (gpPtype p) / 8
  (if close then [(gpPre p, 256, false)] else [])
  ++ (if gpSideRows p then [piece pre side false] else [])
  ++ (if gpSecond p then [piece (gpGate p) side false] else [])
  ++ (if gpScale p == 2 || gpScale p == 4 then [(gp p 3 25 0, 4 * rows, false)] else [])
  ++ (if gpScale p == 3 || gpScale p == 4 then [(gp p 3 51 26, 4 * cols, false)] else [])
  ++ (if gpScale p == 5 then [(gp p 3 25 0, rows * up32 cols, false)] else [])
  ++ (if gpBias p == 1 then [(gp p 4 25 0, 4 * rows, false)] else [])
  ++ (if gpBias p == 2 then [(gp p 4 25 0, 4 * cols, false)] else [])
  ++ (if gpCmask p then [(gp p 4 51 26, up64 ((rows + 7) / 8) + (cols + 7) / 8, false)]
      else if gpRmask p then [(gp p 4 51 26, (rows + 7) / 8, false)] else [])
  ++ (if gpSide p then [piece (gpSideOff p) (tileOutBytes (gpStype p) h w) true] else [])
  ++ (if gpDest p == 1 then [piece (gpOut p) (tileOutBytes (gpOtype p) h w) true] else [])
  ++ (if gpDest p == 1 && gpSecond p then [piece (gpOut2 p) (tileOutBytes (gpOtype p) h w) true] else [])

/-- Tile row and tile column of walk index `k` (R143). -/
def walkPlace (p : List W64) (k : Nat) : Nat × Nat :=
  let n := max 1 (gp p 1 47 32)
  if gp p 1 48 48 == 1 then (k % n, k / n) else (k / n, k % n)

/-- Vector-store ranges a program writes: outputs, and reduction records by row and by column (R150). -/
def progVec (p : List W64) (h w : Nat) (walk : Option Nat) : List (Nat × Nat) :=
  let tiles := ((gpRows p + h - 1) / h) * ((gpCols p + w - 1) / w)
  let size := recSize (gpRkind p)
  (if gpDest p == 2 then [tilePiece walk (gpOut p) (tileOutBytes (gpOtype p) h w) tiles] else [])
  ++ (if gpDest p == 2 && gpSecond p then [tilePiece walk (gpOut2 p) (tileOutBytes (gpOtype p) h w) tiles] else [])
  ++ (if bitAt (gpRaxis p) 0 then [walk.elim (gpRed p, gpRows p * size) (fun k => (gpRed p + (walkPlace p k).1 * h * size, h * size))] else [])
  ++ (if bitAt (gpRaxis p) 1 then [walk.elim (gpRed p + gpRows p * size, gpCols p * size)
        (fun k => (gpRed p + (gpRows p + (walkPlace p k).2 * w) * size, w * size))] else [])

/-- Offsets that R140 names as staging offsets, as far as the program uses them. -/
def stagOffsets (p : List W64) (close : Bool) : List Nat :=
  (if close || gpSideRows p then [gpPre p] else []) ++ (if gpSecond p then [gpGate p] else [])
  ++ (if gpScale p == 2 || gpScale p == 4 || gpScale p == 5 then [gp p 3 25 0] else [])
  ++ (if gpScale p == 3 || gpScale p == 4 then [gp p 3 51 26] else [])
  ++ (if gpBias p == 1 || gpBias p == 2 then [gp p 4 25 0] else [])
  ++ (if gpRmask p || gpCmask p then [gp p 4 51 26] else []) ++ (if gpSide p then [gpSideOff p] else [])

/-- The record at offset `off` and, for outputs to memory, the two descriptors it names, as GLZCFG copies them at dispatch (R139, R203). -/
def progImage (b : Block) (off : Nat) : List W64 :=
  let p := wordsOf 8 (sramBytes b (cmdBase + off) 64)
  if gpDest p == 0 then p ++ descWords b (gpOut p) ++ descWords b (gpOut2 p) else p

/-- Copied descriptor of the main (0) or second (1) output. -/
def outWords (p : List W64) (k : Nat) : List W64 := (p.drop (8 + 16 * k)).take 16
def outDesc (p : List W64) (k : Nat) : Desc := parseDesc (outWords p k)

/-- Whether context `c` may not name an output descriptor (R141, R202, R306). -/
def outDescBad (b : Block) (c : Ctx) (p : List W64) (k off : Nat) : Bool :=
  decide (32768 ≤ off) || malformed (outWords p k) false || (outDesc p k).typ != gpOtype p
  || ((outDesc p k).chkEn && decide (chkOwner b (outDesc p k).chkCh ≠ c))

/-- The refusals of R141 for program `p` on array `n`. -/
def progBad (b : Block) (c : Ctx) (n : Arr) (p : List W64) (close : Bool) : Bool :=
  let h := wallH (getArr b n).wallNext
  let w := wallW (getArr b n).wallNext
  let act := gpAct p
  let p3 := fun t => t ≤ 2
  gp p 0 47 42 != 0 || gp p 0 51 51 != 0 || gp p 0 63 60 != 0 || gp p 1 63 49 != 0
  || (List.range 5).any (fun i => gp p (2 + i) 63 52 != 0)
  || decide (5 < gpScale p) || gpBias p == 3 || !(act ≤ 8 || (0x11 ≤ act && act ≤ 0x18))
  || !typeGlaze (gpOtype p) || (gpSide p && !p3 (gpStype p)) || (gpSideRows p && !p3 (gpPtype p))
  || (gpOtype p == 0x0B && (!gpExact p || !close))
  || (gpDeriv p && act == 0) || (gpRacc p && close)
  || decide (4096 < (if gpDest p == 3 then 0 else rowBytes (gpOtype p) w) + (if gpSecond p && gpDest p != 3 then rowBytes (gpOtype p) w else 0)
      + (if gpSide p then rowBytes (gpStype p) w else 0))
  || (gpDest p == 0 && (outDescBad b c p 0 (gpOut p) || (gpSecond p && outDescBad b c p 1 (gpOut2 p))))
  || (typeIsComplex (gpOtype p) && (act != 0 || gpBias p != 0 || gpRaxis p != 0))
  || (stagOffsets p close).any (fun o => o % 64 != 0)
  || (progStaging p close h w none).any (fun r => decide (stagSpan b n < r.1 + r.2.1) || !inWin b c (n.val + 1) r.1 r.2.1)
  || (progVec p h w none).any (fun r => decide (regionSize 7 < r.1 + r.2) || !inWin b c 5 r.1 r.2)
  || (gpChkEn p && decide (chkOwner b (gpChkCh p) ≠ c))

/-- Peers of a program's memory outputs (R291). -/
def progPeers (p : List W64) : List Nat :=
  if gpDest p != 0 then []
  else ([0] ++ (if gpSecond p then [1] else [])).filterMap (fun k => if (outDesc p k).peerEn then some (outDesc p k).peer else none)

/-- Scoreboard tokens of a drained tile under a program: what its rows read and write on the engine. The tile of a close is known only when it
drains, so a close takes the ranges of all tiles (R20, R143). -/
def progTokens (b : Block) (n : Arr) (p : List W64) (close : Bool) (walk : Option Nat) : List Token :=
  let h := wallH (getArr b n).wallNext
  let w := wallW (getArr b n).wallNext
  (progStaging p close h w walk).map (fun r => ⟨.range (feederAddr b n r.1) (feederAddr b n r.1 + r.2.1), r.2.2⟩)
  ++ (progVec p h w walk).map (fun r => ⟨.range (vecBase + r.1) (vecBase + r.1 + r.2), true⟩)

/-! ### One row through stages 2 to 8 (R137, R145 to R152) -/

/-- Where a drained tile lies: tile row, tile column, walk index (R143). -/
def tilePlace (b : Block) (n : Arr) (t : TileRead) : Nat × Nat × Nat :=
  let p := t.prog
  match t.kind, t.grp with
  | .close, some g =>
    let e := leNat (sramBytes b (feederAddr b n (gpPre p + 4 * g.val)) 4)
    (bitsOf e 11 0, bitsOf e 23 12, bitsOf e 31 24)
  | _, _ =>
    ((walkPlace p t.walk).1, (walkPlace p t.walk).2, t.walk)

def stagF32 (b : Block) (n : Arr) (off : Nat) : F32 := BitVec.ofNat 32 (leNat (sramBytes b (feederAddr b n off) 4))

/-- A side-row element, converted exactly to FP32 (R144). -/
def sideElem (b : Block) (n : Arr) (p : List W64) (off w h wt i j : Nat) : F32 :=
  let t := gpPtype p
  let k := w * h * wt + i * wt + j
  enc32 (decodeElem t (leNat (sramBytes b (feederAddr b n (off + k * typeBits t / 8)) (typeBits t / 8))) 127)

/-- FP32 value of a total at stage 2 (R137). -/
def totalF32 (integer : Bool) (v : W64) : F32 := if integer then enc32 (Num.ofInt v.toInt) else dsHi v
def totalNum (integer : Bool) (v : W64) : Num := if integer then Num.ofInt v.toInt else dsVal v

/-- Stage 2 (R145). -/
def stage2 (b : Block) (n : Arr) (p : List W64) (x : F32) (gr gc : Nat) : F32 :=
  let r := stagF32 b n (gp p 3 25 0 + 4 * gr)
  let c := stagF32 b n (gp p 3 51 26 + 4 * gc)
  match gpScale p with
  | 1 => f32mul x (BitVec.ofNat 32 (gp p 1 31 0))
  | 2 => f32mul x r
  | 3 => f32mul x c
  | 4 => f32mul (f32mul x r) c
  | 5 =>
    let s := (memGet b.sram (feederAddr b n (gp p 3 25 0 + gr * up32 (gpCols p) + gc / 32))).toNat
    if s == 0xFF then enc32 .nan else enc32 ((dec32 x).scale2 ((s : Int) - 127))
  | _ => x

/-- Stage 3 (R145): the pre-activation. -/
def stage3 (b : Block) (n : Arr) (p : List W64) (x : F32) (gr gc : Nat) : F32 :=
  match gpBias p with
  | 1 => f32add x (stagF32 b n (gp p 4 25 0 + 4 * gr))
  | 2 => f32add x (stagF32 b n (gp p 4 25 0 + 4 * gc))
  | _ => x

/-- Stage 4 (R147): main and second output from the stage-3 value and the side-lane values. -/
def stage4 (p : List W64) (g pre gate : F32) : F32 × F32 :=
  let fn := gpAct p % 16
  if gpGated p then
    if gpDeriv p then (f32mul (f32mul g gate) (actF' fn pre), f32mul g (actF fn pre))
    else (f32mul (actF fn g) pre, f32zero)
  else if gpDeriv p then (f32mul g (actF' fn pre), f32zero)
  else (actF fn g, f32zero)

/-- One element of a row on its way: global column, kept, stage-3, stage-4 main and second values, exact total. -/
structure GElem where
  j : Nat
  gc : Nat
  kept : Bool
  beyond : Bool             -- beyond the extent (R149)
  pre : F32
  main : F32
  second : F32
  exact : Num
  mainIm : F32
  exactIm : Num
  deriving DecidableEq, Repr

def bitmapBit (b : Block) (n : Arr) (off k : Nat) : Bool := bitAt (memGet b.sram (feederAddr b n (off + k / 8))).toNat (k % 8)

/-- Position of an output element in the descriptor's coordinates (R153, R205). -/
def outPos (d : Desc) (gr gc : Nat) : List Int := [(gc : Int), (gr : Int), d.wloAt 2, d.wloAt 3, d.wloAt 4]

/-- Stages 2 to 5 on one row of a tile at (tr, tc) with walk index `wk`. R138 gives complex tiles a complex output: a complex tile under a real
output type, and the imaginary half of a real tile under a complex one, are open (log 10). -/
def rowElems (b : Block) (n : Arr) (t : TileRead) (row : DRow) (tr tc wk : Nat) : List GElem :=
  let p := t.prog
  let gr := tr * t.h + row.row
  let d := outDesc p 0
  let moff := gp p 4 51 26
  let pre0 := if decide (t.kind = .close) then gpPre p + 256 else gpPre p
  (List.range t.w).map (fun j =>
    let gc := tc * t.w + j
    let total := row.vals.getD j 0#64
    let totalIm := row.valsIm.getD j 0#64
    let x := stage3 b n p (stage2 b n p (totalF32 t.integer total) gr gc) gr gc
    let xi := stage2 b n p (totalF32 t.integer totalIm) gr gc
    let ow := fun (k : Nat) => ((Config.openWord b.freeTick (2 * (row.row * t.w + j) + k)).setWidth 32 : F32)
    let lost := t.complex && !typeIsComplex (gpOtype p)
    let noIm := !t.complex && typeIsComplex (gpOtype p)
    let side := if gpSideRows p then sideElem b n p pre0 wk t.h t.w row.row j else f32zero
    let gate := if gpSecond p then sideElem b n p (gpGate p) wk t.h t.w row.row j else f32zero
    let y := stage4 p x side gate
    let masked := (gpRmask p && bitmapBit b n moff gr) || (gpCmask p && bitmapBit b n (moff + up64 ((gpRows p + 7) / 8)) gc)
      || (gpDest p == 0 && !d.inWindow (outPos d gr gc))
    let far := decide (t.n ≤ j) || (typeIsMX (gpOtype p) && decide (gpCols p ≤ gc))
    { j := j, gc := gc, kept := !masked && !far && !decide (t.m ≤ row.row), beyond := far,
      pre := if lost then ow 0 else x, main := if lost then ow 0 else y.1, second := if lost then ow 1 else y.2
      exact := if lost then dec32 (ow 0) else totalNum t.integer total
      mainIm := if noIm then ow 1 else xi, exactIm := if noIm then dec32 (ow 1) else totalNum t.integer totalIm })

/-- Rounding of stage 8 for the element at (i, j) (R152, R48). -/
def stage8Rnd (t : TileRead) (wk i j im : Nat) : Rnd :=
  if gpStoch t.prog then
    .stoch (draw16 (drawKey t.seed (if decide (t.kind = .close) then 2 ^ 40 - 1 else wk % (2 ^ 40 - 1)) im i j) 0)
  else .rne

/-- Converted bytes of a non-MX element (R152); complex pairs give both halves. -/
def elemOut (t : TileRead) (ot wk i : Nat) (e : GElem) (second : Bool) : List Byte :=
  let p := t.prog
  let v := if second then dec32 e.second else if gpExact p then e.exact else dec32 e.main
  if typeIsComplex ot then
    let h := halfType ot
    let vi := if gpExact p then e.exactIm else dec32 e.mainIm
    leBytes (typeBits h / 8) (encodeElem h (stage8Rnd t wk i e.j 0) (gpSat p) v)
      ++ leBytes (typeBits h / 8) (encodeElem h (stage8Rnd t wk i e.j 1) (gpSat p) vi)
  else leBytes (typeBits ot / 8) (encodeElem ot (stage8Rnd t wk i e.j 0) (gpSat p) v)

/-- An MX block of a row: whether it is written, whether a mask was widened, its element bytes and its scale (R149, R52). A block that holds no
kept element widens no mask (DESIGN CHOICE, log 120: R149 does not say what MASK_WIDENED reads then). -/
def mxBlock (t : TileRead) (ot wk i : Nat) (es : List GElem) (second : Bool) : Bool × Bool × List Byte × Byte :=
  let p := t.prog
  let live := es.filter (fun e => !e.beyond)
  let anyDrop := live.any (fun e => !e.kept)
  let anyKept := live.any (fun e => e.kept)
  let val := fun (e : GElem) => if second then dec32 e.second else if gpExact p then e.exact else dec32 e.main
  let (s, codes) := mxEncode ot (live.map (fun e => stage8Rnd t wk i e.j 0)) (live.map val)
  let img := (live.zip codes).foldl (fun a q => a + q.2 * 2 ^ ((q.1.j % 32) * typeBits ot)) 0
  (anyKept && !anyDrop, anyKept && anyDrop, leBytes (mxBlockBytes ot) img, BitVec.ofNat 8 s)

def chunk32 : Nat → List GElem → List (List GElem)
  | 0, _ => []
  | n + 1, l => l.take 32 :: chunk32 n (l.drop 32)

/-- Columns at or beyond EXT0 of the descriptor that an MX output goes to lie beyond the extent as those beyond N and COLS do: they hold +0, stay
out of the scale and discard nothing (R38, R149, R205). -/
def beyondOut (p : List W64) (d : Desc) (es : List GElem) : List GElem :=
  if gpDest p == 0 && typeIsMX (gpOtype p) then es.map (fun e => { e with beyond := e.beyond || decide (d.extAt 0 ≤ e.gc) }) else es

/-- Elements that stage 5 keeps: for an MX output a block with a discarded column is discarded whole (R149). Columns of an MX edge block that lie
beyond N or COLS are kept out of the side output (DESIGN CHOICE, log 120: R149 says how the main output writes them). -/
def keptElems (ot : Nat) (es : List GElem) : List GElem :=
  if typeIsMX ot then
    (chunk32 (up32 es.length) es).flatMap (fun l => if l.all (fun e => e.beyond || e.kept) then l.filter (·.kept) else [])
  else es.filter (·.kept)

/-- What a row writes: element pieces (first column, bytes) and scale bytes (block index, byte), and whether a mask was widened. -/
def rowOut (t : TileRead) (ot wk i : Nat) (es : List GElem) (second : Bool) : List (Nat × List Byte) × List (Nat × Byte) × Bool :=
  if typeIsMX ot then
    let bl := (chunk32 (up32 t.w) es).map (fun l => (l, mxBlock t ot wk i l second))
    let ok := bl.filter (fun x => x.2.1)
    (ok.map (fun x => ((x.1.headD ⟨0, 0, false, false, 0, 0, 0, .nan, 0, .nan⟩).j, x.2.2.2.1)),
     ok.map (fun x => ((x.1.headD ⟨0, 0, false, false, 0, 0, 0, .nan, 0, .nan⟩).j / 32, x.2.2.2.2)), bl.any (fun x => x.2.2.1))
  else ((es.filter (·.kept)).map (fun e => (e.j, elemOut t ot wk i e second)), [], false)

/-- The main or second output of a row to staging or the vector store (R153), at flat base `base` of the output. -/
def writeLocal (b : Block) (t : TileRead) (ot base wk i : Nat) (o : List (Nat × List Byte) × List (Nat × Byte) × Bool) : Block × Bool :=
  let tb := base + wk * tileOutBytes ot t.h t.w
  let l := o.1.flatMap (fun q => q.2.mapIdx (fun k x => (ByteRef.mem (tb + (i * t.w + q.1) * typeBits ot / 8 + k), x)))
    ++ o.2.1.map (fun q => (ByteRef.mem (tb + t.h * t.w * typeBits ot / 8 + i * up32 t.w + q.1), q.2))
  scatter b l

/-- Element bytes of a row to memory: of the elements, or MX blocks, that lie in the descriptor's bounds and in its window (R153, R205). -/
def memElems (d : Desc) (t : TileRead) (tc gr : Nat) (o : List (Nat × List Byte) × List (Nat × Byte) × Bool) : List Seg :=
  o.1.flatMap (fun q =>
    let p := outPos d gr (tc * t.w + q.1)
    if d.inBounds p && d.inWindow p then q.2.mapIdx (fun k x => (⟨va49 (d.addr p + (k : Nat)), .const x⟩ : Seg)) else [])

/-- Scale bytes of a row to memory. -/
def memScales (d : Desc) (t : TileRead) (tc gr : Nat) (o : List (Nat × List Byte) × List (Nat × Byte) × Bool) : List Seg :=
  o.2.1.flatMap (fun q =>
    let p := outPos d gr (tc * t.w + q.1 * 32)
    if d.inBounds p && d.inWindow p then [(⟨va49 (d.scaleAddr (d.addr p)), .const q.2⟩ : Seg)] else [])

/-- Bytes of a row to memory in request order. -/
def memSegs (d : Desc) (t : TileRead) (tc gr : Nat) (o : List (Nat × List Byte) × List (Nat × Byte) × Bool) : List Seg :=
  memElems d t tc gr o ++ memScales d t tc gr o

/-- Appends bytes to the output stream of entry `e` to descriptor `idx`, created at the tile's first row. -/
def feedStream (b : Block) (t : TileRead) (idx : Nat) (d : Desc) (segs : List Seg) : Block :=
  match b.streams.find? (fun x => decide (x.owner = .entry t.entry) && x.desc == idx) with
  | some x => modStream b x.id (fun x => { x with segs := x.segs ++ segs, todo := x.todo ++ segs })
  | none =>
    let (i, b) := fresh b
    { b with streams := b.streams ++ [{ Stream.plain i (.entry t.entry) t.ctx t.gen true idx segs (d.tagq + 1) (if d.peerEn then some d.peer else none) with
        wheel := some (gpWheel t.prog) }] }

/-! ### What a row reads, under ECC (R16, R144, R341) -/

/-- Ranges of its staging, and records it combines with, that a row reads on its way. -/
def rowReads (b : Block) (n : Arr) (t : TileRead) (row tr tc wk : Nat) : List (Nat × Nat) :=
  let p := t.prog
  let gr := tr * t.h + row
  let gc := tc * t.w
  let at_ := fun (off len : Nat) => (feederAddr b n off, len)
  let close := decide (t.kind = .close)
  let side := rowElemBytes (gpPtype p) t.w
  let sideAt := wk * t.h * side + row * side
  let moff := gp p 4 51 26
  (match close, t.grp with | true, some g => [at_ (gpPre p + 4 * g.val) 4] | _, _ => [])
  ++ (if gpSideRows p then [at_ ((if close then gpPre p + 256 else gpPre p) + sideAt) side] else [])
  ++ (if gpSecond p then [at_ (gpGate p + sideAt) side] else [])
  ++ (if gpScale p == 2 || gpScale p == 4 then [at_ (gp p 3 25 0 + 4 * gr) 4] else [])
  ++ (if gpScale p == 3 || gpScale p == 4 then [at_ (gp p 3 51 26 + 4 * gc) (4 * t.w)] else [])
  ++ (if gpScale p == 5 then [at_ (gp p 3 25 0 + gr * up32 (gpCols p) + gc / 32) (up32 t.w)] else [])
  ++ (if gpBias p == 1 then [at_ (gp p 4 25 0 + 4 * gr) 4] else [])
  ++ (if gpBias p == 2 then [at_ (gp p 4 25 0 + 4 * gc) (4 * t.w)] else [])
  ++ (if gpRmask p then [at_ (moff + gr / 8) 1] else [])
  ++ (if gpCmask p then [at_ (moff + up64 ((gpRows p + 7) / 8) + gc / 8) ((t.w + 7) / 8)] else [])
  ++ (if gpRacc p && bitAt (gpRaxis p) 0 then [(vecBase + gpRed p + gr * recSize (gpRkind p), recSize (gpRkind p))] else [])
  ++ (if gpRacc p && bitAt (gpRaxis p) 1 && row + 1 == t.m then [(vecBase + gpRed p + (gpRows p + gc) * recSize (gpRkind p), t.w * recSize (gpRkind p))] else [])

/-- Reads of ranges meet ECC. -/
def readsEcc (b : Block) (l : List (Nat × Nat)) : Block × Bool :=
  if b.ecc1.isEmpty && b.ecc2.isEmpty then (b, false)
  else l.foldl (fun (p : Block × Bool) q => let (b, bad) := eccRead p.1 q.1 q.2 false; (b, p.2 || bad)) (b, false)

/-! ### Reductions (R150) -/

/-- A record of no element. -/
def redZero (k : Nat) : List F32 := List.replicate (match k with | 0 => 1 | 1 => 1 | 2 => 2 | _ => 3) 0#32

/-- One more element in a record: [sum], [sum of squares], [sum, sum of squares] or [n, mean, M2] (n as a number in 32 bits). -/
def redStep (k : Nat) (r : List F32) (x : F32) : List F32 :=
  let a := r.getD 0 0#32
  let c := r.getD 1 0#32
  match k with
  | 0 => [f32add a x]
  | 1 => [f32add a (f32mul x x)]
  | 2 => [f32add a x, f32add c (f32mul x x)]
  | _ =>
    let n := a + 1#32
    let delta := f32sub x c
    let mean := f32add c (f32div delta (f32ofNat n.toNat))
    [n, mean, f32add (r.getD 2 0#32) (f32mul delta (f32sub x mean))]

/-- Combination of a tile's record with the stored one (R150, RACC). With n = na + nb = 0 mean and M2 are +0 (DESIGN CHOICE, log 120: the
formula divides 0 by 0 there). -/
def redJoin (k : Nat) (a t : List F32) : List F32 :=
  match k with
  | 3 =>
    let na := a.getD 0 0#32
    let nb := t.getD 0 0#32
    let n := na + nb
    let fn := f32ofNat n.toNat
    let fa := f32ofNat na.toNat
    let fb := f32ofNat nb.toNat
    let delta := f32sub (t.getD 1 0#32) (a.getD 1 0#32)
    if n == 0#32 then [n, f32zero, f32zero]
    else [n, f32add (a.getD 1 0#32) (f32div (f32mul delta fb) fn),
      f32add (f32add (a.getD 2 0#32) (t.getD 2 0#32)) (f32div (f32mul (f32mul (f32mul delta delta) fa) fb) fn)]
  | _ => a.zipWith f32add t

/-- Writes a reduction record at a vector-store offset. -/
def redWrite (b : Block) (p : List W64) (off : Nat) (r : List F32) : Block × Bool :=
  let k := gpRkind p
  let old := (List.range (recSize k / 4)).map (fun i => (BitVec.ofNat 32 (leNat (sramBytes b (vecBase + off + 4 * i) 4)) : F32))
  let r := if gpRacc p then redJoin k (old.take 3) r else r
  let r := if k == 3 then r ++ [if r.getD 0 0#32 == 0#32 then f32zero else f32div (r.getD 2 0#32) (f32ofNat (r.getD 0 0#32).toNat)] else r
  sramWrite b (vecBase + off) (r.flatMap (fun x => leBytes 4 x.toNat))

def redAt (rkind : Nat) (l : List (Nat × List F32)) (k : Nat) : List F32 := ((l.find? (fun q => q.1 == k)).map (·.2)).getD (redZero rkind)

/-! ### Handing a row on (R153 to R158, R407) -/

def modTile (b : Block) (n : Arr) (tid : Nat) (f : DTile → DTile) : Block :=
  modArr b n (fun a => { a with tiles := a.tiles.map (fun t => if t.tid == tid then f t else t) })

/-- Element bytes a row sends through its wheel. -/
def wheelBytes (t : TileRead) : Nat :=
  if gpDest t.prog == 0 then rowElemBytes (gpOtype t.prog) t.w * (if gpSecond t.prog then 2 else 1) else 0

/-- Guard prefix destination of a drained tile (R311): address of its first written element, or byte offset; and REGION. A tile without a
written element has the address of its element (0, 0); DEST 0x3 folds both as 0 (DESIGN CHOICE, log 52). -/
def tileDest (n : Arr) (t : TileRead) (tr tc wk : Nat) (segs : List Seg) : Nat × Nat :=
  match gpDest t.prog with
  | 0 => ((segs.headD ⟨(Desc.addr (outDesc t.prog 0) (outPos (outDesc t.prog 0) (tr * t.h) (tc * t.w))).toNat, .const 0⟩).va, 0)
  | 1 => (gpOut t.prog + wk * tileOutBytes (gpOtype t.prog) t.h t.w, n.val + 1)
  | 2 => (gpOut t.prog + wk * tileOutBytes (gpOtype t.prog) t.h t.w, 5)
  | _ => (0, 0)

/-- The guard prefix of a drained tile (R158, R311); `segs` are the bytes of its first row that writes one. -/
def tilePrefix (b : Block) (n : Arr) (t : TileRead) (segs : List Seg) : List Byte :=
  let (tr, tc, wk) := tilePlace b n t
  let (dest, region) := tileDest n t tr tc wk segs
  guardPrefix b (gpChkCh t.prog) dest region wk (some (t.ctx, t.gen))

/-- A further step of a row; `true` once one of its accesses has met an uncorrectable error. -/
def andThen (s : Block × Bool) (f : Block → Block × Bool) : Block × Bool :=
  let r := f s.1; (r.1, s.2 || r.2)
def onFst (s : Block × Bool) (f : Block → Block) : Block × Bool := (f s.1, s.2)

/-- The side write of a complex tile holds the pre-activation of the real part (DESIGN CHOICE, log 120: R138 does not say). One row through stages
2 to 10 and out; says whether a write met an uncorrectable error. -/
def glazeRow (b : Block) (n : Arr) (d : DTile) (row : DRow) : Block × Bool :=
  let t := d.src
  let p := t.prog
  let ot := gpOtype p
  let (tr, tc, wk) := tilePlace b n t
  let gr := tr * t.h + row.row
  let all := rowElems b n t row tr tc wk
  let es := beyondOut p (outDesc p 0) all
  let main := rowOut t ot wk row.row es false
  let second := rowOut t ot wk row.row (beyondOut p (outDesc p 1) all) true
  let kept := keptElems ot es
  -- stage 7
  let parts := kept.map (·.main) ++ (if t.complex then kept.map (·.mainIm) else [])
  let nan := (parts.filter f32isNan).length
  let posI := (parts.filter (fun x => x == 0x7F800000#32)).length
  let negI := (parts.filter (fun x => x == 0xFF800000#32)).length
  let b := bumpFld (bumpFld (bumpFld b (.glzNan n) 0 32 nan) (.glzInf n) 0 32 posI) (.glzInf n) 32 32 negI
  let b := if main.2.2 then hwSet b (.glzStatus n) 23 else b
  -- stage 6
  let b := if bitAt (gpRaxis p) 0 && (!kept.isEmpty || (decide (row.row < t.m) && decide (gr < gpRows p))) then
      redWrite b p (gpRed p + gr * recSize (gpRkind p)) (kept.foldl (fun r e => redStep (gpRkind p) r e.main) (redZero (gpRkind p)))
    else (b, false)
  let red := if bitAt (gpRaxis p) 1 then
      kept.foldl (fun l e => (e.gc, redStep (gpRkind p) (redAt (gpRkind p) l e.gc) e.main) :: l.filter (fun q => q.1 != e.gc)) d.red
    else d.red
  -- stage 9
  let dd := outDesc p 0
  let segs := if gpDest p == 0 then memSegs dd t tc gr main else []
  let b := andThen b (fun b => match gpDest p with
    | 0 =>
      let b := feedStream b t (gpOut p) dd segs
      (if gpSecond p then feedStream b t (gpOut2 p) (outDesc p 1) (memSegs (outDesc p 1) t tc gr second) else b, false)
    | 1 => andThen (writeLocal b t ot (feederAddr b n (gpOut p)) wk row.row main) (fun b =>
        if gpSecond p then writeLocal b t ot (feederAddr b n (gpOut2 p)) wk row.row second else (b, false))
    | 2 => andThen (writeLocal b t ot (vecBase + gpOut p) wk row.row main) (fun b =>
        if gpSecond p then writeLocal b t ot (vecBase + gpOut2 p) wk row.row second else (b, false))
    | _ => (b, false))
  let b := andThen b (fun b => if gpSide p then
      writeLocal b t (gpStype p) (feederAddr b n (gpSideOff p)) wk row.row
        (kept.map (fun e => (e.j, leBytes (typeBits (gpStype p) / 8) (encodeElem (gpStype p) .rne true (dec32 e.pre)))), [], false)
    else (b, false))
  onFst b (fun b =>
  -- stage 10
  let bytes := if !gpChkEn p || gpDest p == 3 then [] else if gpDest p == 0 then segs.map (fun s => getRef b.sram s.ref)
    else main.1.flatMap (·.2) ++ main.2.1.map (·.2)
  let b := if gpChkEn p && d.rowsOut == 0 then chkHold b (gpChkCh p) (.glaze n) none [] else b
  let b := if bytes.isEmpty then b
    else hwFold b (gpChkCh p) (if d.folded then bytes else tilePrefix b n t segs ++ bytes)
  let b := countAct b (fun a => { a with rows := a.rows + 1 })
  modTile b n d.tid (fun x => { x with rowsOut := x.rowsOut + 1, nan := x.nan + nan, pos := x.pos + posI, negc := x.negc + negI, folded := x.folded || !bytes.isEmpty, red := red }) |> fun b =>
    if t.complex == typeIsComplex ot then b else tickFree b)

/-- The last row of a tile has left: a record for each of its columns, NONFINITE, the channel, whose prefix a tile without a payload byte folds
here (R150, R151, R307, R308). -/
def glazeTileEnd (b : Block) (n : Arr) (d : DTile) : Block × Bool :=
  let t := d.src
  let p := t.prog
  let (_, tc, _) := tilePlace b n t
  let cols := (List.range t.w).map (fun j => tc * t.w + j)
  let b := if bitAt (gpRaxis p) 1 then
      (cols.filter (fun c => d.red.any (fun q => q.1 == c) || (decide (c < tc * t.w + t.n) && decide (c < gpCols p)))).foldl (fun b c =>
        andThen b (fun b => redWrite b p (gpRed p + (gpRows p + c) * recSize (gpRkind p)) (redAt (gpRkind p) d.red c))) (b, false)
    else (b, false)
  onFst b (fun b =>
  let b := if gpChkEn p && !d.folded then hwFold b (gpChkCh p) (tilePrefix b n t []) else b
  let b := if gpChkEn p then chkRelease b (gpChkCh p) else b
  let b := if gpNfEvent p && d.nan + d.pos + d.negc != 0 then
      raise b .nonfinite { ctx := some t.ctx, gen := t.gen, unit := 5, arr := some (n, t.sag), grp := t.grp }
    else b
  modArr b n (fun a => { a with tiles := a.tiles.filter (fun x => x.tid != d.tid) }))

/-! ### Wheels and the vector-store port (R123, R154, R155, R407) -/

/-- Tile of the row at the head of stage 9. -/
def headTile (b : Block) (n : Arr) : Option DTile :=
  match (getArr b n).rows with
  | [] => none
  | r :: _ => (getArr b n).tiles.find? (fun t => t.tid == r.tid)

/-- Whether drain `n` waits for wheel `w`: its next row is at stage 9 and its credit does not cover it. -/
def drainWaits (b : Block) (w : Fin 2) (n : Arr) : Bool :=
  match headTile b n with
  | some d => d.checkDone && gpDest d.src.prog == 0 && decide (gpWheel d.src.prog = w) && decide (d.src.kind ≠ .peer)
      && decide ((getArr b n).credit.get w < wheelBytes d.src)
  | none => false

/-- A store that halted on a page fault holds its wheel's drain traffic (R155): a drain's own output, or a STORE that the wheel turns. -/
def wheelHalted (b : Block) (w : Fin 2) : Bool :=
  b.streams.any (fun x => x.write && x.halted.isSome && decide (x.wheel = some w)
    && (x.turned || (findEntry b x.entryId).all (fun e => decide (e.eunit ≠ .load ∧ e.eunit ≠ .store))))

/-- Whether a turn has bytes ready for its wheel: read bytes that wait, or a next write that the wheel has not turned. -/
def turnReady (x : Stream) : Bool :=
  if x.write then
    (match x.todo with
    | s :: _ => turnWaits x (takeReq (s.va / 256) x.todo).1
    | [] => false)
  else !x.wq.isEmpty

/-- Users of wheel `w` that wait for it: the drains by number, the turns by 4 and the number of their start. -/
def wheelUsers (b : Block) (w : Fin 2) : List Nat :=
  ((allFin 4).filter (drainWaits b w)).map (·.val)
    ++ (b.streams.filter (fun x => x.turned && x.halted.isNone && decide (x.wheel = some w) && turnReady x)).map (fun x => 4 + x.turnNo)

/-- The user that waits and comes next in the rotation, which goes on at `from_`. -/
def nextUser (from_ : Nat) (l : List Nat) : Option Nat :=
  match (l.filter (fun u => decide (from_ ≤ u))).min? with
  | some u => some u
  | none => l.min?

/-- The bytes of a queue that `n` element bytes of service cover: scale bytes ride the scale lane (R123). -/
def wheelTake : Nat → List (ByteRef × Byte) → List (ByteRef × Byte) × List (ByteRef × Byte)
  | _, [] => ([], [])
  | n, (.scale a, v) :: l => let r := wheelTake n l; ((.scale a, v) :: r.1, r.2)
  | 0, l => ([], l)
  | n + 1, p :: l => let r := wheelTake n l; (p :: r.1, r.2)

/-- `n` bytes cross a wheel: its words are written whole and read again (log 34). -/
def passWheel (b : Block) (w : Fin 2) (n : Nat) : Block := countSram (freshEcc b (wheelBase w) (up64 n)) (wheelBase w) (2 * n)

/-- WHEEL_SERVICE (R407): the next waiting user after the one served last moves up to 1,024 B: a drain's credit grows, bytes read are turned
into staging, bytes to write have been turned. -/
def wheelServe (b : Block) (w : Fin 2) : Block :=
  match nextUser (b.wheelNext.get w) (wheelUsers b w) with
  | none => b
  | some u =>
    let b := { b with wheelNext := b.wheelNext.set w.val (u + 1) w.isLt }
    if u < 4 then
      passWheel (modArr b (Fin.ofNat 4 u) (fun a => { a with credit := a.credit.set w.val (a.credit.get w + 1024) w.isLt })) w 1024
    else match b.streams.find? (fun x => x.turned && decide (x.wheel = some w) && 4 + x.turnNo == u && turnReady x) with
      | none => b
      | some x =>
        if x.write then passWheel (modStream b x.id (fun y => { y with wcredit := y.wcredit + 1024 })) w 1024
        else
          let (now, later) := wheelTake 1024 x.wq
          let (b, bad) := scatter (modStream (passWheel b w now.length) x.id (fun y => { y with wq := later })) now
          if bad then raise (stopStream b x) .sramUncorrectable { streamSite b x 0 with addr := none }
          else progress b x.ctx

/-- Whether the head row of drain `n` waits for the vector-store port. -/
def vecWaits (b : Block) (n : Arr) : Bool :=
  match headTile b n with
  | some d => d.checkDone && gpDest d.src.prog == 2 && decide (d.src.kind ≠ .peer)
      && (!gpChkEn d.src.prog || d.rowsOut != 0 || chkTurn b (gpChkCh d.src.prog) d.src.ctx d.src.entry)
  | none => false

/-- The vector-store port serves the drains that wait for it in rotation (R154, R407); its budget of 4,096 B a cycle is timing (log 34). -/
def vecTurn (b : Block) (n : Arr) : Bool :=
  nextUser b.vecNext (((allFin 4).filter (vecWaits b)).map (·.val)) == some n.val

end Sys2Proof.Machine
end

