-- ==== Sys2Proof/Machine/Kiln.lean ====
section
/-! DEFINITION. The kiln (04): slots and sub-slots, spill regions, group records, contributions in rank order, and counting. -/

namespace Sys2Proof.Machine

open Sys2Proof

/-! ### Freezes (R79, R356, R357, R347) -/

/-- The units that P1 gates are clocked and their wake time is over (R347, R348). -/
def awake (b : Block) : Bool := !b.power.p1Gated && decide (b.power.wake ≤ b.beat)

/-! ### Slots (R108, R111) -/

/-- Slots of the kiln, and sub-slots of one slot for a tile shape. -/
def kilnSlots : Nat := 48
def subSlots (shape : Nat) : Nat := wallCount shape

def placeFree (b : Block) (shape : Nat) (p : Nat × Nat) : Bool :=
  b.kiln.all (fun r => r.places.all (fun q => q != p && (q.1 != p.1 || r.shape == shape)))

def allPlaces (shape : Nat) : List (Nat × Nat) :=
  (List.range kilnSlots).flatMap (fun s => (List.range (subSlots shape)).map (fun t => (s, t)))

/-- `n` free sub-slots, lowest first. -/
def findPlaces (b : Block) (shape n : Nat) : Option (List (Nat × Nat)) :=
  let l := ((allPlaces shape).filter (placeFree b shape)).take n
  if l.length == n then some l else none

def findRec (b : Block) (id : Nat) : Option KRec := b.kiln.find? (fun r => r.id == id)
def modRec (b : Block) (id : Nat) (f : KRec → KRec) : Block :=
  { b with kiln := b.kiln.map (fun r => if r.id == id then f r else r) }
def dropRec (b : Block) (id : Nat) : Block := { b with kiln := b.kiln.filter (fun r => r.id != id) }
def dropRecOpt (b : Block) : Option Nat → Block
  | some id => dropRec b id
  | none => b

/-- Sub-slots of one DS64 tile of a group: two for a complex tile (R81, R108). -/
def tileParts (kind : Nat) : Nat := if kind == 1 then 2 else 1

/-- A new record in the kiln; its number and the block. -/
def addRec (b : Block) (g : Grp) (role : KRole) (places : List (Nat × Nat)) : Nat × Block :=
  let (i, b) := fresh b
  let x := getGrp b g
  (i, { b with kiln := b.kiln ++ [{ id := i, grp := g, ctx := x.ctx, role := role, shape := x.shape, places := places, cells := [], cellsIm := [], nadd := 0, lapsed := false }] })

/-! ### Kiln records and ECC (R16, R341); a sub-slot is an equal part of its 2 MiB slot, in order (log 44) -/

def recRanges (r : KRec) : List (Nat × Nat) :=
  let n := 2 ^ 21 / max 1 (subSlots r.shape)
  r.places.map (fun q => (klnBase + 2 ^ 21 * q.1 + n * q.2, n))

/-- Reads of whole records meet ECC; says whether an uncorrectable word was met. -/
def recEcc (b : Block) (l : List KRec) : Block × Bool :=
  (l.flatMap recRanges).foldl (fun (p : Block × Bool) q => let (b, bad) := eccRead p.1 q.1 q.2 false; (b, p.2 || bad)) (b, false)

/-- A record that has been written whole holds fresh ECC. -/
def recFresh (b : Block) (id : Nat) : Block :=
  match findRec b id with
  | some r => (recRanges r).foldl (fun b q => freshEcc b q.1 q.2) b
  | none => b

def grpSite (b : Block) (g : Grp) (unit : Nat) : Site :=
  let x := getGrp b g
  { ctx := some x.ctx, gen := (getCtx b x.ctx).gen, unit := unit, grp := some g }

/-! ### Tiles as bytes: DS64, row-major (R112, R336) -/

def tileBytes (cells : Cells) (n : Nat) : List Byte :=
  (List.range n).flatMap (fun k => leBytes 8 (cellGet cells k).total.toNat)

/-- Cells of a tile read back from memory: the loaded total is the pass-start copy too (R106); a DS64 total is renormalised (R50). -/
def cellsOfBytes (ds : Bool) (n : Nat) (bs : List Byte) : Cells :=
  ((wordsOf n bs).zipIdx).foldl (fun cs p =>
    let v := if ds then dsNormalise p.1 else p.1
    cellPut cs p.2 { Cell.zero with total := v, start := v }) []

/-! ### Stack form (R81, R108) -/

/-- The 16 bytes of an element in stack form: its total, then the lower and the higher occupied stack slot; the INT32 segment sum of an integer
pass, the FP32 accumulator of a P1 pass. -/
def stackBytes (g : CellCfg) (x : Cell) : List Byte :=
  let words := if g.integer || g.mode == 2 then [x.acc] else x.s0.toList ++ x.s1.toList ++ x.s2.toList
  leBytes 8 x.total.toNat ++ leBytes 4 (words.getD 0 0#32).toNat ++ leBytes 4 (words.getD 1 0#32).toNat

/-- The cell that 16 bytes of stack form hold after `c` leaves of the segment: bit `i` of `c` says that level `i` is occupied. -/
def stackCell (g : CellCfg) (c : Nat) (bs : List Byte) : Cell :=
  let total : W64 := BitVec.ofNat 64 (leNat (bs.take 8))
  let lo : F32 := BitVec.ofNat 32 (leNat ((bs.drop 8).take 4))
  let hi : F32 := BitVec.ofNat 32 (leNat ((bs.drop 12).take 4))
  if g.integer || g.mode == 2 then { Cell.zero with total := total, start := total, acc := lo }
  else { Cell.zero with
    total := total, start := total
    s0 := if c % 2 == 1 then some lo else none
    s1 := if c / 2 % 2 == 1 then some (if c % 2 == 1 then hi else lo) else none
    s2 := if c / 4 % 2 == 1 then some (if c % 4 == 0 then lo else hi) else none }

/-- A tile at rest: totals, with the pass-start copy equal to them and everything else clear. -/
def atRest (cells : Cells) : Cells :=
  cells.foldl (fun cs p => cellPut cs p.1 { Cell.zero with total := p.2.total, start := p.2.total }) []

/-! ### Spill regions (R112) -/

def spillBase (b : Block) (c : Ctx) : Nat := 2 ^ 21 * getFld b (.klnSpillBase c) 21 28
def spillUnits (b : Block) (c : Ctx) : Nat := getFld b (.klnSpillSize c) 0 16

/-- The `n` lowest free units of a context's region (a complex tile takes two, log 17). -/
def freeUnits (b : Block) (c : Ctx) (n : Nat) : Option (List Nat) :=
  let used := (b.spillUse.filter (fun u => decide (u.1 = c))).map (·.2.1)
  let l := ((List.range (spillUnits b c)).filter (fun i => !used.contains i)).take n
  if l.length == n then some l else none

def unitsOfGrp (b : Block) (g : Grp) : List Nat := (b.spillUse.filter (fun u => decide (u.2.2 = g))).map (·.2.1)
def releaseUnits (b : Block) (g : Grp) : Block := { b with spillUse := b.spillUse.filter (fun u => !decide (u.2.2 = g)) }

def findXfer (b : Block) (i : Nat) : Option Xfer := b.xfers.find? (fun x => x.id == i)
def modXfer (b : Block) (i : Nat) (f : Xfer → Xfer) : Block := { b with xfers := b.xfers.map (fun x => if x.id == i then f x else x) }
def dropXfer (b : Block) (i : Nat) : Block := { b with xfers := b.xfers.filter (fun x => x.id != i) }

/-- A transfer of group `g`'s tile starts (R107); its number and the block. -/
def addXfer (b : Block) (kind : XKind) (g : Grp) (entry rec_ unit_ : Nat) (arr : Arr) (sag : Sag) (bank : BankIx) : Nat × Block :=
  let (i, b) := fresh b
  (i, { b with xfers := b.xfers ++ [{ id := i, kind := kind, grp := g, ctx := (getGrp b g).ctx, entry := entry, rec_ := rec_, unit_ := unit_, arr := arr, sag := sag, bank := bank, ready := false, target := 64, rank := 0 }] })

/-- The stream of a spill or return, through the M-ports of the group's context. -/
def xferStream (b : Block) (x : Nat) (c : Ctx) (write : Bool) (segs : List Seg) : Block :=
  let (i, b) := fresh b
  { b with streams := b.streams ++ [Stream.plain i (.xfer x) c (getCtx b c).gen write 0 segs 4096 none] }

/-- The memory traffic of a transfer is over. -/
def xferMoved (b : Block) (x : Nat) : Bool :=
  b.streams.any (fun y => decide (y.owner = .xfer x) && streamDone b y.id)
def dropXferStreams (b : Block) (x : Nat) : Block := { b with streams := b.streams.filter (fun y => !decide (y.owner = .xfer x)) }

def grpElems (x : GroupSt) : Nat := wallH x.shape * wallW x.shape

/-- Bytes of a tile's units: T0 in the first, T1 in the second. -/
def unitSegs (b : Block) (c : Ctx) (us : List Nat) (n : Nat) (ref : Nat → Nat → ByteRef) : List Seg :=
  us.zipIdx.flatMap (fun p => (List.range (8 * n)).map (fun i =>
    (⟨spillBase b c + 2 ^ 21 * p.1 + i, ref p.2 i⟩ : Seg)))

/-- Writes record `r`'s tile to units of its context's region; a tile that cannot be read halts its context and stays. -/
def startSpill (b : Block) (r : KRec) (us : List Nat) (entry : Nat) : Block :=
  let (b, bad) := recEcc b [r]
  if bad then raise b .sramUncorrectable (grpSite b r.grp 6) else
  let x := getGrp b r.grp
  let n := grpElems x
  let t0 := tileBytes r.cells n
  let t1 := tileBytes r.cellsIm n
  let (i, b) := addXfer b .spill r.grp entry r.id (us.headD 0) 0 0 0
  let b := { b with spillUse := b.spillUse ++ us.map (fun u => (r.ctx, u, r.grp)) }
  xferStream b i r.ctx true (unitSegs b r.ctx us n (fun k j => .const ((if k == 0 then t0 else t1).getD j 0)))

/-- Reads a spilled tile back into the transfer's buffer. -/
def startReturn (b : Block) (kind : XKind) (g : Grp) (entry : Nat) (arr : Arr) (sag : Sag) (bank : BankIx) : Block :=
  let x := getGrp b g
  let us := unitsOfGrp b g
  let (i, b) := addXfer b kind g entry 0 (us.headD 0) arr sag bank
  xferStream b i x.ctx false (unitSegs b x.ctx us (grpElems x) (fun k j => .mem (bufBase i + 2 ^ 22 * k + j)))

/-- The tile that a return has read. -/
def returned (b : Block) (x : Xfer) : Cells × Cells :=
  let n := grpElems (getGrp b x.grp)
  let ds := (getGrp b x.grp).kind != 2
  (cellsOfBytes ds n (sramBytes b (bufBase x.id) (8 * n)),
   if (getGrp b x.grp).kind == 1 then cellsOfBytes ds n (sramBytes b (bufBase x.id + 2 ^ 22) (8 * n)) else [])

/-! ### Taking a slot (R111) -/

inductive Took where
  | places (l : List (Nat × Nat))
  | evicting
  | no
  deriving DecidableEq, Repr

/-- The DS64 tile parked earliest whose context's region has room. -/
def victim (b : Block) : Option (KRec × List Nat) :=
  (b.kiln.filter (fun r => decide (r.role = .tile) && !r.places.isEmpty && b.xfers.all (fun x => x.rec_ != r.id)
    && ((getGrp b r.grp).state = .parked ∨ (getGrp b r.grp).state = .waiting)
    && decide ((getGrp b r.grp).loc = .kiln r.id)
    && (faultable b r.ctx || (recRanges r).all (fun q => b.ecc2.all (fun w => !(decide (q.1 ≤ 8 * w) && decide (8 * w < q.1 + q.2))))))).findSome? (fun r =>
      (freeUnits b r.ctx (tileParts (getGrp b r.grp).kind)).map (fun us => (r, us)))

/-- Steps 1 and 2 of R111: places, or an eviction under way, or neither; no eviction starts in a VWARN freeze (R357). -/
def takeSlots (b : Block) (shape n : Nat) : Block × Took :=
  match findPlaces b shape n with
  | some l => (b, .places l)
  | none =>
    if frozenV b then (b, .no)
    else if b.xfers.any (fun x => x.kind = .spill && x.entry == 0) then (b, .evicting)
    else if getFld b .klnCfg 4 1 == 0 then (b, .no)
    else match victim b with
      | some (r, us) => (startSpill b r us 0, .evicting)
      | none => (b, .no)

/-! ### Group records -/

/-- The group becomes FREE: its records and units go, its registers keep their last values (R98, R117). -/
def freeGroup (b : Block) (g : Grp) : Block :=
  let b := { b with kiln := b.kiln.filter (fun r => !decide (r.grp = g)) }
  modGrp (releaseUnits b g) g (fun x => { x with state := .free, loc := .nowhere, mRec := none, resRec := none, merging := none, mHas := false, close := none, stack := none })

/-- The group's problem is aborted (R73): its total is discarded. -/
def poison (b : Block) (g : Grp) : Block :=
  modGrp b g (fun x => { x with state := .poisoned, loc := .nowhere, stack := none })

/-- The addition count grows; the first time above 2^22 LAPSED is set and BOUND_LAPSED raised (R93, R94). -/
def addCount (b : Block) (g : Grp) (n : Nat) : Block :=
  let x := getGrp b g
  let v := min (2 ^ 32 - 1) (x.nadd + n)
  let b := modGrp b g (fun x => { x with nadd := v })
  if 2 ^ 22 < v && !x.lapsed && x.kind != 2 && x.mode != 2 then
    raise (modGrp b g (fun x => { x with lapsed := true })) .boundLapsed (grpSite b g 6)
  else b

/-- Addition of two totals of a group (R90, R43, R54). -/
def totalAdd (x : GroupSt) (a c : W64) : W64 :=
  if x.kind == 2 then a + c
  else if x.mode == 2 then dsOfF32 (f32add (dsHi a) (dsHi c))
  else dsAdd a c

def cellsAdd (x : GroupSt) (a c : Cells) : Cells :=
  (List.range (grpElems x)).foldl (fun cs k =>
    let v := totalAdd x (cellGet a k).total (cellGet c k).total
    cellPut cs k { Cell.zero with total := v, start := v }) []

/-! ### Contributions in rank order (R100 to R102) -/

def bufferedRec (b : Block) (g : Grp) (rank : Nat) : Option KRec :=
  b.kiln.find? (fun r => decide (r.grp = g) && decide (r.role = .arrival rank))

/-- Tiles in the arrival buffer, granted ones included. -/
def buffered (b : Block) : Nat :=
  (b.kiln.filter (fun r => match r.role with | .arrival _ => true | _ => false)).length

/-- A merge of `rank` can start: the next rank, accepted, nothing merging, no freeze (R357); rank 0 gives M its value at once. -/
def startMerge (b : Block) (g : Grp) : Block :=
  let x := getGrp b g
  if !frozenV b && x.merging.isNone && x.arrived.contains x.nextRank && decide (x.nextRank < x.nremote) then
    modGrp b g (fun x => { x with merging := some x.nextRank })
  else b

/-- All contributions are in M. -/
def merged (x : GroupSt) : Bool := x.nextRank == x.nremote

/-- The tile of a group is on its way: a park, a load, a spill or a return (R107). -/
def moving (b : Block) (g : Grp) : Bool :=
  b.xfers.any (fun x => decide (x.grp = g) && (x.kind = .park ∨ x.kind = .resume ∨ x.kind = .spill ∨ x.kind = .return_))

/-- COUNT_MET (R99, R103): a waiting close or merge becomes DRAINING, once no transfer moves the group's tile (R111); a close of a context that
is being pre-empted, or has been, stays waiting (R249). -/
def countMet (b : Block) (g : Grp) : Block :=
  let x := getGrp b g
  let c := (getCtx b x.ctx).state
  if x.state = .waiting && x.localCnt + x.remoteCnt == x.expect && !moving b g && decide (c ≠ .preempting ∧ c ≠ .preempted) then
    modGrp b g (fun x => { x with state := .draining })
  else b

/-- LAPSED of a contribution passes to the owner of a float group on merge (R94). -/
def copyLapsed (b : Block) (g : Grp) (lapsed : Bool) : Block :=
  let x := getGrp b g
  if lapsed && x.kind != 2 && x.mode != 2 then modGrp b g (fun x => { x with lapsed := true }) else b

/-- A contribution whose last row has landed is accepted (R99, R100). -/
def acceptContribution (b : Block) (g : Grp) (rank rec_ nadd : Nat) (lapsed : Bool) : Block :=
  let b := recFresh (modRec b rec_ (fun r => { r with nadd := nadd, lapsed := lapsed })) rec_
  let b := modGrp b g (fun x => { x with arrived := rank :: x.arrived, remoteCnt := x.remoteCnt + 1, waitFrom := b.beat })
  let b := progress b (getGrp b g).ctx
  let b := if rank == 0 then
      let b := modGrp b g (fun x => { x with mHas := true, nextRank := 1 })
      copyLapsed (addCount b g nadd) g lapsed
    else b
  countMet (startMerge b g) g

/-- The record in which a rank waits to merge: the reserve's second part, or the arrival buffer. -/
def mergeSource (b : Block) (g : Grp) (rank : Nat) : Option KRec :=
  match bufferedRec b g rank with
  | some r => some r
  | none => (getGrp b g).resRec.bind (findRec b)

/-- KILN_MERGE_COMPLETE (R100): the rank's tile is in M; the next rank starts when it is there. -/
def mergeComplete (b : Block) (g : Grp) : Block :=
  let b := startMerge b g
  let x := getGrp b g
  match x.merging, x.mRec.bind (findRec b) with
  | some rank, some m =>
    if frozenV b then b
    else match mergeSource b g rank with
      | none => b
      | some r =>
        let (b, bad) := recEcc b [m, r]
        if bad then raise (modGrp b g (fun x => { x with merging := none })) .sramUncorrectable (grpSite b g 6) else
        let b := modRec b m.id (fun m => { m with cells := cellsAdd x m.cells r.cells, cellsIm := if x.kind == 1 then cellsAdd x m.cellsIm r.cellsIm else [] })
        let b := copyLapsed (addCount b g (r.nadd + 1)) g r.lapsed
        let b := match r.role with
          | .arrival _ => dropRec b r.id
          | _ => modRec b r.id (fun r => { r with cells := [], cellsIm := [] })
        startMerge (modGrp b g (fun x => { x with merging := none, nextRank := rank + 1 })) g
  | _, _ => b

inductive OfferAns where
  | retry
  | stale
  | dup
  | other
  | grantReserve
  | grantBuffer
  deriving DecidableEq, Repr

/-- A rank with an open grant: rows of a peer, or the T of a GMERGE, on the way. -/
def openGrant (b : Block) (g : Grp) (rank : Nat) : Bool :=
  b.grants.any (fun t => decide (t.grp = g) && t.rank == rank)
    || b.xfers.any (fun x => x.kind = .gmerge && x.target == g.val && x.rank == rank)

def ckptRunning (b : Block) (c : Ctx) : Bool := b.entries.any (fun e => decide (e.ctx = c) && wOpc e.word.toNat == 0x58)

/-- The answer to an offer of `rank` for `g` (R101); `round` is absent for GMERGE (R105). A running CKPT answers RETRY (R335). -/
def offerAnswer (b : Block) (g : Grp) (rank : Nat) (round : Option (BitVec 16)) : OfferAns :=
  let x := getGrp b g
  let diff := match round with | some r => (r - x.round).toNat | none => 0
  if ckptRunning b x.ctx && decide (x.state ≠ .free) then .retry
  else if x.state = .free ∨ x.state = .closed ∨ x.state = .draining then .retry
  else if 1 ≤ diff && diff ≤ 0x7FFF then .retry
  else if diff != 0 then .stale
  else if x.nremote ≤ rank then .other
  else if x.arrived.contains rank then .dup
  else if x.state = .poisoned then .other
  else if openGrant b g rank then .retry
  else if rank == x.nextRank then .grantReserve
  else if buffered b < getFld b .klnCfg 0 4 then .grantBuffer
  else .retry

/-- KLN_REJECTS (R101, R116). -/
def countReject (b : Block) : OfferAns → Block
  | .stale => bumpFld b .klnRejects 0 16 1
  | .dup => bumpFld b .klnRejects 16 16 1
  | .other => bumpFld b .klnRejects 32 16 1
  | _ => b

/-- The record that a granted rank lands in: the reserve part, or a buffer slot; none when no slot is free, which starts an eviction if it can. -/
def grantRec (b : Block) (g : Grp) (rank : Nat) : OfferAns → Block × Option Nat
  | .grantReserve => (b, if rank == 0 then (getGrp b g).mRec else (getGrp b g).resRec)
  | .grantBuffer =>
    (match takeSlots b (getGrp b g).shape (tileParts (getGrp b g).kind) with
    | (b, .places l) => let (i, b) := addRec b g (.arrival rank) l; (b, some i)
    | (b, _) => (b, none))
  | _ => (b, none)

/-- The merge reserve of R102: M's part and the landing part. -/
def takeReserve (b : Block) (g : Grp) : Block × Took :=
  let x := getGrp b g
  let n := tileParts x.kind
  match takeSlots b x.shape (2 * n) with
  | (b, .places l) =>
    let (m, b) := addRec b g .m (l.take n)
    let (r, b) := addRec b g .reserve (l.drop n)
    (modGrp b g (fun x => { x with mRec := some m, resRec := some r }), .places l)
  | r => r

/-- T = L + M (R104): the local total with M added when M exists, or M alone when the local share is 0; the reserve goes. -/
def formT (b : Block) (g : Grp) (l : Cells × Cells) : Block × (Cells × Cells) :=
  let x := getGrp b g
  match x.mRec.bind (findRec b) with
  | some m =>
    let alone := x.expect == x.nremote
    let t := if alone then (m.cells, m.cellsIm)
      else (cellsAdd x l.1 m.cells, if x.kind == 1 then cellsAdd x l.2 m.cellsIm else [])
    let b := dropRecOpt (dropRecOpt b x.mRec) x.resRec
    let b := modGrp b g (fun x => { x with mRec := none, resRec := none })
    (if alone then b else addCount b g 1, t)
  | none => (b, l)

end Sys2Proof.Machine
end

