-- ==== Sys2Proof/Machine/Arrays.lean ====
section
/-! DEFINITION. Arrays (03): bank choice, passes and their input cycles, the row path, the checksum compare, replays, walls, ramps and
gating, and the glaze drain's row output. -/

namespace Sys2Proof.Machine

open Sys2Proof

/-! ### PASS and GANG words (R57, R69) -/

def pArr (w : Nat) : Arr := arrAt w 33 32
def pEnd (w : Nat) : Nat := bitsOf w 35 34
def pGrpEn (w : Nat) : Bool := bitAt w 36
def pGroup (w : Nat) : Nat := bitsOf w 42 37
def pSag (w : Nat) : Sag := Fin.ofNat 16 (bitsOf w 46 43)
def pTA (w : Nat) : Nat := bitsOf w 54 47
def pTB (w : Nat) : Nat := bitsOf w 62 55
def pM (w : Nat) : Nat := bitsOf w 71 63 + 1
def pN (w : Nat) : Nat := bitsOf w 80 72 + 1
def pK (w : Nat) : Nat := bitsOf w 97 81
def pAbft (w : Nat) : Nat := bitsOf w 109 108
def pMask (w : Nat) : Nat := bitsOf w 113 110
def pOrient (w : Nat) : Bool := bitAt w 114

def isGang (w : Nat) : Bool := wOpc w == 0x21
/-- Members of a PASS or GANG, ascending. -/
def members (w : Nat) : List Arr := if isGang w then (allFin 4).filter (fun n => bitAt (pMask w) n.val) else [pArr w]
/-- Group of member `p` of the instruction. -/
def memberGrp (w p : Nat) : Option Grp := if pGrpEn w then some (Fin.ofNat 64 (pGroup w + p)) else none
/-- Place of array `n` among the members. -/
def memberIx (w : Nat) (n : Arr) : Nat := ((members w).findIdx (· == n))

/-! ### Idle time, gating and ramps (R67, R68, R79) -/

/-- No freeze, stop or gated power holds a usable array. -/
def arrAwake (b : Block) (n : Arr) : Bool := !frozenV b && !stoppedT b && awake b && usable b n

/-- The array advances: not frozen, not stopped, clocked. -/
def arrRuns (b : Block) (n : Arr) : Bool := arrAwake b n && decide ((getArr b n).gate ≠ .gated)

def touchArr (b : Block) (n : Arr) : Block := modArr b n (fun a => { a with idleSince := arrNow b })

def rampSteps (b : Block) (n : Arr) : Nat := if getFld b (.arrRamp n) 4 1 == 1 then 8 else 16
def rampLen (b : Block) (n : Arr) : Nat := getFld b (.arrRamp n) 0 4

/-- A change of level starts (R67). -/
def rampTo (b : Block) (n : Arr) (r : Ramp) (to_ : Nat) : Ramp :=
  if r.to_ == to_ then r else ⟨r.level, to_, 0, rampSteps b n, r.level, 0⟩

/-- The advance ramp from level 0 of an array that starts or resumes. -/
def startAdvance (b : Block) (n : Arr) : Block :=
  modArr b n (fun a => { a with gate := .ramping, adv := ⟨0, 64, 0, rampSteps b n, 0, 0⟩ })

/-- Level in step `s` (R67): the change's fraction, rounded toward the old level. -/
def rampLevel (r : Ramp) (s : Nat) : Nat :=
  if r.from_ ≤ r.to_ then r.from_ + (r.to_ - r.from_) * s / r.steps else r.from_ - (r.from_ - r.to_) * s / r.steps

/-- One step of `len` cycles ends: the next level, and the accumulator after it. -/
def rampStep1 (r : Ramp) (len : Nat) : Ramp :=
  if r.steps ≤ r.step then r
  else
    let lv := rampLevel r (r.step + 1)
    { r with step := r.step + 1, level := lv, acc := (r.acc + len * lv) % 64 }

def rampDone (r : Ramp) : Bool := r.steps ≤ r.step

/-- RAMP_STEP (R67): the running ramps of the array move on by one step; a complete advance ramp leaves the array running. -/
def rampStep (b : Block) (n : Arr) : Block :=
  if frozenV b || stoppedT b || !awake b then b
  else
    modArr b n (fun a =>
      let adv := if a.gate = .ramping then rampStep1 a.adv (rampLen b n) else a.adv
      { a with adv := adv, inp := rampStep1 a.inp (rampLen b n), gate := if a.gate = .ramping && rampDone adv then .running else a.gate })

/-! ### Banks (R55, R56) -/

def bankEmpty (k : BankSt) : Bool := decide (k.state = .empty)

/-- Bank `t` can take a new tile: empty, and the other bank does not hold a single-bank tile. -/
def bankFree (p : PosSt) (t : BankIx) : Bool :=
  bankEmpty (p.bank t) && !((p.bank (1 - t)).single && !bankEmpty (p.bank (1 - t)))

/-- Whether a tile uses both banks (R55). -/
def singleMode (x : GroupSt) : Bool := x.mode == 1 || x.mode == 2 || x.kind == 1

inductive Pick where
  | bank (t : BankIx)
  | wait
  | stuck
  deriving DecidableEq, Repr

/-- A GPARK or GCLOSE dispatched before entry `e` names the tile's group. -/
def willEmpty (b : Block) (e : Nat) (k : BankSt) : Bool :=
  match k.grp with
  | some g => b.entries.any (fun x => decide (x.id < e) && (wOpc x.word.toNat == 0x29 || wOpc x.word.toNat == 0x2B)
      && bitsOf x.word.toNat 37 32 == g.val)
  | none => false

/-- A read in progress, or a park, empties the bank. -/
def emptying (k : BankSt) : Bool := k.state = .reading ∨ k.state = .filling

/-- Choice of a bank for a tile of group `g` (none: ungrouped) at a position (R56). -/
def pickBank (b : Block) (n : Arr) (sag : Sag) (g : Option Grp) (single : Bool) (e : Nat) : Pick :=
  let p := getPos b n sag
  let mine := fun (t : BankIx) => g.isSome && (p.bank t).grp == g && !bankEmpty (p.bank t)
  if mine 0 || mine 1 then
    let t : BankIx := if mine 0 then 0 else 1
    if (p.bank t).state = .held then .bank t else .wait
  else if single then
    if bankEmpty p.b0 && bankEmpty p.b1 then .bank 0
    else if [p.b0, p.b1].any (fun k => emptying k || willEmpty b e k) then .wait else .stuck
  else if bankFree p 0 && bankFree p 1 then .bank (1 - p.last)
  else if bankFree p 0 then .bank 0
  else if bankFree p 1 then .bank 1
  else if [p.b0, p.b1].any (fun k => emptying k || willEmpty b e k) then .wait
  else .stuck

def modBank (b : Block) (n : Arr) (g : Sag) (t : BankIx) (f : BankSt → BankSt) : Block :=
  modPos b n g (fun p => p.setBank t (f (p.bank t)))

/-- A bank that takes the tile of a group from the load path. -/
def loadingBank (b : Block) (g : Grp) : BankSt :=
  let x := getGrp b g
  { BankSt.reset with state := .loading, grp := some g, ctx := x.ctx, single := singleMode x, m := wallH x.shape, n := wallW x.shape }

/-- The load that stands behind what a bank still holds (R127). -/
def loadBehind (b : Block) (n : Arr) (g : Sag) (t : BankIx) : Option Xfer :=
  b.xfers.find? (fun x => x.kind = .resume && decide (x.arr = n) && decide (x.sag = g) && decide (x.bank = t))

/-- A bank empties, or goes to the load behind it; the imaginary part of a complex tile goes with it. -/
def clearBank (b : Block) (n : Arr) (g : Sag) (t : BankIx) : Block :=
  modPos b n g (fun p =>
    let s := (p.bank t).single
    let p := p.setBank t (match loadBehind b n g t with | some x => loadingBank b x.grp | none => BankSt.reset)
    if s then p.setBank (1 - t) BankSt.reset else p)

/-- The bank whose PARK, GPARK or close read a load can follow row by row (R127). -/
def bankBehind (b : Block) (n : Arr) (g : Sag) (single : Bool) : Option BankIx :=
  ([0, 1] : List BankIx).find? (fun t =>
    let k := (getPos b n g).bank t
    decide (k.state = .reading) && (!single || k.single) && (loadBehind b n g t).isNone
      && (getArr b n).reads.any (fun r => decide (r.sag = g) && decide (r.bank = some t) && decide (r.kind ≠ .drain) && (!r.checked || r.thenPark)))

/-! ### Starting a pass -/

/-- Resume entries that stand before the array's queue (R250); those of a stopped context are passed over (R319). -/
def liveResume (b : Block) (n : Arr) : List ResumeEnt :=
  (getArr b n).resume.filter (fun q => (getCtx b q.ctx).state = .running ∨ (getCtx b q.ctx).state = .preempting)

/-- Arithmetic of a run (R60, R87). -/
def runCfg (b : Block) (r : PassRun) : CellCfg :=
  match r.grp with
  | some g =>
    let x := getGrp b g
    { leaf := leafLen x.leaf, mode := x.mode, stoch := x.rnd, integer := x.kind == 2, seed := x.seed, passNum := r.passNum }
  | none => { leaf := 256, mode := 0, stoch := false, integer := r.ta == 0x09, seed := 0#64, passNum := 0 }

def runComplex (r : PassRun) : Bool := typeIsComplex r.ta

/-- The check decision of a pass that starts on array `n` (R75), and the array's counter. -/
def checkPick (b : Block) (n : Arr) (abft : Nat) : Block × Bool :=
  let mode := getFld b (.arrAbftCtl n) 0 2
  if abft == 1 then (b, true)
  else if abft == 2 then (b, false)
  else if mode == 0 then (b, false)
  else if mode == 2 then
    let c := (getArr b n).abftCount + 1
    (modArr b n (fun a => { a with abftCount := c }), c % max 1 (getFld b (.arrAbftCtl n) 8 16) == 0)
  else (b, true)

/-- The run at its start: nothing entered. -/
def PassRun.rewind (r : PassRun) : PassRun :=
  { r with kpos := 0, sub := 0, split := 0, leafCnt := 0, leaves := 0, draw := 0, segs := 0, edgeCol := [], edgeColMu := [], edgeRow := [], edgeRowMu := [], ended := false }

/-- Takes bank `t` for a run: the pass-start copy is taken, a new tile starts at +0 (R56, R91). A single-bank tile is T0's; T1 stays empty and
ARR_STATUS.BANK1 reads 0x0 (DESIGN CHOICE, log 123: R55 addresses the tile as T0 and names no state of T1). -/
def takeBank (b : Block) (n : Arr) (sag : Sag) (t : BankIx) (r : PassRun) (single : Bool) : Block :=
  let copy := fun (cs : Cells) => cs.foldl (fun a p => cellPut a p.1 { p.2 with start := p.2.total }) ([] : Cells)
  let b := modPos b n sag (fun p =>
    let k := p.bank t
    let k := if bankEmpty k then { BankSt.reset with state := .filling, grp := r.grp, pass := r.entry, ctx := r.ctx, single := single, m := r.m, n := r.n }
      else { k with state := .filling, pass := r.entry, cells := copy k.cells, m := r.m, n := r.n }
    let p := p.setBank t k
    let p := if single then p.setBank (1 - t) { (p.bank (1 - t)) with cells := copy (p.bank (1 - t)).cells } else p
    { p with last := t, run := some { r with bank := t } })
  let b := if decide ((getArr b n).gate = .gated) then startAdvance b n else b
  match r.grp with
  | some g => modGrp (touchArr b n) g (fun x => { x with state := .resident, loc := .bank n sag, arr := n, sag := sag })
  | none => touchArr b n

/-- A tile of the group held elsewhere (R56). -/
def heldElsewhere (b : Block) (g : Option Grp) (n : Arr) (sag : Sag) : Bool :=
  match g with
  | some g => (match (getGrp b g).loc with | .bank m s => !(decide (m = n) && decide (s = sag)) | _ => false)
  | none => false

def grpSingle (b : Block) (g : Option Grp) (ta : Nat) : Bool :=
  match g with | some g => singleMode (getGrp b g) | none => typeIsComplex ta

/-- Pass number of member `p`, taken at dispatch (R48). -/
def memberPass (e : Entry) (p : Nat) : Nat := (e.reads.getD (2 + 4 * p) 0#64).toNat
def memberProgNo (e : Entry) (p : Nat) : Nat := (e.reads.getD (3 + 4 * p) 0#64).toNat
def memberSeed (e : Entry) (p : Nat) : W64 := e.reads.getD (4 + 4 * p) 0#64
def memberWalk (e : Entry) (p : Nat) : Nat := (e.reads.getD (5 + 4 * p) 0#64).toNat
def memberProg (e : Entry) (p : Nat) : List W64 := e.descs.getD p []

/-- The run of member array `n` of entry `e`. -/
def mkRun (e : Entry) (n : Arr) (checked : Bool) : PassRun :=
  let w := e.word.toNat
  let p := memberIx w n
  let lead := (members w).headD n
  { entry := e.id, ctx := e.ctx, gen := e.gen, grp := memberGrp w p, bank := 0, m := pM w, n := pN w, k := pK w
    ta := pTA w, tb := pTB w, refA := e.reads.getD 0 0#64, refB := e.reads.getD 1 0#64
    baseA := if isGang w && !pOrient w then lead else n, baseB := if isGang w && pOrient w then lead else n
    kpos := 0, sub := 0, split := 0, leafCnt := 0, leaves := 0, draw := 0, passNum := memberPass e p, checked := checked
    replay := false, segs := 0, counted := 0, edgeCol := [], edgeColMu := [], edgeRow := [], edgeRowMu := []
    ended := false, aborted := false, gang := isGang w, orient := pOrient w, rule := none }

/-- The position of a pass is free of a running pass. -/
def posIdle (b : Block) (n : Arr) (sag : Sag) : Bool := (getPos b n sag).run.isNone

/-- A PASS or GANG at the head of every member's queue starts when every member gets a bank; GROUP_STATE when one never can (R56, R70). -/
def startPass (b : Block) (e : Entry) : Block :=
  let w := e.word.toNat
  let ms := members w
  let sag := pSag w
  let grp := fun (n : Arr) => memberGrp w (memberIx w n)
  let ready := ms.all (fun n => (arrHead b n).any (fun h => h.id == e.id) && posIdle b n sag && (getArr b n).replays.isEmpty && (liveResume b n).isEmpty)
  if !ready then b
  else match ms.find? (fun n => heldElsewhere b (grp n) n sag || pickBank b n sag (grp n) (grpSingle b (grp n) (pTA w)) e.id == .stuck) with
    | some n => failEntry b e .groupState { e.site 4 with arr := some (n, sag), grp := grp n }
    | none =>
      if ms.any (fun n => pickBank b n sag (grp n) (grpSingle b (grp n) (pTA w)) e.id == .wait) then b
      else
        let b := modEntry b e.id (fun x => { x with started := true, left := ms.length })
        ms.foldl (fun b n =>
          let (b, ck) := checkPick b n (pAbft w)
          match pickBank b n sag (grp n) (grpSingle b (grp n) (pTA w)) e.id with
          | .bank t => takeBank b n sag t (mkRun e n ck) (grpSingle b (grp n) (pTA w))
          | _ => b) b

/-- A replay or remainder that stands before the queue starts in the bank that holds its tile (R76, R109). -/
def startReplay (b : Block) (n : Arr) (sag : Sag) (r : PassRun) : Block :=
  if !posIdle b n sag then b
  else
    let b := modArr b n (fun a => { a with replays := a.replays.drop 1 })
    let b := modPos b n sag (fun p => { p.setBank r.bank { p.bank r.bank with state := .filling } with last := r.bank, run := some r })
    touchArr (if decide ((getArr b n).gate = .gated) then startAdvance b n else b) n

/-- PASS_START (R56). -/
def passStart (b : Block) (n : Arr) : Block :=
  if frozenV b || stoppedT b || !awake b || !usable b n then b
  else match (getArr b n).replays with
    | (sag, r) :: _ => startReplay b n sag r
    | [] =>
      if !(liveResume b n).isEmpty then b
      else match arrHead b n with
        | some e => if wOpc e.word.toNat == 0x20 || wOpc e.word.toNat == 0x21 then startPass b e else b
        | none => b

/-! ### One input cycle (R62, R74, R88, R99) -/

/-- One of the parts of an instruction has had its last effect; after the last part it can complete. -/
def partDone (b : Block) (eid : Nat) : Block :=
  modEntry b eid (fun e => if e.phase == 255 then e else { e with left := e.left - 1, phase := if e.left ≤ 1 then 1 else e.phase })

/-- Flat base of a panel: the feeder side of the array whose staging holds it. -/
def runBase (b : Block) (a : Arr) : Nat := feederAddr b a 0

def operandA (b : Block) (r : PassRun) (ext k i st : Nat) : Num :=
  let (c, s) := panelCode b.sram (runBase b r.baseA) r.refA r.ta ext k i
  operandNum r.ta c s r.sub st true
def operandB (b : Block) (r : PassRun) (ext k j st : Nat) : Num :=
  let (c, s) := panelCode b.sram (runBase b r.baseB) r.refB r.tb ext k j
  operandNum r.tb c s r.sub st false

/-- The operand before the split, for the edge sums. -/
def wholeA (b : Block) (r : PassRun) (ext k i : Nat) : Num :=
  let (c, s) := panelCode b.sram (runBase b r.baseA) r.refA r.ta ext k i
  decodeElem (halfType r.ta) (operandCode r.ta c r.sub) s
def wholeB (b : Block) (r : PassRun) (ext k j : Nat) : Num :=
  let (c, s) := panelCode b.sram (runBase b r.baseB) r.refB r.tb ext k j
  decodeElem (halfType r.tb) (operandCode r.tb c r.sub) s

/-- Part of an FP32 edge sum that split step `st` presents (R44). -/
def edgePart (t : Nat) (st : Nat) (first : Bool) (x : W64) : W64 :=
  if splitSteps t == 1 then x
  else if (st == 0 && first) || (st == 1 && !first) then eOf (enc32 (splitLo (eF x)))
  else eOf (enc32 (splitHi (eF x)))

/-- Signs with which a product enters T0 and T1 (R45): absent, or negated or not. -/
def bankSigns (r : PassRun) : Option Bool × Option Bool :=
  if !runComplex r then (some false, none)
  else match r.sub with
    | 0 => (some false, some true)
    | 1 => (some true, some true)
    | _ => (none, some false)

def edgeRowOf (l : List W64) (i : Nat) : W64 := l.getD i 0#64
/-- A list of `n` edge accumulators with `f i old` in place of each from `lo` to `hi - 1`. -/
def edgeMap (l : List W64) (n lo hi : Nat) (f : Nat → W64 → W64) : List W64 :=
  (List.range n).map (fun i => if lo ≤ i && i < hi then f (i - lo) (edgeRowOf l i) else edgeRowOf l i)

/-- The edge takes row `k` at split step `st`, into the accumulators of T0 or T1 (R74). -/
def edgeTake (integer : Bool) (r : PassRun) (w h : Nat) (im : Bool) (neg : Bool) (sa sam sb sbm : W64) (av bv : List W64) : PassRun :=
  let c0 := if im then w else 0
  let r0 := if im then h else 0
  { r with
    edgeCol := edgeMap r.edgeCol (2 * w) c0 (c0 + r.n) (fun j x => edgeAdd integer neg x sa (bv.getD j 0#64))
    edgeColMu := edgeMap r.edgeColMu (2 * w) c0 (c0 + r.n) (fun j x => edgeAdd integer false x sam (edgeAbs integer (bv.getD j 0#64)))
    edgeRow := edgeMap r.edgeRow (2 * h) r0 (r0 + r.m) (fun i x => edgeAdd integer neg x (av.getD i 0#64) sb)
    edgeRowMu := edgeMap r.edgeRowMu (2 * h) r0 (r0 + r.m) (fun i x => edgeAdd integer false x (edgeAbs integer (av.getD i 0#64)) sbm) }

/-- The cells of both banks of a position in the run's tile. -/
def mapRun (b : Block) (n : Arr) (sag : Sag) (r : PassRun) (w : Nat) (f0 f1 : Nat → Nat → Cell → Cell) : Block :=
  modPos b n sag (fun p =>
    let p := p.setBank r.bank { p.bank r.bank with cells := mapTile (p.bank r.bank).cells w r.m r.n f0 }
    if runComplex r then p.setBank 1 { p.bank 1 with cells := mapTile (p.bank 1).cells w r.m r.n f1 } else p)

def modRun (b : Block) (n : Arr) (sag : Sag) (f : PassRun → PassRun) : Block :=
  modPos b n sag (fun p => { p with run := p.run.map f })

/-- A segment result has entered the totals: it counts once per PASS (R99). -/
def segmentEnd (b : Block) (n : Arr) (sag : Sag) : Block :=
  match (getPos b n sag).run with
  | none => b
  | some r =>
    if runComplex r && r.sub != 2 then b
    else
      let b := modRun b n sag (fun r => { r with segs := r.segs + 1, counted := max r.counted (r.segs + 1) })
      match r.grp with
      | some g =>
        if r.counted ≤ r.segs then countMet (addCount (modGrp b g (fun x => { x with localCnt := x.localCnt + 1 })) g 1) g else b
      | none => b

/-- A leaf ends in every cell of the tile; the eighth leaf ends its segment (R88). -/
def runLeafEnd (b : Block) (n : Arr) (sag : Sag) (w : Nat) : Block :=
  match (getPos b n sag).run with
  | none => b
  | some r =>
    let g := runCfg b r
    let im := bankSigns r
    let b := mapRun b n sag r w
      (fun i j x => if im.1.isSome then leafEnd g 0 i j r.draw x else x)
      (fun i j x => if im.2.isSome then leafEnd g 1 i j r.draw x else x)
    let b := modRun b n sag (fun r => { r with leafCnt := 0, leaves := (r.leaves + 1) % 8, draw := if g.mode == 1 then r.draw + 1 else r.draw })
    if r.leaves + 1 == 8 then segmentEnd b n sag else b

/-- One K-row, or one split step of it, lands in every cell and in the edge. -/
def runRow (b : Block) (n : Arr) (sag : Sag) : Block :=
  match (getPos b n sag).run with
  | none => b
  | some r =>
    let h := wallH (getArr b n).wall
    let w := wallW (getArr b n).wall
    let g := runCfg b r
    let av := (List.range r.m).map (fun i => operandA b r h r.kpos i r.split)
    let bv := (List.range r.n).map (fun j => operandB b r w r.kpos j r.split)
    let im := bankSigns r
    let put := fun (bank : Nat) (sg : Option Bool) (i j : Nat) (x : Cell) => match sg with
      | some neg =>
        let p := Num.mul (av.getD i .nan) (bv.getD j .nan)
        cellAdd g bank i j r.draw x (if neg then Num.neg p else p)
      | none => x
    let b := mapRun b n sag r w (put 0 im.1) (put 1 im.2)
    -- the checksum edge
    let edge := fun (r : PassRun) =>
      if !r.checked then r
      else
        let wa := (List.range r.m).map (fun i => edgeVal g.integer (wholeA b r h r.kpos i))
        let wb := (List.range r.n).map (fun j => edgeVal g.integer (wholeB b r w r.kpos j))
        let sa := edgePart r.ta r.split true (edgeSum g.integer wa)
        let sam := edgePart r.ta r.split true (edgeSum g.integer (wa.map (edgeAbs g.integer)))
        let sb := edgePart r.tb r.split false (edgeSum g.integer wb)
        let sbm := edgePart r.tb r.split false (edgeSum g.integer (wb.map (edgeAbs g.integer)))
        let pa := av.map (edgeVal g.integer)
        let pb := bv.map (edgeVal g.integer)
        let r := match im.1 with | some neg => edgeTake g.integer r w h false neg sa sam sb sbm pa pb | none => r
        match im.2 with | some neg => edgeTake g.integer r w h true neg sa sam sb sbm pa pb | none => r
    let last := r.split + 1 == splitSteps r.ta
    let b := modRun b n sag (fun r =>
      let r := edge r
      { r with draw := if g.mode == 1 then r.draw else r.draw + 1, split := if last then 0 else r.split + 1, kpos := if last then r.kpos + 1 else r.kpos, leafCnt := if last && !g.integer && g.mode != 2 then r.leafCnt + 1 else r.leafCnt })
    if !last then b
    else if g.integer then
      (if (r.kpos + 1) % 2048 == 0 then segmentEnd (mapRun b n sag r w (fun _ _ x => intSegEnd x) (fun _ _ x => x)) n sag else b)
    else if g.mode == 2 then
      (if (r.kpos + 1) % 8 == 0 then mapRun b n sag r w (fun _ _ x => p1Flush x) (fun _ _ x => x) else b)
    else if r.leafCnt + 1 == g.leaf then runLeafEnd b n sag w
    else b

/-- End of a sub-pass: partial leaf, collapse, and the segment it forms (R88, R89); says whether the whole pass has ended. -/
def subPassEnd (b : Block) (n : Arr) (sag : Sag) : Block :=
  let w := wallW (getArr b n).wall
  match (getPos b n sag).run with
  | none => b
  | some r0 =>
    let g := runCfg b r0
    let b :=
      if g.integer then
        (if r0.kpos % 2048 != 0 then segmentEnd (mapRun b n sag r0 w (fun _ _ x => intSegEnd x) (fun _ _ x => x)) n sag else b)
      else if g.mode == 2 then
        segmentEnd (mapRun b n sag r0 w (fun _ _ x => p1End (p1Flush x)) (fun _ _ x => x)) n sag
      else
        let b := if r0.leafCnt != 0 then runLeafEnd b n sag w else b
        (match (getPos b n sag).run with
        | some r => if r.leaves != 0 then
            segmentEnd (mapRun b n sag r w (fun _ _ x => collapse x) (fun _ _ x => collapse x)) n sag else b
        | none => b)
    modRun b n sag (fun r =>
      if r.sub + 1 < subPasses r.ta then { r with sub := r.sub + 1, kpos := 0, leafCnt := 0, leaves := 0, split := 0 }
      else { r with ended := true, leaves := 0, leafCnt := 0 })

/-- A new entry of the row path (R65). -/
def mkRead (b : Block) (n : Arr) (sag : Sag) (r : PassRun) (kind : ReadKind) (checked thenPark : Bool) : Block :=
  let (i, b) := fresh b
  let p := match findEntry b r.entry with | some e => memberIx e.word.toNat n | none => 0
  let pr := match findEntry b r.entry with | some e => (memberProg e p, memberSeed e p, memberWalk e p) | none => ([], 0#64, 0)
  let a := getArr b n
  modArr b n (fun x => { x with reads := x.reads ++ [{ tid := i, kind := kind, entry := r.entry, ctx := r.ctx, gen := r.gen, grp := r.grp, sag := sag, bank := some r.bank, h := wallH a.wall, w := wallW a.wall, m := r.m, n := r.n, next := 0, checked := checked, prog := pr.1, seed := pr.2.1, walk := pr.2.2, data := [], dataIm := [], complex := runComplex r, integer := (runCfg b r).integer, thenPark := thenPark, xfer := 0, run := some r }] })

/-- A pass has entered its last row: its bank is read, or held for the next pass (R57, R75). -/
def passEnded (b : Block) (n : Arr) (sag : Sag) (r : PassRun) : Block :=
  let b := modPos b n sag (fun p => { p with run := none })
  let e := match findEntry b r.entry with | some e => pEnd e.word.toNat | none => 1
  let reading := fun (b : Block) => modBank b n sag r.bank (fun k => { k with state := .reading })
  if e == 1 then mkRead (reading b) n sag r .drain r.checked false
  else if e == 2 then mkRead (reading b) n sag r (if r.checked then .check else .park) r.checked r.checked
  else if r.checked then mkRead (reading b) n sag r .check true false
  else partDone (modBank b n sag r.bank (fun k => { k with state := .held })) r.entry

/-- An abort of the problem at a position (R73): its bank empties without a write, its group is poisoned. -/
def abortProblem (b : Block) (n : Arr) (sag : Sag) (r : PassRun) : Block :=
  let b := modPos b n sag (fun p => { p with run := none })
  let b := clearBank b n sag r.bank
  let b := modArr b n (fun a => { a with reads := a.reads.filter (fun t => !(t.entry == r.entry && decide (t.sag = sag))), replays := a.replays.filter (fun q => !(decide (q.1 = sag) && q.2.entry == r.entry)) })
  match r.grp with
  | some g =>
    let b := { b with kiln := b.kiln.filter (fun k => !(decide (k.grp = g) && decide (k.role = .stack))) }
    poison b g
  | none => b

/-- Flat addresses of the lines of one operand that the next input cycle takes. -/
def operandAddrs (b : Block) (n : Arr) (r : PassRun) (first : Bool) (rows : Nat) : List Nat :=
  let line := fun (base : Nat) (x : W64) (t ext used k : Nat) =>
    let lo := (k * ext) * typeBits t / 8
    let hi := ((k * ext + used) * typeBits t + 7) / 8
    ((List.range (hi - lo)).map (fun i => base + refPanel x + lo + i))
      ++ (if typeIsMX t then (List.range used).map (fun i => base + refScale x + (if refBkdir x then k / 32 * ext + i else k * (ext / 32) + i / 32)) else [])
  (List.range rows).flatMap (fun q =>
    if first then line (runBase b r.baseA) r.refA r.ta (wallH (getArr b n).wall) r.m (r.kpos + q)
    else line (runBase b r.baseB) r.refB r.tb (wallW (getArr b n).wall) r.n (r.kpos + q))

/-- K-rows that the next input cycle of a run takes. -/
def cycleRows (r : PassRun) : Nat := min (rowsPerCycle r.ta r.tb) (r.k - r.kpos)

/-- The run's operand read met an uncorrectable word (R82): its problem is aborted, and the error raised when `report` says so. -/
def inputFails (b : Block) (n : Arr) (sag : Sag) (r : PassRun) (report : Bool) : Block :=
  let b := abortProblem b n sag r
  if !report then b
  else match findEntry b r.entry with
    | some e => failEntry b e .sramUncorrectable { e.site 4 with arr := some (n, sag), grp := r.grp }
    | none => raise b .sramUncorrectable { ctx := some r.ctx, gen := r.gen, unit := 4, arr := some (n, sag), grp := r.grp }

/-- Format class of R352 for an operand type. -/
def macClass (t : Nat) : Nat := if typeBits t ≤ 4 then 3 else if typeBits t == 6 then 2 else if typeBits t == 8 then 1 else 0

/-- The run takes one input cycle. -/
def inputTake (b : Block) (n : Arr) (sag : Sag) : Block :=
  match (getPos b n sag).run with
  | none => b
  | some r =>
    let b := countAct (countMacs b (macClass r.ta) (cycleRows r * r.m * r.n)) (fun a => { a with inputs := a.inputs + 1 })
    let b := (List.range (cycleRows r)).foldl (fun b _ => runRow b n sag) (touchArr b n)
    match (getPos b n sag).run with
    | none => b
    | some r =>
      let b := if r.kpos == r.k then subPassEnd b n sag else b
      match (getPos b n sag).run with
      | some r => if r.ended then passEnded b n sag r else b
      | none => b

/-- One input cycle of a run that reads both its operands itself. -/
def inputOne (b : Block) (n : Arr) (sag : Sag) : Block :=
  match (getPos b n sag).run with
  | none => b
  | some r =>
    let (b, bad) := eccTouch b (operandAddrs b n r true (cycleRows r) ++ operandAddrs b n r false (cycleRows r))
    if bad then inputFails b n sag r true else inputTake b n sag

/-- Members of the rectangle that `r` runs in, ascending. -/
def lockStep (b : Block) (sag : Sag) (r : PassRun) : List Arr :=
  (allFin 4).filter (fun m => (getPos b m sag).run.any (fun (q : PassRun) => q.entry == r.entry && q.gang && !q.replay))

/-- One input cycle of a rectangle: the broadcast operand is read once for it, each member's own operand by the member (R70). -/
def inputGang (b : Block) (sag : Sag) (r : PassRun) (ms : List Arr) : Block :=
  let (b, all) := eccTouch b (operandAddrs b (ms.headD 0) r (!r.orient) (cycleRows r))
  ms.zipIdx.foldl (fun b p =>
    match (getPos b p.1 sag).run with
    | none => b
    | some q =>
      let (b, own) := if all then (b, false) else eccTouch b (operandAddrs b p.1 q q.orient (cycleRows q))
      if all || own then inputFails b p.1 sag q (own || p.2 == 0) else inputTake b p.1 sag) b

/-- Whether the input may stop here (R80, R81). -/
def stopPoint (b : Block) (r : PassRun) : Bool :=
  let g := runCfg b r
  r.split == 0 && (if g.integer then r.kpos % 256 == 0 else if g.mode == 2 then r.kpos % 8 == 0 else r.leafCnt == 0)

/-- A grouped pass of a PREEMPTING context that is no replay has come to where its input stops (R78, R80, R81). -/
def preemptHolds (b : Block) (r : PassRun) : Bool :=
  decide ((getCtx b r.ctx).state = .preempting) && r.grp.isSome && !r.replay && stopPoint b r

/-- INPUT_CYCLE (R62, R63, R70): the run at the position takes one input cycle; members of a GANG run in lock-step. A bubble changes nothing. -/
def inputCycle (b : Block) (n : Arr) (sag : Sag) : Block :=
  match (getPos b n sag).run with
  | none => b
  | some r =>
    if !arrRuns b n || preemptHolds b r then b
    else if r.gang && !r.replay && !(r.grp.any (fun g => (getGrp b g).stack.isSome)) then
      (if (lockStep b sag r).all (arrRuns b) then inputGang b sag r (lockStep b sag r) else b)
    else inputOne b n sag

/-! ### The row path (R65, R66, R75) -/

/-- What a stack-form record holds beside the total, in ascending order (R81, R110). -/
def partials (g : CellCfg) (x : Cell) : List F32 :=
  if g.mode == 2 then [x.acc] else (x.s0.toList ++ x.s1.toList ++ x.s2.toList)

/-- The stack-form record from which a remainder runs. -/
def stackCells (b : Block) (r : PassRun) : Option (Cells × Cells) :=
  match r.grp with
  | some g => if (getGrp b g).stack.isSome then (b.kiln.find? (fun k => decide (k.grp = g) && decide (k.role = .stack))).map (fun k => (k.cells, k.cellsIm)) else none
  | none => none

/-- The contribution of a checked pass at one cell (R75, R110): of a DRAIN the tile; else total less pass-start copy rounded once, plus the stack
of a stopped pass, less what the record of a remainder held beside its total. -/
def contribution (g : CellCfg) (x : Cell) (drain stop : Bool) (record : Option Cell) : W64 :=
  if drain && record.isNone then (if g.integer then x.total else eOf (enc32 (dsVal x.total)))
  else if g.integer then
    let v := x.total - x.start
    let v := if stop then v + x.acc.signExtend 64 else v
    match record with | some c => v - c.acc.signExtend 64 | none => v
  else
    let v := enc32 (Num.sub (dsVal x.total) (dsVal x.start))
    let v := if stop then (partials g x).foldl f32add v else v
    match record with | some c => eOf ((partials g c).foldl f32sub v) | none => eOf v

/-- Sums of stage 1 with one more row. -/
def stage1 (integer : Bool) (d : DTile) (row : Nat) (vals valsIm : List W64) : DTile :=
  let add := fun (a c : W64) => if integer then a + c else eOf (f32add (eF a) (eF c))
  let w := d.src.w
  let h := d.src.h
  let col := (List.range (2 * w)).map (fun j =>
    let v := if j < w then vals[j]? else valsIm[j - w]?
    match v with | some x => add (d.colSum.getD j 0#64) x | none => d.colSum.getD j 0#64)
  let rs := fun (l : List W64) => l.foldl add 0#64
  { d with colSum := col, rowSum := (List.range (2 * h)).map (fun i => if i == row then rs vals else if i == h + row then rs valsIm else d.rowSum.getD i 0#64), rowsIn := d.rowsIn + 1 }

/-- Cells of a tile that the row path reads: a bank, or what came from the kiln. -/
def readCells (b : Block) (n : Arr) (t : TileRead) : Cells × Cells :=
  match t.bank with
  | some k => ((getPos b n t.sag).bank k |>.cells, if t.complex then ((getPos b n t.sag).bank 1).cells else [])
  | none => (t.data, t.dataIm)

/-- Rows that a read takes: those of the pass for the drain, all of the tile for the kiln and for a close. -/
def readRows (t : TileRead) : Nat :=
  match t.kind with
  | .drain => t.m
  | .check => if t.thenPark then t.h else t.m
  | .peer => if t.complex then 2 * t.h else t.h
  | _ => t.h

/-- Whether the read's tile goes to the kiln. -/
def toKiln (t : TileRead) : Bool := t.kind = .park ∨ t.kind = .preempt ∨ (t.kind = .check ∧ t.thenPark = true)
/-- A read that is the kiln's row-path transfer on its array, of which it serves one at a time (R128). -/
def kilnPath (t : TileRead) : Bool := toKiln t || decide (t.kind = .close ∨ t.kind = .peer ∨ t.kind = .merge)
def rowBusy (b : Block) (n : Arr) : Bool := (getArr b n).reads.any kilnPath
/-- The load path of an array serves a load (R128). -/
def loadBusy (b : Block) (n : Arr) : Bool := b.xfers.any (fun x => x.kind = .resume && decide (x.arr = n))
def toDrain (t : TileRead) : Bool := t.kind = .drain ∨ t.kind = .close ∨ t.kind = .peer

def modRead (b : Block) (n : Arr) (tid : Nat) (f : TileRead → TileRead) : Block :=
  modArr b n (fun a => { a with reads := a.reads.map (fun t => if t.tid == tid then f t else t) })
def dropRead (b : Block) (n : Arr) (tid : Nat) : Block := modArr b n (fun a => { a with reads := a.reads.filter (fun t => t.tid != tid) })

/-- A park takes its place before its first row (R111, R113): a slot, after an eviction perhaps, its own spill region, or KILN_FULL. -/
def parkPlace (b : Block) (n : Arr) (t : TileRead) : Block :=
  match t.grp with
  | none => b
  | some g =>
    let x := getGrp b g
    let parts := tileParts x.kind * (if t.kind = .preempt then 2 else 1)
    let start := fun (b : Block) (l : List (Nat × Nat)) =>
      let (i, b) := addRec b g (if t.kind = .preempt then .stack else .tile) l
      let (k, b) := addXfer b .park g t.entry i 0 n t.sag (t.bank.getD 0)
      modRead b n t.tid (fun t => { t with xfer := k })
    match takeSlots b x.shape parts with
    | (b, .places l) => start b l
    | (b, .evicting) => b
    | (b, .no) =>
      match if t.kind = .preempt then none else freeUnits b x.ctx (tileParts x.kind) with
      | some us => start { b with spillUse := b.spillUse ++ us.map (fun u => (x.ctx, u, g)) } []
      | none =>
        let b := dropRead b n t.tid
        let b := modBank b n t.sag (t.bank.getD 0) (fun k => { k with state := .held })
        match findEntry b t.entry with
        | some e => failEntry b e .kilnFull { e.site 6 with arr := some (n, t.sag), grp := some g }
        | none => raise b .kilnFull { grpSite b g 6 with arr := some (n, t.sag) }

/-- What a park keeps of a cell: in stack form what its 16 bytes hold, without the seventh leaf at c = 7 (R108, R109); else the total. -/
def parkForm (b : Block) (t : TileRead) (x : Cell) : Cell :=
  match t.kind, t.run with
  | .preempt, some r =>
    let g := runCfg b r
    stackCell g (min 6 r.leaves) (stackBytes g (if r.leaves == 7 then { x with s0 := none } else x))
  | _, _ => { Cell.zero with total := x.total, start := x.total }

/-- A bank whose tile has been read out for good empties; a drained grouped tile leaves its group OPEN (R98). -/
def readOut (b : Block) (n : Arr) (t : TileRead) : Block :=
  let b := match t.bank with | some k => clearBank b n t.sag k | none => b
  match t.kind, t.grp with
  | .drain, some g => modGrp b g (fun x => { x with state := .open_, loc := .zero })
  | _, _ => b

def setReady (b : Block) (i : Nat) : Block := modXfer b i (fun x => { x with ready := true })

/-- Rows of one leaf back at c = 7 (R109). -/
def stopRun (g : CellCfg) (r : PassRun) : PassRun :=
  let r := { r with edgeCol := [], edgeColMu := [], edgeRow := [], edgeRowMu := [] }
  if r.leaves == 7 then { r with leaves := 6, kpos := r.kpos - g.leaf, draw := r.draw - (if g.mode == 1 then 1 else g.leaf * splitSteps r.ta) } else r

/-- The group record of a stopped pass (R108): its progress, and where it ran. -/
def keepStack (b : Block) (n : Arr) (t : TileRead) : Block :=
  match t.kind, t.grp, t.run with
  | .preempt, some g, some r =>
    modGrp b g (fun x => { x with stack := some ⟨stopRun (runCfg b r) r, n, t.sag, (getArr b n).wall⟩ })
  | _, _, _ => b

/-- After the last row: an unchecked tile leaves its bank, its transfer is ready; a checked tile waits for its compare. -/
def readDone (b : Block) (n : Arr) (t : TileRead) : Block :=
  let b := dropRead b n t.tid
  if t.checked then b
  else
    let b := keepStack (readOut b n t) n t
    if t.xfer != 0 then setReady b t.xfer else b

/-- Rows that the drain can hold: the hold buffer and the stages before it (R156, log 11). -/
def drainRoom (b : Block) (n : Arr) : Bool := decide ((getArr b n).rows.length < 532)

/-- The read whose row the row path takes next: of each saggar the tile whose pass ended first (R65), of these the lowest-numbered saggar
(R72). A row that the drain has no room for is not ready, unless its tile is the one stage 9 waits for. -/
def nextRead (b : Block) (n : Arr) : Option TileRead :=
  let heads := (getArr b n).reads.foldl (fun (l : List TileRead) t => if l.any (fun u => decide (u.sag = t.sag)) then l else l ++ [t]) []
  let ready := heads.filter (fun t => !toDrain t || drainRoom b n || (headTile b n).any (fun d => d.tid == t.tid))
  ready.foldl (fun (o : Option TileRead) t => match o with | some u => if t.sag < u.sag then some t else o | none => some t) none

/-- ROW_READ (R65, R72): the row path reads one row. -/
def rowRead (b : Block) (n : Arr) : Block :=
  match nextRead b n with
  | none => b
  | some t =>
    if !arrRuns b n then b
    else if toKiln t && t.xfer == 0 then (if frozenV b then b else parkPlace b n t)
    else
      let b := touchArr b n
      let i := t.next
      let (c0, c1) := readCells b n t
      let cell := fun (cs : Cells) (j : Nat) => cellGet cs (i * t.w + j)
      -- to the kiln
      let b := match findXfer b t.xfer with
        | some x => if toKiln t || t.kind = .merge then
            modRec b x.rec_ (fun k => { k with
              cells := (List.range t.w).foldl (fun cs j => cellPut cs (i * t.w + j) (parkForm b t (cell c0 j))) k.cells
              cellsIm := if t.complex then (List.range t.w).foldl (fun cs j => cellPut cs (i * t.w + j) (parkForm b t (cell c1 j))) k.cellsIm else [] })
          else b
        | none => b
      -- to the drain
      let inDrain := toDrain t || (t.checked && decide (i < t.m))
      let b := if inDrain && !((getArr b n).tiles.any (fun d => d.tid == t.tid)) then
          modArr b n (fun a => { a with tiles := a.tiles ++ [{ tid := t.tid, src := t, rowsIn := 0, rowsOut := 0, colSum := [], rowSum := [], checkDone := !t.checked, nan := 0, pos := 0, negc := 0, folded := false, red := [] }] })
        else b
      let b := if t.checked && decide (i < t.m) then
          (match t.run with
          | some r =>
            let g := runCfg b r
            let rec_ := stackCells b r
            let con := fun (cs : Cells) (rc : Option Cells) => (List.range t.n).map (fun j =>
              contribution g (cell cs j) (decide (t.kind = .drain)) (decide (t.kind = .preempt)) (rc.map (fun q => cellGet q (i * t.w + j))))
            modTile b n t.tid (fun d => stage1 g.integer d i (con c0 (rec_.map (·.1))) (if t.complex then con c1 (rec_.map (·.2)) else []))
          | none => b)
        else if inDrain then modTile b n t.tid (fun d => { d with rowsIn := d.rowsIn + 1 })
        else b
      let b := if toDrain t then
          let im := decide (t.kind = .peer) && decide (t.h ≤ i)
          let row := fun (cs : Cells) (k : Nat) => (List.range t.w).map (fun j => (cellGet cs (k * t.w + j)).total)
          modArr b n (fun a => { a with rows := a.rows ++ [{ tid := t.tid, row := i, vals := if im then row c1 (i - t.h) else row c0 i, valsIm := if t.complex && decide (t.kind ≠ .peer) then row c1 i else [] }] })
        else b
      let b := modRead b n t.tid (fun t => { t with next := t.next + 1 })
      if i + 1 == readRows t then readDone b n t else b

/-! ### The compare (R75, R76) -/

/-- A sum that differs from its edge value by more than the tolerance; sums that are not finite are not compared. -/
def sumBad (integer : Bool) (tol : Nat) (sum edge mu : W64) : Bool :=
  if integer then sum != edge
  else
    let s := dec32 (eF sum)
    let e := dec32 (eF edge)
    if !s.isFin || !e.isFin then false
    else Num.lt (Num.scale2 (dec32 (eF mu)) (-(tol : Int))) (Num.abs (Num.sub s e))

/-- The first mismatch of a tile: kind (column 0, row 1) and index. -/
def mismatch (b : Block) (n : Arr) (d : DTile) (r : PassRun) : Option (Nat × Nat) :=
  let g := runCfg b r
  let tol := if g.mode == 2 then getFld b (.arrAbftCtl n) 32 6 else getFld b (.arrAbftCtl n) 24 6
  let w := d.src.w
  let h := d.src.h
  let parts := if d.src.complex then [0, 1] else [0]
  let col := (parts.flatMap (fun p => (List.range r.n).map (fun j => (p * w + j, j)))).find? (fun q =>
    sumBad g.integer tol (edgeRowOf d.colSum q.1) (edgeRowOf r.edgeCol q.1) (edgeRowOf r.edgeColMu q.1))
  let row := (parts.flatMap (fun p => (List.range r.m).map (fun i => (p * h + i, i)))).find? (fun q =>
    sumBad g.integer tol (edgeRowOf d.rowSum q.1) (edgeRowOf r.edgeRow q.1) (edgeRowOf r.edgeRowMu q.1))
  match col, row with
  | some q, _ => some (0, q.2)
  | none, some q => some (1, q.2)
  | none, none => none

/-- ARR_ABFT_LAST (R76, R86). -/
def abftLast (b : Block) (n : Arr) (sag : Sag) (r : PassRun) (k : Nat × Nat) : Block :=
  setRaw b (.arrAbftLast n) (BitVec.ofNat 64 (sag.val + k.1 * 2 ^ 4 + k.2 * 2 ^ 5
    + (match r.grp with | some g => g.val * 2 ^ 14 + 2 ^ 20 | none => 0) + r.ctx.val * 2 ^ 21 + (if r.replay then 2 ^ 25 else 0) + 2 ^ 63))

/-- The tile of a failed compare leaves the drain; its park is abandoned. -/
def discardTile (b : Block) (n : Arr) (d : DTile) : Block :=
  let b := modArr b n (fun a => { a with tiles := a.tiles.filter (fun t => t.tid != d.tid), rows := a.rows.filter (fun r => r.tid != d.tid), reads := a.reads.filter (fun t => t.tid != d.tid) })
  match findXfer b d.src.xfer with
  | some x =>
    let b := if (findRec b x.rec_).any (fun r => r.places.isEmpty) then releaseUnits b x.grp else b
    dropXfer (dropRec b x.rec_) x.id
  | none => b

/-- The bank's tile as it stood at the pass's start, or as the record of a remainder holds it (R76, R110). -/
def restoreBank (b : Block) (n : Arr) (sag : Sag) (r : PassRun) : Block :=
  let back := fun (cs : Cells) => cs.foldl (fun a p => cellPut a p.1 { Cell.zero with total := p.2.start, start := p.2.start }) ([] : Cells)
  let load := fun (cs : Cells) => cs.foldl (fun a p => cellPut a p.1 { p.2 with start := p.2.total }) ([] : Cells)
  let rec_ := stackCells b r
  modPos b n sag (fun p =>
    let p := p.setBank r.bank { p.bank r.bank with state := .held, cells := match rec_ with | some q => load q.1 | none => back (p.bank r.bank).cells }
    if runComplex r then p.setBank 1 { p.bank 1 with cells := match rec_ with | some q => load q.2 | none => back (p.bank 1).cells } else p)

/-- The run as it starts over: the pass from its first row, or the remainder from its record. -/
def restartRun (b : Block) (r : PassRun) : PassRun :=
  let r0 := match r.grp.bind (fun g => (getGrp b g).stack) with
    | some s => { s.run with bank := r.bank, checked := r.checked, counted := r.counted, edgeCol := [], edgeColMu := [], edgeRow := [], edgeRowMu := [] }
    | none => r.rewind
  { r0 with replay := true, counted := r.counted }

/-- A mismatch of the compare (R76): a replay at first, then a strike and the abort of the problem. -/
def compareFails (b : Block) (n : Arr) (d : DTile) (r : PassRun) (k : Nat × Nat) : Block :=
  let sag := d.src.sag
  let b := abftLast (discardTile b n d) n sag r k
  if !r.replay then
    let b := restoreBank (bumpFld b (.arrAbftFirst n) 0 32 1) n sag r
    modArr b n (fun a => { a with replays := a.replays ++ [(sag, restartRun b r)] })
  else
    let b := bumpFld b (.arrAbftStrikes n) 0 16 1
    let site : Site := match findEntry b r.entry with
      | some e => { e.site 5 with arr := some (n, sag), grp := r.grp }
      | none => { ctx := some r.ctx, gen := r.gen, unit := 5, arr := some (n, sag), grp := r.grp }
    let b := raise b .abftMismatch site
    let b := abortProblem b n sag r
    match r.grp, findEntry b r.entry with
    | none, some e => failEntry b e .groupState { site with grp := none }
    | _, _ => partDone b r.entry

/-- A compare that passes (R77, R156): the rows are released, the park commits, the bank empties or stays held. -/
def comparePasses (b : Block) (n : Arr) (d : DTile) (r : PassRun) : Block :=
  let t := d.src
  match t.kind with
  | .drain => readOut (modTile b n d.tid (fun x => { x with checkDone := true })) n t
  | _ =>
    let b := modArr b n (fun a => { a with tiles := a.tiles.filter (fun x => x.tid != d.tid) })
    if t.xfer != 0 then setReady (keepStack (readOut b n t) n t) t.xfer
    else partDone (modBank b n t.sag r.bank (fun k => { k with state := .held })) r.entry

/-- GLAZE_COMPARE_RESULT (R156): the compare of the first checked tile whose rows have all entered stage 1. -/
def compareResult (b : Block) (n : Arr) : Block :=
  match (getArr b n).tiles.find? (fun d => !d.checkDone && !(getArr b n).reads.any (fun t => t.tid == d.tid)) with
  | none => b
  | some d =>
    if frozenV b || !awake b || !usable b n then b
    else match d.src.run with
      | none => b
      | some r =>
        match mismatch b n d r with
        | some k => compareFails b n d r k
        | none => comparePasses b n d r

/-! ### Rows out of the drain (R153 to R157) -/

/-- A drain's access meets an uncorrectable error (R341): the tile leaves the drain and its bank, its entry stays uncompleted. -/
def drainFails (b : Block) (n : Arr) (d : DTile) : Block :=
  let t := d.src
  let b := if gpChkEn t.prog && decide ((getChk b (gpChkCh t.prog)).holder = .glaze n) && d.rowsOut != 0 then chkRelease b (gpChkCh t.prog) else b
  let b := modArr b n (fun a => { a with
    tiles := a.tiles.filter (fun x => x.tid != d.tid), rows := a.rows.filter (fun r => r.tid != d.tid), reads := a.reads.filter (fun x => x.tid != d.tid) })
  let b := match t.bank with
    | some k => if (((getPos b n t.sag).bank k).state = .reading) then clearBank b n t.sag k else b
    | none => b
  match findEntry b t.entry with
  | some e => failEntry b e .sramUncorrectable { e.site 5 with arr := some (n, t.sag), grp := t.grp }
  | none => raise b .sramUncorrectable { ctx := some t.ctx, gen := t.gen, unit := 5, arr := some (n, t.sag), grp := t.grp }

/-- The tile's last row has left: its entry, close or contribution goes on. -/
def tileLeft (b : Block) (n : Arr) (d : DTile) : Block :=
  let t := d.src
  let (b, bad) := glazeTileEnd b n d
  if bad then drainFails b n d else
  match t.kind, t.grp with
  | .close, some g =>
    let (tr, tc, wk) := tilePlace b n t
    let b := modGrp b g (fun x => { x with state := .closed, loc := .nowhere, nfNan := d.nan, nfPos := d.pos, nfNeg := d.negc, nfValid := true, cTr := tr, cTc := tc, cSlot := wk, cProg := t.prog, cArr := n })
    partDone b t.entry
  | .drain, _ => partDone b t.entry
  | _, _ => b

/-- Sends one CDATA row of the contribution of group `g` under the tag of its OFFER, when the remote regulator holds its bytes (R294, R297). -/
def sendCdata (b : Block) (g : Grp) (row : Nat) (vals : List W64) : Option Block :=
  match b.fabTags.find? (fun t => match t.kind with | .offer h => decide (h = g) && t.granted | _ => false) with
  | none => none
  | some t =>
    let data := vals.flatMap (fun v => leBytes 8 v.toNat)
    let slot := bitsOf t.pkt.hdr.toNat 265 256
    (chargeRemote b t.ctx data.length).map (fun b =>
      sendRequest b (reqHdr b (peerWord b (Fin.ofNat 4096 t.peer)) 5 t.ctx t.gen t.tag (data.length / 256) (slot + row * 2 ^ 10) 0) data)

/-- Whether stage 9 may hand on the next row of tile `d` now: compare done, its port's credit or turn, no halted store on its wheel, its channel's
turn (R153 to R157, R308). -/
def rowMay (b : Block) (n : Arr) (d : DTile) : Bool :=
  let t := d.src
  let p := t.prog
  d.checkDone
    && (gpDest p != 0 || (decide (wheelBytes t ≤ (getArr b n).credit.get (gpWheel p)) && !wheelHalted b (gpWheel p)))
    && (gpDest p != 2 || vecTurn b n)
    && (!gpChkEn p || d.rowsOut != 0 || chkTurn b (gpChkCh p) t.ctx t.entry)

/-- What a row takes of its port: wheel credit, or the turn at the vector store. -/
def takePort (b : Block) (n : Arr) (d : DTile) : Block :=
  let p := d.src.prog
  match gpDest p with
  | 0 => modArr b n (fun a => { a with credit := a.credit.set (gpWheel p).val (a.credit.get (gpWheel p) - wheelBytes d.src) (gpWheel p).isLt })
  | 2 => { b with vecNext := n.val + 1 }
  | _ => b

/-- GLAZE_ROW_OUT (R153): stage 9 hands the next row to its destination. -/
def rowOutStep (b : Block) (n : Arr) : Block :=
  match (getArr b n).rows with
  | [] => b
  | row :: rest =>
    if frozenV b || !awake b || !usable b n then b
    else match (getArr b n).tiles.find? (fun d => d.tid == row.tid) with
      | none => modArr b n (fun a => { a with rows := rest })
      | some d =>
        let (tr, tc, wk) := tilePlace b n d.src
        let (b, bad) := if d.src.kind = .peer || !rowMay b n d then (b, false)
          else readsEcc b (rowReads b n d.src row.row tr tc wk)
        if bad then drainFails b n d else
        let out : Option (Block × Bool) :=
          if d.src.kind = .peer then
            (match d.src.grp with
            | some g => (sendCdata b g row.row row.vals).map (fun b => (modTile b n d.tid (fun x => { x with rowsOut := x.rowsOut + 1 }), false))
            | none => none)
          else if rowMay b n d then
            some (glazeRow (takePort b n d) n d row)
          else none
        match out with
        | none => b
        | some (b, true) => drainFails b n d
        | some (b, false) =>
          let b := touchArr (modArr b n (fun a => { a with rows := rest })) n
          if d.rowsOut + 1 == readRows d.src then
            (match (getArr b n).tiles.find? (fun x => x.tid == d.tid) with
            | some d => if d.src.kind = .peer then modArr b n (fun a => { a with tiles := a.tiles.filter (fun x => x.tid != d.tid) }) else tileLeft b n d
            | none => b)
          else b

/-! ### Walls, swaps, programs, gating (R71, R248, R141, R68) -/

/-- Every earlier operation of the array that is not passed over has completed. -/
def earlierDone (b : Block) (n : Arr) (e : Entry) : Bool :=
  b.entries.all (fun x => !(decide (x.id < e.id) && x.arrays.contains n && (x.started || eligible b x)))

def anyTileHeld (b : Block) (n : Arr) : Bool :=
  (allFin 16).any (fun g => !bankEmpty (getPos b n g).b0 || !bankEmpty (getPos b n g).b1)

/-- Entry `e` stands at the head of the array's queue, with no resume entry before it (R250). -/
def arrTurn (b : Block) (n : Arr) (e : Entry) : Bool :=
  (liveResume b n).isEmpty && (arrHead b n).any (fun h => h.id == e.id)

/-- WALL at the head of its queue (R71). -/
def runWall (b : Block) (e : Entry) : Block :=
  let w := e.word.toNat
  let n := arrAt w 33 32
  if !arrTurn b n e || !earlierDone b n e then b
  else if anyTileHeld b n then failEntry b e .groupState { e.site 4 with arr := some (n, 0) }
  else completeEntry (modArr (modEntry b e.id (fun x => { x with started := true, phase := 1 })) n (fun a => { a with wall := bitsOf w 35 34 })) e.id

/-- SWAP at the head of its queue (R248). -/
def runSwap (b : Block) (e : Entry) : Block :=
  let n := arrAt e.word.toNat 33 32
  if !arrTurn b n e || !earlierDone b n e then b
  else
    let b := setFld b .schFixed (8 * n.val + 5) 1 (1 - fixedSide b n)
    completeEntry (modEntry b e.id (fun x => { x with started := true, phase := 1 })) e.id

/-- A program bound to a tile that has not left its drain, or to an instruction still to produce one. -/
def progBound (b : Block) (prog : Nat) : Bool :=
  b.entries.any (fun e => wOpc e.word.toNat != 0x30 &&
    (e.progNo == prog || (isGang e.word.toNat && (members e.word.toNat).any (fun m => memberProgNo e (memberIx e.word.toNat m) == prog))))

/-- GLZCFG_LOAD (R141): the GLZCFG at the head of the array's queue takes a slot of its context and kind and completes. -/
def glzcfgLoad (b : Block) (n : Arr) : Block :=
  match arrHead b n with
  | none => b
  | some e =>
    if wOpc e.word.toNat != 0x30 || !arrTurn b n e then b
    else
      let close := bitAt e.word.toNat 50
      let mine := (getArr b n).slots.filter (fun s => decide (s.ctx = e.ctx) && s.close == close)
      let free := mine.filter (fun s => !progBound b s.prog)
      let slots? : Option (List ProgSlot) :=
        if mine.length < 2 then some (getArr b n).slots
        else match free with
          | s :: _ => some ((getArr b n).slots.erase s)
          | [] => none
      match slots? with
      | none => b
      | some l =>
        let b := modArr b n (fun a => { a with
          slots := l ++ [⟨e.ctx, close, e.progNo⟩]
          latest := a.latest.map (fun x => if x.prog == e.progNo then { x with loaded := true } else x) })
        completeEntry (modEntry b e.id (fun x => { x with started := true, phase := 1 })) e.id

/-- Whether anything of the array is at work. -/
def arrIdle (b : Block) (n : Arr) : Bool :=
  (allFin 16).all (fun g => (getPos b n g).run.isNone) && (getArr b n).reads.isEmpty && (getArr b n).replays.isEmpty
    && (liveResume b n).isEmpty && (arrHead b n).isNone && b.xfers.all (fun x => !(x.kind = .resume && decide (x.arr = n)))

/-- ARRAY_CLOCK_GATE (R68): an array idle for HOLD_OFF ARR cycles is gated. -/
def clockGate (b : Block) (n : Arr) : Block :=
  if (getArr b n).gate = .running && arrIdle b n && getFld b (.arrRamp n) 16 16 ≤ arrNow b - (getArr b n).idleSince then
    modArr b n (fun a => { a with gate := .gated })
  else b

/-! ### Pre-emption (R80, R81, R249) -/

/-- A read of a group's tile out of a bank. -/
def bankRead (b : Block) (n : Arr) (sag : Sag) (t : BankIx) (g : Grp) (kind : ReadKind) (entry xfer : Nat) (prog : List W64) (seed : W64) (walk : Nat) : Block :=
  let x := getGrp b g
  let (i, b) := fresh b
  let b := modBank b n sag t (fun k => { k with state := .reading })
  let h := wallH x.shape
  let w := wallW x.shape
  modArr b n (fun a => { a with reads := a.reads ++ [{ tid := i, kind := kind, entry := entry, ctx := x.ctx, gen := (getCtx b x.ctx).gen, grp := some g, sag := sag, bank := some t, h := h, w := w, m := h, n := w, next := 0, checked := false, prog := prog, seed := seed, walk := walk, data := [], dataIm := [], complex := x.kind == 1, integer := x.kind == 2, thenPark := false, xfer := xfer, run := none }] })

/-- The held bank at a position whose tile belongs to a PREEMPTING context and is not in a pass. -/
def heldOf (b : Block) (n : Arr) (sag : Sag) : Option (BankIx × Grp) :=
  ([0, 1] : List BankIx).findSome? (fun t =>
    let k := (getPos b n sag).bank t
    match k.grp with
    | some g => if k.state = .held && (getCtx b (getGrp b g).ctx).state = .preempting
        && (getArr b n).replays.all (fun q => q.2.grp != some g) then some (t, g) else none
    | none => none)

/-- PREEMPT_STOP (R80, R81): a grouped pass of a PREEMPTING context stops at its stopping point and parks in stack form; a held tile parks in DS64 form. -/
def preemptStop (b : Block) (n : Arr) (sag : Sag) : Block :=
  match (getPos b n sag).run with
  | some r =>
    if preemptHolds b r && arrRuns b n then
      let b := modPos b n sag (fun p => { p with run := none })
      mkRead (modBank b n sag r.bank (fun k => { k with state := .reading })) n sag r .preempt r.checked false
    else b
  | none =>
    match heldOf b n sag with
    | some (t, g) => if arrAwake b n then
        bankRead (if decide ((getArr b n).gate = .gated) then startAdvance b n else b) n sag t g .park 0 0 [] 0#64 0
      else b
    | none => b

end Sys2Proof.Machine
end

