-- ==== Sys2Proof/Machine/Groups.lean ====
section
/-! DEFINITION. The kiln's instructions and transfers (04): GOPEN, GPARK, GRESUME, GCLOSE, GMERGE at the kiln, loads and parks, closes,
resume entries, and the events of contributions inside the engine. -/

namespace Sys2Proof.Machine

open Sys2Proof

/-- Kiln work on group `g` for entry `e` (0: none) meets an uncorrectable error (R341). -/
def kilnFails (b : Block) (e : Nat) (g : Grp) : Block :=
  match findEntry b e with
  | some e => failEntry b e .sramUncorrectable { e.site 6 with grp := some g }
  | none => raise b .sramUncorrectable (grpSite b g 6)

/-- GROUP of a kiln instruction. -/
def kGrp (w : Nat) : Grp := Fin.ofNat 64 (bitsOf w 37 32)
def kSite (e : Entry) (g : Grp) : Site := { e.site 6 with grp := some g }
def phaseOne (b : Block) (e : Nat) : Block := modEntry b e (fun x => { x with started := true, phase := 1 })
def startEntry (b : Block) (e : Nat) : Block := modEntry b e (fun x => { x with started := true, left := 1 })

/-! ### GOPEN (R96, R97, R102) -/

/-- The record GOPEN writes. KLN_GRP_STAT.ARRAY and SAGGAR keep the position of the group number's last tile until the group is RESIDENT or
PARKED_STACK (DESIGN CHOICE, log 123: R117 gives them a meaning only then). -/
def openRecord (e : Entry) (x : GroupSt) : GroupSt :=
  let w := e.word.toNat
  { GroupSt.reset with
    state := .open_, ctx := e.ctx, strand := e.strand, mode := bitsOf w 86 85, rnd := bitAt w 84, kind := bitsOf w 88 87
    shape := bitsOf w 90 89, leaf := bitsOf w 83 82, round := BitVec.ofNat 16 (bitsOf w 111 96), nremote := bitsOf w 81 70
    expect := bitsOf w 69 38, seed := e.reads.getD 0 0#64, loc := .zero, arr := x.arr, sag := x.sag }

/-- GOPEN at the head of the kiln queue: it writes the record, with its merge reserve, or waits for an eviction, or finds no room (KILN_FULL). -/
def runGopen (b : Block) (e : Entry) : Block :=
  let g := kGrp e.word.toNat
  let old := getGrp b g
  let b0 := modGrp { b with kiln := b.kiln.filter (fun r => !decide (r.grp = g)) } g (openRecord e)
  if (getGrp b0 g).nremote == 0 then completeEntry (phaseOne b0 e.id) e.id
  else match takeReserve b0 g with
    | (b1, .places _) => completeEntry (phaseOne b1 e.id) e.id
    | (b1, .evicting) => modGrp b1 g (fun _ => old)
    | (_, .no) => failEntry b e .kilnFull (kSite e g)

/-! ### Parks and loads (R106, R107) -/

/-- Where a resident group's tile lies. -/
def bankOf (b : Block) (g : Grp) : Option (Arr × Sag × BankIx) :=
  match (getGrp b g).loc with
  | .bank n s => (([0, 1] : List BankIx).find? (fun t => ((getPos b n s).bank t).grp == some g && !bankEmpty ((getPos b n s).bank t))).map (fun t => (n, s, t))
  | _ => none

def wakeArr (b : Block) (n : Arr) : Block := if decide ((getArr b n).gate = .gated) then startAdvance b n else touchArr b n

/-- GPARK at the head of the kiln queue (R106); while its row path is busy it holds the head (R128). -/
def runGpark (b : Block) (e : Entry) : Block :=
  let g := kGrp e.word.toNat
  match (getGrp b g).state with
  | .open_ | .parked | .spilled => completeEntry (phaseOne b e.id) e.id
  | .resident => (match bankOf b g with
      | some (n, s, t) => if ((getPos b n s).bank t).state = .held && !rowBusy b n then
          bankRead (wakeArr (startEntry b e.id) n) n s t g .park e.id 0 [] 0#64 0 else b
      | none => b)
  | _ => failEntry b e .groupState (kSite e g)

/-- The bank a load takes: by R56, or, with none empty, one that a PARK, GPARK or close read is emptying (R127). -/
def pickLoad (b : Block) (n : Arr) (s : Sag) (g : Grp) (e : Nat) : Pick :=
  match pickBank b n s (some g) (singleMode (getGrp b g)) e with
  | .wait => (match bankBehind b n s (singleMode (getGrp b g)) with | some t => .bank t | none => .wait)
  | p => p

/-- A load of group `g` into bank `t` starts (R106, R107): into an empty bank, or behind the read that empties it. -/
def startLoad (b : Block) (g : Grp) (n : Arr) (s : Sag) (t : BankIx) (entry : Nat) : Block :=
  let x := getGrp b g
  let b := wakeArr b n
  let b := modPos b n s (fun p => { (if bankEmpty (p.bank t) then p.setBank t (loadingBank b g) else p) with last := t })
  match x.loc with
  | .kiln r | .stack r => let (i, b) := addXfer b .resume g entry r 0 n s t; setReady b i
  | _ => startReturn b .resume g entry n s t

/-- The states GRESUME refuses at the unit, and the places it may not load to (R106). -/
def resumeBad (b : Block) (g : Grp) (n : Arr) (s : Sag) : Bool :=
  let x := getGrp b g
  match x.state with
  | .parked | .spilled => decide (x.shape ≠ (getArr b n).wallNext)
  | .parkedStack => decide (x.shape ≠ (getArr b n).wallNext) || (match x.stack with | some k => !(decide (k.arr = n) && decide (k.sag = s)) | none => true)
  | .open_ => false
  | .resident => !(decide (x.loc = .bank n s))
  | _ => true

/-- GRESUME at the head of the kiln queue (R106); it holds the head while the load path is busy, or its tile is being evicted (R111, R128). -/
def runGresume (b : Block) (e : Entry) : Block :=
  let w := e.word.toNat
  let g := kGrp w
  let n := arrAt w 39 38
  let s : Sag := Fin.ofNat 16 (bitsOf w 43 40)
  let x := getGrp b g
  if resumeBad b g n s then failEntry b e .groupState { kSite e g with arr := some (n, s) }
  else if x.state = .open_ ∨ x.state = .resident then completeEntry (phaseOne b e.id) e.id
  else if (getArr b n).wall != (getArr b n).wallNext || !posIdle b n s || moving b g || loadBusy b n then b
  else match pickLoad b n s g e.id with
    | .bank t => startLoad (startEntry b e.id) g n s t e.id
    | .wait => b
    | .stuck => failEntry b e .groupState { kSite e g with arr := some (n, s) }

/-- RESUME_ENTRY (R250): the first resume entry of the array whose context has not stopped (R319) starts its load; a changed wall mode halts the
context. -/
def runResumeEntry (b : Block) (n : Arr) : Block :=
  match liveResume b n with
  | [] => b
  | q :: _ =>
    let x := getGrp b q.grp
    let pop := fun (b : Block) => modArr b n (fun a => { a with resume := a.resume.erase q })
    if !arrAwake b n || moving b q.grp || loadBusy b n then b
    else if q.wall != (getArr b n).wall then
      raise (pop b) .groupState { ctx := some q.ctx, gen := (getCtx b q.ctx).gen, unit := 4, arr := some (n, q.sag), grp := some q.grp }
    else if !(x.state = .parked ∨ x.state = .spilled ∨ x.state = .parkedStack ∨ x.state = .waiting) then pop b
    else if !posIdle b n q.sag then b
    else match pickLoad b n q.sag q.grp 0 with
      | .bank t => startLoad (pop b) q.grp n q.sag t 0
      | .wait => b
      | .stuck => raise (pop b) .groupState { ctx := some q.ctx, gen := (getCtx b q.ctx).gen, unit := 4, arr := some (n, q.sag), grp := some q.grp }

/-- The loaded tile is in its bank; a stack-form tile's pass goes on before the array's queue (R106, R109). -/
def loadDone (b : Block) (x : Xfer) (cells : Cells × Cells) : Block :=
  let g := x.grp
  let gs := getGrp b g
  let load := fun (cs : Cells) => cs.foldl (fun a p => cellPut a p.1 { p.2 with start := p.2.total }) ([] : Cells)
  let b := modPos b x.arr x.sag (fun p =>
    let p := p.setBank x.bank { p.bank x.bank with state := .held, cells := load cells.1 }
    if gs.kind == 1 then p.setBank 1 { p.bank 1 with cells := load cells.2 } else p)
  let b := modGrp b g (fun y => { y with state := if y.state = .waiting then .waiting else .resident, loc := .bank x.arr x.sag, arr := x.arr, sag := x.sag })
  let b := match gs.stack with
    | some k => modArr b x.arr (fun a => { a with replays := a.replays ++ [(x.sag, { k.run with bank := x.bank })] })
    | none => match gs.loc with
      | .kiln r => dropRec b r
      | _ => releaseUnits b g
  let b := countMet (dropXferStreams (dropXfer b x.id) x.id) g
  if x.entry == 0 then b else partDone b x.entry

/-- The load path can end a load: its bank has emptied for it, and the array's load path advances (R127, R356, R357). -/
def loadMay (b : Block) (x : Xfer) : Bool :=
  let k := (getPos b x.arr x.sag).bank x.bank
  arrAwake b x.arr && decide (k.state = .loading) && k.grp == some x.grp

/-- The end of a park (R107): the record is in its slot; a tile that found none goes on to its spill region. -/
def parkDone (b : Block) (x : Xfer) : Block :=
  match findRec b x.rec_ with
  | none => dropXfer b x.id
  | some r =>
    let b := recFresh b r.id
    let g := x.grp
    let remember := fun (b : Block) => if (getCtx b x.ctx).state = .preempting && (x.entry == 0 || decide (r.role = .stack)) then
        { b with preParked := b.preParked ++ [(x.arr, ⟨x.ctx, g, x.sag, (getArr b x.arr).wall⟩)] } else b
    match r.role with
    | .stack =>
      let b := { b with kiln := b.kiln.filter (fun k => !(decide (k.grp = g) && decide (k.role = .stack) && k.id != r.id)) }
      remember (modGrp (dropXfer b x.id) g (fun y => { y with state := .parkedStack, loc := .stack r.id }))
    | _ =>
      if r.places.isEmpty then
        if frozenV b then b else
        let us := unitsOfGrp b g
        remember (startSpill (releaseUnits (dropXfer b x.id) g) r us (if x.entry == 0 then 0 else x.entry))
      else
        let b := { b with kiln := b.kiln.filter (fun k => k.id != r.id) ++ [r] }
        let b := remember (modGrp (dropXfer b x.id) g (fun y => { y with state := if y.state = .waiting then .waiting else .parked, loc := .kiln r.id }))
        let b := countMet b g
        if x.entry == 0 then b else partDone b x.entry

/-- The end of a spill (R111, R112). -/
def spillDone (b : Block) (x : Xfer) : Block :=
  let b := dropXferStreams (dropXfer (dropRec b x.rec_) x.id) x.id
  let b := bumpFld b .klnSpills 0 32 1
  let b := modGrp b x.grp (fun y => { y with state := if y.state = .waiting then .waiting else .spilled, loc := .spill x.unit_ })
  let b := countMet b x.grp
  if x.entry == 0 then b else partDone b x.entry

/-! ### Closing (R103, R104) -/

/-- Array whose drain a close uses, fixed at dispatch (R142): the group's own when it is RESIDENT, else DRAIN. -/
def closeArr (e : Entry) : Arr :=
  Fin.ofNat 4 e.aux

def closePeer (e : Entry) : Bool := bitAt e.word.toNat 40

/-- The program of a LOCAL close has loaded (R142). -/
def closeLoaded (b : Block) (e : Entry) : Bool :=
  closePeer e || (getArr b (closeArr e)).slots.any (fun s => s.prog == e.progNo)

/-- A row-path read of a tile held by a kiln record. -/
def kilnRead (b : Block) (n : Arr) (g : Grp) (r : KRec) (kind : ReadKind) (entry xfer : Nat) (prog : List W64) (seed : W64) : Block :=
  let x := getGrp b g
  let (i, b) := fresh b
  let h := wallH x.shape
  let w := wallW x.shape
  modArr b n (fun a => { a with reads := a.reads ++ [{ tid := i, kind := kind, entry := entry, ctx := x.ctx, gen := (getCtx b x.ctx).gen, grp := some g, sag := 0, bank := none, h := h, w := w, m := h, n := w, next := 0, checked := false, prog := prog, seed := seed, walk := 0, data := r.cells, dataIm := r.cellsIm, complex := x.kind == 1, integer := x.kind == 2, thenPark := false, xfer := xfer, run := none }] })

/-- The rows of the group's T start towards the drain or the fabric. -/
def startRows (b : Block) (e : Entry) (kind : ReadKind) : Block :=
  let g := kGrp e.word.toNat
  let n := closeArr e
  let seed := (getGrp b g).seed
  let b := wakeArr b n
  match bankOf b g, (getGrp b g).loc with
  | some (n, s, t), _ => bankRead b n s t g kind e.id 0 e.prog seed 0
  | none, .kiln r => (match findRec b r with
      | some k => let (i, b) := addXfer b .closeRead g e.id r 0 n 0 0; kilnRead b n g k kind e.id i e.prog seed
      | none => b)
  | none, _ => b

/-- T is formed where the tile lies (R104): in its bank, or in its kiln record; a tile still to be read from memory is fetched first, and a
group without a tile counts as +0. Says whether T stands ready. -/
def formClose (b : Block) (e : Entry) : Block × Bool :=
  let g := kGrp e.word.toNat
  let x := getGrp b g
  let own := match x.loc with | .kiln r => (findRec b r).toList | _ => []
  let (b, bad) := recEcc b ((x.mRec.bind (findRec b)).toList ++ own)
  if bad then (kilnFails b e.id g, false) else
  match bankOf b g, x.loc with
  | some (n, s, t), _ =>
    let p := getPos b n s
    let (b, c) := formT b g ((p.bank t).cells, if x.kind == 1 then (p.bank 1).cells else [])
    (modPos b n s (fun p =>
      let p := p.setBank t { p.bank t with cells := c.1 }
      if x.kind == 1 then p.setBank 1 { p.bank 1 with cells := c.2 } else p), true)
  | none, .kiln r =>
    (match findRec b r with
    | some k =>
      let (b, c) := formT b g (k.cells, k.cellsIm)
      (modRec b r (fun k => { k with cells := c.1, cellsIm := c.2 }), true)
    | none => (b, false))
  | none, .spill _ =>
    if b.xfers.any (fun y => decide (y.grp = g)) then (b, false)
    else (startReturn b .closeRead g e.id (closeArr e) 0 0, false)
  | none, _ =>
    let (i, b) := addRec b g .tile []
    let (b, c) := formT b g ([], [])
    (modGrp (modRec b i (fun k => { k with cells := c.1, cellsIm := c.2 })) g (fun y => { y with loc := .kiln i }), true)

/-- QPEER fields (R104). -/
def qPeer (e : Entry) : Nat := bitsOf (e.reads.getD 0 0#64).toNat 11 0

/-- OFFER of a PEER close (R293, R297). -/
def offerArg (e : Entry) (x : GroupSt) : Nat :=
  let q := (e.reads.getD 0 0#64).toNat
  bitsOf q 17 12 + bitsOf q 29 18 * 2 ^ 6 + bitsOf q 47 32 * 2 ^ 18 + x.shape * 2 ^ 34 + (if x.lapsed then 2 ^ 36 else 0)
    + (if x.kind == 2 then 2 ^ 37 else 0) + (if x.kind == 1 then 2 ^ 38 else 0) + x.nadd * 2 ^ 48

/-- The close of a DRAINING group whose contributions are all in M goes on (R104): phase 0 forms T; LOCAL then reads it out; PEER offers it (phase 2 while the OFFER cannot be sent). -/
def closeStep (b : Block) (e : Entry) : Block :=
  let g := kGrp e.word.toNat
  if !(getGrp b g).state = .draining || !merged (getGrp b g) || !closeLoaded b e || frozenV b then b
  else
    let sendOffer := fun (b : Block) =>
      match sendTagged b e.ctx e.gen (qPeer e) (.offer g) 3 0 (offerArg e (getGrp b g)) 0 [] with
      | some b => modEntry b e.id (fun y => { y with phase := 3 })
      | none => modEntry b e.id (fun y => { y with phase := 2 })
    if e.phase == 2 then sendOffer b
    else if e.phase == 0 then
      (match formClose b e with
      | (b, false) => b
      | (b, true) =>
        if closePeer e then sendOffer b
        else startRows (modEntry b e.id (fun y => { y with phase := 3 })) e .close)
    else b

/-! ### GMERGE (R105) -/

/-- SRC's T is offered to DST (R105): RETRY leaves it waiting (phase 2), a rejection halts the context, a grant moves T. -/
def offerT (b : Block) (e : Entry) : Block :=
  let w := e.word.toNat
  let g := kGrp w
  let d : Grp := Fin.ofNat 64 (bitsOf w 43 38)
  let rank := bitsOf w 55 44
  let wait := fun (b : Block) => modEntry b e.id (fun y => { y with phase := 2 })
  match offerAnswer b d rank none with
  | .retry => wait b
  | .grantReserve | .grantBuffer =>
    (match grantRec b d rank (offerAnswer b d rank none) with
    | (b, none) => wait b
    | (b, some r) =>
      let (i, b) := addXfer b .gmerge g e.id r 0 0 0 0
      let b := modXfer b i (fun x => { x with target := d.val, rank := rank })
      let b := modEntry b e.id (fun y => { y with phase := 3 })
      match bankOf b g with
      | some (n, s, t) => bankRead (wakeArr b n) n s t g .merge e.id i [] 0#64 0
      | none => setReady b i)
  | a => failEntry (countReject b a) e .groupState (kSite e g)

def mergeStep (b : Block) (e : Entry) : Block :=
  let g := kGrp e.word.toNat
  if !(getGrp b g).state = .draining || !merged (getGrp b g) || frozenV b || e.phase != 0 then b
  else match formClose b e with
    | (b, false) => b
    | (b, true) => offerT b e

/-- GMERGE_REOFFER (R105): a waiting GMERGE of SRC `g` offers again. -/
def reoffer (b : Block) (g : Grp) : Block :=
  match b.entries.find? (fun e => wOpc e.word.toNat == 0x2C && decide (kGrp e.word.toNat = g) && e.phase == 2 && e.started) with
  | some e => if frozenV b then b else offerT b e
  | none => b

/-- T has moved into DST's slot (R105): it is accepted, and SRC becomes FREE. -/
def gmergeDone (b : Block) (x : Xfer) : Block :=
  let src := getGrp b x.grp
  let d : Grp := Fin.ofNat 64 x.target
  let b := match src.loc with
    | .kiln r => (match findRec b r with
        | some k => modRec b x.rec_ (fun y => { y with cells := k.cells, cellsIm := k.cellsIm })
        | none => b)
    | _ => b
  let b := dropXfer b x.id
  let b := if (getGrp b d).state = .free then b else acceptContribution b d x.rank x.rec_ src.nadd src.lapsed
  partDone (freeGroup b x.grp) x.entry

/-! ### KILN_TRANSFER_DONE (R107) -/

/-- The end of a transfer: what it moved is in place and what it held is free. -/
def transferDone (b : Block) (i : Nat) : Block :=
  match findXfer b i with
  | none => b
  | some x =>
    match x.kind with
    | .park => if x.ready then parkDone b x else b
    | .spill => if xferMoved b x.id then spillDone b x else b
    | .resume =>
      if !loadMay b x then b
      else if x.ready then (match findRec b x.rec_ with
        | some r => (match recEcc b [r] with
          | (b, false) => loadDone b x (r.cells, r.cellsIm)
          | (b, true) => kilnFails (dropXfer b x.id) x.entry x.grp)
        | none => dropXfer b x.id)
      else if xferMoved b x.id then loadDone b x (returned b x) else b
    | .closeRead =>
      if x.rec_ != 0 then (if x.ready then releaseUnits (dropXfer (dropRec b x.rec_) x.id) x.grp else b)
      else if xferMoved b x.id then
        let c := returned b x
        let (r, b) := addRec b x.grp .tile []
        let b := modRec b r (fun k => { k with cells := c.1, cellsIm := c.2 })
        modGrp (dropXferStreams (dropXfer b x.id) x.id) x.grp (fun y => { y with loc := .kiln r })
      else b
    | .gmerge => if x.ready then gmergeDone b x else b
    | .return_ => b

/-! ### The kiln's queue (R21, R103) -/

/-- What a GCLOSE or GMERGE does at its dispatch (R98, R103): short of contributions it waits in the group record, out of the queue. -/
def closeDispatched (b : Block) (e : Entry) : Block :=
  let g := kGrp e.word.toNat
  let x := getGrp b g
  let b := modGrp b g (fun y => { y with close := some e.id, waitFrom := b.beat })
  if x.localCnt + x.remoteCnt == x.expect then b
  else startEntry (modGrp b g (fun y => { y with state := .waiting })) e.id

/-- A GCLOSE or GMERGE whose count is met can start at the head of the queue: no transfer moves its tile, and the row path it needs is free
(R111, R128). -/
def closeMay (b : Block) (e : Entry) : Bool :=
  let g := kGrp e.word.toNat
  let path := match bankOf b g with | some (n, _, _) => some n | none => if wOpc e.word.toNat == 0x2B then some (closeArr e) else none
  !moving b g && path.all (fun n => !rowBusy b n)

/-- The entry at the head of the kiln queue, or one that has left it, goes on (R96, R104 to R106). -/
def kilnAdvance (b : Block) (e : Entry) : Block :=
  let op := wOpc e.word.toNat
  if !e.started then
    if !(queueHead b .kiln).any (fun h => h.id == e.id) || frozenV b then b
    else match op with
      | 0x28 => runGopen b e
      | 0x29 => runGpark b e
      | 0x2A => runGresume b e
      | _ => if closeMay b e then modGrp (startEntry b e.id) (kGrp e.word.toNat) (fun y => { y with state := .draining }) else b
  else match op with
    | 0x2B => closeStep b e
    | 0x2C => mergeStep b e
    | _ => b

/-- PEER_TIMEOUT (R103): a WAITING group has met FAB_PEER_TIMEOUT since its dispatch or latest acceptance. -/
def peerTimeout (b : Block) (g : Grp) : Block :=
  let x := getGrp b g
  if x.state = .waiting && getFld b .fabPeerTimeout 0 32 ≤ b.beat - x.waitFrom then
    match x.close.bind (findEntry b) with
    | some e => if e.phase == 255 then b else failEntry b e .peerTimeout (kSite e g)
    | none => b
  else b

end Sys2Proof.Machine
end

