-- ==== Sys2Proof/Machine/Vector.lean ====
section
/-! DEFINITION. The vector engine (07): vectors in the vector store, VOP and NORM. -/

namespace Sys2Proof.Machine

open Sys2Proof

/-! ### Vectors (R163) -/

def vecAddr (units : Nat) : Nat := vecBase + 64 * units

/-- Element bytes of a vector: an MX vector holds whole blocks (R38, R163). -/
def vecElemBytes (t len : Nat) : Nat := if typeIsMX t then up32 len * mxBlockBytes t else len * typeBits t / 8
def vecBytes (t len : Nat) : Nat := vecElemBytes t len + (if typeIsMX t then up32 len else 0)

/-- Element `i` of a vector: its value, and the imaginary half of a complex pair. -/
def vecElem (m : Mem) (base t len i : Nat) : Num × Num :=
  let code := getBits m (8 * base + i * typeBits t) (typeBits t)
  if typeIsComplex t then
    (decodeElem (halfType t) (complexHalf t code false) 127, decodeElem (halfType t) (complexHalf t code true) 127)
  else (decodeElem t code (if typeIsMX t then (memGet m (base + vecElemBytes t len + i / 32)).toNat else 127), Num.zero)

/-! ### VOP (R162 to R164) -/

def vopOp (w : Nat) : Nat := bitsOf w 37 32
def vopTD (w : Nat) : Nat := bitsOf w 45 38
def vopTA (w : Nat) : Nat := bitsOf w 53 46
def vopTB (w : Nat) : Nat := bitsOf w 61 54
def vopD (w : Nat) : Nat := bitsOf w 80 62
def vopA (w : Nat) : Nat := bitsOf w 99 81
def vopB (w : Nat) : Nat := bitsOf w 118 100

def vopUsesA (op : Nat) : Bool := op != 0x0F
def vopUsesB (op : Nat) : Bool := (1 ≤ op && op ≤ 4) || op == 0x06 || op == 0x07 || op == 0x0E

/-- The operation on exact values of the operands; every operation but CVT rounds once to FP32. -/
def vopValue (op : Nat) (s : F32) (a b : Num) : Num :=
  let r := fun (v : Num) => dec32 (enc32 v)
  let sv := dec32 s
  match op with
  | 0x00 => a
  | 0x01 => r (Num.add a b)
  | 0x02 => r (Num.sub a b)
  | 0x03 => r (Num.mul a b)
  | 0x04 => r (Num.add (r (Num.mul sv a)) b)
  | 0x05 => r (Num.mul sv a)
  | 0x06 => r (numMax a b)
  | 0x07 => r (numMin a b)
  | 0x08 => r (Num.abs a)
  | 0x09 => dec32 (numSqrt a)
  | 0x0A => dec32 (numRsqrt a)
  | 0x0B => dec32 (numRecip a)
  | 0x0C => dec32 (numExp a)
  | 0x0D => dec32 (numLog a)
  | 0x0E => if b.isZero then sv else r a
  | _ => sv

/-- Zeros of different sign, of which neither is the larger: the sign of the result is not stated (log 10). -/
def vopZeros (op : Nat) (a b : Num) : Bool := (op == 0x06 || op == 0x07) && a.isZero && b.isZero && a.isNeg != b.isNeg

/-- An element whose result the spec does not state: an operation on complex pairs other than a conversion, sum, scaling or choice between pairs (log 10). -/
def vopOpen (op td ta tb : Nat) (mask : Num) : Bool :=
  let ca := vopUsesA op && typeIsComplex ta
  let cb := vopUsesB op && typeIsComplex tb
  let cd := typeIsComplex td
  (ca || cb || cd) && !(
    match op with
    | 0x00 | 0x05 => ca && cd
    | 0x01 | 0x02 | 0x04 => ca && cb && cd
    | 0x0E => ca && cd && !cb && !mask.isZero
    | _ => false)

/-- Code of one element of a non-MX result. -/
def vopCode (td : Nat) (rnd : Rnd) (sat : Bool) (re im : Num) : Nat :=
  if typeIsComplex td then
    let h := halfType td
    encodeElem h rnd sat re + encodeElem h rnd sat im * 2 ^ (typeBits td / 2)
  else encodeElem td rnd sat re

structure VopArgs where
  op : Nat
  td : Nat
  ta : Nat
  tb : Nat
  s : F32
  len : Nat
  sat : Bool
  stoch : Bool
  key : W64
  deriving DecidableEq, Repr

def vopArgs (e : Entry) : VopArgs :=
  let w := e.word.toNat
  let q := (e.reads.getD 0 0#64).toNat
  { op := vopOp w, td := vopTD w, ta := vopTA w, tb := vopTB w, s := BitVec.ofNat 32 (bitsOf q 31 0), len := bitsOf q 56 32
    sat := bitAt q 62, stoch := bitAt q 63, key := BitVec.ofNat 64 (bitsOf q 31 0) ^^^ BitVec.ofNat 64 (vopD w) }

/-- Results of element `i`, both halves, with what is open in them taken from the free values. -/
def vopElem (m : Mem) (w : Nat) (x : VopArgs) (tick i : Nat) : Num × Num :=
  let a := vecElem m (vecAddr (vopA w)) x.ta x.len i
  let c := vecElem m (vecAddr (vopB w)) x.tb x.len i
  if vopZeros x.op a.1 c.1 then (.fin (Config.openWord tick i).msb 0 0, Num.zero)
  else (vopValue x.op x.s a.1 c.1, vopValue x.op x.s a.2 (if x.op == 0x0E then c.1 else c.2))

/-- The bytes of d: elements, then the scales of an MX vector. -/
def vopBytes (m : Mem) (w : Nat) (x : VopArgs) (tick : Nat) : List Byte :=
  let rnd := fun (i : Nat) => if x.stoch then Rnd.stoch (draw16 x.key i) else .rne
  let isOpen := fun (i : Nat) => vopOpen x.op x.td x.ta x.tb (vecElem m (vecAddr (vopB w)) x.tb x.len i).1
  if typeIsMX x.td then
    let blocks := (List.range (up32 x.len)).map (fun k =>
      let ix := (List.range (min 32 (x.len - 32 * k))).map (fun j => 32 * k + j)
      if ix.any isOpen then
        ((Config.openWord tick (2 ^ 26 + k)).toNat % 256, ix.map (fun i => (Config.openWord tick i).toNat % 2 ^ typeBits x.td))
      else mxEncode x.td (ix.map rnd) (ix.map (fun i => (vopElem m w x tick i).1)))
    (blocks.flatMap (fun q => leBytes (mxBlockBytes x.td) ((q.2.zipIdx).foldl (fun acc p => acc + p.1 * 2 ^ (p.2 * typeBits x.td)) 0)))
      ++ blocks.map (fun q => BitVec.ofNat 8 q.1)
  else
    (List.range x.len).flatMap (fun i =>
      leBytes (typeBits x.td / 8)
        (if isOpen i then (Config.openWord tick i).toNat % 2 ^ typeBits x.td
         else (let v := vopElem m w x tick i; vopCode x.td (rnd i) x.sat v.1 v.2)))

/-- Reads of vector-store ranges meet ECC; says whether an uncorrectable word was met. -/
def vecReads (b : Block) (l : List (Nat × Nat)) : Block × Bool :=
  l.foldl (fun (p : Block × Bool) q => let (b, bad) := eccRead p.1 q.1 q.2 false; (b, p.2 || bad)) (b, false)

/-- Lane operations that the estimator counts (R352). -/
def countVec (b : Block) (n : Nat) : Block := countAct b (fun a => { a with vec := a.vec + n })

/-- VOP: every element of d is written, then the instruction completes. -/
def runVop (b : Block) (e : Entry) : Block :=
  let w := e.word.toNat
  let x := vopArgs e
  let (b, bad) := vecReads b ((if vopUsesA x.op then [(vecAddr (vopA w), vecBytes x.ta x.len)] else [])
    ++ (if vopUsesB x.op then [(vecAddr (vopB w), vecBytes x.tb x.len)] else []))
  if bad then failEntry b e .sramUncorrectable (e.site 7)
  else
    let (b, bad) := sramWrite b (vecAddr (vopD w)) (vopBytes b.sram w x b.freeTick)
    let b := countVec (tickFree b) x.len
    if bad then failEntry b e .sramUncorrectable (e.site 7) else completeEntry (phaseOne b e.id) e.id

/-! ### NORM (R165) -/

def normKind (w : Nat) : Nat := bitsOf w 33 32
def normType (w : Nat) : Nat := bitsOf w 41 34
def normSrc (w : Nat) : Nat := bitsOf w 60 42
def normAcc (w : Nat) : Bool := bitAt w 71

/-- One more element in a lane. -/
def laneStep (kind : Nat) (acc : F32) (v : Num) : F32 :=
  match kind with
  | 0 => enc32 (Num.add (dec32 acc) (dec32 (enc32 (Num.mul v v))))
  | 1 => enc32 (Num.add (dec32 acc) v)
  | _ => enc32 (numMax (dec32 acc) (Num.abs v))

/-- A fixed-order reduction (R165): element `i` goes to lane i mod 2,048 in ascending order, then the lanes pair up. A lane with no element holds +0. -/
def laneReduce (kind : Nat) (l : List (Nat × Num)) : F32 :=
  let n := min 2048 (l.foldl (fun m p => max m (p.1 + 1)) 1)
  let lanes := (List.range n).map (fun k => (l.filter (fun p => p.1 % 2048 == k)).foldl (fun acc p => laneStep kind acc p.2) f32zero)
  pairTree (fun a c => if kind == 2 then enc32 (numMax (dec32 a) (dec32 c)) else f32add a c) 11 lanes

def normResult (m : Mem) (w len tick : Nat) : F32 :=
  if typeIsComplex (normType w) then (Config.openWord tick 0).setWidth 32
  else laneReduce (normKind w) ((List.range len).map (fun i => (i, (vecElem m (vecAddr (normSrc w)) (normType w) len i).1)))

/-- NORM: the result goes to QDST at completion; with ACC it is added to it, but for KIND 0x2, which forms no sum. -/
def runNorm (b : Block) (e : Entry) : Block :=
  let w := e.word.toNat
  let len := bitsOf (e.reads.getD 0 0#64).toNat 24 0
  let (b, bad) := vecReads b [(vecAddr (normSrc w), vecBytes (normType w) len)]
  if bad then failEntry b e .sramUncorrectable (e.site 7)
  else
    let v := normResult b.sram w len b.freeTick
    let q := slotAt w 65 61
    let old := getSlot b e.ctx e.strand q
    let new := if normAcc w && normKind w != 2 then dsAdd old (dsOfF32 v) else dsOfF32 v
    completeEntry (tickFree (setSlot (phaseOne (countVec b len) e.id) e.ctx e.strand q new)) e.id

/-- Nothing else of the vector engine's queue is being worked on. -/
def vecFree (b : Block) : Bool := b.entries.all (fun e => !(decide (e.eunit = .vec) && e.started && e.phase != 255))

end Sys2Proof.Machine
end

