-- ==== Sys2Proof/Machine/Rules.lean ====
section
/-! DEFINITION. Rule headers, UPDATE, and the rule sequencer (07): slice work, guards, layer ends, pair products, roots, directions,
orthogonalisation, and the rule passes they run. -/

namespace Sys2Proof.Machine

open Sys2Proof

/-! ### Rule headers (R169) -/

def hdrAddr (h : Nat) : Nat := vecBase + 64 * h
/-- Bits of word `w` of header `h`. -/
def hF (b : Block) (h w hi lo : Nat) : Nat := bitsOf (sramWord b (hdrAddr h + 8 * w)).toNat hi lo
def setH (b : Block) (h w lo wid v : Nat) : Block :=
  (sramWrite b (hdrAddr h + 8 * w) (leBytes 8 (insertBits (sramWord b (hdrAddr h + 8 * w)) lo wid v).toNat)).1

def hRule (b : Block) (h : Nat) : Nat := hF b h 0 1 0
def hPhase (b : Block) (h : Nat) : Nat := hF b h 0 3 2
def hHold (b : Block) (h : Nat) : Bool := hF b h 0 4 4 == 1
def hNF (b : Block) (h : Nat) : Bool := hF b h 0 5 5 == 1
def hRoots (b : Block) (h : Nat) : Bool := hF b h 0 6 6 == 1
def hRflag (b : Block) (h : Nat) : Bool := hF b h 0 7 7 == 1
def hWtype (b : Block) (h : Nat) : Nat := hF b h 0 15 8
def hNslice (b : Block) (h : Nat) : Nat := hF b h 0 31 16
def hStep (b : Block) (h : Nat) : Nat := hF b h 0 63 32
def hSeen (b : Block) (h : Nat) : Nat := hF b h 1 15 0
def hRows (b : Block) (h : Nat) : Nat := hF b h 1 35 16
def hCols (b : Block) (h : Nat) : Nat := hF b h 1 55 36
def hFp (b : Block) (h w lo : Nat) : F32 := BitVec.ofNat 32 (hF b h w (lo + 31) lo)
def hLR (b : Block) (h : Nat) : F32 := hFp b h 2 0
def hDecay (b : Block) (h : Nat) : F32 := hFp b h 2 32
def hB1 (b : Block) (h : Nat) : F32 := hFp b h 3 0
def hB2 (b : Block) (h : Nat) : F32 := hFp b h 3 32
def hEps (b : Block) (h : Nat) : F32 := hFp b h 4 0
def hThr (b : Block) (h : Nat) : F32 := hFp b h 4 32
def hNorm2 (b : Block) (h : Nat) : W64 := sramWord b (hdrAddr h + 40)
def hEma (b : Block) (h : Nat) : F32 := hFp b h 6 0
def hBase (b : Block) (h : Nat) : Nat := 4096 * hF b h 7 36 0
def hAccepted (b : Block) (h : Nat) : Nat := hF b h 7 63 49
def setPhase (b : Block) (h v : Nat) : Block := setH b h 0 2 2 v

/-- Column tiles of a RULE 2 or RULE 3 shard (R168). -/
def hCt (b : Block) (h : Nat) : Nat := (hCols b h + 511) / 512

def findRule (b : Block) (c : Ctx) (h : Nat) : Option RuleSt := b.rules.find? (fun r => decide (r.ctx = c) && r.hdr == h)
def modRule (b : Block) (c : Ctx) (h : Nat) (f : RuleSt → RuleSt) : Block :=
  { b with rules := b.rules.map (fun r => if decide (r.ctx = c) && r.hdr == h then f r else r) }
def dropRule (b : Block) (c : Ctx) (h : Nat) : Block :=
  { b with rules := b.rules.filter (fun r => !(decide (r.ctx = c) && r.hdr == h)) }

/-! ### The shard region (R168, R170) -/

def sliceElems : Nat := 262144
/-- Factor blocks of a dimension: first index and size. -/
def factorBlocks (d : Nat) : List (Nat × Nat) := (List.range ((d + 8191) / 8192)).map (fun k => (8192 * k, min 8192 (d - 8192 * k)))
def factorElems (d : Nat) : Nat := (factorBlocks d).foldl (fun a q => a + q.2 * q.2) 0
def up4k (n : Nat) : Nat := (n + 4095) / 4096 * 4096

def offM (b : Block) (h : Nat) : Nat := 4 * sliceElems * hNslice b h
def offV (b : Block) (h : Nat) : Nat := 8 * sliceElems * hNslice b h
/-- Factors follow m; the roots of L and R follow them on a 4 KiB boundary (log 40). -/
def offFactor (b : Block) (h : Nat) : Nat := offV b h
def offRoots (b : Block) (h : Nat) : Nat := up4k (offFactor b h + 4 * (factorElems (hRows b h) + factorElems (hCols b h)))

/-- Index of element (r, c) of factor L (side 0) or R (side 1) within the factor array; both indices lie in one block. R stands directly behind L,
and the roots of R behind those of L: R170 gives each pair one row of its table (DESIGN CHOICE, log 124). -/
def factorIx (b : Block) (h side r c : Nat) : Nat :=
  let d := if side == 0 then hRows b h else hCols b h
  let k := r / 8192
  (if side == 0 then 0 else factorElems (hRows b h)) + 8192 * 8192 * k + r % 8192 * min 8192 (d - 8192 * k) + c % 8192

/-- Element of the shard that holds matrix element (r, c) of a RULE 2 or RULE 3 shard. -/
def shardIx (b : Block) (h r c : Nat) : Nat := sliceElems * (r / 512 * hCt b h + c / 512) + r % 512 * 512 + c % 512

/-! ### Scratch (R171): the items of a reservation, in the order of the table (log 126) -/

def shardP (b : Block) (h : Nat) : Nat := sliceElems * hNslice b h
def factorBytes (b : Block) (h : Nat) : Nat := 4 * (factorElems (hRows b h) + factorElems (hCols b h))
/-- Offset of the accumulator of ‖m‖² behind the slice table. -/
def scrNorm (b : Block) (h : Nat) : Nat := 4 * hNslice b h
/-- Offset of the commit copy of array 0 (w), 1 (m) or 2 (v). -/
def scrCommit (b : Block) (h arr : Nat) : Nat := if hRule b h == 3 then scrNorm b h + 8 else scrNorm b h + 4 * shardP b h * arr
def scrFactor (b : Block) (h : Nat) : Nat := scrNorm b h
/-- Offset of the gradient copy of RULE 2, with the direction buffer and the root workspace behind it. -/
def scrGrad (b : Block) (h : Nat) : Nat := scrNorm b h + (if hHold b h then factorBytes b h else 0)
def scrDir (b : Block) (h : Nat) : Nat := scrGrad b h + 2 * shardP b h
def scrRoot (b : Block) (h k fb : Nat) : Nat := scrGrad b h + 4 * shardP b h + 4 * fb * fb * k
/-- Offset of X of RULE 3, with Xᵀ, A and B behind it. -/
def scrX (b : Block) (h : Nat) : Nat := scrNorm b h + 8 + (if hHold b h then 4 * shardP b h else 0)
def scrXt (b : Block) (h : Nat) : Nat := scrX b h + 2 * shardP b h
def scrA (b : Block) (h : Nat) : Nat := scrX b h + 4 * shardP b h
def scrB (b : Block) (h : Nat) : Nat := scrA b h + 2 * min (hRows b h) (hCols b h) * min (hRows b h) (hCols b h)

def scratchNeed (b : Block) (h : Nat) (hold : Bool) : Nat :=
  let n := hNslice b h
  let p := sliceElems * n
  let fac := 4 * (factorElems (hRows b h) + factorElems (hCols b h))
  let fmax := max (min 8192 (hRows b h)) (min 8192 (hCols b h))
  let d := min (hRows b h) (hCols b h)
  4 * n + (match hRule b h with
    | 0 => if hold then 8 * p else 0
    | 1 => if hold then 12 * p else 0
    | 2 => (if hold then fac else 0) + 4 * p + 20 * fmax * fmax
    | _ => 8 + (if hold then 4 * p else 0) + 4 * p + 4 * d * d)

def poolSize (b : Block) (c : Ctx) : Nat := 4096 * getFld b (.vecScratchSize c) 0 32

/-- First fit from the lowest address. -/
def scratchFit (b : Block) (c : Ctx) (need : Nat) : Option Nat :=
  let used := (b.rules.filter (fun r => decide (r.ctx = c))).map (fun r => (r.base, r.size))
  let free := fun (at_ : Nat) => decide (at_ + need ≤ poolSize b c) && used.all (fun u => decide (at_ + need ≤ u.1) || decide (u.1 + u.2 ≤ at_))
  ((0 :: used.map (fun u => u.1 + u.2)).mergeSort (fun x y => decide (x ≤ y))).find? free

/-! ### Validation (R172) -/

/-- Arrays that rule passes of a configuration may use. -/
def ruleArrays (b : Block) (cfg : W64) : List Arr := (allFin 4).filter (fun n => bitAt cfg.toNat n.val && usable b n)

def headerBad (b : Block) (c : Ctx) (h : Nat) : Bool :=
  let cfg := rawReg b (.vecRuleCfg c)
  let win := 64 * bitsOf cfg.toNat 43 24
  hF b h 7 48 37 != getFld b .fabSelf 16 12 || hF b h 6 63 63 != 0
  || !(hWtype b h == 0xFF || typeValid (hWtype b h))
  || (2 ≤ hRule b h && (
      hNslice b h != (hRows b h + 511) / 512 * hCt b h
      || (ruleArrays b cfg).isEmpty
      || (allFin 4).any (fun n => bitAt cfg.toNat n.val && fixedEn b n)
      || decide (win < if hRule b h == 2 then 0x2000000 else 0x1000000)
      || (ruleArrays b cfg).any (fun n => decide (stagSpan b n < 64 * bitsOf cfg.toNat 23 4 + win) || !inWin b c (n.val + 1) (64 * bitsOf cfg.toNat 23 4) win)))

/-! ### Jobs (R166) -/

def jobRunning (b : Block) : Option Job := b.jobs.find? (·.running)
def findJob (b : Block) (j : Nat) : Option Job := b.jobs.find? (fun x => x.id == j)
def modJob (b : Block) (j : Nat) (f : Job → Job) : Block := { b with jobs := b.jobs.map (fun x => if x.id == j then f x else x) }
def dropJob (b : Block) (j : Nat) : Block :=
  { b with jobs := b.jobs.filter (fun x => x.id != j), streams := b.streams.filter (fun x => !decide (x.owner = .job j)) }

/-- Hands a job over. -/
def addJob (b : Block) (c : Ctx) (gen : BitVec 16) (h : Nat) (kind : JobKind) (entry : Nat) : Block :=
  let (i, b) := fresh b
  { b with jobs := b.jobs ++ [{ id := i, ctx := c, gen := gen, hdr := h, kind := kind, running := false, stage := 0, iter := 0, block := 0, entry := entry, held := false, mats := [], prods := [], cfg := rawReg b (.vecRuleCfg c), eps := 0#32 }] }

/-- Scoreboard objects a job holds (R166, R187): its header, and the rule windows of its arrays. -/
def jobTokens (b : Block) (j : Job) : List TokObj :=
  .range (hdrAddr j.hdr) (hdrAddr j.hdr + 64) ::
    (if 2 ≤ hRule b j.hdr then (ruleArrays b j.cfg).map (fun n =>
      let lo := feederAddr b n (64 * bitsOf j.cfg.toNat 23 4)
      .range lo (lo + 64 * bitsOf j.cfg.toNat 43 24)) else [])

/-! ### RULECFG and PRECOND (R172, R183) -/

def rcHdr (w : Nat) : Nat := bitsOf w 52 34

def runBegin (b : Block) (e : Entry) : Block :=
  let h := rcHdr e.word.toNat
  if hPhase b h != 0 then failEntry b e .groupState (e.site 7)
  else if headerBad b e.ctx h then failEntry b e .illegalInstr (e.site 7)
  else
    let hold := getFld b (.vecGuard e.ctx) 0 1 == 1
    let need := scratchNeed b h hold
    match scratchFit b e.ctx need with
    | none =>
      if b.rules.all (fun r => decide (r.ctx ≠ e.ctx)) then failEntry b e .illegalInstr (e.site 7) else b
    | some base =>
      let b := setH b h 0 4 1 (if hold then 1 else 0)
      let b := setH b h 0 5 1 0
      let b := setH b h 1 0 16 0
      let b := setH b h 5 0 64 0
      let b := setPhase b h 1
      let b := { dropRule b e.ctx h with rules := (dropRule b e.ctx h).rules ++ [{ hdr := h, ctx := e.ctx, strand := e.strand, pool := 4096 * getFld b (.vecScratchBase e.ctx) 12 37, base := base, size := need, slices := [], skips := [], cw := [], cm := [], cv := [], cf := [], wdescs := [] }] }
      completeEntry (phaseOne b e.id) e.id

def runAbort (b : Block) (e : Entry) : Block :=
  let h := rcHdr e.word.toNat
  let b := if hPhase b h == 0 then b else setPhase (dropRule b e.ctx h) h 0
  completeEntry (phaseOne b e.id) e.id

def runCheck (b : Block) (e : Entry) : Block :=
  if headerBad b e.ctx (rcHdr e.word.toNat) then failEntry b e .illegalInstr (e.site 7) else completeEntry (phaseOne b e.id) e.id

def runRulecfg (b : Block) (e : Entry) : Block :=
  let (b, bad) := vecReads b [(hdrAddr (rcHdr e.word.toNat), 64)]
  if bad then failEntry b e .sramUncorrectable (e.site 7)
  else match bitsOf e.word.toNat 33 32 with
    | 0 => runBegin b e
    | 1 => runAbort b e
    | _ => runCheck b e

def runPrecond (b : Block) (e : Entry) : Block :=
  let h := rcHdr e.word.toNat
  let (b, bad) := vecReads b [(hdrAddr h, 64)]
  if bad then failEntry b e .sramUncorrectable (e.site 7)
  else if hRule b h != 2 then failEntry b e .illegalInstr (e.site 7)
  else match hPhase b h with
    | 0 => if 4 ≤ b.jobs.length then b
           else completeEntry (addJob (setH (phaseOne b e.id) h 0 7 1 1) e.ctx e.gen h .root 0) e.id
    | 1 => completeEntry (setH (phaseOne b e.id) h 0 7 1 1) e.id
    | _ => completeEntry (phaseOne b e.id) e.id

/-! ### Streams of the vector engine -/

def addStream (b : Block) (o : Owner) (c : Ctx) (gen : BitVec 16) (write : Bool) (idx quota : Nat) (peer : Option Nat) (segs : List Seg) : Block :=
  if segs.isEmpty then b
  else
    let (i, b) := fresh b
    { b with streams := b.streams ++ [Stream.plain i o c gen write idx segs quota peer] }

/-- A stream of one block: quota, peer and check options of its descriptor; it stays even when it moves no byte, for its guard prefix (R307). -/
def addBlockStream (b : Block) (o : Owner) (c : Ctx) (gen : BitVec 16) (write : Bool) (idx : Nat) (d : Desc) (segs : List Seg) : Block :=
  let (i, b) := fresh b
  { b with streams := b.streams ++ [{ Stream.plain i o c gen write idx segs (d.tagq + 1) (if d.peerEn then some d.peer else none) with
      feed := if d.chkEn then some ⟨d.chkCh, d.seq, d.base, 0, segs.length, 0, false⟩ else none }] }

/-- Bytes of region offsets `[off, off + n)` read into buffer `buf`, which mirrors the region. -/
def regionReads (base buf : Nat) (l : List (Nat × Nat)) : List Seg :=
  l.flatMap (fun q => (List.range q.2).map (fun i => (⟨base + q.1 + i, .mem (buf + q.1 + i)⟩ : Seg)))

/-- Bytes written at region offsets. -/
def bytesWrites (base : Nat) (l : List (Nat × List Byte)) : List Seg :=
  l.flatMap (fun q => q.2.mapIdx (fun i x => (⟨base + q.1 + i, .const x⟩ : Seg)))
/-- FP32 values written at region offsets. -/
def regionWrites (base : Nat) (l : List (Nat × F32)) : List Seg := bytesWrites base (l.map (fun q => (q.1, leBytes 4 q.2.toNat)))

def buf32 (b : Block) (buf off : Nat) : F32 := BitVec.ofNat 32 (leNat (sramBytes b (buf + off) 4))

/-- Buffer of owner `o` that mirrors a scratch reservation, beside the one that mirrors the shard region. -/
def scrBuf (o : Nat) : Nat := bufBase o + 0x100000000000
/-- Virtual address of a reservation. -/
def RuleSt.at_ (r : RuleSt) : Nat := r.pool + r.base

/-- FP32 elements `[at_, at_ + n)` of an array at region offset `home`, whose elements `kept` have their commit copy at scratch offset `aside`:
what is read from home and what from scratch (R177). -/
def copyReads (home aside : Nat) (kept : List Nat) (at_ n : Nat) : List (Nat × Nat) × List (Nat × Nat) :=
  if kept.all (fun k => decide (k < at_) || decide (at_ + n ≤ k)) then ([(home + 4 * at_, 4 * n)], [])
  else
    let ks := (List.range n).map (at_ + ·)
    ((ks.filter (fun k => !kept.contains k)).map (fun k => (home + 4 * k, 4)), (ks.filter kept.contains).map (fun k => (aside + 4 * k, 4)))

/-- Element `k` as `copyReads` has brought it into owner `o`'s buffers. -/
def copyGet (b : Block) (o home aside : Nat) (kept : List Nat) (k : Nat) : F32 :=
  if kept.contains k then buf32 b (scrBuf o) (aside + 4 * k) else buf32 b (bufBase o) (home + 4 * k)

/-- An index list with more indices. -/
def joinIx (l new : List Nat) : List Nat := l ++ new.filter (fun k => !l.contains k)

/-- The value listed for an index. -/
def keepGet (l : List (Nat × F32)) (k : Nat) : Option F32 := (l.find? (fun p => p.1 == k)).map (·.2)

/-- A tile of working weights through descriptor `ws` at tile (tr, tc): the new values by element, converted to WTYPE by RNE (R176). -/
def workSegs (b : Block) (ws : List W64) (wt tr tc h w : Nat) (vals : List (Nat × F32)) : List Seg :=
  let d := parseDesc ws
  let t : TileRead := { tid := 0, kind := .drain, entry := 0, ctx := 0, gen := 0#16, grp := none, sag := 0, bank := none, h := h, w := w, m := h, n := w, next := 0, checked := false, prog := [0x20000000#64], seed := 0#64, walk := 0, data := [], dataIm := [], complex := false, integer := false, thenPark := false, xfer := 0, run := none }
  let rows := (List.range h).map (fun i =>
    let gr := tr * h + i
    let es := (List.range w).map (fun j =>
      let gc := tc * w + j
      let v := keepGet vals (i * w + j)
      ({ j := j, gc := gc, kept := v.isSome && d.inWindow (outPos d gr gc), beyond := typeIsMX wt && decide (d.extAt 0 ≤ gc), pre := f32zero, main := v.getD f32zero, second := f32zero, exact := dec32 (v.getD f32zero), mainIm := f32zero, exactIm := dec32 ((Config.openWord b.freeTick (i * w + j)).setWidth 32) } : GElem))
    (gr, rowOut t wt 0 i es false))
  rows.flatMap (fun r => memElems d t tc r.1 r.2) ++ rows.flatMap (fun r => memScales d t tc r.1 r.2)

/-! ### UPDATE (R174 to R178) -/

def uGrp (w : Nat) : Grp := Fin.ofNat 64 (bitsOf w 37 32)
def uHdr (w : Nat) : Nat := bitsOf w 56 38
def uSlice (w : Nat) : Nat := bitsOf w 72 57
def uAdopt (w : Nat) : Bool := bitAt w 78
def uWdesc (w : Nat) : Nat := bitsOf w 93 79
def uWen (w : Nat) : Bool := bitAt w 94

/-- Vector-store address of the slice: the close's output tile (R175). -/
def gradAddr (x : GroupSt) : Nat := vecBase + gpOut x.cProg + x.cSlot * tileOutBytes 0 (wallH x.shape) (wallW x.shape)

/-- Whether element `k` of the slice is skipped under the close program (R148, R176). -/
def skipped (b : Block) (x : GroupSt) (k : Nat) : Bool :=
  let p := x.cProg
  let gr := x.cTr * wallH x.shape + k / wallW x.shape
  let gc := x.cTc * wallW x.shape + k % wallW x.shape
  let moff := gp p 4 51 26
  (gpRmask p && bitmapBit b x.cArr moff gr) || (gpCmask p && bitmapBit b x.cArr (moff + up64 ((gpRows p + 7) / 8)) gc)

/-- What `skipped` reads: the bitmap bytes of the tile's rows and columns. -/
def skipReads (b : Block) (x : GroupSt) : List (Nat × Nat) :=
  let p := x.cProg
  let moff := gp p 4 51 26
  let at_ := fun (off lo n : Nat) => (feederAddr b x.cArr (off + lo / 8), (lo + n + 7) / 8 - lo / 8)
  (if gpRmask p then [at_ moff (x.cTr * wallH x.shape) (wallH x.shape)] else [])
    ++ (if gpCmask p then [at_ (moff + up64 ((gpRows p + 7) / 8)) (x.cTc * wallW x.shape) (wallW x.shape)] else [])

/-- The gradient of element `k`; +0 outside ROWS × COLS for RULE 2 and RULE 3. -/
def gradOf (b : Block) (x : GroupSt) (h k : Nat) : F32 :=
  let outside := 2 ≤ hRule b h && (decide (hRows b h ≤ x.cTr * wallH x.shape + k / wallW x.shape) || decide (hCols b h ≤ x.cTc * wallW x.shape + k % wallW x.shape))
  if outside then f32zero else BitVec.ofNat 32 (leNat (sramBytes b (gradAddr x + 4 * k) 4))

/-- An exact power. -/
def numPow (x : Num) (n : Nat) : Num :=
  match x with
  | .nan => .nan
  | .inf s => if n == 0 then .fin false 1 0 else .inf (s && n % 2 == 1)
  | .fin s m e => .fin (s && n % 2 == 1) (m ^ n) (e * n)

structure RuleConsts where
  rule : Nat
  nesterov : Bool
  lr : F32
  decay : F32
  b1 : F32
  b2 : F32
  eps : F32
  c1 : F32
  c2 : F32
  bc1 : F32
  bc2 : F32
  deriving DecidableEq, Repr

def ruleConsts (b : Block) (h : Nat) : RuleConsts :=
  let one : Num := .fin false 1 0
  let b1 := hB1 b h
  let b2 := hB2 b h
  { rule := hRule b h, nesterov := hRflag b h, lr := hLR b h, decay := hDecay b h, b1 := b1, b2 := b2, eps := hEps b h
    c1 := enc32 (Num.sub one (dec32 b1)), c2 := enc32 (Num.sub one (dec32 b2))
    bc1 := enc32 (Num.sub one (numPow (dec32 b1) (hStep b h + 1))), bc2 := enc32 (Num.sub one (numPow (dec32 b2) (hStep b h + 1))) }

/-- w − lr · (d + decay · w). -/
def applyW (c : RuleConsts) (w d : F32) : F32 := f32sub w (f32mul c.lr (f32add d (f32mul c.decay w)))

/-- The slice work on one element (R176): new w, m and v. -/
def sliceElem (c : RuleConsts) (g w m v : F32) : F32 × F32 × F32 :=
  match c.rule with
  | 0 =>
    let m := f32add (f32mul c.b1 m) g
    let d := if c.nesterov then f32add g (f32mul c.b1 m) else m
    (applyW c w d, m, v)
  | 1 =>
    let m := f32add (f32mul c.b1 m) (f32mul c.c1 g)
    let v := f32add (f32mul c.b2 v) (f32mul c.c2 (f32mul g g))
    let u := f32div (f32div m c.bc1) (f32add (f32sqrt (f32div v c.bc2)) c.eps)
    (applyW c w u, m, v)
  | 3 => (w, f32add (f32mul c.b1 m) g, v)
  | _ => (w, m, v)

/-- State arrays that a rule's slice work reads and writes: w, m, v. -/
def ruleArraysUsed (rule : Nat) : Bool × Bool × Bool :=
  match rule with | 0 => (true, true, false) | 1 => (true, true, true) | 3 => (false, true, false) | _ => (false, false, false)

/-- The checks of R175, in their order. They do not ask who opened the group: R24 names PASS, GPARK, GRESUME, GMERGE and GCLOSE, and UPDATE, which
R175 checks by header and BEGIN strand, is not held to the opener (DESIGN CHOICE, log 122). -/
def updateProblem (b : Block) (e : Entry) : Option Code :=
  let w := e.word.toNat
  let x := getGrp b (uGrp w)
  let h := uHdr w
  let exp := bitsOf (e.reads.getD 0 0#64).toNat 31 0
  if !(decide (x.state = .closed) && gpOtype x.cProg == 0 && gpDest x.cProg == 2) then some .groupState
  else if hPhase b h != 1 || !((findRule b e.ctx h).any (fun r => decide (r.strand = e.strand))) then some .groupState
  else if exp != hStep b h && !uAdopt w then some .stepSkew
  else if hNslice b h ≤ uSlice w then some .illegalInstr
  else if 2 ≤ hRule b h && (uSlice w != x.cTr * hCt b h + x.cTc || x.shape != 0) then some .illegalInstr
  else if uWen w && hWtype b h != 0xFF && (parseDesc (e.descs.getD 0 [])).typ != hWtype b h then some .illegalInstr
  else none

/-- Whether the UPDATE will hand a job over. -/
def updateHands (b : Block) (e : Entry) : Bool :=
  let h := uHdr e.word.toNat
  hRule b h == 2 || hSeen b h + 1 == hNslice b h

/-- The UPDATE at the head of the queue: checks, slice table, and the reads of its state tiles (phase 2). -/
def startUpdate (b : Block) (e : Entry) : Block :=
  let w := e.word.toNat
  let h := uHdr w
  let x := getGrp b (uGrp w)
  let n := wallH x.shape * wallW x.shape
  match updateProblem b e, findRule b e.ctx h with
  | none, some r =>
    if updateHands b e && 4 ≤ b.jobs.length then b
    else
      let b := setH b h 0 32 32 (bitsOf (e.reads.getD 0 0#64).toNat 31 0)
      let b := modRule b e.ctx h (fun r => { r with
        slices := r.slices.filter (fun s => s.1 != uSlice w) ++ [(uSlice w, x.shape)]
        wdescs := if uWen w && hWtype b h != 0xFF then r.wdescs.filter (fun q => q.1 != uSlice w) ++ [(uSlice w, uWdesc w, e.descs.getD 0 [])] else r.wdescs })
      let b := modEntry b e.id (fun y => { y with started := true, phase := 2 })
      let use_ := ruleArraysUsed (hRule b h)
      let at_ := sliceElems * uSlice w
      let get := fun (used : Bool) (off arr : Nat) (kept : List Nat) => if used then copyReads off (scrCommit b h arr) kept at_ n else ([], [])
      let rw := get use_.1 0 0 r.cw
      let rm := get use_.2.1 (offM b h) 1 r.cm
      let rv := get use_.2.2 (offV b h) 2 r.cv
      addStream b (.entry e.id) e.ctx e.gen false 0 4096 none
        (regionReads (hBase b h) (bufBase e.id) (rw.1 ++ rm.1 ++ rv.1)
          ++ regionReads r.at_ (scrBuf e.id) (rw.2 ++ rm.2 ++ rv.2 ++ (if hRule b h == 3 && hSeen b h != 0 then [(scrNorm b h, 8)] else [])))
  | some c, _ => failEntry b e c { e.site 7 with grp := some (uGrp w) }
  | none, none => b

/-- The slice work, once its state tiles are read: the new values, then their writes or commit copies, with the slice's entry in the slice table
and what RULE 2 and RULE 3 keep in scratch (phase 3; R176 to R178). -/
def computeUpdate (b : Block) (e : Entry) : Block :=
  let w := e.word.toNat
  let h := uHdr w
  let x := getGrp b (uGrp w)
  let n := wallH x.shape * wallW x.shape
  let (b, bad) := vecReads b ((gradAddr x, 4 * n) :: skipReads b x)
  if bad then failEntry b e .sramUncorrectable (e.site 7)
  else match findRule b e.ctx h with
  | none => b
  | some r =>
    let at_ := sliceElems * uSlice w
    let c := ruleConsts b h
    let use_ := ruleArraysUsed c.rule
    let kept := (List.range n).filter (fun k => !skipped b x k)
    let old := fun (off arr : Nat) (l : List Nat) (k : Nat) => copyGet b e.id off (scrCommit b h arr) l (at_ + k)
    let new := kept.map (fun k =>
      (k, gradOf b x h k, sliceElem c (gradOf b x h k) (old 0 0 r.cw k) (old (offM b h) 1 r.cm k) (old (offV b h) 2 r.cv k)))
    let ws := if use_.1 then new.map (fun q => (at_ + q.1, q.2.2.1)) else []
    let ms := if use_.2.1 then new.map (fun q => (at_ + q.1, q.2.2.2.1)) else []
    let vs := if use_.2.2 then new.map (fun q => (at_ + q.1, q.2.2.2.2)) else []
    let b := countVec { b with streams := b.streams.filter (fun s => !decide (s.owner = .entry e.id)) } (3 * kept.length)
    -- the norm, and the norm of m
    let b := setH b h 5 0 64 (dsAdd (hNorm2 b h) (dsOfF32 (laneReduce 0 (new.map (fun q => (q.1, dec32 q.2.1)))))).toNat
    let b := if x.nfNan + x.nfPos + x.nfNeg != 0 then setH b h 0 5 1 1 else b
    let norm := dsAdd (if hSeen b h == 0 then 0#64 else sramWord b (scrBuf e.id + scrNorm b h))
      (dsOfF32 (laneReduce 0 (new.map (fun q => (q.1, dec32 q.2.2.2.1)))))
    let skips := ((List.range n).filter (fun k => skipped b x k)).map (at_ + ·)
    let aside := fun (arr : Nat) (l : List (Nat × F32)) => l.map (fun q => (scrCommit b h arr + 4 * q.1, leBytes 4 q.2.toNat))
    let hold := hHold b h
    let ix := fun (l : List (Nat × F32)) => if hold then l.map (·.1) else []
    let b := modRule b e.ctx h (fun r => { r with
      skips := r.skips.filter (fun k => k / sliceElems != uSlice w) ++ skips
      cw := joinIx r.cw (ix ws), cm := joinIx r.cm (ix ms), cv := joinIx r.cv (ix vs) })
    -- the writes
    let scr := (4 * uSlice w, leBytes 4 (x.cTr + x.cTc * 2 ^ 12)) ::
      ((if c.rule == 3 then [(scrNorm b h, leBytes 8 norm.toNat)] else [])
        ++ (if c.rule == 2 then new.map (fun q => (scrGrad b h + 2 * (at_ + q.1), leBytes 2 (fmtBF16.encode .rne true (dec32 q.2.1)))) else [])
        ++ (if hold then aside 0 ws ++ aside 1 ms ++ aside 2 vs else []))
    let home := if hold then [] else
      ws.map (fun q => (4 * q.1, q.2)) ++ ms.map (fun q => (offM b h + 4 * q.1, q.2)) ++ vs.map (fun q => (offV b h + 4 * q.1, q.2))
    let b := addStream b (.entry e.id) e.ctx e.gen true 0 4096 none (bytesWrites r.at_ scr ++ regionWrites (hBase b h) home)
    let b := if !hold && use_.1 && uWen w && hWtype b h != 0xFF then
        tickFree (addBlockStream b (.entry e.id) e.ctx e.gen true (uWdesc w) (parseDesc (e.descs.getD 0 []))
          (workSegs b (e.descs.getD 0 []) (hWtype b h) x.cTr x.cTc (wallH x.shape) (wallW x.shape) (ws.map (fun q => (q.1 - at_, q.2)))))
      else b
    let b := modEntry b e.id (fun y => { y with phase := 3 })
    if c.rule == 2 then addJob b e.ctx e.gen h (.pair (uSlice w)) e.id else b

/-- The slice is done (R177, R179): its group is FREE, SEEN rises, and the last slice hands the layer end over. -/
def finishUpdate (b : Block) (e : Entry) : Block :=
  let h := uHdr e.word.toNat
  let b := setH (freeGroup b (uGrp e.word.toNat)) h 1 0 16 (hSeen b h + 1)
  let b := if hSeen b h == hNslice b h then addJob (setPhase b h 2) e.ctx e.gen h .layerEnd 0 else b
  completeEntry (phaseOne { b with streams := b.streams.filter (fun s => !decide (s.owner = .entry e.id)) } e.id) e.id

/-- One step of an UPDATE. -/
def runUpdate (b : Block) (e : Entry) : Block :=
  if e.phase == 255 || (e.started && !entryStreamsDone b e.id) || (e.phase == 3 && b.jobs.any (fun j => j.entry == e.id)) then b
  else
    let (c, bad) := vecReads b [(hdrAddr (uHdr e.word.toNat), 64)]
    if bad then failEntry c e .sramUncorrectable (e.site 7)
    else if !e.started then startUpdate c e
    else if e.phase == 2 then computeUpdate c e
    else if e.phase == 3 then finishUpdate c e
    else b

/-- The vector engine's work on the entry at its head or in progress (R162, R172, R175). -/
def vecAdvance (b : Block) (e : Entry) : Block :=
  let op := wOpc e.word.toNat
  if frozenV b || !awake b then b
  else if !e.started && !((queueHead b .vec).any (fun x => x.id == e.id) && vecFree b) then b
  else match op with
    | 0x38 => runVop b e
    | 0x39 => runNorm b e
    | 0x3A => runRulecfg b e
    | 0x3B => runUpdate b e
    | _ => runPrecond b e

/-! ### Working matrices -/

def matGet (m : Mat) (r c : Nat) : F32 := if r < m.rows && c < m.cols then spGet f32zero m.vals (r * m.cols + c) else f32zero
def matSet (m : Mat) (r c : Nat) (v : F32) : Mat := if r < m.rows && c < m.cols then { m with vals := spPut f32zero m.vals (r * m.cols + c) v } else m
def mkMat (rows cols : Nat) (f : Nat → Nat → F32) : Mat :=
  (List.range rows).foldl (fun m r => (List.range cols).foldl (fun m c => matSet m r c (f r c)) m) ⟨rows, cols, []⟩
def toBF16 (x : F32) : F32 := BitVec.ofNat 32 (fmtBF16.encode .rne true (dec32 x) * 65536)
def matBF16 (m : Mat) : Mat := mkMat m.rows m.cols (fun r c => toBF16 (matGet m r c))
def getMat (j : Job) (k : Nat) : Mat := ((j.mats.find? (fun q => q.1 == k)).map (·.2)).getD ⟨0, 0, []⟩
def Job.setMat (j : Job) (k : Nat) (m : Mat) : Job := { j with mats := (k, m) :: j.mats.filter (fun q => q.1 != k) }

def gridTiles (rows cols k : Nat) : List (Nat × Nat × Nat × Nat) :=
  (List.range ((rows + 511) / 512)).flatMap (fun r => (List.range ((cols + 511) / 512)).map (fun c => (r, c, 0, k)))

/-- A product over whole matrices; its result starts at +0. -/
def Job.product (j : Job) (a b c : Nat) (fp32 transA transB : Bool) : Job :=
  let ma := getMat j a
  let mb := getMat j b
  let rows := if transA then ma.cols else ma.rows
  let k := if transA then ma.rows else ma.cols
  let cols := if transB then mb.rows else mb.cols
  { j.setMat c ⟨rows, cols, []⟩ with prods := j.prods ++ [⟨a, b, c, fp32, transA, transB, gridTiles rows cols k⟩] }

/-- A product whose K range is the factor block of the output tile's column (or row). -/
def Job.blockProduct (j : Job) (a b c : Nat) (byRow : Bool) (k : Nat) : Job :=
  let rows := (getMat j a).rows
  let cols := (getMat j b).cols
  let tiles := (gridTiles rows cols k).map (fun t =>
    let blk := (if byRow then t.1 else t.2.1) / 16
    (t.1, t.2.1, 8192 * blk, min k (8192 * blk + 8192)))
  { j.setMat c ⟨rows, cols, []⟩ with prods := j.prods ++ [⟨a, b, c, false, false, false, tiles⟩] }

/-! ### Rule passes (R167) -/

/-- Bytes of one panel: `k` lines of 512 elements. -/
def panelOf (fp32 : Bool) (k : Nat) (f : Nat → Nat → F32) : List Byte :=
  (List.range k).flatMap (fun q => (List.range 512).flatMap (fun i =>
    if fp32 then leBytes 4 (f q i).toNat else leBytes 2 ((f q i).toNat / 65536)))

def ruleRun (j : Job) (n : Arr) (t : BankIx) (p : Prod) (m nn k : Nat) (ck : Bool) (refA refB : Nat) : PassRun :=
  { entry := 0, ctx := j.ctx, gen := j.gen, grp := none, bank := t, m := m, n := nn, k := k
    ta := if p.fp32 then 0 else 1, tb := if p.fp32 then 0 else 1, refA := BitVec.ofNat 64 refA, refB := BitVec.ofNat 64 refB
    baseA := n, baseB := n, kpos := 0, sub := 0, split := 0, leafCnt := 0, leaves := 0, draw := 0, passNum := 0, checked := ck
    replay := false, segs := 0, counted := 0, edgeCol := [], edgeColMu := [], edgeRow := [], edgeRowMu := []
    ended := false, aborted := false, gang := false, orient := false, rule := some j.id }

/-- One part of a tile entry: panels into the rule window, every K-row, the end of the pass; and the mismatch of a checked part. -/
def rulePart (b : Block) (j : Job) (n : Arr) (t : BankIx) (p : Prod) (tile : Nat × Nat × Nat × Nat) (k0 k1 : Nat) : Block × Option (Nat × Nat × PassRun) :=
  let ma := getMat j p.a
  let mb := getMat j p.b
  let mc := getMat j p.c
  let k := k1 - k0
  let off := 64 * bitsOf j.cfg.toNat 23 4
  let offB := off + k * 512 * (if p.fp32 then 4 else 2)
  let fa := fun (q i : Nat) => let r := 512 * tile.1 + i; if p.transA then matGet ma (k0 + q) r else matGet ma r (k0 + q)
  let fb := fun (q i : Nat) => let c := 512 * tile.2.1 + i; if p.transB then matGet mb c (k0 + q) else matGet mb (k0 + q) c
  let base := feederAddr b n 0
  let b := freshEcc { b with sram := memPutBytes (memPutBytes b.sram (base + off) (panelOf p.fp32 k fa)) (base + offB) (panelOf p.fp32 k fb) } (base + off) (2 * (offB - off))
  let (b, ck) := checkPick b n 0
  let run := ruleRun j n t p (min 512 (mc.rows - 512 * tile.1)) (min 512 (mc.cols - 512 * tile.2.1)) k ck off offB
  let b := takeBank b n 0 t run false
  let b := (List.range (k * splitSteps run.ta)).foldl (fun b _ => runRow b n 0) b
  let b := subPassEnd b n 0
  match (getPos b n 0).run with
  | none => (b, none)
  | some r =>
    let cells := ((getPos b n 0).bank t).cells
    let src : TileRead := { tid := 0, kind := .drain, entry := 0, ctx := j.ctx, gen := j.gen, grp := none, sag := 0, bank := some t, h := 512, w := 512, m := r.m, n := r.n, next := 0, checked := ck, prog := [], seed := 0#64, walk := 0, data := [], dataIm := [], complex := false, integer := false, thenPark := false, xfer := 0, run := some r }
    let d0 : DTile := { tid := 0, src := src, rowsIn := 0, rowsOut := 0, colSum := [], rowSum := [], checkDone := false, nan := 0, pos := 0, negc := 0, folded := false, red := [] }
    let d := (List.range r.m).foldl (fun d i =>
      stage1 false d i ((List.range r.n).map (fun jx => contribution (runCfg b r) (cellGet cells (i * 512 + jx)) false false none)) []) d0
    let bad := if ck then mismatch b n d r else none
    (modPos b n 0 (fun q => { q.setBank t { q.bank t with state := .held } with run := none }), bad.map (fun q => (q.1, q.2, r)))

/-- K ranges of the parts of an entry: at most 4,096 K-rows each. -/
def ruleParts (lo hi : Nat) : List (Nat × Nat) := (List.range ((hi - lo + 4095) / 4096)).map (fun i => (lo + 4096 * i, min hi (lo + 4096 * i + 4096)))

/-- A tile entry: its parts one after another in one bank, until one mismatches; its FP32 result. -/
def ruleTile (b : Block) (j : Job) (n : Arr) (t : BankIx) (p : Prod) (tile : Nat × Nat × Nat × Nat) : Block × Option (Nat × Nat × PassRun) :=
  (ruleParts tile.2.2.1 tile.2.2.2).foldl (fun (s : Block × Option (Nat × Nat × PassRun)) q =>
    if s.2.isSome then s else rulePart s.1 j n t p tile q.1 q.2) (b, none)

/-- The rule window of an array after the entry: which panels it still holds is not stated (log 10). -/
def openWindow (b : Block) (j : Job) (n : Arr) : Block :=
  let lo := feederAddr b n (64 * bitsOf j.cfg.toNat 23 4)
  tickFree <| (fun b => freshEcc b lo (64 * bitsOf j.cfg.toNat 43 24)) { b with sram := memPutBytes b.sram lo ((List.range (64 * bitsOf j.cfg.toNat 43 24)).map (fun i => (Config.openWord b.freeTick i).setWidth 8)) }

/-- Takes the first output tile of the job's first product off the list. -/
def popTile (j : Job) : Job :=
  match j.prods with
  | [] => j
  | p :: r => if p.tiles.length ≤ 1 then { j with prods := r } else { j with prods := { p with tiles := p.tiles.drop 1 } :: r }

/-! ### Job data -/

def jobWindow (b : Block) (j : Job) (n : Arr) : List Token :=
  let lo := feederAddr b n (64 * bitsOf j.cfg.toNat 23 4)
  [⟨.range lo (lo + 64 * bitsOf j.cfg.toNat 43 24), true⟩]

def jobStreamsDone (b : Block) (j : Nat) : Bool := (b.streams.filter (fun x => decide (x.owner = .job j))).all (fun x => streamDone b x.id)
def dropJobStreams (b : Block) (j : Nat) : Block := { b with streams := b.streams.filter (fun x => !decide (x.owner = .job j)) }

def jobReads (b : Block) (j : Job) (l : List (Nat × Nat)) : Block :=
  addStream b (.job j.id) j.ctx j.gen false 0 4096 none (regionReads (hBase b j.hdr) (bufBase j.id) l)
def jobWrites (b : Block) (j : Job) (l : List (Nat × F32)) : Block :=
  addStream b (.job j.id) j.ctx j.gen true 0 4096 none (regionWrites (hBase b j.hdr) l)

/-- Reads from the scratch reservation. -/
def jobScrReads (b : Block) (j : Job) (r : RuleSt) (l : List (Nat × Nat)) : Block :=
  addStream b (.job j.id) j.ctx j.gen false 0 4096 none (regionReads r.at_ (scrBuf j.id) l)

/-- Writes to the scratch reservation; a root job on an IDLE header has none (log 126). -/
def jobScrWrites (b : Block) (j : Job) (r : RuleSt) (l : List (Nat × List Byte)) : Block :=
  if r.size == 0 then b else addStream b (.job j.id) j.ctx j.gen true 0 4096 none (bytesWrites r.at_ l)

/-- A transposed copy stored through wheel 0 (R167). -/
def jobTurned (b : Block) (j : Job) (r : RuleSt) (l : List (Nat × List Byte)) : Block :=
  let b := jobScrWrites b j r l
  modStream b b.lastDispatch (fun y => if decide (y.owner = .job j.id) then { y with wheel := some 0, turned := true, turnNo := y.id } else y)

/-- A working matrix as bytes from scratch offset `off`: row by row, FP32 or BF16. -/
def matBytes (off : Nat) (fp32 : Bool) (m : Mat) : List (Nat × List Byte) :=
  let n := if fp32 then 4 else 2
  (List.range m.rows).flatMap (fun x => (List.range m.cols).map (fun y =>
    (off + n * (x * m.cols + y), leBytes n (if fp32 then (matGet m x y).toNat else (matGet m x y).toNat / 65536))))

/-- A factor element: the commit copy where this step has written it, else what was read; the upper block triangle is the transpose. -/
def factorGet (b : Block) (j : Job) (r : RuleSt) (side x y : Nat) : F32 :=
  if x / 8192 != y / 8192 then f32zero
  else copyGet b j.id (offFactor b j.hdr) (scrFactor b j.hdr) r.cf (if x / 512 < y / 512 then factorIx b j.hdr side y x else factorIx b j.hdr side x y)

def factorMat (b : Block) (j : Job) (r : RuleSt) (side : Nat) : Mat :=
  let d := if side == 0 then hRows b j.hdr else hCols b j.hdr
  mkMat d d (factorGet b j r side)

def rootMat (b : Block) (j : Job) (side : Nat) : Mat :=
  let d := if side == 0 then hRows b j.hdr else hCols b j.hdr
  mkMat d d (fun x y => if x / 8192 != y / 8192 then f32zero else buf32 b (bufBase j.id) (offRoots b j.hdr + 4 * factorIx b j.hdr side x y))

/-- The gradient copy as a matrix, from what has been read of it; +0 where this step has kept no element (log 126). -/
def gradMat (b : Block) (j : Job) (r : RuleSt) : Mat :=
  mkMat (hRows b j.hdr) (hCols b j.hdr) (fun x y =>
    let k := shardIx b j.hdr x y
    if !r.slices.any (fun s => s.1 == k / sliceElems) || r.skips.contains k then f32zero
    else BitVec.ofNat 32 (leNat (sramBytes b (scrBuf j.id + scrGrad b j.hdr + 2 * k) 2) * 65536))

/-- The gradient copies of slices. -/
def gradReads (b : Block) (h : Nat) (l : List Nat) : List (Nat × Nat) := l.map (fun s => (scrGrad b h + 2 * sliceElems * s, 2 * sliceElems))

/-- Shard elements of RULE 2 and RULE 3 that the layer end writes, with their matrix places. -/
def shardElems (b : Block) (h : Nat) (r : RuleSt) : List (Nat × Nat × Nat) :=
  ((List.range (sliceElems * hNslice b h)).filter (fun k => !r.skips.contains k)).map (fun k =>
    let s := k / sliceElems
    (k, 512 * (s / hCt b h) + k % sliceElems / 512, 512 * (s % hCt b h) + k % 512))

/-- The working weights of every slice that named a descriptor: tile (tr, tc) of the slice table that has been read, h × w of its group's SHAPE. -/
def jobWorking (b : Block) (j : Job) (r : RuleSt) (ws : List (Nat × F32)) : Block :=
  r.wdescs.foldl (fun b q =>
    let shape := ((r.slices.find? (fun s => s.1 == q.1)).map (·.2)).getD 0
    let place := leNat (sramBytes b (scrBuf j.id + 4 * q.1) 4)
    let vals := (ws.filter (fun p => p.1 / sliceElems == q.1)).map (fun p => (p.1 % sliceElems, p.2))
    tickFree (addBlockStream b (.job j.id) j.ctx j.gen true q.2.1 (parseDesc q.2.2)
      (workSegs b q.2.2 (hWtype b j.hdr) (bitsOf place 11 0) (bitsOf place 23 12) (wallH shape) (wallW shape) vals))) b

/-! ### The guards (R178 to R180) -/

def jobSite (j : Job) : Site := { ctx := some j.ctx, gen := j.gen, unit := 7 }

structure Guard where
  nf : Bool
  spike : Bool
  held : Bool
  deriving DecidableEq, Repr

def guardOf (b : Block) (h : Nat) : Guard :=
  let n2 := dsHi (hNorm2 b h)
  let nf := hNF b h || f32isNan n2 || f32isInf n2
  let spike := f32lt f32zero (hThr b h) && decide (hF b h 6 61 52 ≤ hAccepted b h) && !nf && f32lt (f32mul (hThr b h) (hEma b h)) n2
  ⟨nf, spike, hHold b h && (nf || spike)⟩

/-- The running mean over accepted steps (R180). -/
def emaNext (b : Block) (h : Nat) : F32 :=
  let ema := hEma b h
  let a := hAccepted b h + 1
  let k := hF b h 6 35 32
  let d := f32sub (dsHi (hNorm2 b h)) ema
  if a < 2 ^ k then f32add ema (f32div d (f32ofNat a)) else f32add ema (enc32 (Num.scale2 (dec32 d) (-(k : Int))))

/-- The end of a layer end (R179): mean, counters, step, phase, scratch, post. -/
def finishLayer (b : Block) (j : Job) : Block :=
  let h := j.hdr
  let strand := ((findRule b j.ctx h).map (·.strand)).getD 0
  let b := if hF b h 6 62 62 == 1 then strandPost b j.ctx strand j.gen (Fin.ofNat 256 (hF b h 1 63 56)) 1 else b
  let b := if j.held then bumpFld b .vecGuardCnt 32 16 1
    else setH (setH b h 6 0 32 (emaNext b h).toNat) h 7 49 15 (min 32767 (hAccepted b h + 1))
  let b := setPhase (setH b h 0 32 32 ((hStep b h + 1) % 2 ^ 32)) h 0
  dropJob (dropRule b j.ctx h) j.id

/-! ### Roots (R182) -/

/-- The root blocks: side, first index, size. -/
def rootBlocks (b : Block) (h : Nat) : List (Nat × Nat × Nat) :=
  (factorBlocks (hRows b h)).map (fun q => (0, q.1, q.2)) ++ (factorBlocks (hCols b h)).map (fun q => (1, q.1, q.2))

def trace (m : Mat) : F32 := laneReduce 1 ((List.range m.rows).map (fun i => (i, dec32 (matGet m i i))))
def f32le (a c : F32) : Bool := !f32isNan a && !f32isNan c && !f32lt c a

/-- c^(-1/4), rounded once (log 41). -/
def quarterRoot (c : F32) : F32 :=
  match dec32 c with
  | .nan => enc32 .nan
  | .inf s => if s then enc32 .nan else f32zero
  | .fin s m e => if m == 0 then enc32 (.inf s) else if s then enc32 .nan else bfRound false (bfDiv (bfOfInt 1) (bfSqrt (bfSqrt ⟨m, e⟩)))

def five : F32 := 0x40A00000#32
def four : F32 := 0x40800000#32

/-- T1 = (5·I − M) / 4, then the products of the first round. -/
def rootRound (j : Job) : Job :=
  let m := getMat j 10
  let t1 := mkMat m.rows m.cols (fun x y => f32div (f32sub (if x == y then five else f32zero) (matGet m x y)) four)
  let j := j.setMat 12 t1
  { (j.product 11 12 15 true false false).product 12 12 13 true false false with stage := 21 }

/-- Puts a root block into the roots. -/
def placeRoot (j : Job) (blk : Nat × Nat × Nat) (f : Nat → Nat → F32) : Job :=
  let k := 2 + blk.1
  let m := (List.range blk.2.2).foldl (fun m x => (List.range blk.2.2).foldl (fun m y => matSet m (blk.2.1 + x) (blk.2.1 + y) (f x y)) m) (getMat j k)
  { j.setMat k m with block := j.block + 1, stage := 20, iter := 0, prods := [] }

/-- A block that falls back keeps its roots, or takes the identity; PRECOND_FALLBACK is raised once. -/
def rootFallback (b : Block) (j : Job) (blk : Nat × Nat × Nat) : Block × Job :=
  let b := raise (bumpFld b .vecGuardCnt 48 16 1) .precondFallback (jobSite j)
  if hRoots b j.hdr then (b, { j with block := j.block + 1, stage := 20, iter := 0, prods := [] })
  else (b, placeRoot j blk (fun x y => if x == y then f32one else f32zero))

/-- Starts the next root block, or says that all are done. -/
def rootStart (b : Block) (j : Job) (r : RuleSt) (blk : Nat × Nat × Nat) : Block × Job :=
  let a := mkMat blk.2.2 blk.2.2 (fun x y => factorGet b j r blk.1 (blk.2.1 + x) (blk.2.1 + y))
  let t := trace a
  if t == 0#32 || t == 0x80000000#32 || f32isNan t || f32isInf t then rootFallback b j blk
  else
    let add := f32div (f32mul j.eps t) (f32ofNat blk.2.2)
    let a := mkMat blk.2.2 blk.2.2 (fun x y => if x == y then f32add (matGet a x y) add else matGet a x y)
    let c := trace a
    let q := quarterRoot c
    let j := (j.setMat 10 (mkMat blk.2.2 blk.2.2 (fun x y => f32div (matGet a x y) c))).setMat 11
      (mkMat blk.2.2 blk.2.2 (fun x y => if x == y then q else f32zero))
    (b, rootRound { j with iter := 0, prods := [] })

/-- After a round's last product: accept, go on, or fall back after 24. -/
def rootCheck (b : Block) (j : Job) (blk : Nat × Nat × Nat) : Block × Job :=
  let j := j.setMat 10 (getMat j 16)
  let m := getMat j 10
  let ok := (List.range m.rows).all (fun x => (List.range m.cols).all (fun y =>
    f32le (f32abs (f32sub (matGet m x y) (if x == y then f32one else f32zero))) (hEps b j.hdr)))
  if ok then (b, placeRoot j blk (fun x y => matGet (getMat j 11) x y))
  else if j.iter + 1 == 24 then rootFallback b j blk
  else (b, rootRound { j with iter := j.iter + 1 })

/-- The computed roots as region writes. -/
def rootWrites (b : Block) (j : Job) : List (Nat × F32) :=
  (rootBlocks b j.hdr).flatMap (fun q => (List.range q.2.2).flatMap (fun x => (List.range q.2.2).map (fun y =>
    (offRoots b j.hdr + 4 * factorIx b j.hdr q.1 (q.2.1 + x) (q.2.1 + y), matGet (getMat j (2 + q.1)) (q.2.1 + x) (q.2.1 + y)))))

def rootsDue (b : Block) (h : Nat) : Bool := hRflag b h || hStep b h % max 1 (hF b h 6 51 36) == 0

/-! ### Stages of a job -/

/-- The factor and root arrays whole: elements of each, and the region range of the roots. -/
def factorCount (b : Block) (h : Nat) : Nat := factorElems (hRows b h) + factorElems (hCols b h)
def rootRange (b : Block) (h : Nat) : Nat × Nat := (offRoots b h, 4 * factorCount b h)

/-- What a job on a header without a reservation goes by. -/
def noRule (j : Job) : RuleSt :=
  { hdr := j.hdr, ctx := j.ctx, strand := 0, pool := 0, base := 0, size := 0, slices := [], skips := [], cw := [], cm := [], cv := [], cf := [], wdescs := [] }

/-- The partner slices of R181: tile rows or columns of the same factor block whose slice this step has seen. -/
def partnersL (r : RuleSt) (ct i jx : Nat) : List Nat :=
  (List.range 2048).filter (fun i2 => i2 / 16 == i / 16 && r.slices.any (fun s => s.1 == i2 * ct + jx))
def partnersR (r : RuleSt) (ct i jx : Nat) : List Nat :=
  (List.range ct).filter (fun j2 => j2 / 16 == jx / 16 && r.slices.any (fun s => s.1 == i * ct + j2))

/-- Factor tiles that a pair job changes: side, tile row, tile column. -/
def pairTiles (b : Block) (h : Nat) (r : RuleSt) (s : Nat) : List (Nat × Nat × Nat) :=
  let ct := hCt b h
  (partnersL r ct (s / ct) (s % ct)).map (fun i2 => (0, max (s / ct) i2, min (s / ct) i2))
    ++ (partnersR r ct (s / ct) (s % ct)).map (fun j2 => (1, max (s % ct) j2, min (s % ct) j2))

/-- Elements of a factor tile inside the matrix. -/
def tileElems (d : Nat) (tr tc : Nat) : List (Nat × Nat) :=
  (List.range (min 512 (d - 512 * tr))).flatMap (fun x => (List.range (min 512 (d - 512 * tc))).map (fun y => (512 * tr + x, 512 * tc + y)))

/-- The first stage of a job: what it reads from the shard region and from scratch. -/
def jobOpen (b : Block) (j : Job) : Block :=
  let h := j.hdr
  let r := (findRule b j.ctx h).getD (noRule j)
  let p4 := 4 * shardP b h
  let fac := copyReads (offFactor b h) (scrFactor b h) r.cf 0 (factorCount b h)
  let all := r.slices.map (·.1)
  let table := if r.wdescs.isEmpty then [] else [(0, 4 * hNslice b h)]
  let aside := fun (arr : Nat) (l : List Nat) => l.map (fun k => ((scrCommit b h arr + 4 * k, 4) : Nat × Nat))
  let b := modJob b j.id (fun x => { x with stage := 1, eps := BitVec.ofNat 32 (getFld b (.vecEps j.ctx) 0 32) })
  match j.kind with
  | .pair s =>
    let ct := hCt b h
    let near := (partnersL r ct (s / ct) (s % ct)).map (fun i2 => i2 * ct + s % ct) ++ (partnersR r ct (s / ct) (s % ct)).map (fun j2 => s / ct * ct + j2)
    jobScrReads (jobReads b j fac.1) j r (fac.2 ++ gradReads b h near.eraseDups)
  | .root => jobScrReads (jobReads b j (fac.1 ++ (if hRoots b h then [rootRange b h] else []))) j r fac.2
  | .layerEnd =>
    match hRule b h with
    | 2 =>
      jobScrReads (jobReads b j ([(0, p4), (offM b h, p4)] ++ fac.1 ++ (if hRoots b h || !rootsDue b h then [rootRange b h] else []))) j r
        (fac.2 ++ gradReads b h all ++ table)
    | 3 =>
      let m := copyReads (offM b h) (scrCommit b h 1) r.cm 0 (shardP b h)
      jobScrReads (jobReads b j ((0, p4) :: m.1)) j r (m.2 ++ [(scrNorm b h, 8)] ++ table)
    | _ => jobScrReads b j r (aside 0 r.cw ++ aside 1 r.cm ++ aside 2 r.cv ++ table)

/-- LAYER_END (R179): the guards, then what the step still has to do. -/
def layerEnd (b : Block) (j : Job) : Block :=
  let h := j.hdr
  let gd := guardOf b h
  let b := if gd.nf then raise (bumpFld b .vecGuardCnt 16 16 1) .nonfinite (jobSite j) else b
  let b := if gd.spike then raise (bumpFld b .vecGuardCnt 0 16 1) .spike (jobSite j) else b
  if gd.held then finishLayer (modJob b j.id (fun x => { x with held := true })) { j with held := true }
  else if 2 ≤ hRule b h then jobOpen b j
  else if !hHold b h then finishLayer b j
  else jobOpen (setPhase b h 3) j

/-- The commit of RULE 0 and RULE 1 (R179): the commit copies that have been read go home, and the working weights are written. -/
def commitHome (b : Block) (j : Job) (r : RuleSt) : Block :=
  let h := j.hdr
  let val := fun (arr k : Nat) => buf32 b (scrBuf j.id) (scrCommit b h arr + 4 * k)
  let b := modJob b j.id (fun x => { x with stage := 90 })
  let b := jobWrites b j (r.cw.map (fun k => (4 * k, val 0 k)) ++ r.cm.map (fun k => (offM b h + 4 * k, val 1 k)) ++ r.cv.map (fun k => (offV b h + 4 * k, val 2 k)))
  jobWorking b j r (r.cw.map (fun k => (k, val 0 k)))

/-- The pair products of a slice (R181). -/
def pairProducts (b : Block) (j : Job) (r : RuleSt) (s : Nat) : Job :=
  let h := j.hdr
  let ct := hCt b h
  let i := s / ct
  let jx := s % ct
  let j := ((j.setMat 6 (gradMat b j r)).setMat 20 ⟨hRows b h, hRows b h, []⟩).setMat 21 ⟨hCols b h, hCols b h, []⟩
  let lt := (partnersL r ct i jx).map (fun i2 => (max i i2, min i i2, 512 * jx, min (hCols b h) (512 * jx + 512)))
  let rt := (partnersR r ct i jx).map (fun j2 => (max jx j2, min jx j2, 512 * i, min (hRows b h) (512 * i + 512)))
  { j with stage := 10, prods := [⟨6, 6, 20, true, false, true, lt⟩, ⟨6, 6, 21, true, true, false, rt⟩].filter (fun p => !p.tiles.isEmpty) }

/-- Adds the drained products into the factors, in memory or in the commit copy (R177, R181). -/
def pairAdd (b : Block) (j : Job) (r : RuleSt) (s : Nat) : Block :=
  let h := j.hdr
  let new := (pairTiles b h r s).flatMap (fun t =>
    (tileElems (if t.1 == 0 then hRows b h else hCols b h) t.2.1 t.2.2).map (fun q =>
      (factorIx b h t.1 q.1 q.2, f32add (factorGet b j r t.1 q.1 q.2) (matGet (getMat j (20 + t.1)) q.1 q.2))))
  let b := modJob b j.id (fun x => { x with stage := 91 })
  if hHold b h then
    jobScrWrites (modRule b j.ctx h (fun r => { r with cf := joinIx r.cf (new.map (·.1)) })) j r
      (new.map (fun q => (scrFactor b h + 4 * q.1, leBytes 4 q.2.toNat)))
  else jobWrites b j (new.map (fun q => (offFactor b h + 4 * q.1, q.2)))

/-- RULE 2's application (R183): m and w of every element, with their writes. -/
def applyRule2 (b : Block) (j : Job) (r : RuleSt) (due : Bool) : Block :=
  let h := j.hdr
  let c := ruleConsts b h
  let d := getMat j 8
  let buf := bufBase j.id
  let new := (shardElems b h r).map (fun q =>
    let m := f32add (f32mul c.b1 (buf32 b buf (offM b h + 4 * q.1))) (matGet d q.2.1 q.2.2)
    (q.1, m, applyW c (buf32 b buf (4 * q.1)) m))
  let b := modJob b j.id (fun x => { x with stage := 90 })
  let b := if hHold b h then setPhase b h 3 else b
  let b := jobWrites b j (new.map (fun q => (4 * q.1, q.2.2)) ++ new.map (fun q => (offM b h + 4 * q.1, q.2.1))
    ++ (if due then rootWrites b j else []) ++ r.cf.map (fun k => (offFactor b h + 4 * k, buf32 b (scrBuf j.id) (scrFactor b h + 4 * k))))
  jobWorking b j r (new.map (fun q => (q.1, q.2.2)))

/-- The momentum of RULE 3 as a matrix: the commit copy where there is one. -/
def momentum (b : Block) (j : Job) (r : RuleSt) : Mat :=
  mkMat (hRows b j.hdr) (hCols b j.hdr) (fun x y =>
    copyGet b j.id (offM b j.hdr) (scrCommit b j.hdr 1) r.cm (shardIx b j.hdr x y))

/-- X before the first iteration (R184). -/
def orthoStart (b : Block) (j : Job) (r : RuleSt) : Job :=
  let h := j.hdr
  let m := momentum b j r
  let den := f32add (f32sqrt (dsHi (sramWord b (scrBuf j.id + scrNorm b h)))) (hEps b h)
  let x := mkMat m.rows m.cols (fun i k => toBF16 (f32div (matGet m i k) den))
  let x := if m.cols < m.rows then mkMat m.cols m.rows (fun i k => matGet x k i) else x
  { (j.setMat 0 x).product 0 0 1 false false true with stage := 31, iter := 0 }

def cM125 : F32 := 0xBFA00000#32
def c0375 : F32 := 0x3EC00000#32
def c1875 : F32 := 0x3FF00000#32

/-- One more product of an iteration done (R184). -/
def orthoStep (j : Job) : Job :=
  match j.stage with
  | 31 => { (j.setMat 1 (matBF16 (getMat j 1))).product 1 1 2 false false false with stage := 32 }
  | 32 =>
    let a := getMat j 1
    let aa := getMat j 2
    let bm := mkMat a.rows a.cols (fun x y => toBF16 (f32add (f32mul cM125 (matGet a x y)) (f32mul c0375 (matGet aa x y))))
    { (j.setMat 3 bm).product 3 0 4 false false false with stage := 33 }
  | _ =>
    let x := getMat j 0
    let bx := getMat j 4
    let nx := mkMat x.rows x.cols (fun i k => f32add (f32mul c1875 (matGet x i k)) (matGet bx i k))
    if j.iter + 1 == 5 then { j.setMat 0 nx with stage := 34 }
    else { (j.setMat 0 (matBF16 nx)).product 0 0 1 false false true with stage := 31, iter := j.iter + 1 }

/-- RULE 3's application (R184). -/
def applyRule3 (b : Block) (j : Job) (r : RuleSt) : Block :=
  let h := j.hdr
  let c := ruleConsts b h
  let o := getMat j 0
  let turned := hCols b h < hRows b h
  let new := (shardElems b h r).map (fun q =>
    let v := if turned then matGet o q.2.2 q.2.1 else matGet o q.2.1 q.2.2
    (q.1, applyW c (buf32 b (bufBase j.id) (4 * q.1)) (f32mul c.b2 v)))
  let b := modJob b j.id (fun x => { x with stage := 90 })
  let b := if hHold b h then setPhase b h 3 else b
  let b := jobWrites b j (new.map (fun q => (4 * q.1, q.2)) ++ r.cm.map (fun k => (offM b h + 4 * k, buf32 b (scrBuf j.id) (scrCommit b h 1 + 4 * k))))
  jobWorking b j r new

/-- RULE 2's direction (R183): P = G·Rr by the factor blocks of R. -/
def direction (b : Block) (j : Job) (r : RuleSt) : Job :=
  let j := ((j.setMat 6 (gradMat b j r)).setMat 9 (matBF16 (getMat j 3))).setMat 17 (matBF16 (getMat j 2))
  { j.blockProduct 6 9 7 false (hCols b j.hdr) with stage := 40 }

/-- The roots stage: the next block, or what follows the last one. -/
def rootsNext (b : Block) (j : Job) (r : RuleSt) : Block × Job :=
  match (rootBlocks b j.hdr)[j.block]? with
  | some blk => rootStart b j r blk
  | none =>
    let b := setH (setH b j.hdr 0 6 1 1) j.hdr 0 7 1 0
    match j.kind with
    | .root => (jobWrites b j (rootWrites b j), { j with stage := 91 })
    | _ => (b, direction b { j with iter := 1 } r)

/-- What a job stores in its scratch workspace when it enters a stage: the operands of the rule passes that follow, in FP32 for roots, in BF16 for
P and for X, A and B (log 126). -/
def stageBytes (b : Block) (j : Job) : List (Nat × List Byte) :=
  let h := j.hdr
  let root := fun (k m : Nat) => matBytes (scrRoot b h k (max (min 8192 (hRows b h)) (min 8192 (hCols b h)))) true (getMat j m)
  match j.stage with
  | 21 => root 0 10 ++ root 1 11 ++ root 2 12
  | 22 => root 1 11 ++ root 3 13
  | 23 => root 4 14
  | 31 => matBytes (scrX b h) false (getMat j 0)
  | 32 => matBytes (scrA b h) false (getMat j 1)
  | 33 => matBytes (scrB b h) false (getMat j 3)
  | 41 => matBytes (scrDir b h) false (getMat j 7)
  | _ => []

/-- The job is as `q` says; what its new stage stores goes out, X also transposed. -/
def putJob (r : RuleSt) (q : Block × Job) : Block :=
  let b := jobScrWrites (modJob q.1 q.2.id (fun _ => q.2)) q.2 r (stageBytes q.1 q.2)
  if q.2.stage == 31 then
    let x := getMat q.2 0
    jobTurned b q.2 r (matBytes (scrXt b q.2.hdr) false (mkMat x.cols x.rows (fun i k => matGet x k i)))
  else b

/-- One stage of the running job, when its memory traffic and its products are done. -/
def jobStage (b : Block) (j : Job) : Block :=
  let h := j.hdr
  let r := (findRule b j.ctx h).getD (noRule j)
  let put := putJob r
  match j.stage with
  | 1 =>
    (match j.kind with
    | .pair s => put (b, pairProducts b j r s)
    | .root => put (rootsNext b ((j.setMat 2 (rootMat b j 0)).setMat 3 (rootMat b j 1)) r)
    | .layerEnd =>
      if hRule b h == 2 then
        let j := (j.setMat 2 (rootMat b j 0)).setMat 3 (rootMat b j 1)
        if rootsDue b h then put (rootsNext b j r) else put (b, direction b { j with iter := 0 } r)
      else if hRule b h == 3 then put (b, orthoStart b j r)
      else commitHome b j r)
  | 10 => (match j.kind with | .pair s => pairAdd b j r s | _ => b)
  | 20 => put (rootsNext b j r)
  | 21 => put (b, { (j.setMat 11 (getMat j 15)).product 13 13 14 true false false with stage := 22 })
  | 22 => put (b, { j.product 14 10 16 true false false with stage := 23 })
  | 23 => (match (rootBlocks b h)[j.block]? with | some blk => put (rootCheck b j blk) | none => b)
  | 34 => applyRule3 b j r
  | 40 => put (b, { (j.setMat 7 (matBF16 (getMat j 7))).blockProduct 17 7 8 true (hRows b h) with stage := 41 })
  | 41 => applyRule2 b j r (j.iter == 1)
  | 90 => finishLayer b j
  | 91 => dropJob b j.id
  | _ => put (b, orthoStep j)

/-- A stage reads the header first, under ECC (R16, R341); an uncorrectable word stops the job. -/
def underHeader (b : Block) (j : Job) (f : Block → Job → Block) : Block :=
  let (b, bad) := vecReads b [(hdrAddr j.hdr, 64)]
  if bad then raise (modJob b j.id (fun x => { x with stage := 255 })) .sramUncorrectable (jobSite j) else f b j

/-- The running job goes on as far as it can without memory or an array. -/
def jobAdvanceN : Nat → Block → Block
  | 0, b => b
  | n + 1, b =>
    match jobRunning b with
    | none => b
    | some j =>
      if j.stage == 255 || !j.prods.isEmpty || !jobStreamsDone b j.id || frozenV b || !awake b
        || (getCtx b j.ctx).state = .preempted then b
      else jobAdvanceN n (underHeader (dropJobStreams b j.id) j jobStage)

def jobAdvance (b : Block) : Block := jobAdvanceN 4096 b

/-- Contexts whose jobs start and go on (log 127): RUNNING, and DONE, since a job outlasts the instruction that handed it over. -/
def jobRuns (b : Block) (c : Ctx) : Bool := decide ((getCtx b c).state = .running ∨ (getCtx b c).state = .done)

/-- SEQUENCER_JOB_START (R166): the next held job starts when none runs; pair products wait until their slice's gradient copy is written. -/
def jobStart (b : Block) : Block :=
  if (jobRunning b).isSome || frozenV b || !awake b then b
  else match b.jobs.find? (fun j => jobRuns b j.ctx) with
    | none => b
    | some j =>
      if !entryStreamsDone b j.entry then b
      else
        let b := modJob b j.id (fun x => { x with running := true })
        jobAdvance (underHeader b { j with running := true } (fun b j => match j.kind with | .layerEnd => layerEnd b j | _ => jobOpen b j))

/-- RULE_PASS_ENTRY (R167): one output tile of the running job's product runs on array `n`, all its parts in one bank. -/
def rulePassEntry (b : Block) (n : Arr) : Block :=
  match jobRunning b with
  | none => b
  | some j =>
    match j.prods with
    | [] => b
    | p :: _ =>
      match p.tiles with
      | [] => modJob b j.id popTile
      | tile :: _ =>
        if !((ruleArrays b j.cfg).contains n) || fixedEn b n || frozenV b || stoppedT b || !awake b
          || !(jobRuns b j.ctx || decide ((getCtx b j.ctx).state = .faulted)) || !jobStreamsDone b j.id
          || (getArr b n).wall != 0 || !posIdle b n 0 || !(getArr b n).replays.isEmpty || tokenBlocked b j.ctx (jobWindow b j n) then b
        else match pickBank b n 0 none false 0 with
          | .bank t =>
            let before := getPos b n 0
            let sram := b.sram
            let (c, bad) := ruleTile b j n t p tile
            let cells := ((getPos c n 0).bank t).cells
            let c := openWindow { modPos c n 0 (fun _ => { before with last := t }) with sram := sram } j n
            let c := touchArr c n
            (match bad with
            | some (k, ix, r) =>
              let c := abftLast (bumpFld c (.arrAbftFirst n) 0 32 1) n 0 r (k, ix)
              let c := abftLast (bumpFld c (.arrAbftStrikes n) 0 16 1) n 0 { r with replay := true } (k, ix)
              let site : Site := { jobSite j with unit := 5, arr := some (n, 0) }
              raise (raise c .abftMismatch site) .groupState site
            | none =>
              let m := getMat j p.c
              let m := (List.range (min 512 (m.rows - 512 * tile.1))).foldl (fun m x =>
                (List.range (min 512 (m.cols - 512 * tile.2.1))).foldl (fun m y =>
                  matSet m (512 * tile.1 + x) (512 * tile.2.1 + y) (dsHi (cellGet cells (x * 512 + y)).total)) m) m
              jobAdvance (modJob c j.id (fun x => popTile (x.setMat p.c m))))
          | .stuck => raise b .groupState { jobSite j with unit := 4, arr := some (n, 0) }
          | .wait => b

end Sys2Proof.Machine
end

