-- ==== Sys2Proof/Machine/Line.lean ====
section
/-! DEFINITION. The matrix-vector line (08): strips, lanes, the epilogue, page faults and restarts. -/

namespace Sys2Proof.Machine

open Sys2Proof

/-! ### Fields (R191, R192) -/

def lW (e : Entry) : Nat := e.word.toNat
def lWdesc (w : Nat) : Nat := bitsOf w 46 32
def lOdesc (w : Nat) : Nat := bitsOf w 61 47
def lV (w : Nat) : Nat := bitsOf w 64 62 + 1
def lXoff (w : Nat) : Nat := bitsOf w 83 65
def lXstride (w : Nat) : Nat := bitsOf w 102 84
def lTypeX (w : Nat) : Nat := bitsOf w 110 103

/-- Fields of the epilogue word `q`. -/
def epTscale (q : Nat) : F32 := BitVec.ofNat 32 (bitsOf q 31 0)
def epVoff (q : Nat) : Nat := bitsOf q 50 32
def epScale (q : Nat) : Nat := bitsOf q 52 51
def epBias (q : Nat) : Bool := bitAt q 53
def epOtype (q : Nat) : Nat := bitsOf q 61 54
def epSat (q : Nat) : Bool := bitAt q 62

/-- Vector-store offset of the bias vector. -/
def biasOff (q n : Nat) : Nat := 64 * epVoff q + (if epScale q == 2 then up64 (4 * n) else 0)

/-- Strip width (R188). -/
def stripWidth (v : Nat) : Nat := 1024 * (8 / v)
def lineStrips (v n : Nat) : Nat := (n + stripWidth v - 1) / stripWidth v

/-- Bytes of the vectors and of the epilogue vectors in the vector store. -/
def lineRanges (w q : Nat) (n k : Nat) : List (Nat × Nat) :=
  (List.range (lV w)).map (fun v => (64 * (lXoff w + v * lXstride w), vecBytes (lTypeX w) k))
    ++ (if epScale q == 2 then [(64 * epVoff q, 4 * n)] else []) ++ (if epBias q then [(biasOff q n, 4 * n)] else [])

/-! ### Weights (R189, R193, R196) -/

/-- Descriptor of the columns of strip `s` that the valid window holds (log 42). -/
def stripDesc (d : Desc) (v s : Nat) : Desc :=
  let lo : Int := (s * stripWidth v : Nat)
  let hi : Int := (min (d.extAt 0) ((s + 1) * stripWidth v) : Nat)
  { d with wlo := max lo (d.wloAt 0) :: max 0 (d.wloAt 1) :: d.wlo.drop 2, whi := min hi (d.whiAt 0) :: min (d.extAt 1 : Int) (d.whiAt 1) :: d.whi.drop 2 }

/-- Intake image of strip `s`. -/
def stripBox (e v s : Nat) : Box := ⟨bufBase e + s * 0x40000000000, bufBase e + s * 0x40000000000 + 0x20000000000, stripWidth v, false⟩

/-- Element bytes of the piece of row `k` in strip `s` (R189): what of it is in the window and in bounds. -/
def pieceElems (d : Desc) (e v s k : Nat) : List Seg :=
  let ds := stripDesc d v s
  let at_ := ((List.range (ds.cnt 0)).map (fun i => ([ds.wloAt 0 + (i : Nat), (k : Int), 0, 0, 0] : List Int))).filter (fun p => ds.inWindow p && d.inBounds p)
  if d.isMX then
    (at_.filter (fun p => p.getD 0 0 % 32 == 0)).flatMap (fun p => (List.range (mxBlockBytes d.typ)).map (fun i =>
      (⟨va49 (d.addr p + (i : Nat)), .bits ((List.range 8).map (ds.mxBit (stripBox e v s) p i))⟩ : Seg)))
  else at_.flatMap (fun p => (List.range (d.bits / 8)).map (fun i => (⟨va49 (d.addr p + (i : Nat)), .mem (ds.engBit (stripBox e v s) p / 8 + i)⟩ : Seg)))

/-- Scale bytes of that piece. -/
def pieceScales (d : Desc) (e v s k : Nat) : List Seg :=
  let ds := stripDesc d v s
  if d.isMX then
    (((List.range (ds.cnt 0)).map (fun i => ([ds.wloAt 0 + (i : Nat), (k : Int), 0, 0, 0] : List Int))).filter
      (fun p => p.getD 0 0 % 32 == 0 && ds.inWindow p && d.inBounds p)).map (fun p => (⟨va49 (d.scaleAddr (d.addr p)), .scale (ds.engScale (stripBox e v s) p)⟩ : Seg))
  else []

/-- The bytes of one step. -/
def piece (d : Desc) (e v s k : Nat) : List Seg := pieceElems d e v s k ++ pieceScales d e v s k

/-- The weight bytes from strip `s0` on in the order of the steps. -/
def lineTodo (d : Desc) (e v s0 : Nat) : List Seg :=
  ((List.range (lineStrips v (d.extAt 0))).filter (fun s => decide (s0 ≤ s))).flatMap (fun s => (List.range (d.extAt 1)).flatMap (piece d e v s))

/-- The same bytes in the order in which they feed a check channel: all element bytes with dimension 0 fastest, then all scale bytes (R207, R227). -/
def lineFeed (d : Desc) (e v : Nat) : List Seg :=
  let all := fun (f : Nat → Nat → List Seg) => (List.range (d.extAt 1)).flatMap (fun k => (List.range (lineStrips v (d.extAt 0))).flatMap (fun s => f s k))
  all (pieceElems d e v) ++ (all (pieceScales d e v)).mergeSort (fun x y => decide (x.va ≤ y.va))

/-- Weight (k, n): what was read, or the fill pattern outside the window. -/
def lineWeight (m : Mem) (d : Desc) (e v k n : Nat) : Num :=
  let s := n / stripWidth v
  let ds := stripDesc d v s
  let p : List Int := [(n : Int), (k : Int), 0, 0, 0]
  if ds.inWindow p then
    decodeElem d.typ (getBits m (ds.engBit (stripBox e v s) p) d.bits)
      (memGet m (ds.engScale (stripBox e v s) [((n - n % 32 : Nat) : Int), (k : Int), 0, 0, 0])).toNat
  else decodeElem d.typ (d.fillv % 2 ^ d.bits) (bitsOf d.fillv 39 32)

/-- Columns `[lo, hi)` of strip `s`. -/
def stripCols (d : Desc) (v s : Nat) : Nat × Nat := (s * stripWidth v, min (d.extAt 0) ((s + 1) * stripWidth v))

/-- One step (R189): every lane (v, j) of the strip adds its product to its leaf; at a leaf end, and after step K − 1, the leaf joins the total. -/
def lineStep (m : Mem) (d : Desc) (e : Entry) (l : LineRun) : LineRun :=
  let w := lW e
  let k := l.step
  let c := stripCols d l.v l.strip
  let ends := (k + 1) % 256 == 0 || k + 1 == d.extAt 1
  let lanes := (List.range l.v).flatMap (fun v => (List.range (c.2 - c.1)).map (fun j => (v, j)))
  lanes.foldl (fun l p =>
    let ix := p.1 * stripWidth l.v + p.2
    let x := (vecElem m (vecAddr (lXoff w + p.1 * lXstride w)) (lTypeX w) (d.extAt 1) k).1
    let leaf := enc32 (Num.add (dec32 (spGet f32zero l.leaf ix)) (Num.mul x (lineWeight m d e.id l.v k (c.1 + p.2))))
    if ends then { l with leaf := spDel l.leaf ix, tot := spPut 0#64 l.tot ix (dsAdd (spGet 0#64 l.tot ix) (dsOfF32 leaf)) }
    else { l with leaf := spPut f32zero l.leaf ix leaf })
    { l with step := k + 1, taken := l.taken + (piece d e.id l.v l.strip k).length }

/-- Steps of the strip as far as the intake buffer holds their bytes; `out` are the bytes that have not arrived. -/
def lineSteps (m : Mem) (d : Desc) (e : Entry) (out : List Seg) : Nat → LineRun → LineRun
  | 0, l => l
  | n + 1, l =>
    if d.extAt 1 ≤ l.step || (piece d e.id l.v l.strip l.step).any (fun s => out.contains s) then l
    else lineSteps m d e out n (lineStep m d e l)

/-! ### The epilogue (R195) -/

/-- A result before conversion. -/
def lineResult (m : Mem) (q n : Nat) (total : W64) (c : Nat) : Num :=
  let at_ := fun (off : Nat) => (BitVec.ofNat 32 (leNat (memBytes m (vecBase + off + 4 * c) 4)) : F32)
  if epScale q == 0 && !epBias q then dsVal total
  else
    let x := dsHi total
    let x := match epScale q with | 1 => f32mul x (epTscale q) | 2 => f32mul x (at_ (64 * epVoff q)) | _ => x
    dec32 (if epBias q then f32add x (at_ (biasOff q n)) else x)

/-- Output bytes of vector `v` over the columns of strip `s`, from the lanes' totals: element bytes, then scale bytes. -/
def lineRow (b : Block) (d od : Desc) (e : Entry) (v s : Nat) (tot : List (Nat × W64)) : List Seg × List Seg :=
  let q := (e.reads.getD 0 0#64).toNat
  let nv := lV (lW e)
  let n := d.extAt 0
  let c := stripCols d nv s
  let ot := epOtype q
  let t : TileRead := { tid := 0, kind := .drain, entry := 0, ctx := 0, gen := 0#16, grp := none, sag := 0, bank := none, h := nv, w := c.2 - c.1, m := 0, n := 0, next := 0, checked := false, prog := [if epSat q then 0x20000000#64 else 0#64], seed := 0#64, walk := 0, data := [], dataIm := [], complex := false, integer := false, thenPark := false, xfer := 0, run := none }
  let es := (List.range (c.2 - c.1)).map (fun i =>
    ({ j := c.1 + i, gc := c.1 + i, kept := od.inWindow (outPos od v (c.1 + i)), beyond := false, pre := f32zero, main := f32zero, second := f32zero, exact := lineResult b.sram q n (spGet 0#64 tot (v * stripWidth nv + i)) (c.1 + i), mainIm := f32zero, exactIm := dec32 ((Config.openWord b.freeTick (v * n + c.1 + i)).setWidth 32) } : GElem))
  let o := rowOut t ot 0 v es false
  (memElems od t 0 v o, memScales od t 0 v o)

/-! ### Running (R190, R198, R199) -/

def lineStart (b : Block) (e : Entry) : Block :=
  let d := parseDesc (e.descs.getD 0 [])
  let v := lV (lW e)
  let b := modEntry b e.id (fun x => { x with started := true, phase := 2 })
  let b := { b with line := some { entry := e.id, ctx := e.ctx, v := v, strip := 0, step := 0, leaf := [], tot := [], epi := none, taken := 0, out := [], waitFault := false } }
  let b := addBlockStream b (.entry e.id) e.ctx e.gen false (lWdesc (lW e)) d (if d.chkEn then lineFeed d e.id v else lineTodo d e.id v 0)
  modStream b b.lastDispatch (fun x => { x with todo := lineTodo d e.id v 0 })

/-- Weight bytes that have not arrived: still to ask for, or on their way. -/
def lineMissing (b : Block) (e : Entry) : List Seg :=
  ((entryStreams b e.id).filter (fun x => !x.write)).flatMap (fun x => x.todo ++ (b.mp.filter (fun r => r.stream == x.id)).flatMap (·.segs))

/-- The strip's lanes take the steps that they can; the vectors are read at its first step, under ECC. -/
def lineLanes (b : Block) (e : Entry) (l : LineRun) : Block :=
  let d := parseDesc (e.descs.getD 0 [])
  let q := (e.reads.getD 0 0#64).toNat
  if l.waitFault || lineStrips l.v (d.extAt 0) ≤ l.strip then b
  else
    let out := lineMissing b e
    let c := stripCols d l.v l.strip
    let (b, bad) := if l.step == 0 then
        vecReads b (((lineRanges (lW e) q (d.extAt 0) (d.extAt 1)).take l.v).map (fun r => (vecBase + r.1, r.2)))
      else (b, false)
    if bad then failEntry { b with line := none } e .sramUncorrectable (e.site 8)
    else
      let r := lineSteps b.sram d e out (d.extAt 1) l
      countAct { b with line := some r } (fun a => { a with line := a.line + (r.step - l.step) * l.v * (c.2 - c.1) })

/-- A strip whose steps are done hands its totals to the epilogue, when that has read those of the strip before (R190). -/
def lineTurn (b : Block) (e : Entry) : Block :=
  let d := parseDesc (e.descs.getD 0 [])
  match b.line with
  | some l =>
    if l.epi.isNone && decide (l.strip < lineStrips l.v (d.extAt 0)) && l.step == d.extAt 1 then
      { b with line := some { l with strip := l.strip + 1, step := 0, leaf := [], tot := [], epi := some (l.strip, l.tot) } }
    else b
  | none => b

/-- The output bytes join the store stream; bytes that feed a check channel wait for the last strip, so that they go in request order: all
element bytes, vector by vector, then all scale bytes in address order (R196, R207). -/
def lineOut (b : Block) (e : Entry) (l : LineRun) (od : Desc) (rows : List (Nat × List Seg × List Seg)) (last : Bool) : Block :=
  let w := lW e
  let b := tickFree b
  let add := fun (segs : List Seg) => match (entryStreams b e.id).find? (·.write) with
    | some x => modStream b x.id (fun x => { x with segs := x.segs ++ segs, todo := x.todo ++ segs })
    | none => addBlockStream b (.entry e.id) e.ctx e.gen true (lOdesc w) od segs
  if !od.chkEn then add (rows.flatMap (fun r => r.2.1 ++ r.2.2))
  else
    let out := l.out ++ rows
    let b := { b with line := b.line.map (fun l => { l with out := out }) }
    let of := fun (v : Nat) => out.filter (fun r => r.1 == v)
    if last then addBlockStream b (.entry e.id) e.ctx e.gen true (lOdesc w) od
      ((List.range l.v).flatMap (fun v => (of v).flatMap (·.2.1))
        ++ ((List.range l.v).flatMap (fun v => (of v).flatMap (·.2.2))).mergeSort (fun x y => decide (x.va ≤ y.va)))
    else b

/-- The epilogue (R190, R195): the results of the strip whose totals it reads go to the output buffer when its 64 KiB have room. -/
def lineEpilogue (b : Block) (e : Entry) (l : LineRun) : Block :=
  let d := parseDesc (e.descs.getD 0 [])
  let od := parseDesc (e.descs.getD 1 [])
  let q := (e.reads.getD 0 0#64).toNat
  match l.epi with
  | none => b
  | some (s, tot) =>
    let rows := (List.range l.v).map (fun v => (v, lineRow b d od e v s tot))
    let new := (rows.flatMap (fun r => r.2.1 ++ r.2.2)).length
    let held := ((entryStreams b e.id).filter (·.write)).foldl (fun n x => n + x.todo.length) 0
    if !od.chkEn && decide (65536 < held + new) then b
    else
      let (b, bad) := vecReads b (((lineRanges (lW e) q (d.extAt 0) (d.extAt 1)).drop l.v).map (fun r => (vecBase + r.1, r.2)))
      if bad then failEntry { b with line := none } e .sramUncorrectable (e.site 8)
      else lineOut { b with line := some { l with epi := none } } e l od rows (s + 1 == lineStrips l.v (d.extAt 0))

/-- One advance of the LINE: the epilogue, then the lanes, then the change of totals; with nothing left but writes it waits for them. -/
def lineGo (b : Block) (e : Entry) (l : LineRun) : Block :=
  let b := lineEpilogue b e l
  let b := match b.line with | some l => lineLanes b e l | none => b
  let b := lineTurn b e
  match b.line with
  | some l => if l.epi.isNone && decide (lineStrips l.v ((parseDesc (e.descs.getD 0 [])).extAt 0) ≤ l.strip) then modEntry b e.id (fun x => { x with phase := 3 }) else b
  | none => b

/-- No LINE is being worked on; one that met a fault does not hold the line. -/
def lineFree (b : Block) : Bool := b.line.all (fun l => (findEntry b l.entry).all (fun x => x.phase == 255))

/-- The line's work on the LINE at its head or in progress. -/
def lineAdvance (b : Block) (e : Entry) : Block :=
  if frozenV b || !awake b then b
  else if !e.started then (if (queueHead b .line).any (fun x => x.id == e.id) && lineFree b then lineStart b e else b)
  else match b.line with
    | none => b
    | some l =>
      if l.entry != e.id then b
      else if e.phase == 2 then lineGo b e l
      else if e.phase == 3 && entryStreamsDone b e.id then
        completeEntry (bumpFld (phaseOne { b with line := none, streams := b.streams.filter (fun s => !decide (s.owner = .entry e.id)) } e.id) .lineDone 0 32 1) e.id
      else b

/-- LINE_STRIP_RESTART (R199): when the weight stream has been resumed and nothing of it is under way, the strip's lanes are cleared and it is
read again from its first step. -/
def lineRestart (b : Block) : Block :=
  match b.line, b.line.bind (fun l => findEntry b l.entry) with
  | some l, some e =>
    let mine := fun (x : Stream) => decide (x.owner = .entry l.entry) && !x.write
    let d := parseDesc (e.descs.getD 0 [])
    if l.waitFault && !frozenV b && b.streams.all (fun x => !mine x || (x.halted.isNone && streamOut b x.id == 0)) then
      { b with
        line := some { l with waitFault := false, step := 0, leaf := [], tot := []
                              taken := (lineTodo d l.entry l.v 0).length - (lineTodo d l.entry l.v l.strip).length }
        streams := b.streams.map (fun x => if mine x then { x with todo := lineTodo d l.entry l.v l.strip } else x) }
    else b
  | _, _ => b

end Sys2Proof.Machine
end

