-- ==== Sys2Proof/Machine/Chain.lean ====
section
/-! DEFINITION. The guy line (12): frames at CHAIN_IN and CHAIN_OUT, tiles, the hold limit and cut-through, CHSEND and CHRECV, repair and
re-fetch, link resets, and writes of CHN_CFG. -/

namespace Sys2Proof.Machine

open Sys2Proof

def modChain (b : Block) (f : ChainSt → ChainSt) : Block := { b with chain := f b.chain }

def chnTake (b : Block) : Bool := getFld b .chnCfg 0 2 == 0
def chnCtx (b : Block) : Ctx := Fin.ofNat 16 (getFld b .chnCfg 2 4)
def chnId (b : Block) : Nat := getFld b .chnCfg 32 16

/-- The bypass joins CHAIN_IN to CHAIN_OUT (R289, R381). -/
def bypassed (b : Block) : Bool := !b.pins.rstCold || b.pins.absent || !b.pins.powered || getFld b .mgtPwr 2 2 == 3

/-! ### Headers (R280) -/

def frameOf (b : Block) (hdr : BitVec 192) (data : List Byte) : Frame :=
  let h := hdr.toNat
  let len := bitsOf h 89 77
  let d := data.take len
  { seq := BitVec.ofNat 32 (bitsOf h 31 0), chainId := BitVec.ofNat 16 (bitsOf h 47 32), fidx := bitsOf h 57 48, nfr := bitsOf h 68 58
    hops := bitsOf h 76 69, len := len, crc := BitVec.ofNat 32 (bitsOf h 159 128), data := d, tile := 0
    good := decide (frameCrc (bitsOf h 31 0) (chnId b) (bitsOf h 57 48) d = bitsOf h 159 128), fwd := true, copied := true, slot := 0 }

/-! ### Slots, credits and the hold timer (R282, R283, R287) -/

/-- Slots whose frame needs neither a forward nor a copy free, and their credits go upstream. -/
def freeSlots (b : Block) : Block :=
  let gone := (b.chain.ring.filter (fun f => !f.fwd && f.copied)).length
  modChain b (fun c => { c with
    ring := c.ring.filter (fun f => f.fwd || !f.copied)
    creditsOut := c.creditsOut + gone
    holdFrom := if gone == 0 then c.holdFrom else none })

/-- The hold timer runs while the ring is full and its oldest frame waits only for a local copy. -/
def holdUpdate (b : Block) : Block :=
  let run := decide (chnIntake b ≤ b.chain.ring.length) && (b.chain.ring.head?.any (fun f => !f.fwd && !f.copied))
  modChain b (fun c => { c with holdFrom := if run then some (c.holdFrom.getD (portNow b)) else none })

/-! ### Chain buffer slots under ECC (R16, R282, R341, log 128) -/

/-- The flat address of a slot. -/
def slotAddr (k : Nat) : Nat := chnBase + 4096 * k

/-- Lowest free slot of the ring, and of the keep area. -/
def ringSlot (b : Block) : Nat := (lowestFree (chnIntake b) (b.chain.ring.map (·.slot))).getD 0
def keepSlot (b : Block) : Nat := chnIntake b + (lowestFree (chnKeep b) (b.chain.keep.map (fun f => f.slot - chnIntake b))).getD 0

/-- A frame is written to its slot: its words hold fresh ECC. -/
def slotWrite (b : Block) (f : Frame) : Block := countSram (freshEcc b (slotAddr f.slot) f.len) (slotAddr f.slot) f.len

/-- A frame is read from its slot; says whether a word was uncorrectable. -/
def slotRead (b : Block) (f : Frame) : Block × Bool := eccRead b (slotAddr f.slot) f.len false

/-- A frame whose bytes met an uncorrectable word: they are open (log 10). -/
def spoiled (b : Block) (f : Frame) : Frame := { f with data := (List.range f.len).map (fun i => (Config.openWord b.freeTick i).setWidth 8), good := false }

/-! ### Cut-through (R287) -/

/-- Keep slots in use or promised to kept tiles. -/
def keepUsed (c : ChainSt) : Nat := (c.tiles.filter (fun t => t.kept && !t.taken)).foldl (fun n t => n + (t.nfr - t.done)) 0

def modTileC (b : Block) (i : Nat) (f : ChTile → ChTile) : Block :=
  modChain b (fun c => { c with tiles := c.tiles.map (fun t => if t.id == i then f t else t) })

/-- Frames of a tile in the ring wait only for a local copy. -/
def onlyCopy (c : ChainSt) (t : ChTile) : Bool := (c.ring.filter (fun f => f.tile == t.id)).all (fun f => !f.fwd)

/-- A frame moves to the keep area; what it read as uncorrectable is left to the check of its tile. -/
def keepFrame (b : Block) (f : Frame) : Block :=
  let (b, bad) := slotRead b f
  let f := { (if bad then spoiled b f else f) with slot := keepSlot b, copied := false, fwd := false }
  let b := if bad then raise (tickFree b) .sramUncorrectable { ctx := some (chnCtx b), gen := (getCtx b (chnCtx b)).gen, unit := 9 } else b
  slotWrite (modChain b (fun c => { c with keep := c.keep ++ [f] })) f

/-- A tile is kept whole when the keep area has room for all its remaining frames, else dropped. -/
def cutTile (b : Block) (t : ChTile) : Block :=
  let c := b.chain
  let copied := fun (b : Block) => modChain b (fun c => { c with ring := c.ring.map (fun f => if f.tile == t.id then { f with copied := true } else f) })
  if t.taken || t.kept || t.dropped || !onlyCopy c t then b
  else if keepUsed c + (t.nfr - t.done) ≤ chnKeep b then
    modTileC (copied ((c.ring.filter (fun f => f.tile == t.id && !f.copied)).foldl keepFrame b)) t.id (fun t => { t with kept := true })
  else modTileC (copied b) t.id (fun t => { t with dropped := true })

/-- CUT clears when no kept or dropped tile waits for its CHRECV. -/
def cutClear (b : Block) : Block :=
  if b.chain.tiles.all (fun t => t.taken || !(t.kept || t.dropped)) then modChain b (fun c => { c with cut := false }) else b

/-- What follows a change of the ring: in cut-through, tiles whose last forward has gone are kept or dropped; slots free; the hold timer. -/
def chainSettle (b : Block) : Block := holdUpdate (freeSlots (if b.chain.cut then b.chain.tiles.foldl cutTile b else b))

/-- CHAIN_HOLD_LIMIT: the timer has reached CHN_HOLD_LIMIT; CUTS counts the entry into cut-through. -/
def chainHold (b : Block) : Block :=
  match b.chain.holdFrom with
  | some t =>
    if max 1 (getFld b .chnHoldLimit 0 32) ≤ portNow b - t then
      let b := if b.chain.cut then b else bumpFld b .chnCount 0 16 1
      chainSettle (modChain b (fun c => { c with cut := true }))
    else b
  | none => b

/-! ### Arrival (R283, R284) -/

/-- The tile that arrives: the last one. -/
def curTile (b : Block) : Option ChTile := b.chain.tiles.getLast?

/-- A frame joins the ring. -/
def ringFrame (b : Block) (f : Frame) : Block :=
  let f := { f with slot := ringSlot b }
  slotWrite (modChain b (fun c => { c with ring := c.ring ++ [f] })) f

/-- A frame joins the ring, and the keep area where its tile is kept. -/
def storeFrame (b : Block) (f : Frame) (t : ChTile) : Block :=
  let f := { f with tile := t.id, copied := t.taken || t.kept || t.dropped }
  let b := if t.kept && !t.taken then
      (let k := { f with slot := keepSlot b, copied := false, fwd := false }
       slotWrite (modChain b (fun c => { c with keep := c.keep ++ [k] })) k)
    else b
  ringFrame b f

/-- A frame that starts a tile, or that belongs to none. -/
def startTile (b : Block) (f : Frame) (hops : Nat) (broken : Bool) : Block :=
  let i := b.chain.tileNo + 1
  let t : ChTile := { id := i, seq := f.seq, nfr := f.nfr, hops := hops, last := f.fidx, lastSeq := f.seq, done := 0, broken := broken, kept := false, dropped := false, taken := false }
  let b := modChain b (fun c => { c with tiles := c.tiles.filter (fun t => !t.taken) ++ [t], tileNo := i })
  let b := if b.chain.cut then cutTile b t else b
  storeFrame b f ((curTile b).getD t)

/-- CHAIN_FRAME_ARRIVAL at an engine that takes part in the chain. -/
def frameArrives (b : Block) (hdr : BitVec 192) (data : List Byte) : Block :=
  let f := frameOf b hdr data
  let b := if f.good then b else bumpFld b .chnCount 32 16 1
  if !chnTake b then chainSettle (ringFrame b f)
  else
    let hops := f.hops
    let f := { f with hops := hops - 1, fwd := decide (1 ≤ hops - 1) }
    chainSettle (if f.fidx == 0 then startTile b f hops false
    else match curTile b with
      | none => startTile b f hops true
      | some t =>
        if f.fidx ≤ t.last then
          -- a duplicate: dropped, its credit returns
          bumpFld (modChain b (fun c => { c with creditsOut := c.creditsOut + 1, holdFrom := none })) .chnCount 48 16 1
        else
          let t' := { t with last := f.fidx, lastSeq := f.seq, broken := t.broken || !(f.fidx == t.last + 1 && f.seq == t.lastSeq + 1#32) }
          storeFrame (modTileC b t.id (fun _ => t')) f t')

/-- CHAIN_FRAME_ARRIVAL: through the bypass, or into the chain unit. -/
def chainArrive (b : Block) (hdr : BitVec 192) (data : List Byte) : Block :=
  if bypassed b then modChain b (fun c => { c with out := some (frameOf b hdr data) }) else frameArrives b hdr data

/-! ### CHSEND and CHRECV words (R268), images (R279) -/

def csDesc (w : Nat) : Nat := bitsOf w 46 32
def csOff (w : Nat) : Nat := 64 * bitsOf w 62 47
def csSeq (w : Nat) : Nat := bitsOf w 94 63
def csHops (w : Nat) : Nat := bitsOf w 102 95
def csFetch (w : Nat) : Bool := bitAt w 103
def crArr (w : Nat) : Arr := arrAt w 48 47
def crOff (w : Nat) : Nat := 64 * bitsOf w 68 49
def crSeq (w : Nat) : Nat := bitsOf w 100 69
def crFwd (w : Nat) : Bool := bitAt w 101

/-- Bytes of the image of a block, and its frames. -/
def imageBytes (d : Desc) : Nat :=
  let p := pitchOf d 0
  if d.isMX then up64 (d.elemBytes p) + d.scaleBytes p else d.elemBytes p
def imageFrames (d : Desc) : Nat := (imageBytes d + 4095) / 4096
/-- An image laid at a flat engine address. -/
def imageBox (d : Desc) (at_ : Nat) : Box := ⟨at_, at_ + up64 (d.elemBytes (pitchOf d 0)), pitchOf d 0, false⟩
def frameLen (d : Desc) (f : Nat) : Nat := min 4096 (imageBytes d - 4096 * f)

def chDesc (e : Entry) : Desc := parseDesc (e.descs.getD 0 [])

/-! ### Sending (R282, R283, R285) -/

/-- Header word of a frame. -/
def frameHdr (f : Frame) : BitVec 192 :=
  BitVec.ofNat 192 (f.seq.toNat + f.chainId.toNat * 2 ^ 32 + f.fidx * 2 ^ 48 + f.nfr * 2 ^ 58 + f.hops * 2 ^ 69 + f.len * 2 ^ 77 + f.crc.toNat * 2 ^ 128)

/-- The CHSEND whose frames are ready to go. -/
def sendingEntry (b : Block) : Option Entry :=
  b.entries.find? (fun e => wOpc e.word.toNat == 0x48 && e.started && e.phase == 3 && decide (e.aux < imageFrames (chDesc e)))

/-- Frame `k` of a CHSEND. -/
def ownFrame (b : Block) (e : Entry) (k : Nat) : Frame :=
  let w := e.word.toNat
  let d := chDesc e
  let len := frameLen d k
  let data := sramBytes b (chnBase + csOff w + 4096 * k) len
  let seq := (csSeq w + k) % 2 ^ 32
  { seq := BitVec.ofNat 32 seq, chainId := BitVec.ofNat 16 (chnId b), fidx := k, nfr := imageFrames d, hops := csHops w, len := len,
    crc := BitVec.ofNat 32 (frameCrc seq (chnId b) k data), data := data, tile := 0, good := true, fwd := false, copied := true, slot := 0 }

/-- The oldest frame that has still to go on; one that failed its check holds those behind it in take mode (R286). -/
def nextForward (b : Block) : Option Frame :=
  match b.chain.ring.find? (·.fwd) with
  | some f => if f.good || !chnTake b then some f else none
  | none => none

/-- Beats of a frame on a link (R379). -/
def countBeats (b : Block) (f : Frame) : Block := countAct b (fun a => { a with chain := a.chain + (f.len + 511) / 512 })

/-- A frame of the ring goes on. An uncorrectable word of its slot is left to the taker's check; in take mode it also is a fault of the context
that CHN_CFG names (R341, log 128). -/
def sendForward (b : Block) (f : Frame) : Block :=
  let (b, bad) := slotRead b f
  let out := if bad then spoiled b f else f
  let b := if bad then tickFree b else b
  let b := if bad && chnTake b then raise b .sramUncorrectable { ctx := some (chnCtx b), gen := (getCtx b (chnCtx b)).gen, unit := 9 } else b
  countBeats (chainSettle (modChain b (fun c => { c with
    credits := c.credits - 1, out := some out, fwdTile := decide (f.fidx + 1 < f.nfr)
    ring := match c.ring.findIdx? (·.fwd) with | some i => c.ring.modify i (fun x => { x with fwd := false }) | none => c.ring }))) f

def sendOwn (b : Block) (e : Entry) : Block :=
  let w := e.word.toNat
  let (b, bad) := eccRead b (chnBase + csOff w + 4096 * e.aux) (frameLen (chDesc e) e.aux) false
  if bad then failEntry (modChain b (fun c => { c with ownTile := false })) e .sramUncorrectable (e.site 9)
  else
    let f := ownFrame b e e.aux
    countBeats (modEntry (modChain b (fun c => { c with credits := c.credits - 1, out := some f, ownTile := decide (f.fidx + 1 < f.nfr) })) e.id (fun x => { x with aux := x.aux + 1 })) f

/-- CHAIN_FRAME_SEND: with a credit, the next frame of the tile on CHAIN_OUT goes, or at a tile boundary the forwarded tile first. -/
def chainSend (b : Block) : Block :=
  if bypassed b || b.chain.credits == 0 then b
  else if b.chain.ownTile then (match sendingEntry b with | some e => sendOwn b e | none => b)
  else match nextForward b with
    | some f => sendForward b f
    | none => if b.chain.fwdTile then b else (match sendingEntry b with | some e => sendOwn b e | none => b)

/-- CHAIN_CREDIT_RETURN (R282, R380, R381): the credits are this engine's, or go on upstream through the bypass. -/
def chainCredit (b : Block) (n : Nat) : Block :=
  if n == 0 then b
  else if bypassed b then modChain b (fun c => { c with creditsOut := c.creditsOut + n })
  else modChain b (fun c => { c with credits := c.credits + n, linkUp := true })

/-- This side drives LRST_OUT high for 8 PORT cycles (R380). -/
def driveLrst (b : Block) (downstream : Bool) : Block :=
  modChain b (fun c => if downstream then { c with lrstDown := portNow b + 8 } else { c with lrstUp := portNow b + 8 })

/-- A link reset at this engine's end of a link (R380): downstream the sender loses its credits; upstream the receiver advertises INTAKE again. -/
def linkReset (b : Block) (downstream : Bool) : Block :=
  if downstream then modChain b (fun c => { c with credits := 0, linkUp := false })
  else modChain b (fun c => { c with creditsOut := chnIntake b, holdFrom := none })

/-- CHAIN_LINK_RESET: the far side of a link resets it; through the bypass the reset reaches the link of the other side (R380, R381). -/
def chainLinkReset (b : Block) (downstream : Bool) : Block :=
  if bypassed b then driveLrst b (!downstream) else linkReset b downstream

/-! ### Receiving (R285, R286, R288) -/

/-- The oldest tile not yet taken. -/
def oldestTile (b : Block) : Option ChTile := b.chain.tiles.find? (fun t => !t.taken)

/-- A tile leaves the chain unit: its frames need no copy any more. -/
def takeTile (b : Block) (i : Nat) : Block :=
  cutClear (chainSettle (modTileC (modChain b (fun c => { c with
    ring := c.ring.map (fun f => if f.tile == i then { f with copied := true } else f)
    keep := c.keep.filter (fun f => f.tile != i) })) i (fun t => { t with taken := true })))

def recvBad (e : Entry) (t : ChTile) : Bool :=
  let w := e.word.toNat
  t.seq.toNat != crSeq w || t.nfr != imageFrames (chDesc e) || t.broken || (if crFwd w then t.hops == 1 else decide (2 ≤ t.hops))

/-- Byte `k` of the image is one that the block places. -/
def imageCovers (d : Desc) (k : Nat) : Bool :=
  let bx := imageBox d 0
  (d.segs bx).any (fun s => (refAddrs s.ref).contains k) || (d.fills bx).any (fun f => decide (f.1 / 8 ≤ k) && decide (8 * k < f.1 + f.2.1))

/-- The chain unit's read of frame `k` from the home, as a load of the context (R286). -/
def startRefetch (b : Block) (e : Entry) (k : Nat) : Block :=
  let d := chDesc e
  let bx := imageBox d (bufBase e.id)
  let mine := fun (a : Nat) => decide (bufBase e.id + 4096 * k ≤ a) && decide (a < bufBase e.id + 4096 * k + frameLen d k)
  let b := deliverFills b (d.fills bx)
  let b := modEntry b e.id (fun x => { x with phase := 4 })
  addStream b (.entry e.id) e.ctx e.gen false (csDesc e.word.toNat) (d.tagq + 1) none ((d.segs bx).filter (fun s => (refAddrs s.ref).any mine))

/-- Bytes of the re-read frame; a byte of the gap before the scales is open (log 10). -/
def refetched (b : Block) (e : Entry) (k : Nat) : List Byte :=
  let d := chDesc e
  (List.range (frameLen d k)).map (fun i =>
    if imageCovers d (4096 * k + i) then memGet b.sram (bufBase e.id + 4096 * k + i) else (Config.openWord b.freeTick i).setWidth 8)

/-- A frame's bytes are placed in staging. -/
def copyFrame (b : Block) (e : Entry) (t : ChTile) (data : List Byte) : Block :=
  let w := e.word.toNat
  let (b, bad) := sramWrite b (loadAddr b (crArr w) (crOff w + 4096 * t.done)) data
  if bad then failEntry (takeTile b t.id) e .sramUncorrectable (e.site 9)
  else
    let b := modTileC b t.id (fun t => { t with done := t.done + 1 })
    chainSettle (modChain b (fun c => { c with
      ring := c.ring.map (fun f => if f.tile == t.id && f.fidx == t.done then { f with copied := true } else f)
      keep := c.keep.filter (fun f => !(f.tile == t.id && f.fidx == t.done)) }))

/-- The CHRECV at the head takes the next frame of its tile, or has it re-read. -/
def recvStep (b : Block) (e : Entry) (t : ChTile) : Block :=
  if recvBad e t then failEntry (takeTile b t.id) e .chainSeq (e.site 9)
  else if t.done == t.nfr then completeEntry (modEntry (takeTile b t.id) e.id (fun x => { x with phase := 1 })) e.id
  else
    let bad := (b.chain.ring ++ b.chain.keep).find? (fun f => f.tile == t.id && !f.good)
    match (b.chain.ring ++ b.chain.keep).find? (fun f => f.tile == t.id && f.fidx == t.done && !f.copied) with
    | some f =>
      if !f.good then startRefetch b e f.fidx
      else
        let (b, bad) := slotRead b f
        if bad then failEntry (takeTile b t.id) e .sramUncorrectable (e.site 9) else copyFrame b e t f.data
    | none =>
      if t.dropped then startRefetch b e t.done
      else match bad with
        | some f => startRefetch b e f.fidx
        | none => b

/-- The frame index under re-read. -/
def refetchIx (b : Block) (t : ChTile) : Nat :=
  match (b.chain.ring ++ b.chain.keep).find? (fun f => f.tile == t.id && f.fidx == t.done && !f.copied) with
  | some f => f.fidx
  | none => if t.dropped then t.done else (((b.chain.ring ++ b.chain.keep).find? (fun f => f.tile == t.id && !f.good)).map (·.fidx)).getD t.done

/-- The repaired frame in place of the one that failed its check. -/
def repairFrame (b : Block) (d : Desc) (f : Frame) (data : List Byte) : Frame :=
  { f with data := data, len := frameLen d f.fidx, good := true, chainId := BitVec.ofNat 16 (chnId b),
           crc := BitVec.ofNat 32 (frameCrc f.seq.toNat (chnId b) f.fidx data) }

/-- CHAIN_FRAME_REPAIR (R286, R288): the re-read of the frame has ended; it stands in place of the bad frame, or goes to staging. -/
def chainRepair (b : Block) : Block :=
  match b.entries.find? (fun e => wOpc e.word.toNat == 0x49 && e.phase == 4), oldestTile b with
  | some e, some t =>
    if !entryStreamsDone b e.id then b
    else
      let k := refetchIx b t
      let d := chDesc e
      let data := refetched b e k
      let b := bumpFld (tickFree b) .chnCount 16 16 1
      let b := { b with streams := b.streams.filter (fun s => !decide (s.owner = .entry e.id)) }
      let b := modEntry b e.id (fun x => { x with phase := 2 })
      if (b.chain.ring ++ b.chain.keep).any (fun f => f.tile == t.id && f.fidx == k && !f.good) then
        let fix := fun (f : Frame) => if f.tile == t.id && f.fidx == k && !f.good then repairFrame b d f data else f
        let b := modChain b (fun c => { c with ring := c.ring.map fix, keep := c.keep.map fix })
        if t.dropped && k == t.done then copyFrame b e t data else b
      else copyFrame b e t data
  | _, _ => b

/-- CHSEND leaves the queue's head: with FETCH its image is read into the send area first. -/
def startSend (b : Block) (e : Entry) : Block :=
  let w := e.word.toNat
  let d := chDesc e
  let b := modEntry b e.id (fun x => { x with started := true, phase := if csFetch w then 2 else 3, aux := 0 })
  if csFetch w then
    let bx := imageBox d (chnBase + csOff w)
    addStream (deliverFills b (d.fills bx)) (.entry e.id) e.ctx e.gen false (csDesc w) (d.tagq + 1) none (d.segs bx)
  else b

/-- The chain unit has no instruction under way; one that met a fault does not hold it. -/
def chainUnitFree (b : Block) : Bool := b.entries.all (fun x => !(decide (x.eunit = .chain) && x.started && x.phase != 255))

/-- The chain unit's work on the entry at its head or in progress (R285, R288). -/
def chainAdvance (b : Block) (e : Entry) : Block :=
  let w := e.word.toNat
  let send := wOpc w == 0x48
  if !e.started then
    if !(queueHead b .chain).any (fun h => h.id == e.id) || !chainUnitFree b || !chnTake b then b
    else if send then startSend b e
    else modEntry b e.id (fun x => { x with started := true, phase := 2 })
  else if send then
    if e.phase == 2 then
      (if entryStreamsDone b e.id then
        modEntry { b with streams := b.streams.filter (fun s => !decide (s.owner = .entry e.id)) } e.id (fun x => { x with phase := 3 }) else b)
    else if e.phase == 3 && e.aux == imageFrames (chDesc e) then completeEntry (modEntry b e.id (fun x => { x with phase := 1 })) e.id
    else b
  else if e.phase == 2 then (match oldestTile b with | some t => recvStep b e t | none => b)
  else b

/-! ### Engine reset and CHN_CFG (R290, R301) -/

/-- An engine reset leaves the chain unit running in pass mode: the keep area empties, and every frame of the ring that has not been copied,
dropped or sent on goes on (R290, log 60). -/
def chainEngineReset (b : Block) : Block :=
  chainSettle (modChain b (fun c => { c with
    keep := [], tiles := [], cut := false, ownTile := false
    ring := c.ring.map (fun (f : Frame) => { f with fwd := f.fwd || (!f.copied && f.hops == 0), copied := true }) }))

/-- CHN_CFG: a write is taken in pass mode with an empty ring, or in take mode with nothing queued; a change of INTAKE resets the link. -/
def writeChnCfg (b : Block) (v : W64) : Block :=
  let may := if chnTake b then b.entries.all (fun e => decide (e.eunit ≠ .chain)) else b.chain.ring.isEmpty
  if !may then hwSet b .chnStatus 34
  else
    let n := v.toNat
    let old := chnIntake b
    let mode := if n % 4 ≤ 1 then n % 4 else getFld b .chnCfg 0 2
    let ik := if bitsOf n 15 6 == 0 then old else bitsOf n 15 6
    let kp := bitsOf n 25 16
    let (ik, kp) := if 1024 < ik + kp then (old, chnKeep b) else (ik, kp)
    let b := setRaw b .chnCfg (BitVec.ofNat 64 (mode + bitsOf n 5 2 * 4 + ik * 2 ^ 6 + kp * 2 ^ 16 + bitsOf n 47 32 * 2 ^ 32))
    if ik == old then b else driveLrst (linkReset b false) false

/-! ### Meanings -/

/-- CHAIN_FRAME_ARRIVAL (R283, R284, R289). -/
def execChainFrameArrival (hdr : BitVec 192) (data : List Byte) (s : State) : Host.Outcome State Fault Refusal :=
  s.onBlk (fun b => chainArrive b hdr data)

/-- CHAIN_FRAME_SEND (R282, R283). -/
def execChainFrameSend (s : State) : Host.Outcome State Fault Refusal := s.onLive chainSend

/-- CHAIN_CREDIT_RETURN (R282, R289). -/
def execChainCreditReturn (cnt : BitVec 11) (s : State) : Host.Outcome State Fault Refusal := s.onBlk (fun b => chainCredit b cnt.toNat)

/-- CHAIN_FRAME_REPAIR (R286). -/
def execChainFrameRepair (s : State) : Host.Outcome State Fault Refusal := s.onLive chainRepair

/-- CHAIN_HOLD_LIMIT (R287). -/
def execChainHoldLimit (s : State) : Host.Outcome State Fault Refusal := s.onLive chainHold

/-- CHAIN_LINK_RESET (R380, R381). -/
def execChainLinkReset (downstream : Bool) (s : State) : Host.Outcome State Fault Refusal := s.onBlk (fun b => chainLinkReset b downstream)

/-- Write of CHN_CFG (R290). -/
def execChnCfgWrite (v : W64) (s : State) : Host.Outcome State Fault Refusal := s.onWrite .chnCfg (fun b => writeChnCfg b v)

end Sys2Proof.Machine
end

