-- ==== Sys2Proof/Machine/Fabric.lean ====
section
/-! DEFINITION. The fabric port (12): requests from peers in the order of R295, answers to this engine's requests (R296), contributions
(R297, R298), revokes (R299), resends and timeouts, and writes of the peer table. -/

namespace Sys2Proof.Machine

open Sys2Proof

/-! ### Header fields (R292) -/

def pkKind (h : Nat) : Nat := bitsOf h 3 0
def pkStatus (h : Nat) : Nat := bitsOf h 7 4
def pkDstCtx (h : Nat) : Ctx := Fin.ofNat 16 (bitsOf h 70 67)
def pkDstGen (h : Nat) : Nat := bitsOf h 87 72
def pkBack (h : Nat) : Nat := bitsOf h 99 88
def pkTag (h : Nat) : Nat := bitsOf h 109 100
def pkArg (h : Nat) : Nat := bitsOf h 255 128
def pkMask (h : Nat) : Nat := bitsOf h 511 256

/-- Statuses of R295. -/
def stOK : Nat := 0
def stRetry : Nat := 1
def stReject : Nat := 2
def stFenced : Nat := 3
def stDenied : Nat := 5
def stPage : Nat := 6
def stXlate : Nat := 7

/-- The engine fences as a whole, or is in an engine reset (R330). -/
def engineFencing (b : Block) : Bool := b.rst ≠ .idle
/-- The engine is in P2 (R350). -/
def inP2 (b : Block) : Bool := getFld b .mgtPwr 2 2 == 2

/-! ### Receiving requests (R295) -/

/-- The answer to a request, counted in FAB_RXCOUNT by its status. -/
def answer (b : Block) (h : Nat) (status arg : Nat) : Block :=
  let b := if status == stDenied then bumpFld b .fabRxcount 0 16 1
    else if status == stFenced then bumpFld b .fabRxcount 16 16 1
    else if status == stRetry then bumpFld b .fabRxcount 32 16 1 else b
  sendAnswer b (ansHdr h (pkKind h + 1) status arg)

/-- Drops a packet and counts it (R293, R383). -/
def dropPacket (b : Block) : Block := bumpFld b .fabRxcount 0 16 1

/-- Rows 1 to 3 of R295: the status that turns a request away. -/
def rxEntryTest (b : Block) (h : Nat) : Option Nat :=
  let w := peerWord b (Fin.ofNat 4096 (pkBack h))
  if engineFencing b then some stFenced
  else if inP2 b then some stDenied
  else if bitsOf h 63 48 != getFld b .fabSelf 0 16 || bitsOf h 66 64 != getFld b .engConfig 12 3 then some stDenied
  else if !peerValid w || bitsOf w 20 5 != bitsOf h 23 8 || bitsOf w 23 21 != bitsOf h 26 24 || bitsOf w 27 24 != bitsOf h 30 27
      || bitsOf w 43 28 != bitsOf h 47 32 || peerLocal w != (pkDstCtx h).val then some stDenied
  else none

/-- Rows 5 and 6. -/
def rxCtxTest (b : Block) (h : Nat) : Option Nat :=
  let x := getCtx b (pkDstCtx h)
  if x.state = .fencing ∨ x.state = .quarantine then some stFenced
  else if !activeCtx b (pkDstCtx h) || x.gen.toNat != pkDstGen h then some stDenied
  else none

def rxTest (b : Block) (h : Nat) : Option Nat := (rxEntryTest b h).or (rxCtxTest b h)

/-- In P3 the lanes are idle (R391). -/
def inP3 (b : Block) : Bool := getFld b .mgtPwr 2 2 == 3

/-- A kind that R293 reserves. -/
def kindReserved (h : Nat) : Bool := pkKind h == 0 || 11 ≤ pkKind h

/-- What every arriving request meets first: its kind, its number of beats, room for its answer. A reserved kind is dropped and counted (R293);
a header of another command's kind is no event of this one (log 2). -/
def rxRequest (b : Block) (kind : Nat) (hdr : BitVec 512) (len : Nat) (needsAnswer : Bool) (f : Block → Nat → Block) : Block :=
  let h := hdr.toNat
  if inP3 b then b
  else if pkKind h != kind then (if kindReserved h then dropPacket b else b)
  else if len != hdrBytes hdr then dropPacket b
  else if needsAnswer && !answerRoom b then dropPacket b
  else f b h

/-- Bytes an inbound quota lets a context hold (R295). -/
def inQuota (b : Block) : Nat := max 1 (getFld b .fabCfg 16 4) * 16384
def inHeld (b : Block) (c : Ctx) : Nat := ((b.inbuf.filter (fun p => decide (p.1 = c))).map (·.2)).foldl (· + ·) 0
def inAll (b : Block) : Nat := (b.inbuf.map (·.2)).foldl (· + ·) 0

/-- The bytes of an incoming WRITE: all of it, or those its mask enables. -/
def inSegs (h : Nat) (data : List Byte) : List Seg :=
  let va := bitsOf (pkArg h) 48 0
  let masked := bitAt (pkArg h) 49
  let l := data.mapIdx (fun i x => (i, x))
  (l.filter (fun p => !masked || (decide (p.1 < 256) && bitAt (pkMask h) p.1))).map (fun p => ⟨va + p.1, .const p.2⟩)

/-- FAB_RX_WRITE (R295 rows 7 to 10): the write goes out through the M-ports of the receiving context. -/
def rxWrite (b : Block) (hdr : BitVec 512) (data : List Byte) : Block :=
  rxRequest b 1 hdr data.length true (fun b h =>
    match rxTest b h with
    | some st => answer b h st 0
    | none =>
      let c := pkDstCtx h
      if inQuota b < inHeld b c + data.length || 262144 < inAll b + data.length then answer b h stRetry 0
      else
        let segs := inSegs h data
        if segs.isEmpty then answer b h stOK 0
        else addStream { b with inbuf := b.inbuf ++ [(c, data.length)] } (.inbound hdr) c (getCtx b c).gen true 0 16 none segs)

/-- FAB_RX_OFFER (R101, R295 row 11). -/
def rxOffer (b : Block) (hdr : BitVec 512) : Block :=
  rxRequest b 3 hdr 0 true (fun b h =>
    match rxTest b h with
    | some st => answer b h st 0
    | none =>
      let a := pkArg h
      let g : Grp := Fin.ofNat 64 (bitsOf a 5 0)
      let rank := bitsOf a 17 6
      let ans := offerAnswer b g rank (some (BitVec.ofNat 16 (bitsOf a 33 18)))
      match ans with
      | .retry => answer b h stRetry 0
      | .stale | .dup | .other => answer (countReject b ans) h stReject 0
      | .grantReserve | .grantBuffer =>
        match grantRec b g rank ans, lowestFree 1024 (b.grants.map (·.slot)) with
        | (b, some r), some k =>
          answer { b with grants := b.grants ++ [{ slot := k, grp := g, rank := rank, rec_ := r, peer := pkBack h, tag := pkTag h, rows := [], last := b.beat, nadd := bitsOf a 79 48, lapsed := bitAt a 36 }] } h stOK k
        | (b, _), _ => answer b h stRetry 0)

/-- A grant is freed uncounted: an arrival-buffer slot goes, a reserve part is cleared (R298). -/
def freeGrant (b : Block) (t : Grant) : Block :=
  let b := { b with grants := b.grants.filter (fun x => x.slot != t.slot) }
  match findRec b t.rec_ with
  | some r => (match r.role with
      | .arrival _ => dropRec b r.id
      | _ => modRec b r.id (fun r => { r with cells := [], cellsIm := [] }))
  | none => b

/-- A landed row of a contribution. -/
def landRow (r : KRec) (row h w : Nat) (ws : List W64) : KRec :=
  let put := fun (cs : Cells) (i : Nat) => (List.range w).foldl (fun cs j =>
    cellPut cs (i * w + j) { Cell.zero with total := ws.getD j 0#64, start := ws.getD j 0#64 }) cs
  if row < h then { r with cells := put r.cells row } else { r with cellsIm := put r.cellsIm (row - h) }

/-- FAB_RX_CDATA (R297, R298): a row lands in its granted slot; after the last row the contribution is accepted and CDONE goes back. -/
def rxCdata (b : Block) (hdr : BitVec 512) (data : List Byte) : Block :=
  rxRequest b 5 hdr data.length false (fun b h =>
    if (rxTest b h).isSome then dropPacket b
    else
      let slot := bitsOf (pkArg h) 9 0
      let row := bitsOf (pkArg h) 19 10
      match b.grants.find? (fun t => t.slot == slot) with
      | none => dropPacket b
      | some t =>
        if t.peer != pkBack h then freeGrant (dropPacket b) t
        else if t.tag != pkTag h then dropPacket b
        else
          let x := getGrp b t.grp
          let w := wallW x.shape
          let n := wallH x.shape
          let rows := if x.kind == 1 then 2 * n else n
          if data.length != 8 * w || rows ≤ row then dropPacket b
          else
            let b := modRec b t.rec_ (fun r => landRow r row n w (wordsOf w data))
            let got := if t.rows.contains row then t.rows else row :: t.rows
            if got.length == rows then
              let b := acceptContribution { b with grants := b.grants.filter (fun y => y.slot != slot) } t.grp t.rank t.rec_ t.nadd t.lapsed
              sendAnswer b (ansHdr h 6 stOK 0)
            else { b with grants := b.grants.map (fun y => if y.slot == slot then { y with rows := got, last := b.beat } else y) })

/-- GRANT_TIMEOUT (R298). -/
def grantTimeout (b : Block) (slot : Nat) : Block :=
  match b.grants.find? (fun t => t.slot == slot) with
  | some t => if getFld b .fabPeerTimeout 0 32 ≤ b.beat - t.last then freeGrant b t else b
  | none => b

/-- FAB_RX_POST (R238, R295 rows 12 and 13). -/
def rxPost (b : Block) (hdr : BitVec 512) : Block :=
  rxRequest b 7 hdr 0 true (fun b h =>
    match rxTest b h with
    | some st => answer b h st 0
    | none =>
      let a := pkArg h
      let p : Peg := Fin.ofNat 256 (bitsOf a 7 0)
      let r : Role := if bitAt a 8 then .consumer else .producer
      let c := pegOwner b p
      let poster := match r with | .producer => pegProd b p | .consumer => pegCons b p
      if !pegEn b p || poster != 4 || pegPeer b p != pkBack h then answer b h stDenied 0
      else if (getCtx b c).state = .fencing ∨ (getCtx b c).state = .quarantine then answer b h stFenced 0
      else if !activeCtx b c then answer b h stDenied 0
      else answer (progress (pegAdd b p r (bitsOf a 24 9)) c) h stOK 0)

/-! ### A tag that fails (R296, R299) -/

def dropTag (b : Block) (t : Nat) : Block := { b with fabTags := b.fabTags.filter (fun x => x.tag != t) }

def tagSite (t : FabTag) : Site := { ctx := some t.ctx, gen := t.gen, unit := 0xA, obj := some (4, t.peer) }

/-- The PEER close that a tag's OFFER belongs to. -/
def offerEntry (b : Block) (g : Grp) : Option Entry :=
  b.entries.find? (fun e => wOpc e.word.toNat == 0x2B && decide (kGrp e.word.toNat = g) && closePeer e && e.started)

/-- Forgets a post that was still to be acknowledged. -/
def lessUnacked (b : Block) (c : Ctx) : Block := modCtx b c (fun x => { x with unacked := x.unacked - 1 })

/-- The request of a tag has failed: its tag frees and its context halts with `code`. A REVOKE that fails halts nothing. -/
def tagFailed (b : Block) (t : FabTag) (code : Code) : Block :=
  let b := dropTag b t.tag
  let at_ := fun (e : Entry) => { e.site 0xA with obj := some (4, t.peer) }
  match t.kind with
  | .revoke => b
  | .write i _ =>
    (match findStream b i with
    | some x =>
      let site := match findEntry b x.entryId with | some e => at_ e | none => tagSite t
      raise (stopStream b x) code site
    | none => raise b code (tagSite t))
  | .offer g => (match offerEntry b g with
      | some e => failEntry b e code { at_ e with grp := some g }
      | none => raise b code (tagSite t))
  | .post n =>
    let b := lessUnacked b t.ctx
    (match findEntry b n with
    | some e => failEntry b e code (at_ e)
    | none => raise b code (tagSite t))

/-! ### Revokes (R299) -/

/-- The entries that a fence of `c` revokes: one for each destination of its VALID entries. -/
def revokeList (b : Block) (c : Ctx) : List Nat :=
  ((allFin 4096).foldl (fun (acc : List (Nat × Nat)) i =>
    let w := peerWord b i
    if peerValid w && peerLocal w == c.val && !acc.any (fun q => q.1 == bitsOf w 27 5) then acc ++ [(bitsOf w 27 5, i.val)] else acc) []).map (·.2)

/-- Sends the REVOKEs of a fence that can go now. -/
def sendRevokes (b : Block) (c : Ctx) : Block :=
  match (getCtx b c).fence with
  | none => b
  | some f =>
    f.unsent.foldl (fun b i =>
      match sendTagged b c f.oldGen i .revoke 9 0 0 0 [] with
      | some b => modCtx b c (fun x => { x with fence := x.fence.map (fun f => { f with unsent := f.unsent.erase i }) })
      | none => b) b

/-- FAB_RX_REVOKE (R295 row 4, R299). -/
def rxRevoke (b : Block) (hdr : BitVec 512) : Block :=
  rxRequest b 9 hdr 0 true (fun b h =>
    match rxEntryTest b h with
    | some st => answer b h st 0
    | none =>
      let i := pkBack h
      let b := setFld b (.fabPeer (Fin.ofNat 4096 i)) 56 1 1
      let mine := b.fabTags.filter (fun t => t.peer == i)
      let b := mine.foldl (fun b t => if t.zombie then quarantineEnd (dropTag b t.tag) t.ctx else tagFailed b t .contextRevoked) b
      let b := (b.grants.filter (fun t => t.peer == i)).foldl freeGrant b
      answer b h stOK 0)

/-! ### Receiving answers (R296) -/

/-- An answer of kind `kind` reaches the tag it names; `ok` is what OK does. A zombie's answer only frees its tag (R328). An answer carries no
payload: one whose BEATS says otherwise is dropped and counted, as is a reserved kind (R292, R293, R383). -/
def rxAnswer (b : Block) (kind : Nat) (hdr : BitVec 512) (is : FabKind → Bool) (ok : Block → FabTag → Nat → Block) : Block :=
  let h := hdr.toNat
  if inP3 b then b
  else if pkKind h != kind then (if kindReserved h then dropPacket b else b)
  else if hdrBytes hdr != 0 then dropPacket b
  else match b.fabTags.find? (fun t => t.tag == pkTag h && is t.kind) with
    | none => b
    | some t =>
      if decide (t.ctx ≠ pkDstCtx h) || t.gen.toNat != pkDstGen h then b
      else if t.zombie then quarantineEnd (dropTag b t.tag) t.ctx
      else
        let st := pkStatus h
        if st == stOK then ok b t h
        else if st == stRetry then
          { b with fabTags := b.fabTags.map (fun x => if x.tag == t.tag then { x with retryAt := some (b.beat + max 1 (getFld b .fabCfg 0 16)) } else x) }
        else if st == stReject then tagFailed b t .groupState
        else if st == stFenced then tagFailed (bumpFld b .fabCount 48 16 1) t .fenced
        else if st == stDenied then tagFailed (bumpFld b .fabCount 32 16 1) t .contextRevoked
        else if st == stXlate then
          (match t.kind with
          | .write i sg => (match findStream b i with
              | some x => streamXlate (dropTag b t.tag) x ((sg.headD ⟨0, .const 0⟩).va)
              | none => dropTag b t.tag)
          | _ => b)
        else if st == stPage then
          (match t.kind with
          | .write i sg => (match findStream b i with
              | some x => streamPage (dropTag b t.tag) { x with todo := sg ++ x.todo } ((sg.headD ⟨0, .const 0⟩).va)
              | none => dropTag b t.tag)
          | _ => b)
        else b

/-- FAB_RX_WACK. -/
def rxWack (b : Block) (hdr : BitVec 512) : Block :=
  rxAnswer b 2 hdr (fun k => match k with | .write _ _ => true | _ => false) (fun b t _ =>
    match t.kind with
    | .write i _ => streamEnd (progress (dropTag b t.tag) t.ctx) i
    | _ => b)

/-- FAB_RX_GRANT (R297): the rows of the tile go out under the slot granted. -/
def rxGrant (b : Block) (hdr : BitVec 512) : Block :=
  rxAnswer b 4 hdr (fun k => match k with | .offer _ => true | _ => false) (fun b t h =>
    match t.kind with
    | .offer g =>
      if t.granted then b
      else
        let slot := bitsOf (pkArg h) 9 0
        let b := { b with fabTags := b.fabTags.map (fun x => if x.tag == t.tag then
          { x with granted := true, retryAt := none, pkt := { x.pkt with hdr := BitVec.ofNat 512 (x.pkt.hdr.toNat % 2 ^ 256 + slot * 2 ^ 256) } } else x) }
        (match offerEntry b g with
        | some e => startRows b e .peer
        | none => b)
    | _ => b)

/-- FAB_RX_CDONE (R297): the PEER close can complete, and its group becomes FREE (R98). -/
def rxCdone (b : Block) (hdr : BitVec 512) : Block :=
  rxAnswer b 6 hdr (fun k => match k with | .offer _ => true | _ => false) (fun b t _ =>
    match t.kind with
    | .offer g =>
      let b := dropTag b t.tag
      (match offerEntry b g with
      | some e => partDone (freeGroup b g) e.id
      | none => b)
    | _ => b)

/-- FAB_RX_PACK (R238, R265). -/
def rxPack (b : Block) (hdr : BitVec 512) : Block :=
  rxAnswer b 8 hdr (fun k => match k with | .post _ => true | _ => false) (fun b t _ =>
    match t.kind with
    | .post n =>
      let b := lessUnacked (dropTag b t.tag) t.ctx
      if n == 0 then b else modEntry b n (fun e => { e with phase := 1 })
    | _ => b)

/-- FAB_RX_RACK (R299). -/
def rxRack (b : Block) (hdr : BitVec 512) : Block :=
  rxAnswer b 10 hdr (fun k => match k with | .revoke => true | _ => false) (fun b t _ => sendRevokes (dropTag b t.tag) t.ctx)

/-! ### Resends and timeouts (R296) -/

/-- FAB_RETRY_RESEND. -/
def retryResend (b : Block) (tag : Nat) : Block :=
  match b.fabTags.find? (fun t => t.tag == tag && !t.zombie) with
  | none => b
  | some t =>
    match t.retryAt with
    | none => b
    | some due =>
      if b.beat < due then b
      else match chargeRemote b t.ctx (if t.pkt.data.isEmpty then 64 else t.pkt.data.length) with
        | none => b
        | some b =>
          let b := bumpFld b .fabCount 0 16 1
          sendRequest { b with fabTags := b.fabTags.map (fun x => if x.tag == tag then { x with retryAt := none } else x) } t.pkt.hdr t.pkt.data

/-- FAB_TAG_TIMEOUT. -/
def fabTagTimedOut (b : Block) (tag : Nat) : Block :=
  match b.fabTags.find? (fun t => t.tag == tag) with
  | none => b
  | some t =>
    if b.beat - t.first < getFld b .fabPeerTimeout 0 32 then b
    else
      let b := bumpFld b .fabCount 16 16 1
      if t.zombie then quarantineEnd (dropTag b tag) t.ctx
      else tagFailed b t (match t.kind with | .offer _ => .peerTimeout | _ => .fenced)

/-! ### The internal loopback (R291) -/

/-- A received packet by its kind: it passes the same checks as one from a lane. -/
def rxPacket (b : Block) (p : FabPkt) : Block :=
  match pkKind p.hdr.toNat with
  | 1 => rxWrite b p.hdr p.data
  | 2 => rxWack b p.hdr
  | 3 => rxOffer b p.hdr
  | 4 => rxGrant b p.hdr
  | 5 => rxCdata b p.hdr p.data
  | 6 => rxCdone b p.hdr
  | 7 => rxPost b p.hdr
  | 8 => rxPack b p.hdr
  | 9 => rxRevoke b p.hdr
  | 10 => rxRack b p.hdr
  | _ => dropPacket b

/-- The packets in the loopback arrive; what answers them waits for the next beat. -/
def deliverLoop (b : Block) : Block := b.fabLoop.foldl rxPacket { b with fabLoop := [] }

/-! ### FAB_PEER_n (R291, R303) -/

def ctxBusy (b : Block) (c : Nat) : Bool := activeCtx b (Fin.ofNat 16 c)

def writePeer (b : Block) (n : Fin 4096) (v : W64) : Block :=
  let old := peerWord b n
  if ctxBusy b (peerLocal old) || ctxBusy b (peerLocal v.toNat) then hwSet b .fabStatus 33
  else setRaw b (.fabPeer n) (v &&& 0x00FFFFFFFFFFFFFF#64)

/-! ### Meanings -/

/-- FAB_RX_WRITE (R295). -/
def execFabRxWrite (hdr : BitVec 512) (data : List Byte) (s : State) : Host.Outcome State Fault Refusal := s.onLive (fun b => rxWrite b hdr data)
/-- FAB_RX_WACK (R296). -/
def execFabRxWack (hdr : BitVec 512) (s : State) : Host.Outcome State Fault Refusal := s.onLive (fun b => jobAdvance (rxWack b hdr))
/-- FAB_RX_OFFER (R101). -/
def execFabRxOffer (hdr : BitVec 512) (s : State) : Host.Outcome State Fault Refusal := s.onLive (fun b => rxOffer b hdr)
/-- FAB_RX_GRANT (R297). -/
def execFabRxGrant (hdr : BitVec 512) (s : State) : Host.Outcome State Fault Refusal := s.onLive (fun b => rxGrant b hdr)
/-- FAB_RX_CDATA (R297). -/
def execFabRxCdata (hdr : BitVec 512) (data : List Byte) (s : State) : Host.Outcome State Fault Refusal := s.onLive (fun b => rxCdata b hdr data)
/-- FAB_RX_CDONE (R297). -/
def execFabRxCdone (hdr : BitVec 512) (s : State) : Host.Outcome State Fault Refusal := s.onLive (fun b => rxCdone b hdr)
/-- FAB_RX_POST (R238). -/
def execFabRxPost (hdr : BitVec 512) (s : State) : Host.Outcome State Fault Refusal := s.onLive (fun b => rxPost b hdr)
/-- FAB_RX_PACK (R238). -/
def execFabRxPack (hdr : BitVec 512) (s : State) : Host.Outcome State Fault Refusal := s.onLive (fun b => rxPack b hdr)
/-- FAB_RX_REVOKE (R299). -/
def execFabRxRevoke (hdr : BitVec 512) (s : State) : Host.Outcome State Fault Refusal := s.onLive (fun b => rxRevoke b hdr)
/-- FAB_RX_RACK (R299). -/
def execFabRxRack (hdr : BitVec 512) (s : State) : Host.Outcome State Fault Refusal := s.onLive (fun b => rxRack b hdr)
/-- FAB_RETRY_RESEND (R296). -/
def execFabRetryResend (tag : BitVec 10) (s : State) : Host.Outcome State Fault Refusal := s.onLive (fun b => retryResend b tag.toNat)
/-- FAB_TAG_TIMEOUT (R296). -/
def execFabTagTimeout (tag : BitVec 10) (s : State) : Host.Outcome State Fault Refusal := s.onLive (fun b => fabTagTimedOut b tag.toNat)
/-- GRANT_TIMEOUT (R298). -/
def execGrantTimeout (slot : BitVec 10) (s : State) : Host.Outcome State Fault Refusal := s.onLive (fun b => grantTimeout b slot.toNat)
/-- Write of FAB_PEER_n (R291). -/
def execFabPeerWrite (n : Fin 4096) (v : W64) (s : State) : Host.Outcome State Fault Refusal := s.onWrite (.fabPeer n) (fun b => writePeer b n v)

end Sys2Proof.Machine
end

