-- ==== Sys2Proof/Machine/Clock.lean ====
section
/-! DEFINITION. What a beat does while no command waits (R17, R218, R242, log 3). -/

namespace Sys2Proof.Machine

open Sys2Proof

/-- Depth of a regulator in bytes (R218, R228). -/
def burstBytes (b : Block) : Nat := max 1 (getFld b .strCfg 20 4) * 4096

/-- A beat's gain of a regulator: 6 PORT cycles at share/64 of the class capacity, up to the depth. -/
def refill (b : Block) (cur share cap : Nat) : Nat := max cur (min (burstBytes b) (cur + 6 * share * cap / 64))

/-- Context time: SCH_ELAPSED counts in RUNNING (R242), the regulators fill. -/
def tickCtx (b : Block) (c : Ctx) : Block :=
  modCtx b c (fun x => { x with
    elapsed := if x.state = .running then x.elapsed + 3#64 else x.elapsed
    regRead := refill b x.regRead (getFld b (.strSplit c) 0 7) 6144
    regWrite := refill b x.regWrite (getFld b (.strSplit c) 8 7) 6144
    regRemote := refill b x.regRemote (getFld b (.strSplit c) 16 7) 512 })

/-- Transfers of a packet (R382). -/
def transfersOf (p : FabPkt) : Nat := max 1 (p.data.length / 256)

/-- Packets left when lane `l` has made `n` transfers: a packet's transfers follow one another, a longer packet goes at the start of a beat (R382). -/
def drainLane (l : Fin 2) : Nat → List FabPkt → List FabPkt
  | _, [] => []
  | n, p :: r =>
    if p.lane ≠ l then p :: drainLane l n r
    else if transfersOf p ≤ n then drainLane l (n - transfersOf p) r
    else if n == 6 then r else p :: r

/-- A beat of the lanes: 6 transfers each, of a lane whose FBl_TX_READY is high (R382). -/
def drainLanes (b : Block) : Block :=
  let left := (allFin 2).foldl (fun q l => if bitAt b.pins.txReady.toNat l.val then drainLane l 6 q else q) b.fabTx
  let count := fun (q : List FabPkt) => q.foldl (fun n p => n + transfersOf p) 0
  countAct { b with fabTx := left } (fun a => { a with fabric := a.fabric + (count b.fabTx - count left) })

/-- What the end of a beat leaves behind: hardware counts and sets of this beat meet no later command, its notices and folds are old (R9, R316,
R372); a response that CP_RSP_READY takes is gone (R371); the compute part leaves its reset (R330); the heartbeat's count stands still in P2
(R350). -/
def beatEnd (b : Block) : Block :=
  { b with
    beat := b.beat + 1, coins := [], noticeNew := 0
    chks := b.chks.map (fun x => { x with preFold := none })
    cpQ := if b.pins.cpRspReady then b.cpQ.drop 1 else b.cpQ
    rst := if b.rst = .computeReset && b.pins.rstEng then .steward else b.rst
    steward := if inP2 b then { b.steward with beatAt := b.steward.beatAt + 1 } else b.steward }

/-- One beat: one MGT, three ARR, four SRAM and six PORT cycles. Regulators fill; REVOKEs, posts and packets that waited go out (R238, R291,
R299). Nothing runs while RST_COLD_N is low, in P3 or without power (R17, R347, R388). -/
def tick (b : Block) : Block :=
  if !live b then b
  else beatEnd (drainLanes (jobAdvance (deliverLoop (flushPosts ((allFin 16).foldl sendRevokes ((allFin 16).foldl tickCtx b))))))

end Sys2Proof.Machine
end

