-- ==== Sys2Proof/Machine/Check.lean ====
section
/-! DEFINITION. Check channels (13): CHKSEED and CHKCMP at the head of a channel queue, register feeds and register writes. -/

namespace Sys2Proof.Machine

open Sys2Proof

def chkIx (w : Nat) : Chk := Fin.ofNat 4 (bitsOf w 33 32)

/-- CHK_STATUS_n.BUSY (R310). -/
def chkBusy (b : Block) (n : Chk) : Bool := b.beat < (getChk b n).busyUntil

/-- CHK_STATUS_n.MATCH (R313). -/
def chkMatch (b : Block) (n : Chk) : Bool := chkV b n == (rawReg b (.chkExpect n)).toNat % 2 ^ crcWidth (chkPoly b n)

/-- Every feeding instruction that the context dispatched earlier has completed (R271). -/
def feedsDone (b : Block) (e : Entry) (n : Chk) : Bool :=
  b.entries.all (fun x => !(decide (x.ctx = e.ctx) && decide (x.id < e.id) && entryFeeds b x n))

/-- The check instruction at the head of its channel's queue (R271, R313). -/
def chkAdvance (b : Block) (e : Entry) : Block :=
  let w := e.word.toNat
  let n := chkIx w
  let q := e.reads.getD 0 0#64
  if e.started || !(queueHead b (.chk n)).any (fun h => h.id == e.id) || chkBusy b n || !feedsDone b e n then b
  else
    let b := modEntry b e.id (fun x => { x with started := true, phase := 1 })
    if wOpc w == 0x50 then
      completeEntry (chkSet (setFld b (.chkCtl n) 0 1 (bitsOf w 34 34)) n q.toNat) e.id
    else
      let b := setRaw b (.chkExpect n) q
      if chkMatch b n then
        let b := if bitAt w 39 then setSlot b e.ctx e.strand (slotAt w 44 40) (BitVec.ofNat 64 (chkV b n)) else b
        completeEntry b e.id
      else failEntry (bumpFld b (.chkCount n) 0 16 1) e .chkMismatch { e.site 0xB with obj := some (2, n.val) }

/-- R310: a register write of a channel is taken. -/
def chkWritable (b : Block) (n : Chk) : Bool :=
  decide ((getChk b n).holder = .none) && !chkBusy b n
  && (match (getCtx b (chkOwner b n)).state with
      | .free | .done | .preempted | .faulted => true
      | _ => false)

def chkReject (b : Block) (n : Chk) : Block := hwSet b (.chkStatus n) 8

/-- CHK_FEED (R310): 1, 2 or 4 bytes fold, byte 0 first, in as many MGT cycles. -/
def chkFeedReg (b : Block) (n : Chk) (v : W64) : Block :=
  let size := bitsOf v.toNat 33 32
  if !chkWritable b n || size == 3 then chkReject b n
  else
    let k := 2 ^ size
    chkFold (modChk b n (fun x => { x with busyUntil := b.beat + k })) n (leBytes k (bitsOf v.toNat 31 0))

/-- Write of CHK_CTL_n, CHK_VALUE_n or CHK_EXPECT_n (R310). -/
def chkRegWrite (b : Block) (n : Chk) (r : ChkReg) (v : W64) : Block :=
  if !chkWritable b n then chkReject b n
  else match r with
    | .ctl =>
      let b := setRaw b (.chkCtl n) (v &&& 0x7F#64)
      setChkV b n (chkV b n)
    | .value => chkSet b n v.toNat
    | .expect => setRaw b (.chkExpect n) v

/-! ### Meanings -/

/-- CHK_FEED (R310). -/
def execChkFeed (n : Chk) (v : W64) (s : State) : Host.Outcome State Fault Refusal := s.onWrite (.chkFeed n) (fun b => chkFeedReg b n v)
/-- CHK_REGISTER_WRITE (R310). -/
def execChkRegisterWrite (n : Chk) (r : ChkReg) (v : W64) (s : State) : Host.Outcome State Fault Refusal := s.onWrite (match r with | .ctl => .chkCtl n | .value => .chkValue n | .expect => .chkExpect n) (fun b => chkRegWrite b n r v)

end Sys2Proof.Machine
end

