-- ==== Sys2Proof/Machine/Ckpt.lean ====
section
/-! DEFINITION. Checkpoints (R272, R273, R335 to R338): the area's layout, CKPT and RESTORE. -/

namespace Sys2Proof.Machine

open Sys2Proof

/-! ### Operands (R272) -/

def ckCh (w : Nat) : Chk := Fin.ofNat 4 (bitsOf w 38 37)
def ckArea (e : Entry) : Nat := bitsOf (e.reads.getD 0 0#64).toNat 48 0
/-- First header and number of headers of a QH value. -/
def qhFirst (q : W64) : Nat := bitsOf q.toNat 18 0
def qhCount (q : W64) : Nat := bitsOf q.toNat 34 20

/-! ### The area (R336, R337) -/

/-- `n` bytes, those of `l` first; the rest are open (log 10). -/
def openPad (b : Block) (key n : Nat) (l : List Byte) : List Byte :=
  l ++ (List.range (n - l.length)).map (fun i => ((Config.openWord b.freeTick (key + i)).setWidth 8 : Byte))

def zeroPad (n : Nat) (l : List Byte) : List Byte := l ++ List.replicate (n - l.length) 0#8

/-- Slots, pegs and channels at the dispatch of a CKPT (R335, step 2). -/
def ckptState (b : Block) (c : Ctx) : List Byte :=
  let slots := (allFin 4).flatMap (fun s => (allFin 32).flatMap (fun q => leBytes 8 (getSlot b c s q).toNat))
  let pegs := (allFin 256).flatMap (fun p =>
    if pegEn b p && decide (pegOwner b p = c) then leBytes 2 (getPeg b p).full.toNat ++ leBytes 2 (getPeg b p).empty.toNat else leBytes 4 0)
  let chans := (allFin 4).flatMap (fun n =>
    if chkOwner b n = c then leBytes 8 (chkPoly b n) ++ leBytes 8 (chkV b n) ++ leBytes 8 (rawReg b (.chkExpect n)).toNat else leBytes 24 0)
  openPad b 0 4096 (slots ++ pegs ++ chans)

def ctxGrps (b : Block) (c : Ctx) : List Grp :=
  (allFin 64).filter (fun g => decide ((getGrp b g).ctx = c) && decide ((getGrp b g).state ≠ .free))

/-- Buffered arrivals of a group in rank order: accepted, not yet merged. -/
def bufferedOf (b : Block) (g : Grp) : List (Nat × KRec) :=
  ((b.kiln.filterMap (fun r => match r.role with
    | .arrival k => if decide (r.grp = g) && (getGrp b g).arrived.contains k then some (k, r) else none
    | _ => none)).mergeSort (fun x y => decide (x.1 ≤ y.1)))

def hasL (x : GroupSt) : Bool := match x.loc with | .kiln _ | .spill _ | .bank _ _ | .stack _ => true | _ => false

/-- STATE byte of a record. -/
def stateByte (x : GroupSt) : Nat :=
  match x.state with
  | .free => 0 | .open_ => 1 | .closed => 8 | .poisoned => 9 | _ => 3

/-- A group record (R337). -/
def grpRecord (b : Block) (c : Ctx) (g : Grp) : List Byte :=
  let x := getGrp b g
  if decide (x.ctx ≠ c) || decide (x.state = .free) then leBytes 64 0
  else
    [BitVec.ofNat 8 (stateByte x), BitVec.ofNat 8 ((if x.lapsed then 1 else 0) + (if hasL x then 2 else 0) + (if x.mHas then 4 else 0))]
    ++ leBytes 2 (x.leaf + (if x.rnd then 4 else 0) + x.mode * 8 + x.kind * 32 + x.shape * 128 + x.strand.val * 512)
    ++ leBytes 4 x.expect ++ leBytes 2 x.nremote ++ leBytes 2 x.round.toNat ++ leBytes 4 x.localCnt ++ leBytes 4 x.tally
    ++ leBytes 4 x.remoteCnt ++ leBytes 4 x.nadd ++ leBytes 4 (bufferedOf b g).length ++ leBytes 8 x.seed.toNat
    ++ leBytes 8 x.passes ++ leBytes 2 x.nextRank ++ leBytes 14 0

/-- Arrive map and arrival entries of a group. -/
def mapBytes (b : Block) (g : Grp) : List Byte :=
  let x := getGrp b g
  let map := (List.range 512).map (fun i => BitVec.ofNat 8 ((List.range 8).foldl (fun a k => if x.arrived.contains (8 * i + k) then a + 2 ^ k else a) 0))
  map ++ zeroPad 64 ((bufferedOf b g).flatMap (fun q => leBytes 2 q.1 ++ [if q.2.lapsed then 1#8 else 0#8, 0#8] ++ leBytes 4 q.2.nadd))

def up4 (n : Nat) : Nat := (n + 4095) / 4096 * 4096

/-- One tile, T0 and for a complex group T1 behind it, each rounded up to 4 KiB. -/
def tileSection (b : Block) (x : GroupSt) (key : Nat) (c : Cells × Cells) : List Byte :=
  let n := grpElems x
  let one := fun (k : Nat) (cs : Cells) => openPad b (key + k * 4096) (up4 (8 * n)) (tileBytes cs n)
  one 0 c.1 ++ (if x.kind == 1 then one 1 c.2 else [])

/-- Where CKPT keeps a spilled tile it has read back. -/
def ckptBuf (e : Nat) (g : Grp) : Nat := bufBase e + 2 ^ 24 * g.val

/-- L of a group: in its slot, or as read back from its spill units. -/
def lTile (b : Block) (e : Nat) (g : Grp) : Cells × Cells :=
  let x := getGrp b g
  match x.loc with
  | .kiln r | .stack r => (match findRec b r with | some k => (k.cells, k.cellsIm) | none => ([], []))
  | _ =>
    let n := grpElems x
    let ds := x.kind != 2
    (cellsOfBytes ds n (sramBytes b (ckptBuf e g) (8 * n)), if x.kind == 1 then cellsOfBytes ds n (sramBytes b (ckptBuf e g + 2 ^ 22) (8 * n)) else [])

/-- All tiles of a group: L, M, then the buffered arrivals. -/
def grpTiles (b : Block) (e : Nat) (g : Grp) : List (Cells × Cells) :=
  let x := getGrp b g
  (if hasL x then [lTile b e g] else [])
    ++ (if x.mHas then (match x.mRec.bind (findRec b) with | some k => [(k.cells, k.cellsIm)] | none => [([], [])]) else [])
    ++ (bufferedOf b g).map (fun q => (q.2.cells, q.2.cellsIm))

/-- The whole area up to the trailer. -/
def ckptArea (b : Block) (e : Entry) : List Byte :=
  let c := e.ctx
  let q := e.reads.getD 1 0#64
  let gs := ctxGrps b c
  let state := (e.descs.getD 0 []).flatMap (fun w => leBytes 8 w.toNat)
  let groups := (allFin 64).flatMap (grpRecord b c)
  let hdrs := sramBytes b (hdrAddr (qhFirst q)) (64 * qhCount q)
  let maps := (gs.filter (fun g => 0 < (getGrp b g).nremote)).flatMap (mapBytes b)
  let tl := gs.flatMap (fun g => (grpTiles b e.id g).map (fun t => (g, t)))
  let tiles := tl.zipIdx.flatMap (fun p => tileSection b (getGrp b p.1.1) (2 ^ 24 * (p.2 + 1)) p.1.2)
  let count := (tl.map (fun p => tileParts (getGrp b p.1).kind)).foldl (· + ·) 0
  let oH := 12288
  let oM := oH + up4 hdrs.length
  let oT := oM + up4 maps.length
  let oE := oT + tiles.length
  let header := zeroPad 4096 (leBytes 4 0x4B433250 ++ leBytes 4 1 ++ leBytes 8 (oE + 4096) ++ leBytes 1 c.val ++ leBytes 1 (chkPoly b (ckCh e.word.toNat))
    ++ leBytes 1 (getFld b .engConfig 0 4) ++ leBytes 1 0 ++ leBytes 4 (qhCount q) ++ leBytes 4 gs.length ++ leBytes 4 count
    ++ leBytes 8 oH ++ leBytes 8 oM ++ leBytes 8 oT ++ leBytes 8 oE)
  header ++ state ++ groups ++ openPad b 4096 (up4 hdrs.length) hdrs ++ openPad b 8192 (up4 maps.length) maps ++ tiles

/-! ### CKPT (R335) -/

/-- Groups still to be parked. -/
def ckptResident (b : Block) (c : Ctx) : List Grp := (ctxGrps b c).filter (fun g => (getGrp b g).state = .resident)

/-- The RESIDENT groups are parked as GPARK does. -/
def ckptParks (b : Block) (e : Entry) : Block :=
  let gs := ckptResident b e.ctx
  let b := modEntry b e.id (fun x => { x with started := true, phase := 2, left := gs.length + 1 })
  gs.foldl (fun b g => match bankOf b g with
    | some (n, s, t) => bankRead (wakeArr b n) n s t g .park e.id 0 [] 0#64 0
    | none => b) b

/-- Spilled tiles still to be read back. -/
def ckptUnread (b : Block) (e : Entry) : List Grp :=
  (ctxGrps b e.ctx).filter (fun g => (match (getGrp b g).loc with | .spill _ => true | _ => false)
    && !(e.descs.getD 1 []).contains (BitVec.ofNat 64 g.val))

def ckptReadBack (b : Block) (e : Entry) : Block :=
  let gs := ckptUnread b e
  let b := modEntry b e.id (fun x => { x with descs := [x.descs.getD 0 [], x.descs.getD 1 [] ++ gs.map (fun g => BitVec.ofNat 64 g.val)] })
  gs.foldl (fun b g =>
    addStream b (.entry e.id) e.ctx e.gen false 0 4096 none
      (unitSegs b e.ctx (unitsOfGrp b g) (grpElems (getGrp b g)) (fun k j => .mem (ckptBuf e.id g + 2 ^ 22 * k + j)))) b

/-- Bytes written from virtual address `at_`. -/
def constSegs (at_ : Nat) (l : List Byte) : List Seg := l.mapIdx (fun i x => ⟨at_ + i, .const x⟩)

def dropEntryStreams (b : Block) (e : Nat) : Block := { b with streams := b.streams.filter (fun s => !decide (s.owner = .entry e)) }

/-- The last stream handed over feeds channel `n`, which its instruction holds: its bytes `[0, hi)` fold as they move (R272, R315). -/
def feedLast (b : Block) (n : Chk) (at_ hi : Nat) : Block :=
  modStream b b.lastDispatch (fun x => { x with feed := some ⟨n, 0, at_, 0, hi, 0, true⟩ })

/-- The area goes out and folds as it does: V of CH from 0, the prefix with CTX and GEN as 0, then every byte up to the trailer. -/
def ckptWrite (b : Block) (e : Entry) : Block :=
  let n := ckCh e.word.toNat
  let (b, bad) := eccRead b (hdrAddr (qhFirst (e.reads.getD 1 0#64))) (64 * qhCount (e.reads.getD 1 0#64)) false
  let (b, worse) := recEcc b (b.kiln.filter (fun r => decide (r.ctx = e.ctx)))
  if bad || worse then failEntry b e .sramUncorrectable (e.site 2)
  else
    let area := ckptArea b e
    let b := chkHold (chkSet (dropEntryStreams b e.id) n 0) n (.ckpt e.id) none (guardPrefix b n (ckArea e) 0 0 none)
    let b := feedLast (addStream (tickFree b) (.entry e.id) e.ctx e.gen true 0 4096 none (constSegs (ckArea e) area)) n (ckArea e) area.length
    modEntry b e.id (fun x => { x with phase := 4, aux := area.length })

/-- The trailer goes out after every other write of the area has completed. -/
def ckptTrailer (b : Block) (e : Entry) : Block :=
  let v := chkV b (ckCh e.word.toNat)
  let b := addStream (dropEntryStreams b e.id) (.entry e.id) e.ctx e.gen true 0 4096 none (constSegs (ckArea e + e.aux) (zeroPad 4096 (leBytes 8 v)))
  modEntry b e.id (fun x => { x with phase := 5 })

/-- The store streamer's work on a CKPT. -/
def ckptAdvance (b : Block) (e : Entry) : Block :=
  if frozenV b then b
  else if !e.started then (if canStart b e then ckptParks b e else b)
  else if !entryStreamsDone b e.id then b
  else match e.phase with
    | 2 => if e.left == 1 && (ckptResident b e.ctx).isEmpty then modEntry b e.id (fun x => { x with phase := 3 }) else b
    | 3 =>
      if !(ckptUnread b e).isEmpty then ckptReadBack b e
      else if (ctxGrps b e.ctx).any (fun g => (getGrp b g).merging.isSome) || !chkTurn b (ckCh e.word.toNat) e.ctx e.id then b
      else ckptWrite b e
    | 4 => ckptTrailer b e
    | 5 => completeEntry (modEntry (chkRelease (dropEntryStreams b e.id) (ckCh e.word.toNat)) e.id (fun x => { x with phase := 1 })) e.id
    | _ => b

/-! ### RESTORE (R338) -/

/-- A little-endian field of the area as read. -/
def areaNat (b : Block) (e : Entry) (off n : Nat) : Nat := leNat (sramBytes b (bufBase e.id + off) n)

def areaLen (b : Block) (e : Entry) : Nat := areaNat b e 8 8

/-- Reads bytes `[lo, hi)` of the area. -/
def areaRead (b : Block) (e : Entry) (lo hi : Nat) : Block :=
  addStream (dropEntryStreams b e.id) (.entry e.id) e.ctx e.gen false 0 4096 none (regionReads (ckArea e) (bufBase e.id) [(lo, hi - lo)])

/-- The load streamer takes the channel and reads the first page. -/
def restoreStart (b : Block) (e : Entry) : Block :=
  let b := modChk b (ckCh e.word.toNat) (fun x => { x with holder := .restore e.id })
  areaRead (modEntry b e.id (fun x => { x with started := true, phase := 2, aux := 0 })) e 0 4096

def mismatchArea (b : Block) (e : Entry) : Block :=
  let n := ckCh e.word.toNat
  failEntry (bumpFld (chkRelease (dropEntryStreams b e.id) n) (.chkCount n) 0 16 1) e .chkMismatch { e.site 1 with obj := some (2, n.val) }

/-- MAGIC, VERSION and NHDR of the header as read; then the rest of the area. -/
def restoreHeader (b : Block) (e : Entry) : Block :=
  let len := areaLen b e
  if areaNat b e 0 4 != 0x4B433250 || areaNat b e 4 4 != 1 || areaNat b e 0x14 4 != qhCount (e.reads.getD 1 0#64) then
    failEntry (chkRelease (dropEntryStreams b e.id) (ckCh e.word.toNat)) e .illegalInstr (e.site 1)
  else if len % 4096 != 0 || len < 8192 || 2 ^ 32 < len then mismatchArea b e
  else
    -- verification (step 2): V of CH from 0, the prefix, then every byte up to the trailer as it arrives
    let n := ckCh e.word.toNat
    let b := chkHold (chkSet b n 0) n (.restore e.id) none (guardPrefix b n (ckArea e) 0 0 none)
    let b := hwFold b n (sramBytes b (bufBase e.id) 4096)
    feedLast (areaRead (modEntry b e.id (fun x => { x with phase := 3 })) e 4096 len) n (ckArea e) (len - 8192)

/-- The comparison of step 2 (R338). -/
def restoreVerify (b : Block) (e : Entry) : Block :=
  let n := ckCh e.word.toNat
  let len := areaLen b e
  if chkV b n == areaNat b e (len - 4096) 8 then
    modEntry (chkRelease (dropEntryStreams b e.id) n) e.id (fun x => { x with phase := 4, aux := 0 })
  else mismatchArea b e

/-! Fields of the group records in the area. -/

def recAt (e : Entry) (g : Nat) : Nat := bufBase e.id + 8192 + 64 * g
def recNat (b : Block) (e : Entry) (g off n : Nat) : Nat := leNat (sramBytes b (recAt e g + off) n)
def recShape (b : Block) (e : Entry) (g : Nat) : Nat := bitsOf (recNat b e g 2 2) 8 7
def recKind (b : Block) (e : Entry) (g : Nat) : Nat := bitsOf (recNat b e g 2 2) 6 5
def recL (b : Block) (e : Entry) (g : Nat) : Nat := if bitAt (recNat b e g 1 1) 1 then 1 else 0
def recM (b : Block) (e : Entry) (g : Nat) : Nat := if bitAt (recNat b e g 1 1) 2 then 1 else 0
def recBuf (b : Block) (e : Entry) (g : Nat) : Nat := recNat b e g 28 4
def recElems (b : Block) (e : Entry) (g : Nat) : Nat := wallH (recShape b e g) * wallW (recShape b e g)

/-- Bytes of one tile of group `g` in the tile section. -/
def recTileSize (b : Block) (e : Entry) (g : Nat) : Nat := tileParts (recKind b e g) * up4 (8 * recElems b e g)

/-- Offset of the `k`-th tile of group `g`. -/
def recTileOff (b : Block) (e : Entry) (g k : Nat) : Nat :=
  areaNat b e 0x30 8 + (List.range g).foldl (fun a i => a + (recL b e i + recM b e i + recBuf b e i) * recTileSize b e i) 0 + k * recTileSize b e g

def recTile (b : Block) (e : Entry) (g k : Nat) : Cells × Cells :=
  let n := recElems b e g
  let at_ := bufBase e.id + recTileOff b e g k
  let ds := recKind b e g != 2
  (cellsOfBytes ds n (sramBytes b at_ (8 * n)), if recKind b e g == 1 then cellsOfBytes ds n (sramBytes b (at_ + up4 (8 * n)) (8 * n)) else [])

/-- Offset of the map of group `g`: 576 bytes for each group with NREMOTE before it. -/
def recMap (b : Block) (e : Entry) (g : Nat) : Nat :=
  bufBase e.id + areaNat b e 0x28 8 + 576 * ((List.range g).filter (fun i => 0 < recNat b e i 8 2)).length

def recArrived (b : Block) (e : Entry) (g : Nat) : List Nat :=
  if recNat b e g 8 2 == 0 then [] else (List.range 4096).filter (fun k => getBit1 b.sram (8 * recMap b e g + k))

def stateOfByte (n : Nat) : GrpState :=
  match n with
  | 1 => .open_ | 3 => .parked | 8 => .closed | 9 => .poisoned | _ => .free

/-- The group record goes in, under its own number and strand. -/
def installRecord (b : Block) (e : Entry) (g : Nat) : Block :=
  let m := recNat b e g 2 2
  let st := stateOfByte (recNat b e g 0 1)
  modGrp b (Fin.ofNat 64 g) (fun x => { GroupSt.reset with
    state := st, ctx := e.ctx, strand := Fin.ofNat 4 (bitsOf m 10 9), mode := bitsOf m 4 3, rnd := bitAt m 2, kind := bitsOf m 6 5
    shape := bitsOf m 8 7, leaf := bitsOf m 1 0, lapsed := bitAt (recNat b e g 1 1) 0, round := BitVec.ofNat 16 (recNat b e g 10 2)
    nremote := recNat b e g 8 2, expect := recNat b e g 4 4, localCnt := recNat b e g 12 4, tally := recNat b e g 16 4
    remoteCnt := recNat b e g 20 4, nadd := recNat b e g 24 4, seed := BitVec.ofNat 64 (recNat b e g 32 8), passes := recNat b e g 40 8
    nextRank := recNat b e g 48 2, arrived := recArrived b e g, mHas := recM b e g == 1, loc := if st = .open_ then .zero else .nowhere
    arr := x.arr, sag := x.sag })

inductive Inst where
  | ok (b : Block)
  | wait (b : Block)
  | full

/-- L is placed by R111: a slot, else the context's own region. -/
def installL (b : Block) (e : Entry) (g : Nat) : Inst :=
  let gg : Grp := Fin.ofNat 64 g
  if recL b e g == 0 then .ok b
  else
    let parts := tileParts (recKind b e g)
    let put := fun (b : Block) (l : List (Nat × Nat)) =>
      let (i, b) := addRec b gg .tile l
      let t := recTile b e g 0
      (i, modGrp (recFresh (modRec b i (fun r => { r with cells := t.1, cellsIm := t.2 })) i) gg (fun x => { x with loc := .kiln i }))
    match takeSlots b (recShape b e g) parts with
    | (b, .places l) => .ok (put b l).2
    | (b, .evicting) => .wait b
    | (b, .no) =>
      match freeUnits b e.ctx parts with
      | none => .full
      | some us =>
        let (i, b) := put b []
        match findRec b i with
        | some r => .ok (startSpill b r us 0)
        | none => .full

/-- The merge reserve, with M in its first part. -/
def installM (b : Block) (e : Entry) (g : Nat) : Inst :=
  let gg : Grp := Fin.ofNat 64 g
  if (getGrp b gg).nremote == 0 || decide ((getGrp b gg).state = .free) then .ok b
  else match takeReserve b gg with
    | (b, .places _) =>
      if recM b e g == 0 then .ok b
      else
        let t := recTile b e g (recL b e g)
        .ok (match (getGrp b gg).mRec with
          | some m => recFresh (modRec b m (fun r => { r with cells := t.1, cellsIm := t.2 })) m
          | none => b)
    | (b, .evicting) => .wait b
    | (_, .no) => .full

/-- Buffered arrival `k` of the group. -/
def installArrival (b : Block) (e : Entry) (g k : Nat) : Inst :=
  let gg : Grp := Fin.ofNat 64 g
  if recBuf b e g ≤ k then .ok b
  else
    let ent := recMap b e g + 512 + 8 * k
    let rank := leNat (sramBytes b ent 2)
    match takeSlots b (recShape b e g) (tileParts (recKind b e g)) with
    | (b, .places l) =>
      let (i, b) := addRec b gg (.arrival rank) l
      let t := recTile b e g (recL b e g + recM b e g + k)
      .ok (recFresh (modRec b i (fun r => { r with cells := t.1, cellsIm := t.2, lapsed := bitAt (leNat (sramBytes b (ent + 2) 1)) 0, nadd := leNat (sramBytes b (ent + 4) 4) })) i)
    | (b, .evicting) => .wait b
    | (_, .no) => .full

/-- One part of the installation of the groups: part 0 the record and L, 1 the reserve and M, 2 to 9 the buffered arrivals. -/
def installPart (b : Block) (e : Entry) (i : Nat) : Inst :=
  let g := i / 10
  if recNat b e g 0 1 == 0 then .ok b
  else match i % 10 with
    | 0 => (match installL (installRecord b e g) e g with
        | .wait c => .wait (modGrp c (Fin.ofNat 64 g) (fun x => { x with state := .free }))
        | r => r)
    | 1 => installM b e g
    | k => installArrival b e g (k - 2)

/-- Slots, pegs, channels and headers of the area (R338, step 3). -/
def installState (b : Block) (e : Entry) : Block :=
  let st := bufBase e.id + 4096
  let b := (allFin 4).foldl (fun b s => (allFin 32).foldl (fun b q => setSlot b e.ctx s q (sramWord b (st + 256 * s.val + 8 * q.val))) b) b
  let b := (allFin 256).foldl (fun b p =>
    if pegEn b p && decide (pegOwner b p = e.ctx) then
      setPeg b p ⟨BitVec.ofNat 16 (leNat (sramBytes b (st + 0x400 + 4 * p.val) 2)), BitVec.ofNat 16 (leNat (sramBytes b (st + 0x402 + 4 * p.val) 2))⟩
    else b) b
  let b := (allFin 4).foldl (fun b n =>
    if chkOwner b n = e.ctx then
      let at_ := st + 0x800 + 24 * n.val
      let b := setFld b (.chkCtl n) 0 1 (leNat (sramBytes b at_ 8) % 2)
      setRaw (chkSet b n (leNat (sramBytes b (at_ + 8) 8))) (.chkExpect n) (sramWord b (at_ + 16))
    else b) b
  let q := e.reads.getD 1 0#64
  (sramWrite b (hdrAddr (qhFirst q)) (sramBytes b (bufBase e.id + areaNat b e 0x20 8) (64 * qhCount q))).1

/-- The groups go in as far as slots are free; an eviction is waited for. -/
def restoreInstall (b : Block) (e : Entry) : Block :=
  let r := (List.range 640).foldl (fun (p : Block × Nat × Bool) i =>
    if p.2.2 || i < p.2.1 then p
    else match installPart p.1 e i with
      | .ok c => (c, i + 1, false)
      | .wait c => (c, i, true)
      | .full => (failEntry p.1 e .kilnFull { e.site 6 with grp := some (Fin.ofNat 64 (i / 10)) }, i, true)) (b, e.aux, false)
  let b := modEntry r.1 e.id (fun x => { x with aux := r.2.1 })
  if r.2.1 == 640 then modEntry (installState b e) e.id (fun x => { x with phase := 5 }) else b

/-- The load streamer's work on a RESTORE. -/
def restoreAdvance (b : Block) (e : Entry) : Block :=
  if frozenV b then b
  else if !e.started then
    (if canStart b e && chkTurn b (ckCh e.word.toNat) e.ctx e.id then restoreStart b e else b)
  else if !entryStreamsDone b e.id then b
  else match e.phase with
    | 2 => restoreHeader b e
    | 3 => restoreVerify b e
    | 4 => restoreInstall b e
    | 5 => if b.xfers.any (fun x => decide (x.ctx = e.ctx)) then b else completeEntry (modEntry b e.id (fun x => { x with phase := 1 })) e.id
    | _ => b

end Sys2Proof.Machine
end

