-- ==== Sys2Proof/Machine/Issue.lean ====
section
/-! DEFINITION. The issue stage (R19 to R24, R233 to R243, R251 to R273): fetch, static and state checks, readiness, the choice of a
strand, and dispatch. -/

namespace Sys2Proof.Machine

open Sys2Proof

/-! ### Words (R251 to R259) -/

/-- Instructions that are memory reads for a mark (R239). -/
def isMemRead (w : Nat) : Bool :=
  match wOpc w with
  | 0x10 | 0x12 | 0x40 | 0x59 => true
  | 0x14 => 2 ≤ bitsOf w 33 32
  | _ => false

def zeroAbove (w k : Nat) : Bool := w >>> k == 0

/-- Pairing of operand types (R41). -/
def pairOk (ta tb : Nat) : Bool :=
  (1 ≤ ta && ta ≤ 8 && 1 ≤ tb && tb ≤ 8) || (ta == tb && (ta == 0 || ta == 9 || ta == 0x0C || ta == 0x0D))

/-- Static checks of PASS and GANG (R57, R59, R69, R70): the ones that concern the bits of the word. -/
def passStatic (w : Nat) : Bool :=
  pK w != 0 && pEnd w != 3 && pAbft w != 3 && pairOk (pTA w) (pTB w) && (pGrpEn w || pEnd w == 1)
  && (if isGang w then bitsOf w 33 32 == 0 && zeroAbove w 115 && bitsOf w 46 43 == 0 && 2 ≤ popcount4 (pMask w)
        && (!pGrpEn w || pGroup w + popcount4 (pMask w) ≤ 64)
      else zeroAbove w 110)

/-- Static checks of GOPEN (R96, R97, R45, R53). -/
def gopenStatic (w : Nat) : Bool :=
  let mode := bitsOf w 86 85
  let kind := bitsOf w 88 87
  let rnd := bitAt w 84
  zeroAbove w 112 && mode != 3 && kind != 3 && bitsOf w 69 38 != 0 && bitsOf w 81 70 ≤ bitsOf w 69 38
  && !(kind == 1 && mode != 0) && !(mode == 2 && rnd) && !(kind == 2 && (rnd || mode != 0))

/-- The operand checks that concern only the word (R256); the map of opcodes is R259. Reserved operand bits are 0 (log 20). -/
def operandsOk (w : Nat) : Bool :=
  match wOpc w with
  | 0x00 | 0x07 | 0x0B => zeroAbove w 32
  | 0x01 => bitsOf w 63 50 == 0 && (bitsOf w 37 37 == 0 || bitsOf w 43 38 + bitsOf w 49 44 ≤ 63)
  | 0x02 => bitsOf w 63 48 == 0
  | 0x03 => zeroAbove w 57
  | 0x04 => zeroAbove w 55
  | 0x05 => zeroAbove w 54
  | 0x06 => zeroAbove w 48 && bitsOf w 47 32 != 0
  | 0x08 | 0x09 => zeroAbove w 56 && bitsOf w 55 40 != 0 && !wWen w && !wPen w
  | 0x0A => zeroAbove w 81
  | 0x10 => zeroAbove w 108 && bitsOf w 49 47 != 7
  | 0x11 => zeroAbove w 108 && bitsOf w 49 47 != 7 && bitsOf w 49 47 != 5
  | 0x12 => zeroAbove w 63
  | 0x13 => zeroAbove w 47
  | 0x14 => zeroAbove w 84 && (!(bitsOf w 33 32 == 0 || bitsOf w 33 32 == 3) || bitsOf w 41 34 ≤ 7) && (!bitAt w 47 || bitsOf w 33 32 ≤ 1)
  | 0x20 | 0x21 => passStatic w
  | 0x22 => zeroAbove w 36
  | 0x23 => zeroAbove w 34
  | 0x28 => gopenStatic w
  | 0x29 => zeroAbove w 38
  | 0x2A => zeroAbove w 44
  | 0x2B => zeroAbove w 46
  | 0x2C => zeroAbove w 56 && bitsOf w 37 32 != bitsOf w 43 38
  | 0x30 => zeroAbove w 56
  | 0x38 => zeroAbove w 124 && vopOp w ≤ 0x0F && typeValid (vopTD w) && typeValid (vopTA w) && typeValid (vopTB w)
  | 0x39 => zeroAbove w 72 && normKind w != 3 && typeValid (normType w)
  | 0x3A => zeroAbove w 58 && bitsOf w 33 32 != 3
  | 0x3B => zeroAbove w 95
  | 0x3C => zeroAbove w 53 && bitsOf w 33 32 == 0
  | 0x40 => zeroAbove w 116 && lTypeX w ≤ 5
  | 0x48 => zeroAbove w 104
  | 0x49 => zeroAbove w 102
  | 0x50 => zeroAbove w 40
  | 0x51 => zeroAbove w 45
  | 0x58 | 0x59 => zeroAbove w 44
  | _ => false

/-- The static checks of R256 pass: STRAND field, OPC, reserved bits, field values. -/
def staticOk (s : Strand) (w : Nat) : Bool := wStrand w == s.val && bitsOf w 15 14 == 0 && operandsOk w

/-! ### Fetch (R251, R253) -/

inductive Fetch where
  | word (w : BitVec 128)
  | fault (code : Code)
  deriving DecidableEq, Repr

/-- The instruction that strand `s` has fetched ahead at position `p`. -/
def ahead (b : Block) (c : Ctx) (s : Strand) (p : Nat) : Option (BitVec 128) :=
  (b.fetched.find? (fun q => q.1 == 4 * c.val + s.val && q.2.1 == p)).map (·.2.2)

/-- The instruction at position `p`: the one fetched ahead, or what the store holds. -/
def fetchAt (b : Block) (c : Ctx) (s : Strand) (p : Nat) : Fetch :=
  if decide (2 ^ 18 ≤ p) || !inWin b c 0 (16 * p) 16 then .fault .illegalInstr
  else match ahead b c s p with
    | some w => .word w
    | none =>
      if (eccRead b (cmdBase + 16 * p) 16 false).2 then .fault .sramUncorrectable
      else .word (BitVec.ofNat 128 (leNat (sramBytes b (cmdBase + 16 * p) 16)))

/-- The strand's next instruction. -/
def fetch (b : Block) (c : Ctx) (s : Strand) : Fetch := fetchAt b c s (getStrand b c s).pos

/-- The read of the store that the fetch at position `p` makes: none for an instruction fetched ahead. -/
def fetchMeets (b : Block) (c : Ctx) (s : Strand) (p : Nat) : Block :=
  if (ahead b c s p).isSome then b else (eccRead b (cmdBase + 16 * p) 16 false).1

/-- The instruction at position `p` is fetched, while those before it could be. -/
def fetchNext (x : Block × Bool) (c : Ctx) (s : Strand) (p : Nat) : Block × Bool :=
  if !x.2 || (ahead x.1 c s p).isSome then x
  else match fetchAt x.1 c s p with
    | .fault _ => (x.1, false)
    | .word w => ({ fetchMeets x.1 c s p with fetched := x.1.fetched ++ [(4 * c.val + s.val, p, w)] }, true)

/-- The issue stage fetches a strand's next 4 instructions and forgets the strand's others (R252, log 129). An instruction outside the window or
with an uncorrectable error ends the fetch; it is met when the strand reaches it. -/
def prefetch (b : Block) (c : Ctx) (s : Strand) : Block :=
  let k := 4 * c.val + s.val
  let p := (getStrand b c s).pos
  let b := { b with fetched := b.fetched.filter (fun q => q.1 != k || (decide (p ≤ q.2.1) && decide (q.2.1 < p + 4))) }
  ((List.range 4).foldl (fun (x : Block × Bool) i => fetchNext x c s (p + i)) (b, true)).1

/-- The instructions that a strand has fetched ahead are forgotten, where it starts or its context is reset. -/
def dropFetched (b : Block) (c : Ctx) (s : Strand) : Block := { b with fetched := b.fetched.filter (fun q => q.1 != 4 * c.val + s.val) }

/-! ### Slots, queues and tokens (R19 to R21, R258) -/

/-- Slots that an instruction reads or writes. -/
def opSlots (w : Nat) : List (Fin 32) :=
  match wOpc w with
  | 0x01 => [slotAt w 36 32]
  | 0x02 => [slotAt w 36 32, slotAt w 41 37] ++ (if bitAt w 47 then [slotAt w 46 42] else [])
  | 0x03 => if bitsOf w 51 50 == 0 then [] else [slotAt w 56 52]
  | 0x04 => [slotAt w 54 50]
  | 0x05 => [slotAt w 52 48]
  | 0x14 => slotAt w 46 42 :: (if bitsOf w 33 32 == 0 || bitsOf w 33 32 == 3 then [slotAt w 83 79] else [])
  | 0x20 | 0x21 => [slotAt w 102 98, slotAt w 107 103]
  | 0x28 => [slotAt w 95 91]
  | 0x2B => if bitAt w 40 then [slotAt w 45 41] else []
  | 0x30 => if bitAt w 50 then [] else [slotAt w 55 51]
  | 0x38 => [slotAt w 123 119]
  | 0x39 => [slotAt w 65 61, slotAt w 70 66]
  | 0x3A => [slotAt w 57 53]
  | 0x3B => [slotAt w 77 73]
  | 0x40 => [slotAt w 115 111]
  | 0x50 => [slotAt w 39 35]
  | 0x51 => slotAt w 38 34 :: (if bitAt w 39 then [slotAt w 44 40] else [])
  | 0x58 | 0x59 => [slotAt w 36 32, slotAt w 43 39]
  | _ => []

/-- Slot written at completion. -/
def opSlotOut (w : Nat) : Option (Fin 32) :=
  match wOpc w with
  | 0x39 => some (slotAt w 65 61)
  | 0x14 => if bitsOf w 33 32 == 3 then some (slotAt w 83 79) else none
  | 0x51 => if bitAt w 39 then some (slotAt w 44 40) else none
  | _ => none

/-- Peg of PWAIT and PPOST. -/
def wPeg (w : Nat) : Peg := Fin.ofNat 256 (bitsOf w 39 32)
def wPegN (w : Nat) : Nat := bitsOf w 55 40

/-- Queue of an instruction (R21). -/
def opUnit (b : Block) (c : Ctx) (s : Strand) (w : Nat) : EUnit :=
  match wOpc w with
  | 0x09 => (match pegRole b (wPeg w) c s with | some r => if postRemote b (wPeg w) r then .short else .issue | none => .issue)
  | 0x10 | 0x12 | 0x59 => .load
  | 0x11 | 0x13 | 0x58 => .store
  | 0x14 => .short
  | 0x20 | 0x21 | 0x22 | 0x23 | 0x30 => .array
  | 0x28 | 0x29 | 0x2A | 0x2B | 0x2C => .kiln
  | 0x38 | 0x39 | 0x3A | 0x3B | 0x3C => .vec
  | 0x40 => .line
  | 0x48 | 0x49 => .chain
  | 0x50 | 0x51 => .chk (chkIx w)
  | _ => .issue

/-- Array queues of an instruction. -/
def opArrays (w : Nat) : List Arr :=
  match wOpc w with
  | 0x20 | 0x21 => members w
  | 0x22 | 0x23 | 0x30 => [arrAt w 33 32]
  | _ => []

def queueRoom (b : Block) (u : EUnit) (ns : List Arr) : Bool :=
  match u with
  | .issue => true
  | .array => ns.all (fun n => decide ((waitingArr b n).length < 8))
  | u => decide ((waiting b u).length < u.cap)

def rng (lo n : Nat) (write : Bool) : List Token := if n == 0 then [] else [⟨.range lo (lo + n), write⟩]

/-- On-engine ranges of a chain of blocks, as the store holds it at dispatch. -/
def chainTokens (b : Block) (region pitch : Nat) (write : Bool) : Nat → List W64 → Nat → Nat → List Token
  | 0, _, _, _ => []
  | k + 1, ws, off, soff =>
    let d := parseDesc ws
    let p := pitchOf d pitch
    rng (regAddr b region off) (d.elemBytes p) write ++ rng (regAddr b region soff) (d.scaleBytes p) write
    ++ (if d.nextEn && !malformed (descWords b d.next) false then
          chainTokens b region pitch write k (descWords b d.next) (off + up64 (d.elemBytes p)) (soff + up64 (d.scaleBytes p)) else [])

/-- Array whose drain a GCLOSE uses (R104). -/
def closeDrain (b : Block) (w : Nat) : Arr :=
  match (getGrp b (kGrp w)).state, bankOf b (kGrp w) with
  | .resident, some (n, _, _) => n
  | _, _ => arrAt w 39 38

/-- Panels of a PASS or GANG on member `n` (R58, R69): array, offset, bytes, of A and B with their scale panels. -/
def panels (b : Block) (w : Nat) (qa qb : W64) (n : Arr) : List (Arr × Nat × Nat) :=
  let m := (getArr b n).wallNext
  let lead := (members w).headD n
  let one := fun (q : W64) (t e : Nat) (own : Bool) =>
    let a := if isGang w && !own then lead else n
    (a, refPanel q, panelBytes t (pK w) e) :: (if typeIsMX t then [(a, refScale q, scalePanelBytes t (pK w) e (refBkdir q))] else [])
  one qa (pTA w) (wallH m) (pOrient w) ++ one qb (pTB w) (wallW m) (!pOrient w)

/-- Tokens of the drain program a tile binds to. -/
def boundTokens (b : Block) (n : Arr) (c : Ctx) (close : Bool) : List Token :=
  match latestProg b n c close with
  | some l => progTokens b n l.words close (if close then none else some l.walks)
      ++ (if gpDest l.words == 0 then [⟨.wheel (gpWheel l.words), false⟩] else [])
  | none => []

/-- Whether a chain of blocks from descriptor words `ws` has a block that turns. -/
def chainTurns (b : Block) (region : Nat) : Nat → List W64 → Bool
  | 0, _ => false
  | k + 1, ws =>
    let d := parseDesc ws
    blockTurns d region || (d.nextEn && !malformed (descWords b d.next) false && chainTurns b region k (descWords b d.next))

/-- Tokens of the wheel that a LOAD, STORE or COPY uses (R20, log 125): transfers and drains share a wheel, which takes them in turn (R407); a
COPY whose footprints overlap keeps its whole image in the wheel (R214), and has it alone. -/
def wheelTokens (b : Block) (w : Nat) : List Token :=
  match wOpc w with
  | 0x10 | 0x11 =>
    if chainTurns b (bitsOf w 49 47) 4097 (descWords b (bitsOf w 46 32)) then [⟨.wheel (wheelOf w), false⟩] else []
  | 0x12 => [⟨.wheel (wheelOf w), copyShares (parseDesc (descWords b (bitsOf w 46 32))) (parseDesc (descWords b (bitsOf w 61 47)))⟩]
  | _ => []

/-- Vectors of a VOP: offset, bytes, written. -/
def vopRanges (w : Nat) (q : W64) : List (Nat × Nat × Bool) :=
  let len := bitsOf q.toNat 56 32
  (64 * vopD w, vecBytes (vopTD w) len, true)
    :: (if vopUsesA (vopOp w) then [(64 * vopA w, vecBytes (vopTA w) len, false)] else [])
    ++ (if vopUsesB (vopOp w) then [(64 * vopB w, vecBytes (vopTB w) len, false)] else [])

/-- Scoreboard tokens of an instruction (R20), from its word and the slots as they stand. -/
def opTokens (b : Block) (c : Ctx) (s : Strand) (w : Nat) : List Token :=
  let q := fun (hi lo : Nat) => getSlot b c s (slotAt w hi lo)
  match wOpc w with
  | 0x10 | 0x11 =>
    chainTokens b (bitsOf w 49 47) (bitsOf w 86 70) (wOpc w == 0x10) 4097 (descWords b (bitsOf w 46 32)) (64 * bitsOf w 69 50) (64 * bitsOf w 106 87)
      ++ wheelTokens b w
  | 0x12 => wheelTokens b w
  | 0x14 => if bitsOf w 33 32 == 1 || bitsOf w 33 32 == 2 then rng (vecAddr (bitsOf w 78 60)) (bitsOf w 41 34 + 1) (bitsOf w 33 32 == 2) else []
  | 0x20 | 0x21 =>
    (members w).flatMap (fun n =>
      (panels b w (q 102 98) (q 107 103) n).flatMap (fun r => rng (feederAddr b r.1 r.2.1) r.2.2 false)
      ++ (match memberGrp w (memberIx w n) with | some g => [⟨.group g, true⟩] | none => [])
      ++ (if pEnd w == 1 then boundTokens b n c false else []))
  | 0x23 => [⟨.range (stagBase (arrAt w 33 32)) (stagBase (arrAt w 33 32) + 0x4000000), true⟩]
  | 0x28 | 0x29 | 0x2A | 0x2C => [⟨.group (kGrp w), true⟩]
  | 0x2B => ⟨.group (kGrp w), true⟩ :: (if bitAt w 40 then [] else boundTokens b (closeDrain b w) c true)
  | 0x38 => (vopRanges w (q 123 119)).flatMap (fun r => rng (vecBase + r.1) r.2.1 r.2.2)
  | 0x39 => rng (vecAddr (normSrc w)) (vecBytes (normType w) (bitsOf (q 70 66).toNat 24 0)) false
  | 0x3A | 0x3C => rng (hdrAddr (rcHdr w)) 64 true
  | 0x3B =>
    let x := getGrp b (uGrp w)
    rng (hdrAddr (uHdr w)) 64 true ++ [⟨.group (uGrp w), true⟩]
      ++ (if x.state = .closed then rng (gradAddr x) (4 * wallH x.shape * wallW x.shape) false else [])
  | 0x40 =>
    let d := parseDesc (descWords b (lWdesc w))
    (lineRanges w (q 115 111).toNat (d.extAt 0) (d.extAt 1)).flatMap (fun r => rng (vecBase + r.1) r.2 false)
  | 0x48 => rng (chnBase + csOff w) (imageBytes (parseDesc (descWords b (csDesc w)))) (csFetch w)
  | 0x49 => rng (loadAddr b (crArr w) (crOff w)) (imageBytes (parseDesc (descWords b (bitsOf w 46 32)))) true
  | _ => []

/-- Tokens held by the context's sequencer jobs (R166). -/
def jobBlocked (b : Block) (c : Ctx) (ts : List Token) : Bool :=
  b.jobs.any (fun j => decide (j.ctx = c) && (jobTokens b j).any (fun o => ts.any (fun t => o.overlap t.obj)))

/-! ### Readiness (R19, R233, R236, R239, R240, R243, R273) -/

def ctxEntries (b : Block) (c : Ctx) : List Entry := b.entries.filter (fun e => decide (e.ctx = c))
def strandEntries (b : Block) (c : Ctx) (s : Strand) : List Entry := b.entries.filter (fun e => decide (e.ctx = c ∧ e.strand = s))

/-- The wait of R236: a peg that the strand may not wait on does not hold it, it is refused. -/
def pegReady (b : Block) (c : Ctx) (s : Strand) (p : Peg) (n : Nat) : Bool :=
  match pegRole b p c s with
  | some r => decide (n ≤ pegCount b p r)
  | none => true

/-- Pegs and counts an instruction takes at dispatch. -/
def opWaits (w : Nat) : List (Peg × Nat) :=
  if wOpc w == 0x08 then [(wPeg w, wPegN w)] else if wWen w then [(wWpeg w, 1)] else []

def slotsHeld (b : Block) (c : Ctx) (s : Strand) (w : Nat) : Bool :=
  (strandEntries b c s).any (fun e =>
    (match e.slotOut with | some q => (opSlots w).contains q | none => false)
    || (wOpc e.word.toNat == 0x59 && !(opSlots w).isEmpty))

/-- A mark of the strand is uncompleted (R239). -/
def markPending (b : Block) (c : Ctx) (s : Strand) : Bool := (strandEntries b c s).any (·.mark)

/-- The completions that MARK, FENCE, CKPT and RESTORE wait for have happened, and no CKPT or RESTORE of another strand is outstanding. -/
def fenceReady (b : Block) (c : Ctx) (s : Strand) (w : Nat) : Bool :=
  (ctxEntries b c).all (fun e => !(let o := wOpc e.word.toNat; (o == 0x58 || o == 0x59) && decide (e.strand ≠ s)))
  && (match wOpc w with
    | 0x0A => (strandEntries b c s).isEmpty
    | 0x0B => (ctxEntries b c).isEmpty && (getCtx b c).unacked == 0
    | 0x58 | 0x59 => (ctxEntries b c).isEmpty && b.jobs.all (fun j => decide (j.ctx ≠ c))
    | _ => true)

/-- What holds the strand's next instruction: state code of R233, 1 for none. -/
def wordStatus (b : Block) (c : Ctx) (s : Strand) (w : Nat) : Nat :=
  if !(opWaits w).all (fun p => pegReady b c s p.1 p.2) then 2
  else if tokenBlocked b c (opTokens b c s w) || jobBlocked b c (opTokens b c s w) || slotsHeld b c s w then 3
  else if !queueRoom b (opUnit b c s w) (opArrays w) then 4
  else if isMemRead w && markPending b c s then 5
  else if !fenceReady b c s w then 6
  else 1

/-- The strand may fetch: started, not halted, not yielded, its context RUNNING (R231, R233). -/
def strandLive (b : Block) (c : Ctx) (s : Strand) : Bool :=
  let x := getStrand b c s
  decide ((getCtx b c).state = .running) && x.started && !x.halted && !x.yielded

/-- SCH_STRAND_Cc_Sn.STATE (R233): the first cause in the order of its table that keeps the strand from dispatching; a strand whose HALT has
executed has no next instruction, so no wait applies to it (log 26). -/
def strandStatus (b : Block) (c : Ctx) (s : Strand) : Nat :=
  let x := getStrand b c s
  if !x.started then 0
  else if x.halted then 8
  else
    let k := match fetch b c s with
      | .fault _ => 1
      | .word w => if staticOk s w.toNat then wordStatus b c s w.toNat else 1
    if k != 1 then k
    else if x.yielded then 7
    else if decide ((getCtx b c).state ≠ .running) then 8
    else 1

/-- A strand whose next instruction can dispatch, or meets its state checks now. -/
def strandReady (b : Block) (k : Nat) : Bool :=
  let c : Ctx := Fin.ofNat 16 (k / 4)
  let s : Strand := Fin.ofNat 4 (k % 4)
  strandLive b c s && (match fetch b c s with
    | .fault _ => false
    | .word w => staticOk s w.toNat && wordStatus b c s w.toNat == 1)

/-- The strand that the issue stage takes (R234): the first that is READY after the one that last dispatched. -/
def pick (b : Block) : Option Nat := ((List.range 64).map (fun i => (b.rot + 1 + i) % 64)).find? (strandReady b)

/-! ### State checks (R256) -/

/-- Why an instruction is refused, and what its record names. -/
structure Bad where
  code : Code
  grp : Option Grp
  peer : Option Nat
  deriving DecidableEq, Repr

def badIf (p : Bool) (c : Code) : List Bad := if p then [⟨c, none, none⟩] else []
def grpIf (p : Bool) (g : Grp) : List Bad := if p then [⟨.groupState, some g, none⟩] else []
def peerBad (b : Block) (c : Ctx) (i : Nat) : List Bad :=
  match peerCheck b c i with
  | some code => [⟨code, none, some i⟩]
  | none => []

/-- A descriptor that an instruction names (R201, R202, R291, R306, R400); `fed`: its CHKEN feeds a channel. -/
def descBad (b : Block) (c : Ctx) (i : Nat) (asRead fed : Bool) : List Bad :=
  let ws := descWords b i
  let d := parseDesc ws
  badIf (!inWin b c 0 (128 * i) 128 || malformed ws asRead) .illegalInstr
  ++ badIf (fed && d.chkEn && decide (chkOwner b d.chkCh ≠ c)) .illegalInstr
  ++ (if d.peerEn && !asRead then peerBad b c d.peer else [])

/-- An array that an instruction names: disabled, retired, or reserved by fixed mode (R3, R247). -/
def arrBad (b : Block) (c : Ctx) (s : Strand) (n : Arr) : List Bad := badIf (!usable b n || !fixedOk b n c s) .illegalInstr

/-- Only the strand that opened a group names it (R24). -/
def notOwner (b : Block) (c : Ctx) (s : Strand) (g : Grp) : Bool :=
  let x := getGrp b g
  x.state = .free || decide (x.ctx ≠ c) || decide (x.strand ≠ s)

/-- Segments that a pass of `k` rows adds to a group (R89). -/
def passSegments (x : GroupSt) (k : Nat) : Nat :=
  if x.mode == 2 then 1
  else
    let l := if x.kind == 2 then 2048 else 8 * leafLen x.leaf
    (k + l - 1) / l

/-- Operand type of a pass into a group (R59, R53). -/
def kindOk (x : GroupSt) (t : Nat) : Bool :=
  match x.kind with
  | 0 => if x.mode == 2 then 1 ≤ t && t ≤ 4 else t ≤ 8
  | 1 => t == 0x0C || t == 0x0D
  | _ => t == 9

/-- State checks of PASS and GANG (R24, R59, R70, R99, R106, R142). -/
def passBad (b : Block) (c : Ctx) (s : Strand) (w : Nat) : List Bad :=
  let qa := getSlot b c s (slotAt w 102 98)
  let qb := getSlot b c s (slotAt w 107 103)
  let ref := fun (q : W64) => bitsOf q.toNat 31 26 != 0 || bitsOf q.toNat 62 52 != 0 || refPanel q % 64 != 0
  (members w).flatMap (fun n =>
    match memberGrp w (memberIx w n) with
    | some g =>
      let x := getGrp b g
      grpIf (notOwner b c s g || !(x.state = .open_ ∨ x.state = .resident) || x.shape != (getArr b n).wallNext
        || decide (x.expect - x.nremote < x.tally + passSegments x (pK w))) g
    | none => [])
  ++ (members w).flatMap (fun n =>
    let m := (getArr b n).wallNext
    badIf (isGang w && m != 0) .illegalInstr
    ++ badIf (decide (wallCount m ≤ (pSag w).val) || decide (wallH m < pM w) || decide (wallW m < pN w)) .illegalInstr
    ++ arrBad b c s n ++ badIf (isGang w && fixedEn b n) .illegalInstr
    ++ (match memberGrp w (memberIx w n) with
        | some g => badIf (!kindOk (getGrp b g) (pTA w) || !kindOk (getGrp b g) (pTB w)) .illegalInstr
        | none => [])
    ++ badIf (pEnd w == 1 && (latestProg b n c false).isNone) .illegalInstr
    ++ badIf ((panels b w qa qb n).any (fun r => decide (stagSpan b r.1 < r.2.1 + r.2.2) || !inWin b c (r.1.val + 1) r.2.1 r.2.2)) .illegalInstr)
  ++ badIf (ref qa || ref qb) .illegalInstr

/-- State checks of GCLOSE (R24, R99, R104, R142). -/
def gcloseBad (b : Block) (c : Ctx) (s : Strand) (w : Nat) : List Bad :=
  let g := kGrp w
  let x := getGrp b g
  let n := closeDrain b w
  grpIf (notOwner b c s g || !(x.state = .open_ ∨ x.state = .resident ∨ x.state = .parked ∨ x.state = .spilled)
    || x.tally != x.expect - x.nremote) g
  ++ arrBad b c s n
  ++ (if bitAt w 40 then peerBad b c (bitsOf (getSlot b c s (slotAt w 45 41)).toNat 11 0)
      else badIf (latestProg b n c true).isNone .illegalInstr)

/-- State checks of GMERGE (R24, R99, R105). -/
def gmergeBad (b : Block) (c : Ctx) (s : Strand) (w : Nat) : List Bad :=
  let g := kGrp w
  let d : Grp := Fin.ofNat 64 (bitsOf w 43 38)
  let x := getGrp b g
  grpIf (notOwner b c s g || !(x.state = .open_ ∨ x.state = .resident ∨ x.state = .parked ∨ x.state = .spilled)
    || x.tally != x.expect - x.nremote) g
  ++ grpIf (notOwner b c s d) d

/-- State checks of LINE (R193, R194; the output descriptor's TYPE is not among them, log 130). -/
def lineBad (b : Block) (c : Ctx) (s : Strand) (w : Nat) : List Bad :=
  let q := (getSlot b c s (slotAt w 115 111)).toNat
  let d := parseDesc (descWords b (lWdesc w))
  let o := parseDesc (descWords b (lOdesc w))
  let n := d.extAt 0
  let k := d.extAt 1
  descBad b c (lWdesc w) true true ++ descBad b c (lOdesc w) false true
  ++ badIf (!(1 ≤ d.typ && d.typ ≤ 8) || !typeGlaze (epOtype q) || epOtype q == 0x0B || epScale q == 3 || bitAt q 63
      || decide (1048576 < k) || decide (1048576 < n) || d.ndim != 2 || d.permAt 0 != 0 || d.permAt 1 != 1
      || o.extAt 0 != n || o.extAt 1 != lV w
      || (lineRanges w q n k).any (fun r => decide (regionSize 7 < r.1 + r.2) || !inWin b c 5 r.1 r.2)) .illegalInstr

/-- State checks of CHSEND and CHRECV (R268, R278, R279, R282). -/
def chainBad (b : Block) (c : Ctx) (s : Strand) (w : Nat) : List Bad :=
  let i := bitsOf w 46 32
  let d := parseDesc (descWords b i)
  badIf (!chnTake b || decide (chnCtx b ≠ c)) .illegalInstr
  ++ badIf (!inWin b c 0 (128 * i) 128 || malformed (descWords b i) false || d.peerEn || d.permAt 0 != 0 || d.nextEn
      || decide (1024 < imageFrames d)) .illegalInstr
  ++ (if wOpc w == 0x48 then
        badIf (csHops w == 0 || decide (regionSize 8 < csOff w + imageBytes d) || !inWin b c 6 (csOff w) (imageBytes d)
          || decide (csOff w < 4096 * (chnIntake b + chnKeep b))) .illegalInstr
      else arrBad b c s (crArr w)
        ++ badIf (decide (stagSpan b (crArr w) < crOff w + imageBytes d) || !inWin b c ((crArr w).val + 1) (crOff w) (imageBytes d)) .illegalInstr)

/-- State checks of CKPT and RESTORE (R272, R273, R306, R335). -/
def ckptBad (b : Block) (c : Ctx) (s : Strand) (w : Nat) : List Bad :=
  let qa := getSlot b c s (slotAt w 36 32)
  let qh := getSlot b c s (slotAt w 43 39)
  (if wOpc w == 0x59 then grpIf ((allFin 64).any (fun g => decide ((getGrp b g).ctx = c) && decide ((getGrp b g).state ≠ .free)))
      (((allFin 64).find? (fun g => decide ((getGrp b g).ctx = c) && decide ((getGrp b g).state ≠ .free))).getD 0) else [])
  ++ badIf (decide (chkOwner b (ckCh w) ≠ c) || bitsOf qa.toNat 11 0 != 0
      || decide (regionSize 7 < 64 * (qhFirst qh + qhCount qh)) || !inWin b c 5 (64 * qhFirst qh) (64 * qhCount qh)) .illegalInstr
  ++ badIf (wOpc w == 0x58 && (List.range (qhCount qh)).any (fun i => hPhase b (qhFirst qh + i) != 0)) .groupState

/-- A LOAD or STORE's first block (R212, R282). -/
def transferBad (b : Block) (c : Ctx) (s : Strand) (w : Nat) : List Bad :=
  let load := wOpc w == 0x10
  let i := bitsOf w 46 32
  let d := parseDesc (descWords b i)
  let r := bitsOf w 49 47
  (if r < 4 then arrBad b c s (Fin.ofNat 4 r) else [])
  ++ descBad b c i load true
  ++ badIf (!blockOk b c d r (64 * bitsOf w 69 50) (64 * bitsOf w 106 87) (bitsOf w 86 70)) .illegalInstr
  ++ badIf (load && r == 5 && !(chnSendArea b (64 * bitsOf w 69 50) (d.elemBytes (pitchOf d (bitsOf w 86 70)))
      && (!d.isMX || chnSendArea b (64 * bitsOf w 106 87) (d.scaleBytes (pitchOf d (bitsOf w 86 70)))))) .illegalInstr

/-- COPY's two blocks (R213). -/
def copyBad (b : Block) (c : Ctx) (w : Nat) : List Bad :=
  let x := parseDesc (descWords b (bitsOf w 46 32))
  let y := parseDesc (descWords b (bitsOf w 61 47))
  descBad b c (bitsOf w 46 32) true true ++ descBad b c (bitsOf w 61 47) false true
  ++ badIf (x.typ != y.typ || (List.range 5).any (fun k => x.c k != y.c k) || (x.isMX && x.place 0 != y.place 0)) .illegalInstr

/-- SHORT lies in one 256-byte unit and in the vector store's window (R224). -/
def shortBad (b : Block) (c : Ctx) (s : Strand) (w : Nat) : List Bad :=
  let va := bitsOf (getSlot b c s (slotAt w 46 42)).toNat 48 0
  let n := bitsOf w 41 34 + 1
  badIf (decide (256 < va % 256 + n)) .illegalInstr
  ++ (if bitsOf w 33 32 == 1 || bitsOf w 33 32 == 2 then
        badIf (decide (regionSize 7 < 64 * bitsOf w 78 60 + n) || !inWin b c 5 (64 * bitsOf w 78 60) n) .illegalInstr else [])
  ++ (if bitAt w 47 then peerBad b c (bitsOf w 59 48) else [])

/-- A strand that may act on the pegs it names (R236). -/
def pegsBad (b : Block) (c : Ctx) (s : Strand) (w : Nat) : List Bad :=
  let no := fun (p : Peg) => (pegRole b p c s).isNone
  let far := fun (p : Peg) => match pegRole b p c s with
    | some r => if postRemote b p r then peerBad b c (pegPeer b p) else []
    | none => []
  badIf ((opWaits w).any (fun p => no p.1)) .illegalInstr
  ++ (if wOpc w == 0x09 then badIf (no (wPeg w)) .illegalInstr ++ far (wPeg w) else [])
  ++ (if wPen w then badIf (no (wPpeg w)) .illegalInstr ++ far (wPpeg w) else [])

/-- A rule header's 64 bytes lie in the vector-store window. -/
def hdrBad (b : Block) (c : Ctx) (h : Nat) : List Bad :=
  badIf (decide (regionSize 7 < 64 * h + 64) || !inWin b c 5 (64 * h) 64) .illegalInstr

def vecRangesBad (b : Block) (c : Ctx) (l : List (Nat × Nat)) : List Bad :=
  badIf (l.any (fun r => decide (regionSize 7 < r.1 + r.2) || !inWin b c 5 r.1 r.2)) .illegalInstr

/-- The state checks of an instruction in order (log 21); the first that fails decides. -/
def opBad (b : Block) (c : Ctx) (s : Strand) (w : Nat) : List Bad :=
  let q := fun (hi lo : Nat) => getSlot b c s (slotAt w hi lo)
  pegsBad b c s w ++
  match wOpc w with
  | 0x10 | 0x11 => transferBad b c s w
  | 0x12 => copyBad b c w
  | 0x13 => descBad b c (bitsOf w 46 32) false true
  | 0x14 => shortBad b c s w
  | 0x20 | 0x21 => passBad b c s w
  | 0x22 => arrBad b c s (arrAt w 33 32)
  | 0x23 => arrBad b c s (arrAt w 33 32) ++ badIf (!fixedEn b (arrAt w 33 32)) .illegalInstr
  | 0x28 => grpIf (!((getGrp b (kGrp w)).state = .free ∨ (getGrp b (kGrp w)).state = .closed)) (kGrp w)
  | 0x29 => grpIf (notOwner b c s (kGrp w)) (kGrp w)
  | 0x2A => grpIf (notOwner b c s (kGrp w)) (kGrp w)
      ++ badIf (decide (wallCount (getArr b (arrAt w 39 38)).wallNext ≤ bitsOf w 43 40)) .illegalInstr ++ arrBad b c s (arrAt w 39 38)
  | 0x2B => gcloseBad b c s w
  | 0x2C => gmergeBad b c s w
  | 0x30 =>
    let p := progImage b (64 * bitsOf w 49 34)
    let n := arrAt w 33 32
    arrBad b c s n ++ badIf (!inWin b c 0 (64 * bitsOf w 49 34) 64) .illegalInstr ++ badIf (progBad b c n p (bitAt w 50)) .illegalInstr
      ++ badIf (gpDest p == 0 && (!inWin b c 0 (128 * gpOut p) 128 || (gpSecond p && !inWin b c 0 (128 * gpOut2 p) 128))) .illegalInstr
      ++ (progPeers p).flatMap (peerBad b c)
  | 0x38 => badIf (bitsOf (q 123 119).toNat 56 32 == 0) .illegalInstr
      ++ vecRangesBad b c ((vopRanges w (q 123 119)).map (fun r => (r.1, r.2.1)))
  | 0x39 => vecRangesBad b c [(64 * normSrc w, vecBytes (normType w) (bitsOf (q 70 66).toNat 24 0))]
  | 0x3A | 0x3C => hdrBad b c (rcHdr w)
  | 0x3B => hdrBad b c (uHdr w) ++ (if uWen w then descBad b c (uWdesc w) false true else [])
  | 0x40 => lineBad b c s w
  | 0x48 | 0x49 => chainBad b c s w
  | 0x50 | 0x51 => badIf (decide (chkOwner b (chkIx w) ≠ c)) .illegalInstr
  | 0x58 | 0x59 => ckptBad b c s w
  | _ => []

/-! ### Refusal and dispatch -/

def wordSite (b : Block) (c : Ctx) (s : Strand) (w : Nat) : Site :=
  { ctx := some c, gen := (getCtx b c).gen, strand := some s, pos := some ((getStrand b c s).pos, wOpc w), unit := 0 }

/-- A refused instruction is not dispatched; its context halts (R255, R256). -/
def refuse (b : Block) (c : Ctx) (s : Strand) (w : Nat) (x : Bad) : Block :=
  raise b x.code { wordSite b c s w with grp := x.grp, obj := x.peer.map (fun p => (4, p)) }

/-- Ranges of the command store that dispatch reads besides the word (R203, R139). -/
def storeReads (b : Block) (w : Nat) : List (Nat × Nat) :=
  let d := fun (i : Nat) => (128 * i, 128)
  match wOpc w with
  | 0x10 | 0x11 | 0x13 | 0x48 | 0x49 => [d (bitsOf w 46 32)]
  | 0x12 | 0x40 => [d (bitsOf w 46 32), d (bitsOf w 61 47)]
  | 0x3B => if uWen w then [d (uWdesc w)] else []
  | 0x30 =>
    let p := progImage b (64 * bitsOf w 49 34)
    (64 * bitsOf w 49 34, 64) :: (if gpDest p == 0 then d (gpOut p) :: (if gpSecond p then [d (gpOut2 p)] else []) else [])
  | _ => []

/-- Reads of the command store meet ECC. -/
def storeRead (b : Block) (l : List (Nat × Nat)) : Block × Bool :=
  l.foldl (fun (p : Block × Bool) r => let (b, x) := eccRead p.1 (cmdBase + r.1) r.2 false; (b, p.2 || x)) (b, false)

/-- The counts that dispatch takes (R236, R254). -/
def takeWaits (b : Block) (c : Ctx) (s : Strand) (w : Nat) : Block :=
  (opWaits w).foldl (fun b p => match pegRole b p.1 c s with | some r => pegTake b p.1 r p.2 | none => b) b

/-- A blank queue entry for the word at the strand's position. -/
def mkEntry (b : Block) (c : Ctx) (s : Strand) (id : Nat) (w : BitVec 128) : Entry :=
  { id := id, ctx := c, gen := (getCtx b c).gen, strand := s, pos := (getStrand b c s).pos, word := w, eunit := opUnit b c s w.toNat
    arrays := opArrays w.toNat, started := false, mark := wMark w.toNat, tokens := opTokens b c s w.toNat, reads := [], descs := [], prog := []
    progNo := 0, seed := 0#64, walk := 0, slotOut := opSlotOut w.toNat, phase := 0, aux := 0, left := 0 }

/-- A stream that has not opened its first block. -/
def bareStream (b : Block) (e : Entry) (write : Bool) (idx quota : Nat) (peer : Option Nat) (segs : List Seg) : Block :=
  let (i, b) := fresh b
  { b with streams := b.streams ++ [Stream.plain i (.entry e.id) e.ctx e.gen write idx segs quota peer] }

def addEntry (b : Block) (e : Entry) : Block := { b with entries := b.entries ++ [e] }

/-- LOAD, STORE, FILL and COPY enter their queue with their descriptors (R203). -/
def dispatchTransfer (b : Block) (e : Entry) : Block :=
  let w := e.word.toNat
  let i := bitsOf w 46 32
  let j := bitsOf w 61 47
  let q := fun (k : Nat) => (parseDesc (descWords b k)).tagq + 1
  if wOpc w == 0x12 then
    bareStream (bareStream (addEntry b { e with descs := [descWords b i, descWords b j] }) e false i (q i) none []) e true j (q j) none []
  else bareStream (addEntry b { e with descs := [descWords b i] }) e (wOpc w != 0x10) i (q i) none []

/-- SHORT's bytes (R224). -/
def dispatchShort (b : Block) (e : Entry) : Block :=
  let w := e.word.toNat
  let va := bitsOf (getSlot b e.ctx e.strand (slotAt w 46 42)).toNat 48 0
  let n := bitsOf w 41 34 + 1
  let src := getSlot b e.ctx e.strand (slotAt w 83 79)
  let ref := fun (i : Nat) => match bitsOf w 33 32 with
    | 0 => ByteRef.const ((leBytes 8 src.toNat).getD i 0)
    | 3 => .mem (bufBase e.id + i)
    | _ => .mem (vecAddr (bitsOf w 78 60) + i)
  bareStream (addEntry b e) e (bitsOf w 33 32 ≤ 1) 0 64 (if bitAt w 47 then some (bitsOf w 59 48) else none)
    ((List.range n).map (fun i => ⟨va + i, ref i⟩))

/-- PASS and GANG take their pass numbers, tallies, programs and walk indices (R48, R99, R142). -/
def dispatchPass (b : Block) (e : Entry) : Block :=
  let w := e.word.toNat
  let ms := members w
  let prog := fun (b : Block) (n : Arr) => if pEnd w == 1 then latestProg b n e.ctx false else none
  let num := fun (n : Arr) => match memberGrp w (memberIx w n) with | some g => (getGrp b g).passes | none => 0
  let reads := ms.flatMap (fun n => match prog b n with
    | some l => [BitVec.ofNat 64 (num n), BitVec.ofNat 64 l.prog, l.seed, BitVec.ofNat 64 l.walks]
    | none => [BitVec.ofNat 64 (num n), 0#64, 0#64, 0#64])
  let e := { e with
    reads := [getSlot b e.ctx e.strand (slotAt w 102 98), getSlot b e.ctx e.strand (slotAt w 107 103)] ++ reads
    descs := ms.map (fun n => match prog b n with | some l => l.words | none => [])
    progNo := if isGang w then 0 else (match prog b (pArr w) with | some l => l.prog | none => 0) }
  let b := ms.foldl (fun b n =>
    let b := match memberGrp w (memberIx w n) with
      | some g => modGrp b g (fun x => { x with tally := x.tally + passSegments x (pK w), passes := x.passes + 1 })
      | none => b
    if pEnd w == 1 then
      modArr b n (fun a => { a with latest := a.latest.map (fun (l : ProgLatest) => if decide (l.ctx = e.ctx) && !l.close then { l with walks := l.walks + 1 } else l) })
    else b) b
  addEntry b e

/-- GLZCFG becomes its context's latest program of its kind on the array (R141, R142). -/
def dispatchGlzcfg (b : Block) (e : Entry) : Block :=
  let w := e.word.toNat
  let n := arrAt w 33 32
  let p := progImage b (64 * bitsOf w 49 34)
  let close := bitAt w 50
  let seed := if close then 0#64 else getSlot b e.ctx e.strand (slotAt w 55 51)
  let b := modArr b n (fun a => { a with
    latest := a.latest.filter (fun (l : ProgLatest) => !(decide (l.ctx = e.ctx) && l.close == close)) ++ [⟨e.ctx, close, e.id, p, seed, 0, false⟩] })
  addEntry b { e with prog := p, progNo := e.id, seed := seed }

/-- GCLOSE binds its program and array (R104, R142) and, like GMERGE, waits in its group's record while contributions are short (R103). -/
def dispatchClose (b : Block) (e : Entry) : Block :=
  let w := e.word.toNat
  let n := closeDrain b w
  let e := if wOpc w != 0x2B then { e with left := 1 }
    else if bitAt w 40 then { e with left := 1, aux := n.val, reads := [getSlot b e.ctx e.strand (slotAt w 45 41)] }
    else match latestProg b n e.ctx true with
      | some l => { e with left := 1, aux := n.val, prog := l.words, progNo := l.prog, seed := l.seed, descs := [l.words] }
      | none => { e with left := 1, aux := n.val }
  closeDispatched (addEntry b e) e

/-- The instruction enters its unit's queue (R21), with the slots it names read now (R258). -/
def dispatchUnit (b : Block) (e : Entry) : Block :=
  let w := e.word.toNat
  let q := fun (hi lo : Nat) => getSlot b e.ctx e.strand (slotAt w hi lo)
  match wOpc w with
  | 0x10 | 0x11 | 0x12 | 0x13 => dispatchTransfer b e
  | 0x14 => dispatchShort b e
  | 0x20 | 0x21 => dispatchPass b e
  | 0x22 => modArr (addEntry b e) (arrAt w 33 32) (fun a => { a with wallNext := bitsOf w 35 34 })
  | 0x28 => addEntry b { e with reads := [q 95 91] }
  | 0x2B | 0x2C => dispatchClose b e
  | 0x30 => dispatchGlzcfg b e
  | 0x38 => addEntry b { e with reads := [q 123 119] }
  | 0x39 => addEntry b { e with reads := [q 70 66] }
  | 0x3A => addEntry b { e with reads := [q 57 53] }
  | 0x3B => addEntry b { e with reads := [q 77 73], descs := [if uWen w then descWords b (uWdesc w) else []] }
  | 0x40 => addEntry b { e with reads := [q 115 111], descs := [descWords b (lWdesc w), descWords b (lOdesc w)] }
  | 0x48 | 0x49 => addEntry b { e with descs := [descWords b (bitsOf w 46 32)] }
  | 0x50 => addEntry b { e with reads := [q 39 35] }
  | 0x51 => addEntry b { e with reads := [q 38 34] }
  | 0x58 => addEntry b { e with reads := [q 36 32, q 43 39], descs := [wordsOf 512 (ckptState b e.ctx)] }
  | 0x59 => addEntry b { e with reads := [q 36 32, q 43 39] }
  | _ => addEntry b e

/-! ### Instructions the issue stage executes (R261 to R266, R240, R241) -/

/-- SETQ (R261). -/
def setqValue (w : Nat) (old : W64) : W64 :=
  let imm := bitsOf w 127 64
  if bitAt w 37 then insertBits old (bitsOf w 43 38) (bitsOf w 49 44 + 1) (imm % 2 ^ (bitsOf w 49 44 + 1)) else BitVec.ofNat 64 imm

/-- ADDQ (R261). -/
def addqValue (w : Nat) (a d : W64) : W64 := a + BitVec.ofNat 64 (bitsOf w 127 64) + (if bitAt w 47 then d else 0#64)

/-- Condition of JUMP (R262). -/
def jumpTaken (w : Nat) (q : W64) : Bool :=
  match bitsOf w 51 50 with
  | 0 => true
  | 1 => decide (q = 0#64)
  | 2 => decide (q ≠ 0#64)
  | _ => q.msb

def setPos (b : Block) (c : Ctx) (s : Strand) (p : Nat) : Block := modStrand b c s (fun x => { x with pos := p })

/-- EVENT (R263, R277). -/
def runEvent (b : Block) (c : Ctx) (s : Strand) (w : Nat) : Block :=
  let v := bitsOf w 47 32
  let b := setFld (setFld b (.schEvent c) 0 16 v) (.schEvent c) 16 2 s.val
  let b := bumpFld (setRaw b (.schEventData c) (getSlot b c s (slotAt w 52 48))) (.schEvent c) 32 16 1
  if bitAt w 53 then notify b 2 (some c) v 0 false else b

/-- The mark-log record (R241). -/
def logRecord (b : Block) (c : Ctx) (s : Strand) (w interval : Nat) (late : Bool) : List Byte :=
  leBytes 8 (getCtx b c).elapsed.toNat ++ leBytes 2 (bitsOf w 47 32) ++ [BitVec.ofNat 8 s.val, if late then 1#8 else 0#8]
    ++ leBytes 4 (min (2 ^ 32 - 1) interval)

/-- Record n goes to slot n mod SIZE; with SIZE 0 nothing is written (R241, R398). -/
def writeLog (b : Block) (c : Ctx) (bytes : List Byte) : Block :=
  let size := getFld b (.schLogSize c) 0 20
  if size == 0 then b
  else
    let n := getFld b (.schLogSize c) 20 32
    let va := 16 * getFld b (.schLogBase c) 4 45 + 16 * (n % size)
    let b := wrapFld b (.schLogSize c) 20 32 1
    addStream b .log c (getCtx b c).gen true 0 1 none (bytes.mapIdx (fun i x => ⟨va + i, .const x⟩))

/-- MARK (R240, R241). -/
def runMark (b : Block) (e : Entry) (c : Ctx) (s : Strand) (w : Nat) : Block :=
  let interval := arrNow b - (getStrand b c s).markAt
  let late := bitsOf w 79 48 != 0 && decide (bitsOf w 79 48 < interval)
  let bytes := logRecord b c s w interval late
  let b := modStrand b c s (fun x => { x with markAt := arrNow b })
  let b := if late then raise (bumpFld b .schOverrun 0 32 1) .scheduleOverrun (e.site 0) else b
  if bitAt w 80 then writeLog b c bytes else b

/-- The effect of an instruction that completes at dispatch; its position moves on before. -/
def runIssue (b : Block) (e : Entry) (c : Ctx) (s : Strand) (w : Nat) : Block :=
  let q := fun (hi lo : Nat) => getSlot b c s (slotAt w hi lo)
  match wOpc w with
  | 0x01 => setSlot b c s (slotAt w 36 32) (setqValue w (q 36 32))
  | 0x02 => setSlot b c s (slotAt w 36 32) (addqValue w (q 41 37) (q 46 42))
  | 0x03 => if jumpTaken w (q 56 52) then setPos b c s (bitsOf w 49 32) else b
  | 0x04 =>
    let v := q 54 50 - 1#64
    let b := setSlot b c s (slotAt w 54 50) v
    if v = 0#64 then b else setPos b c s (bitsOf w 49 32)
  | 0x05 => runEvent b c s w
  | 0x06 => modStrand b c s (fun x => { x with yielded := true, yieldUntil := arrNow b + bitsOf w 47 32 })
  | 0x07 => modStrand b c s (fun x => { x with halted := true })
  | 0x09 => (match pegRole b (wPeg w) c s with | some r => pegAdd b (wPeg w) r (wPegN w) | none => b)
  | 0x0A => runMark b e c s w
  | _ => b

/-- Its completion: its post, which a remote pair may take later, and its context's end (R238, R254). -/
def finishIssue (b : Block) (e : Entry) : Block := ctxDone (progress (syncPost b e.ctx e.strand e.gen e.word) e.ctx) e.ctx

/-- Units that P1 gates, and the kiln, which needs them (log 77). -/
def gatedUnit (u : EUnit) : Bool := match u with | .array | .vec | .line | .kiln => true | _ => false

/-- They wake when an instruction reaches their queue (R347, R348). -/
def wakeUnits (b : Block) (u : EUnit) : Block :=
  if gatedUnit u && b.power.p1Gated then
    let b := setFld (setFld b .mgtPwr 0 2 0) .mgtPwr 2 2 0
    { b with power := { b.power with p1Gated := false, wake := b.beat + 64 } }
  else b

/-- Dispatch (R19, R254): the count is taken, the pointer and the position move on, and the instruction runs or enters its queue. -/
def dispatch (b : Block) (c : Ctx) (s : Strand) (w : BitVec 128) : Block :=
  let (i, b) := fresh b
  let e := mkEntry b c s i w
  let b := setPos (takeWaits { b with rot := 4 * c.val + s.val } c s w.toNat) c s (e.pos + 1)
  match e.eunit with
  | .issue => finishIssue (runIssue b e c s w.toNat) e
  | u => wakeUnits (progress (dispatchUnit b e) c) u

/-- The issue stage advances: neither frozen by VWARN_N nor in an engine reset (R330, R357). -/
def issueOn (b : Block) : Bool := !frozenV b && b.rst = .idle

/-- One dispatch opportunity of strand `s` of context `c` for an instruction that `op` tells apart (R234, R256, log 1); the instructions that
follow are fetched ahead, and so is one that has to wait (R252). -/
def issue (op : Nat → Bool) (b : Block) (c : Ctx) (s : Strand) : Block :=
  if !issueOn b || !strandLive b c s then b
  else match fetch b c s with
    | .fault code =>
      refuse (if code = .sramUncorrectable then fetchMeets b c s (getStrand b c s).pos else b) c s 0 ⟨code, none, none⟩
    | .word w =>
      if !staticOk s w.toNat then refuse b c s w.toNat ⟨.illegalInstr, none, none⟩
      else if !op w.toNat || pick b != some (4 * c.val + s.val) then prefetch b c s
      else
        let b := fetchMeets b c s (getStrand b c s).pos
        match storeRead b (storeReads b w.toNat) with
        | (b, true) => refuse { b with rot := 4 * c.val + s.val } c s w.toNat ⟨.sramUncorrectable, none, none⟩
        | (b, false) => match opBad b c s w.toNat with
          | x :: _ => refuse { b with rot := 4 * c.val + s.val } c s w.toNat x
          | [] => prefetch (dispatch b c s w) c s

/-- YIELD_EXPIRY (R235): the last of the yield's cycles passes before this beat's last ARR cycle, in which the strand's next instruction can
dispatch. -/
def yieldExpiry (b : Block) (c : Ctx) (s : Strand) : Block :=
  if (getStrand b c s).yielded && decide ((getStrand b c s).yieldUntil < arrNow b + 2) then
    modStrand b c s (fun x => { x with yielded := false })
  else b

end Sys2Proof.Machine
end

