-- ==== Sys2Proof/Machine/Units.lean ====
section
/-! DEFINITION. The events of the units: what a dispatched instruction does next and how it completes (R22, R260), and the events of the
arrays, drains, wheels, kiln, sequencer, line, streams, translation and M-ports. -/

namespace Sys2Proof.Machine

open Sys2Proof

/-! ### Completion (R22, R260) -/

/-- A pass that ran as a remainder gives back its stack-form record when it completes (R109). -/
def dropStacks (b : Block) (e : Entry) : Block :=
  let w := e.word.toNat
  if wOpc w != 0x20 && wOpc w != 0x21 then b
  else (members w).foldl (fun b n => match memberGrp w (memberIx w n) with
    | some g => if (getGrp b g).stack.isSome then
        modGrp { b with kiln := b.kiln.filter (fun k => !(decide (k.grp = g) && decide (k.role = .stack))) } g (fun x => { x with stack := none })
      else b
    | none => b) b

/-- Every part of the instruction has had its last effect; what its streams still move is waited for. -/
def finishEntry (b : Block) (e : Entry) : Block :=
  if entryStreamsDone b e.id then completeEntry (dropStacks (dropEntryStreams b e.id) e) e.id else b

/-- LOAD, STORE, COPY, FILL and SHORT have moved their bytes; SHORT of KIND 0x3 writes its slot (R224). A remote PPOST is sent from the head
of the short path (R238). -/
def transferAdvance (b : Block) (e : Entry) : Block :=
  let w := e.word.toNat
  if wOpc w == 0x09 then
    if e.started || !(queueHead b .short).any (fun h => h.id == e.id) then b
    else match pegRole b (wPeg w) e.ctx e.strand with
      | some r => (match sendPost b e.ctx e.gen (wPeg w) r (wPegN w) e.id with
          | some b => modEntry b e.id (fun x => { x with started := true })
          | none => b)
      | none => b
  else if !e.started || !entryStreamsDone b e.id then b
  else
    let b := if wOpc w == 0x14 && bitsOf w 33 32 == 3 then
        setSlot b e.ctx e.strand (slotAt w 83 79) (BitVec.ofNat 64 (leNat (sramBytes b (bufBase e.id) (bitsOf w 41 34 + 1))))
      else b
    completeEntry (dropEntryStreams b e.id) e.id

/-- What a dispatched instruction does next in its unit. -/
def entryAdvance (b : Block) (e : Entry) : Block :=
  if e.phase == 255 then b
  else if e.phase == 1 then finishEntry b e
  else match e.eunit with
    | .issue => b
    | .load => if wOpc e.word.toNat == 0x59 then restoreAdvance b e else transferAdvance b e
    | .store => if wOpc e.word.toNat == 0x58 then ckptAdvance b e else transferAdvance b e
    | .short => transferAdvance b e
    | .array => (match wOpc e.word.toNat with | 0x22 => runWall b e | 0x23 => runSwap b e | _ => b)
    | .kiln => kilnAdvance b e
    | .vec => vecAdvance b e
    | .line => lineAdvance b e
    | .chain => chainAdvance b e
    | .chk _ => chkAdvance b e

/-- INSTRUCTION_COMPLETE: the unit of instruction `i` goes on with it; with its last effect it completes and posts. -/
def instructionComplete (b : Block) (i : Nat) : Block :=
  match findEntry b i with
  | some e => entryAdvance b e
  | none => b

/-- PASS_COMPLETE (R260). -/
def passComplete (b : Block) (i : Nat) : Block :=
  match findEntry b i with
  | some e => if (wOpc e.word.toNat == 0x20 || wOpc e.word.toNat == 0x21) && e.phase == 1 then finishEntry b e else b
  | none => b

/-- INSTRUCTION_COMPLETE (R22). -/
def execInstructionComplete (e : Nat) (s : State) : Host.Outcome State Fault Refusal := s.onLive (fun b => instructionComplete b e)

/-- PASS_COMPLETE (R260). -/
def execPassComplete (e : Nat) (s : State) : Host.Outcome State Fault Refusal := s.onLive (fun b => passComplete b e)

/-- PASS_START (R56). -/
def execPassStart (n : Arr) (s : State) : Host.Outcome State Fault Refusal := s.onLive (fun b => passStart b n)

/-- INPUT_CYCLE (R62). -/
def execInputCycle (n : Arr) (g : Sag) (s : State) : Host.Outcome State Fault Refusal := s.onLive (fun b => inputCycle b n g)

/-- ROW_READ (R65). -/
def execRowRead (n : Arr) (s : State) : Host.Outcome State Fault Refusal := s.onLive (fun b => rowRead b n)

/-- RAMP_STEP (R67). -/
def execRampStep (n : Arr) (s : State) : Host.Outcome State Fault Refusal := s.onLive (fun b => rampStep b n)

/-- ARRAY_CLOCK_GATE (R68). -/
def execArrayClockGate (n : Arr) (s : State) : Host.Outcome State Fault Refusal := s.onLive (fun b => clockGate b n)

/-- PREEMPT_STOP (R80). -/
def execPreemptStop (n : Arr) (g : Sag) (s : State) : Host.Outcome State Fault Refusal := s.onLive (fun b => preemptStop b n g)

/-- GMERGE_REOFFER (R105). -/
def execGmergeReoffer (g : Grp) (s : State) : Host.Outcome State Fault Refusal := s.onLive (fun b => reoffer b g)

/-- KILN_TRANSFER_DONE (R107). -/
def execKilnTransferDone (x : Nat) (s : State) : Host.Outcome State Fault Refusal := s.onLive (fun b => transferDone b x)

/-- KILN_MERGE_COMPLETE (R100). -/
def execKilnMergeComplete (g : Grp) (s : State) : Host.Outcome State Fault Refusal := s.onLive (fun b => mergeComplete b g)

/-- PEER_TIMEOUT (R103). -/
def execPeerTimeout (g : Grp) (s : State) : Host.Outcome State Fault Refusal := s.onLive (fun b => peerTimeout b g)

/-- GLZCFG_LOAD (R141). -/
def execGlzcfgLoad (n : Arr) (s : State) : Host.Outcome State Fault Refusal := s.onLive (fun b => glzcfgLoad b n)

/-- GLAZE_COMPARE_RESULT (R156). -/
def execGlazeCompareResult (n : Arr) (s : State) : Host.Outcome State Fault Refusal := s.onLive (fun b => compareResult b n)

/-- GLAZE_ROW_OUT (R153). -/
def execGlazeRowOut (n : Arr) (s : State) : Host.Outcome State Fault Refusal := s.onLive (fun b => rowOutStep b n)

/-- WHEEL_SERVICE (R407). -/
def execWheelService (w : Fin 2) (s : State) : Host.Outcome State Fault Refusal := s.onLive (fun b => wheelServe b w)

/-- SEQUENCER_JOB_START (R166). -/
def execSequencerJobStart (s : State) : Host.Outcome State Fault Refusal := s.onLive (fun b => jobStart b)

/-- RULE_PASS_ENTRY (R167). -/
def execRulePassEntry (n : Arr) (s : State) : Host.Outcome State Fault Refusal := s.onLive (fun b => rulePassEntry b n)

/-- LINE_STRIP_RESTART (R199). -/
def execLineStripRestart (s : State) : Host.Outcome State Fault Refusal := s.onLive (fun b => lineRestart b)

/-- RESUME_ENTRY (R250). -/
def execResumeEntry (n : Arr) (s : State) : Host.Outcome State Fault Refusal := s.onLive (fun b => runResumeEntry b n)

/-- STREAM_REQUEST_ISSUE (R216). -/
def execStreamRequestIssue (i : Nat) (s : State) : Host.Outcome State Fault Refusal := s.onLive (fun b => streamIssue b i)

/-- TRANSLATION_WALK_DONE (R221). -/
def execTranslationWalkDone (i : Nat) (ptes : List W64) (err : Bool) (s : State) : Host.Outcome State Fault Refusal := s.onLive (fun b => walkDone b i ptes err)

/-- MP_WRITE_COMPLETION (R376). -/
def execMpWriteCompletion (tag : BitVec 13) (err : BitVec 2) (s : State) : Host.Outcome State Fault Refusal := s.onLive (fun b => jobAdvance (writeCompletion b tag.toNat err.toNat))

/-- Write of STR_RESUME (R222). -/
def execStrResume (c : Ctx) (s : State) : Host.Outcome State Fault Refusal := s.onWrite .strResume (fun b => strResume b c)

/-- Write of XLT_INVAL with SCOPE 0x0 (R401). -/
def execXltInvalPage (c : Ctx) (va : BitVec 49) (s : State) : Host.Outcome State Fault Refusal := s.onWrite .xltInval (fun b => invalPage b c va.toNat)

/-- Write of XLT_INVAL with SCOPE 0x1 (R401). -/
def execXltInvalContext (c : Ctx) (s : State) : Host.Outcome State Fault Refusal := s.onWrite .xltInval (fun b => invalContext b c)

/-- Write of XLT_INVAL with SCOPE 0x2 (R401). -/
def execXltInvalAll (s : State) : Host.Outcome State Fault Refusal := s.onWrite .xltInval (fun b => invalAll b)

end Sys2Proof.Machine
end

