-- ==== Sys2Proof/Machine/Flags.lean ====
section
/-! DEFINITION. What a register reads as (R8, R10): the stored fields, and the status fields that show the state of a unit. -/

namespace Sys2Proof.Machine

open Sys2Proof

/-! ### Codes -/

/-- SCH_CTX_STAT_Cc.STATE (R231). -/
def CtxState.code : CtxState → Nat
  | .free => 0 | .running => 1 | .done => 2 | .preempting => 3 | .preempted => 4 | .faulted => 5 | .fencing => 6 | .quarantine => 7

/-- KLN_GRP_STAT_Gg.STATE (R98). -/
def GrpState.code : GrpState → Nat
  | .free => 0 | .open_ => 1 | .resident => 2 | .parked => 3 | .parkedStack => 4 | .spilled => 5 | .waiting => 6 | .draining => 7
  | .closed => 8 | .poisoned => 9

/-- ARR_STATUS_An.BANKt (R85). -/
def BankState.code : BankState → Nat
  | .empty => 0 | .filling => 1 | .held => 2 | .reading => 3 | .loading => 4

/-- CHK_STATUS_n.HOLDER and ARRAY (R315). -/
def Holder.code : Holder → Nat
  | .none => 0 | .streamRead _ => 1 | .streamWrite _ => 2 | .glaze n => 3 + n.val * 8 | .ckpt _ => 4 | .restore _ => 5

def b2n (p : Bool) : Nat := if p then 1 else 0

/-! ### Status words -/

/-- The lowest saggar of an array whose position is in use, 0 when none is (R85). -/
def lowSag (b : Block) (n : Arr) : Sag :=
  ((allFin 16).find? (fun g => !bankEmpty (getPos b n g).b0 || !bankEmpty (getPos b n g).b1)).getD 0

/-- ARR_STATUS_An.STATE of a usable array (R85). A stop is shown for every usable array, gated ones included, and that of VWARN_N before that of
THERM_TRIP_N; the table gives no order (DESIGN CHOICE, log 123). -/
def arrState (b : Block) (n : Arr) : Nat :=
  if frozenV b then 5 else if stoppedT b then 6
  else match (getArr b n).gate with | .gated => 2 | .ramping => 3 | .running => 4

def arrStatusWord (b : Block) (n : Arr) : Nat :=
  let a := getArr b n
  let p := getPos b n (lowSag b n)
  arrState b n + a.inp.level * 2 ^ 4 + p.b0.state.code * 2 ^ 12 + p.b1.state.code * 2 ^ 16 + b2n p.b0.single * 2 ^ 19 + a.wall * 2 ^ 20
    + b2n ((allFin 16).any (fun g => (getPos b n g).run.any (fun r => r.gang))) * 2 ^ 22

/-- Whole slots free, and slots that hold a stack form. -/
def kilnFree (b : Block) : Nat := ((List.range kilnSlots).filter (fun s => b.kiln.all (fun r => r.places.all (fun q => q.1 != s)))).length
def kilnStack (b : Block) : Nat :=
  ((List.range kilnSlots).filter (fun s => b.kiln.any (fun r => decide (r.role = .stack) && r.places.any (fun q => q.1 == s)))).length

/-- KLN_STATUS (R115); REMOTE stays at 63 when all 64 groups hold a remote total (log 123). -/
def klnStatusWord (b : Block) : Nat :=
  kilnFree b + buffered b * 2 ^ 6 + min 63 ((allFin 64).filter (fun g => (getGrp b g).mHas && (getGrp b g).mRec.isSome)).length * 2 ^ 10 + kilnStack b * 2 ^ 16

def grpStatWord (b : Block) (g : Grp) : Nat :=
  let x := getGrp b g
  x.state.code + x.ctx.val * 2 ^ 4 + x.strand.val * 2 ^ 8 + x.arr.val * 2 ^ 10 + x.sag.val * 2 ^ 12 + x.mode * 2 ^ 16 + b2n x.rnd * 2 ^ 18
    + x.kind * 2 ^ 19 + x.shape * 2 ^ 21 + b2n x.lapsed * 2 ^ 23 + x.round.toNat * 2 ^ 32 + x.nremote * 2 ^ 48

/-- Word `k` of the arrive map of the selected group (R118). -/
def arriveMap (b : Block) (k : Nat) : Nat :=
  ((getGrp b (Fin.ofNat 64 (getFld b .klnArriveSel 0 6))).arrived.filter (fun r => r / 64 == k)).foldl (fun w r => w ||| 2 ^ (r % 64)) 0

/-- Stage 9 is held: its next row may not leave (R153 to R157, R159). HELD shows every wait of the head row alike: for port credit, for its compare
and for its check channel's turn (DESIGN CHOICE, log 123). -/
def stage9Held (b : Block) (n : Arr) : Bool :=
  match (getArr b n).rows with
  | [] => false
  | row :: _ => (getArr b n).tiles.any (fun d => d.tid == row.tid && decide (d.src.kind ≠ .peer) && !rowMay b n d)

/-- GLZ_STATUS_Dn (R159). Rows of a checked tile are in the hold buffer until they leave it, after the compare too (R156). -/
def glzStatusWord (b : Block) (n : Arr) : Nat :=
  let a := getArr b n
  let held := (a.rows.filter (fun r => a.tiles.any (fun d => d.tid == r.tid && d.src.checked))).length
  (a.slots.filter (fun s => !s.close)).length + (a.slots.filter (·.close)).length * 2 ^ 6 + min 512 held * 2 ^ 12 + b2n (stage9Held b n) * 2 ^ 22
    + getFld b (.glzStatus n) 23 1 * 2 ^ 23

def nfgWord (b : Block) (g : Grp) : Nat :=
  let x := getGrp b g
  if x.nfValid then x.nfNan + x.nfPos * 2 ^ 21 + x.nfNeg * 2 ^ 42 + 2 ^ 63 else 0

def vecStatusWord (b : Block) : Nat :=
  let run := b.jobs.find? (·.running)
  (waiting b .vec).length + b.jobs.length * 2 ^ 5 + (match run with | some j => j.ctx.val * 2 ^ 8 + 2 ^ 12 | none => 0)

/-- The strip that a LINE is at: the last one while only its results are still on their way. -/
def lineStrip (b : Block) (l : LineRun) : Nat :=
  match findEntry b l.entry with
  | some e => min l.strip (lineStrips l.v ((parseDesc (e.descs.getD 0 [])).extAt 0) - 1)
  | none => l.strip

/-- LINE_STATUS (R200): a LINE that met a fault does not run. -/
def lineStatusWord (b : Block) : Nat :=
  (waiting b .line).length + (match b.line.filter (fun _ => !lineFree b) with
    | some l => 2 ^ 4 + l.ctx.val * 2 ^ 5 + b2n l.waitFault * 2 ^ 9 + (l.v - 1) * 2 ^ 10 + lineStrip b l * 2 ^ 13
    | none => 0)

def strStatusWord (b : Block) : Nat :=
  (waiting b .load).length + (waiting b .store).length * 2 ^ 6 + (waiting b .short).length * 2 ^ 12 + transfersRunning b .load * 2 ^ 19
    + transfersRunning b .store * 2 ^ 23 + ((haltRecords b .load).length + (haltRecords b .store).length) * 2 ^ 27 + getFld b .strStatus 33 1 * 2 ^ 33

def tagUseWord (b : Block) : Nat :=
  let n := fun (p : MpReq → Bool) => (b.mp.filter p).length
  n (fun r => isReadTag r.tag) + n (fun r => isWriteTag r.tag) * 2 ^ 16 + n (fun r => isShortTag r.tag) * 2 ^ 32
    + n (fun r => r.zombie && !isShortTag r.tag) * 2 ^ 48

/-- STR_PF_Cc (R222, R230). -/
def strPfWord (b : Block) (c : Ctx) : Nat :=
  match haltedOf b c with
  | [] => 0
  | x :: r => x.halted.getD 0 % 2 ^ 49 + b2n x.write * 2 ^ 49 + min 4 (r.length + 1) * 2 ^ 50 + 2 ^ 63

def chnStatusWord (b : Block) : Nat :=
  b.chain.ring.length + b.chain.keep.length * 2 ^ 11 + b.chain.credits * 2 ^ 22 + b2n b.chain.cut * 2 ^ 33 + getFld b .chnStatus 34 1 * 2 ^ 34
    + b2n b.chain.linkUp * 2 ^ 35

/-- FAB_STATUS (R302). A lane is up when the engine is READY and the lane's receiver takes transfers (log 66). -/
def fabStatusWord (b : Block) : Nat :=
  b.fabTags.length + (b.fabTags.filter (·.zombie)).length * 2 ^ 11 + (inAll b + 1023) / 1024 * 2 ^ 22
    + (if getFld b .engStatus 0 1 == 1 then b.pins.txReady.toNat else 0) * 2 ^ 31 + getFld b .fabStatus 33 1 * 2 ^ 33

def chkStatusWord (b : Block) (n : Chk) : Nat :=
  let h := (getChk b n).holder.code
  b2n (chkBusy b n) + b2n (decide ((getChk b n).holder ≠ .none)) * 2 + h % 8 * 2 ^ 2 + h / 8 * 2 ^ 5 + b2n (chkMatch b n) * 2 ^ 7
    + getFld b (.chkStatus n) 8 1 * 2 ^ 8 + (waiting b (.chk n)).length * 2 ^ 9

/-- SCH_CQ_STATUS (R277): BUSY while an entry is in progress. -/
def cqStatusWord (b : Block) : Nat := (rawReg b .schCqStatus).toNat % 2 ^ 40 + b2n b.launch.isSome * 2 ^ 40

/-! ### Boot SRAM (R359) -/

/-- A word of the boot SRAM; the shadow area holds what the steward last saved there. -/
def bootWord (b : Block) (w : Nat) : W64 :=
  if w < 0x2000 then BitVec.ofNat 64 (leNat (memBytes b.boot (8 * w) 8))
  else if b.power.shadowSaves == 0 then 0#64 else Config.shadowWord b.power.shadowSaves w

/-! ### Reading -/

/-- The array whose registers these are: its own, its feeder's and its drain's (R3). -/
def Reg.arrOf : Reg → Option Arr
  | .arrRamp n | .arrAbftCtl n | .arrStatus n | .arrAbftFirst n | .arrAbftStrikes n | .arrAbftLast n | .arrRetireLimit n
  | .glzStatus n | .glzNan n | .glzInf n => some n
  | _ => none

/-- Mask of the fields that satisfy `p`. -/
def fieldMask (r : Reg) (p : Field → Bool) : W64 :=
  BitVec.ofNat 64 (r.fields.foldl (fun m f => if p f then m ||| (2 ^ f.wid - 1) <<< f.lo else m) 0)

/-- Fields that read: all but write-only ones; reserved bits read 0 (R8, R10). -/
def visible (r : Reg) (v : W64) : W64 := v &&& fieldMask r (fun f => decide (f.acc ≠ .WO))

/-- Registers whose value shows the state of a unit. -/
def liveWord (b : Block) : Reg → Option Nat
  | .engNotice => some (getFld b .engNotice 0 16 + b.notices.length * 2 ^ 16)
  | .arrStatus n => some (arrStatusWord b n)
  | .klnStatus => some (klnStatusWord b)
  | .klnGrpStat g => some (grpStatWord b g)
  | .klnGrpCnt g => some ((getGrp b g).localCnt + (getGrp b g).remoteCnt * 2 ^ 32)
  | .klnGrpExp g => some (getGrp b g).expect
  | .klnGrpNadd g => some (getGrp b g).nadd
  | .klnArriveMap k => some (arriveMap b k.val)
  | .glzStatus n => some (glzStatusWord b n)
  | .glzNfg g => some (nfgWord b g)
  | .vecStatus => some (vecStatusWord b)
  | .lineStatus => some (lineStatusWord b)
  | .strStatus => some (strStatusWord b)
  | .strTaguse => some (tagUseWord b)
  | .strPf c => some (strPfWord b c)
  | .schCtxStat c => some ((getCtx b c).state.code + (getCtx b c).gen.toNat * 2 ^ 16)
  | .schElapsed c => some (getCtx b c).elapsed.toNat
  | .schStrand c s => some ((getStrand b c s).pos % 2 ^ 18 + strandStatus b c s * 2 ^ 20)
  | .schPeg p => some ((getPeg b p).full.toNat + (getPeg b p).empty.toNat * 2 ^ 16)
  | .schCqStatus => some (cqStatusWord b)
  | .chnStatus => some (chnStatusWord b)
  | .fabStatus => some (fabStatusWord b)
  | .chkStatus n => some (chkStatusWord b n)
  | .chkValue n => some ((getChk b n).preFold.getD (BitVec.ofNat 64 (chkV b n))).toNat
  | .xltInval => some (b2n (xltBusy b) * 2 ^ 63)
  | .xltStatus => some (b.tlb.length + b.walks.length * 2 ^ 13 + getFld b .xltStatus 18 2 * 2 ^ 18)
  | .dbgStewardPc => some (Config.stewardPc b.steward.steps).toNat
  | .dbgMemData => some (bootWord b (getFld b .dbgMemAddr 3 14)).toNat
  | _ => none

/-- What a read of a register returns. Registers of an array that is disabled or retired, and of its drain, read 0 (R3), but
ARR_STATUS.STATE of a retired one reads 0x1 (R342). -/
def readReg (b : Block) (r : Reg) : W64 :=
  match r.arrOf with
  | some n =>
    if usable b n then visible r (match liveWord b r with | some v => BitVec.ofNat 64 v | none => rawReg b r)
    else if decide (r = .arrStatus n) && bitAt (getFld b .mgtRetire 0 4) n.val then 1#64 else 0#64
  | none => visible r (match liveWord b r with | some v => BitVec.ofNat 64 v | none => rawReg b r)

/-- Read-clear fields clear after their value is sampled; a read of DBG_MEM_DATA moves its address on (R8, R403). -/
def readClears (b : Block) (r : Reg) : Block :=
  let b := if r.fields.any (fun f => decide (f.acc = .RC)) then setRaw b r (rawReg b r &&& ~~~ fieldMask r (fun f => decide (f.acc = .RC))) else b
  if r = .dbgMemData then setFld b .dbgMemAddr 3 14 ((getFld b .dbgMemAddr 3 14 + 1) % 2 ^ 14) else b

end Sys2Proof.Machine
end

