-- ==== Sys2Proof/Machine/Faults.lean ====
section
/-! DEFINITION. Fences and resets of contexts and of the engine (14), the steward's periodic duties, SRAM scrub and retirement. -/

namespace Sys2Proof.Machine

open Sys2Proof

/-! ### Reset classes (R11) -/

/-- The value of a register after the classes that `gone` names have returned to their reset values. -/
def resetClasses (gone : RClass → Bool) (r : Reg) (v : W64) : W64 :=
  r.fields.foldl (fun w f => if gone f.cls then insertBits w f.lo f.wid f.rst else w) v

/-- Every stored register after those classes have returned; a lock clears with the class of its field (R8). -/
def resetRegs (gone : RClass → Bool) (b : Block) : Block :=
  { b with
    regs := b.regs.filterMap (fun p => match Reg.ofAddr p.1 with
      | some r => let v := resetClasses gone r p.2; if v = r.resetVal then none else some (p.1, v)
      | none => none)
    rlocks := b.rlocks.filter (fun a => match Reg.ofAddr a with
      | some r => r.fields.all (fun f => decide (f.acc ≠ .RWL) || !gone f.cls)
      | none => false) }

/-- One register back at its reset value. -/
def clearReg (b : Block) (r : Reg) : Block :=
  { b with regs := spPut r.resetVal b.regs r.addr r.resetVal, coins := b.coins.filter (fun k => k.reg != r.addr) }

/-- Registers of class X that belong to context `c`. -/
def ctxRegs (c : Ctx) : List Reg :=
  [.klnSpillBase c, .klnSpillSize c, .vecGuard c, .vecEps c, .vecRuleCfg c, .vecScratchBase c, .vecScratchSize c, .strSplit c, .strTags c,
   .schLogBase c, .schLogSize c, .schEvent c, .schEventData c, .fabRcap c, .xltRoot c] ++ (allFin 8).map (fun k => .schWin c k)

/-- Class X of context `c` (R11, R314, R327, R399): its registers, strands, groups, the counts of its pairs, the values of its channels. -/
def resetCtxRegs (b : Block) (c : Ctx) : Block :=
  let b := (ctxRegs c).foldl clearReg b
  let b := (allFin 4).foldl (fun b n => if chkOwner b n = c then clearReg (clearReg b (.chkValue n)) (.chkExpect n) else b) b
  let b := (allFin 256).foldl (fun b p => if pegEn b p && decide (pegOwner b p = c) then setPeg b p ⟨0#16, 0#16⟩ else b) b
  let b := (allFin 64).foldl (fun b g => if (getGrp b g).ctx = c then modGrp b g (fun _ => GroupSt.reset) else b) b
  modCtx { b with fetched := b.fetched.filter (fun q => q.1 / 4 != c.val) } c (fun x => { x with
    strands := Vector.replicate 4 StrandSt.reset, tagVal := 0#16, elapsed := 0#64, unacked := 0, fence := none, progressed := false, stall := 0 })

/-! ### Starting a fence (R327, steps 1 to 3) -/

def isInbound (x : Stream) : Bool := match x.owner with | .inbound _ => true | _ => false

/-- The arrays drop what belongs to a context: passes become bubbles, banks, drains and program slots empty (R161, R327). -/
def fenceArray (b : Block) (c : Ctx) (n : Arr) : Block :=
  let mine := fun (k : BankSt) => !bankEmpty k && (match k.grp with | some g => decide ((getGrp b g).ctx = c) | none => decide (k.ctx = c))
  let drop := fun (p : PosSt) =>
    let p := { p with run := if p.run.any (fun (r : PassRun) => decide (r.ctx = c)) then none else p.run }
    let two := mine p.b0 && p.b0.single
    { p with b0 := if mine p.b0 then BankSt.reset else p.b0, b1 := if mine p.b1 || two then BankSt.reset else p.b1 }
  modArr b n (fun a =>
    let gone := (a.tiles.filter (fun d => decide (d.src.ctx = c))).map (·.tid)
    { a with
      pos := a.pos.map drop
      reads := a.reads.filter (fun t => decide (t.ctx ≠ c))
      tiles := a.tiles.filter (fun d => decide (d.src.ctx ≠ c))
      rows := a.rows.filter (fun r => !gone.contains r.tid)
      slots := a.slots.filter (fun s => decide (s.ctx ≠ c))
      latest := a.latest.filter (fun (l : ProgLatest) => decide (l.ctx ≠ c))
      resume := a.resume.filter (fun (r : ResumeEnt) => decide (r.ctx ≠ c))
      replays := a.replays.filter (fun q => decide (q.2.ctx ≠ c)) })

/-- The chain unit lets go of a context's CHSEND at a frame boundary and of the tile its CHRECV copies. -/
def fenceChain (b : Block) (c : Ctx) : Block :=
  let at_ := fun (op : Nat) => b.entries.any (fun e => decide (e.ctx = c) && e.started && wOpc e.word.toNat == op)
  let b := if at_ 0x48 then modChain b (fun x => { x with ownTile := false }) else b
  if at_ 0x49 then (match oldestTile b with | some t => takeTile b t.id | none => b) else b

/-- The kiln frees a context's groups, with their slots, transfers and spill records (R114). -/
def fenceKiln (b : Block) (c : Ctx) : Block :=
  let b := (allFin 64).foldl (fun b g =>
    if (getGrp b g).ctx = c && decide ((getGrp b g).state ≠ .free) then freeGroup b g else b) b
  { b with
    kiln := b.kiln.filter (fun r => decide (r.ctx ≠ c))
    xfers := b.xfers.filter (fun x => decide (x.ctx ≠ c))
    grants := b.grants.filter (fun t => decide ((getGrp b t.grp).ctx ≠ c))
    spillUse := b.spillUse.filter (fun u => decide (u.1 ≠ c))
    preParked := b.preParked.filter (fun q => decide (q.2.ctx ≠ c)) }

/-- Requests of the context carry a fenced generation from now on: reads and messages are zombies; writes are waited for (R327, R328). -/
def fenceTags (b : Block) (c : Ctx) : Block :=
  { b with
    mp := b.mp.map (fun (r : MpReq) => if r.ctx = c && !r.write then { r with zombie := true } else r)
    fabTags := b.fabTags.map (fun (t : FabTag) => if t.ctx = c && (match t.kind with | .offer _ | .post _ => true | _ => false) then { t with zombie := true } else t) }

/-- What a context has in its units is discarded (R185, R199, R314, R327). -/
def fenceWork (b : Block) (c : Ctx) : Block :=
  let b := fenceChain b c
  let b := (allFin 4).foldl (fun b n => fenceArray b c n) b
  let b := fenceKiln b c
  let b := (allFin 4).foldl (fun b n => if chkOwner b n = c then chkRelease b n else b) b
  { b with
    entries := b.entries.filter (fun e => decide (e.ctx ≠ c))
    streams := b.streams.filter (fun x => decide (x.ctx ≠ c) || isInbound x)
    jobs := b.jobs.filter (fun j => decide (j.ctx ≠ c))
    rules := b.rules.filter (fun r => decide (r.ctx ≠ c))
    posts := b.posts.filter (fun q => decide (q.ctx ≠ c))
    line := if b.line.any (fun l => decide (l.ctx = c)) then none else b.line }

/-- A FENCE of context `c` begins (R327): a new generation, its work discarded, its tags fenced, REVOKEs on their way. -/
def fenceStart (b : Block) (c : Ctx) : Block :=
  let f : FenceSt := ⟨b.beat, revokeList b c, (getCtx b c).gen⟩
  let b := modCtx b c (fun x => { x with state := .fencing, gen := x.gen + 1#16, fence := some f })
  sendRevokes (fenceTags (fenceWork b c) c) c

/-! ### Ending a fence (R327, steps 4 to 6) -/

/-- What the fence still waits for: writes of the context, incoming WRITEs, RACKs. -/
def fencePending (b : Block) (c : Ctx) : Bool :=
  b.mp.any (fun r => decide (r.ctx = c) && r.write && !r.zombie)
    || b.streams.any (fun x => decide (x.ctx = c))
    || b.fabTags.any (fun t => decide (t.ctx = c) && !t.zombie)
    || (getCtx b c).fence.any (fun f => !f.unsent.isEmpty)

/-- Step 6: class X resets, the context's translations go, and it is FREE, or in QUARANTINE while a zombie is left. -/
def fenceEnd (b : Block) (c : Ctx) : Block :=
  let b := resetCtxRegs b c
  let b := { b with tlb := b.tlb.filter (fun e => decide (e.ctx ≠ c)) }
  quarantineEnd (modCtx b c (fun x => { x with state := .quarantine })) c

/-- Force-retire at the limit: writes become zombies, incoming WRITEs are answered FENCED, missing RACKs are abandoned. -/
def forceRetire (b : Block) (c : Ctx) : Block :=
  let ins := b.streams.filter (fun x => decide (x.ctx = c))
  let b := ins.foldl (fun b x => match x.owner with
    | .inbound h => bumpFld (answerWrite (freeInbuf (dropStream b x.id) c h) h 3) .fabRxcount 16 16 1
    | _ => dropStream b x.id) b
  { b with
    mp := b.mp.map (fun (r : MpReq) => if r.ctx = c then { r with zombie := true } else r)
    fabTags := b.fabTags.map (fun (t : FabTag) => if t.ctx = c then { t with zombie := true } else t) }

/-! ### Input levels (R67, R68, R355) -/

/-- The limit on every array's input level: the lower of the cone level and the thermal level. -/
def inputLimit (b : Block) : Nat := min (getFld b .mgtConeStatus 42 7) (if getFld b .mgtTherm 24 1 == 1 then 32 else 64)

/-- The input level of every array moves to the limit through its ramp. -/
def setInputs (b : Block) : Block :=
  (allFin 4).foldl (fun b n => modArr b n (fun a => { a with inp := rampTo b n a.inp (inputLimit b) })) b

/-! ### Engine reset (R330 to R332) -/

/-- The warning inputs as the status fields of their registers show them. Those fields are of class E: a reset returns them to 0, and an input
that is still asserted shows, freezes and stops at once (log 121). -/
def samplePins (b : Block) : Block :=
  setFld (setFld b .mgtVwarn 24 2 (if b.pins.vwarn then 0 else 3)) .mgtTherm 24 3
    (b2n (!b.pins.thermWarn) + (if b.pins.thermTrip then 0 else 6))

/-- A context after the compute reset: its generation moves on once for each reset. -/
def resetCtx (b : Block) (advance : Bool) (c : Ctx) : Block :=
  let x := getCtx b c
  modCtx b c (fun _ => { CtxSt.reset with
    state := if x.state = .quarantine then .quarantine else .free, gen := if advance then x.gen + 1#16 else x.gen })

/-- THE COMPUTE RESET (R330 step 3): all but the M-ports, tags, chain unit, lanes, SRAM and class K returns to its reset state. The spec does not
say whether notices that have not been sent survive it; they do, and ENG_NOTICE.QDEPTH goes on showing them (DESIGN CHOICE, log 121). -/
def computeReset (b : Block) (advance : Bool) : Block :=
  let c := samplePins (resetRegs (fun k => decide (k ≠ .K)) b)
  let c := hwSet { c with coins := [] } .engStatus 4
  let c := (allFin 16).foldl (fun c x => resetCtx c advance x) c
  setInputs (chainEngineReset { c with
    pegs := Vector.replicate 256 ⟨0#16, 0#16⟩, rot := 63, fetched := [], entries := [], streams := [], tlb := [], invalBusy := [], invalUntil := 0
    hotKeys := [], arrays := Vector.replicate 4 ArraySt.reset, groups := Vector.replicate 64 GroupSt.reset, kiln := [], xfers := [], grants := []
    spillUse := [], preParked := [], wheelNext := Vector.replicate 2 0, vecNext := 0, rules := [], jobs := [], line := none, posts := [], inbuf := []
    chks := Vector.replicate 4 ⟨.none, 0#64, none, none, 0⟩, recNext := 0, engFault := none
    launch := none, launchRead := c.launchRead.map (fun q => { q with zombie := true })
    steward := { c.steward with running := false, p2Exit := false, beatAt := c.beat }
    power := { c.power with vClearAt := none, tClearAt := none, p1Gated := false, wake := 0 } })

/-- The fence of an engine reset is complete: the compute part is in reset. The end of a beat in which RST_ENG_N is high brings the steward's
restart (R330, R332). -/
def resetGoesOn (b : Block) : Block :=
  if b.rst = .fencing && (allFin 16).all (fun c => decide ((getCtx b c).state ≠ .fencing)) then
    { computeReset b true with rst := .computeReset }
  else b

/-- An engine reset begins (R330): every context that is not FREE, FENCING or QUARANTINE is fenced. -/
def engineResetStart (b : Block) : Block :=
  let b := setFld { b with rst := .fencing } .engStatus 0 1 0
  let b := (allFin 16).foldl (fun b c => match (getCtx b c).state with
    | .free | .fencing | .quarantine => b
    | _ => fenceStart b c) b
  resetGoesOn b

/-- Write of ENG_RESET with KIND 0x1 (R326). -/
def contextReset (b : Block) (c : Ctx) : Block :=
  match (getCtx b c).state with
  | .free | .fencing | .quarantine => b
  | _ => fenceStart b c

/-- Write of ENG_RESET with KIND 0x2 (R326): ignored while an engine reset is in progress. -/
def engineReset (b : Block) : Block :=
  match b.rst with
  | .idle | .failed => engineResetStart b
  | _ => b

/-- FENCE_COMPLETE (R327 step 5). -/
def fenceComplete (b : Block) (c : Ctx) : Block :=
  if (getCtx b c).state = .fencing && !fencePending b c then resetGoesOn (fenceEnd b c) else b

/-- FENCE_LIMIT_EXPIRY (R327 step 5). -/
def fenceLimit (b : Block) (c : Ctx) : Block :=
  match (getCtx b c).fence with
  | some f =>
    if (getCtx b c).state = .fencing && max 1 (getFld b .engFenceLimit 0 32) ≤ b.beat - f.since then
      resetGoesOn (fenceEnd (forceRetire b c) c)
    else b
  | none => b

/-- A cold start is under way (R332): MGT_BOOT_STATUS.PHASE is before Ready and FAILED, and no engine reset runs. -/
def coldStarting (b : Block) : Bool := b.rst = .idle && decide (getFld b .mgtBootStatus 0 4 < 7)

/-- RST_ENG_N falls (R332): it starts, joins or returns an engine reset; a cold start takes no notice of it. -/
def rstEngAssert (b : Block) : Block :=
  if !b.pins.rstEng then b
  else
    let b := { b with pins := { b.pins with rstEng := false } }
    match b.rst with
    | .idle => if coldStarting b then b else engineResetStart b
    | .failed => engineResetStart b
    | .fencing => b
    | _ => { b with rst := .computeReset }

/-- RST_ENG_N rises (R332). -/
def rstEngRelease (b : Block) : Block :=
  if b.pins.rstEng then b
  else
    let b := { b with pins := { b.pins with rstEng := true } }
    match b.rst with
    | .computeReset => computeReset b false
    | _ => b

/-! ### The steward's beat (R324, R325, R342) -/

/-- The steward works: started, and not halted by the debugger (R324, R405). -/
def stewardOn (b : Block) : Bool := b.steward.running && getFld b .dbgSteward 0 1 == 0

/-- Only halted streams are left of an entry. -/
def onlyHalted (b : Block) (e : Entry) : Bool :=
  e.started && (entryStreams b e.id).any (fun x => x.halted.isSome)
    && (entryStreams b e.id).all (fun x => x.halted.isSome || (x.empty_ && streamOut b x.id == 0))

/-- Runnable work (R325). -/
def runnable (b : Block) (c : Ctx) : Bool :=
  (allFin 4).any (fun s => (getStrand b c s).started && !(getStrand b c s).halted)
    || b.entries.any (fun e => decide (e.ctx = c) && !onlyHalted b e)

/-- The progress watchdog looks at one context (R325); a beat in a freeze or stop does not count (R358). -/
def watchCtx (b : Block) (c : Ctx) : Block :=
  let x := getCtx b c
  let limit := getFld b .mgtProgress 0 16
  if x.state ≠ .running || x.progressed || !runnable b c then modCtx b c (fun x => { x with progressed := false, stall := 0 })
  else if frozenV b || stoppedT b then b
  else
    let b := modCtx b c (fun x => { x with stall := x.stall + 1 })
    if limit != 0 && limit ≤ x.stall + 1 && getFld b .mgtProgress (16 + c.val) 1 == 0 then
      setFld (raise b .hang { ctx := some c, gen := x.gen, unit := 0xE }) .mgtProgress (16 + c.val) 1 1
    else b

/-- The problems that an array holds are aborted (R73, R342). -/
def abortArray (b : Block) (n : Arr) : Block :=
  let b := (allFin 16).foldl (fun b g => match (getPos b n g).run with | some r => abortProblem b n g r | none => b) b
  let b := (allFin 16).foldl (fun b g => ([0, 1] : List BankIx).foldl (fun b t =>
    let k := (getPos b n g).bank t
    if bankEmpty k then b
    else
      let b := clearBank b n g t
      match k.grp with
      | some x => poison b x
      | none => b) b) b
  let b := (allFin 4).foldl (fun b k => if decide ((getChk b k).holder = .glaze n) then chkRelease b k else b) b
  modArr b n (fun a => { a with reads := [], tiles := [], rows := [], replays := [], gate := .gated })

/-- An array that reaches its strikes, or that a request names, is retired (R342). -/
def retireArray (b : Block) (n : Arr) : Block :=
  let strikes := getFld b (.arrAbftStrikes n) 0 16
  let limit := getFld b (.arrRetireLimit n) 0 8
  let asked := bitAt (getFld b .mgtRetire 4 4) n.val
  let there := bitAt (getFld b .engConfig 4 4) n.val && !bitAt (getFld b .mgtRetire 0 4) n.val
  let b := if there && ((limit != 0 && decide (limit ≤ strikes)) || asked) then
      let b := abortArray (setFld b .mgtRetire n.val 1 1) n
      raise b .arrayRetired { unit := 0xE, arr := some (n, 0) }
    else b
  setFld b .mgtRetire (4 + n.val) 1 0

/-- STEWARD_HEARTBEAT: the count, the watchdog, retirement. -/
def heartbeat (b : Block) : Block :=
  if !stewardOn b || b.beat < b.steward.beatAt + 350000 then b
  else
    let b := wrapFld { b with steward := { b.steward with beatAt := b.beat } } .mgtHeartbeat 0 32 1
    (allFin 4).foldl retireArray ((allFin 16).foldl watchCtx b)

/-- SWDT_LOST (R324); the count stands still in P2 (R350). -/
def swdtLost (b : Block) : Block :=
  if inP2 b || getFld b .mgtSwdt 24 1 == 1 || b.beat - b.steward.beatAt < getFld b .mgtSwdt 0 24 then b
  else notify (setFld b .mgtSwdt 24 1 1) 9 none 0 0 false

/-! ### Scrub (R340) -/

/-- The regions the patrol reads: every one but the staging of an array that is disabled or retired (R2, R13). -/
def patrolRegions (b : Block) : List Nat :=
  (List.range 10).filter (fun r => 4 ≤ r || (bitAt (getFld b .engConfig 4 4) r && !bitAt (getFld b .mgtRetire 0 4) r))

/-- Flat address of a line of the patrol. -/
def patrolLine : List Nat → Nat → Nat
  | [], _ => 0
  | r :: l, k => if k < regionSize r / 64 then regionBase r + 64 * k else patrolLine l (k - regionSize r / 64)

def patrolLines (b : Block) : Nat := ((patrolRegions b).map (fun r => regionSize r / 64)).foldl (· + ·) 0

/-- SCRUB_PATROL: one line is read; a single error is corrected and logged, a double one counted and logged (R340, R341). -/
def scrubPatrol (b : Block) : Block :=
  if !stewardOn b || b.beat < b.steward.patrolAt + 64 then b
  else
    let k := b.steward.patrol
    let b := (eccRead b (patrolLine (patrolRegions b) k) 64 true).1
    { b with steward := { b.steward with patrol := if k + 1 < patrolLines b then k + 1 else 0, patrolAt := b.beat } }

/-! ### Fault registers -/

/-- ENG_FAULT_PTR (R323): RD moves within WR − 64 to WR. -/
def writeFaultPtr (b : Block) (v : W64) : Block :=
  let rd := bitsOf v.toNat 31 16
  if (ptrWR b + 65536 - rd) % 65536 ≤ 64 then setFld b .engFaultPtr 16 16 rd else b

/-! ### Meanings -/

/-- Write of ENG_RESET with KIND 0x1 (R327). -/
def execEngResetContext (c : Ctx) (s : State) : Host.Outcome State Fault Refusal := s.onWrite .engReset (fun b => contextReset b c)
/-- Write of ENG_RESET with KIND 0x2 (R330). -/
def execEngResetEngine (s : State) : Host.Outcome State Fault Refusal := s.onWrite .engReset engineReset
/-- FENCE_COMPLETE (R327). -/
def execFenceComplete (c : Ctx) (s : State) : Host.Outcome State Fault Refusal := s.onLive (fun b => fenceComplete b c)
/-- FENCE_LIMIT_EXPIRY (R327). -/
def execFenceLimitExpiry (c : Ctx) (s : State) : Host.Outcome State Fault Refusal := s.onLive (fun b => fenceLimit b c)
/-- RST_ENG_N falls (R332). -/
def execRstEngNAssert (s : State) : Host.Outcome State Fault Refusal :=
  s.on (fun b => if live b then rstEngAssert b else { b with pins := { b.pins with rstEng := false } })
/-- RST_ENG_N rises (R332). -/
def execRstEngNRelease (s : State) : Host.Outcome State Fault Refusal :=
  s.on (fun b => if live b then rstEngRelease b else { b with pins := { b.pins with rstEng := true } })
/-- STEWARD_HEARTBEAT (R324). -/
def execStewardHeartbeat (s : State) : Host.Outcome State Fault Refusal := s.onLive heartbeat
/-- SWDT_LOST (R324). -/
def execSwdtLost (s : State) : Host.Outcome State Fault Refusal := s.onLive swdtLost
/-- SCRUB_PATROL (R340). -/
def execScrubPatrol (s : State) : Host.Outcome State Fault Refusal := s.onLive scrubPatrol
/-- Write of ENG_FAULT_PTR (R323). -/
def execEngFaultPtrWrite (v : W64) (s : State) : Host.Outcome State Fault Refusal := s.onWrite .engFaultPtr (fun b => writeFaultPtr b v)

end Sys2Proof.Machine
end

