-- ==== Sys2Proof/Machine/Power.lean ====
section
/-! DEFINITION. Clocks, power and start-up (15): the cone, supply and temperature, power states, boot SRAM, image check, repair map,
start-up, cold reset; the challenge and steward control of the debug page (16, 17). -/

namespace Sys2Proof.Machine

open Sys2Proof

/-! ### Cone (R352, R353) -/

/-- The counts of a window, by kind of event (R352): multiply-adds of the four format classes, input cycles, glaze rows, SRAM accesses of the ten
regions, beats of the M-ports, the chain and the fabric, lane operations of the vector engine and of the line. -/
def Acts.kinds (a : Acts) : List Nat :=
  a.macs.toList ++ [a.inputs, a.rows] ++ a.sram.toList ++ [a.mport, a.chain, a.fabric, a.vec, a.line]

/-- The firmware image that the energies come from. -/
def fwImage (b : Block) : List Byte := memBytes b.boot 0x100 (leNat (memBytes b.boot 0x0C 4))

/-- The weighted counts of the window that ends and the idle term, in the unit of the firmware's energies (R352). -/
def windowSum (b : Block) : Nat :=
  Config.idleEnergy (fwImage b) + (b.acts.kinds.mapIdx (fun k n => n * Config.eventEnergy (fwImage b) k)).foldl (· + ·) 0

/-- A quotient whose rounding the spec does not give: exact when it divides, else one of its two neighbours (log 10). -/
def openDiv (b : Block) (k num den : Nat) : Nat :=
  if num % den == 0 then num / den else num / den + (Config.openWord b.freeTick k).toNat % 2

/-- E_win in microjoules (R352). -/
def windowEnergy (b : Block) : Nat := openDiv b 4 (windowSum b) (Config.energyUnit (fwImage b) + 1)

/-- CONE_WINDOW_END. -/
def coneWindow (b : Block) : Block :=
  if b.beat < b.power.coneAt + 350 then b
  else
    let mhz := getFld b .mgtClkCfg 0 13
    let e := windowEnergy b
    let sus := getFld b .mgtConeLimits 10 10
    let peak := getFld b .mgtConeLimits 20 10
    let budget := getFld b .mgtConeBudget 0 32
    let hyst := getFld b .mgtConeBudget 32 32
    let c := openDiv b 0 ((getFld b .mgtConeStatus 0 32 + e) * mhz - sus * 4200) mhz
    let c := if c < 2 ^ 32 then c else (Config.openWord b.freeTick 2).toNat % 2 ^ 32
    let w := openDiv b 1 (e * mhz) 4200
    let w := if w < 1024 then w else (Config.openWord b.freeTick 3).toNat % 1024
    let above := fun (watts : Nat) => decide (watts * 4200 < e * mhz)
    let lv := getFld b .mgtConeStatus 42 7
    let was := getFld b .mgtConeStatus 49 1 == 1
    let on := getFld b .mgtConeLimits 30 1 == 1
      && (if was then !(decide (c + hyst ≤ budget) && !above peak) else decide (budget ≤ c) || above peak)
    let target := if budget ≤ c then sus else peak
    let level := if !on then 64
      else if above target then max 4 (lv - 4)
      else if (e * mhz + 8 * 4200) < target * 4200 then min 64 (lv + 4) else lv
    let b := if was then bumpFld b .mgtConeCnt 0 32 1 else b
    let b := setRaw b .mgtConeStatus (BitVec.ofNat 64 (c + w * 2 ^ 32 + level * 2 ^ 42 + b2n on * 2 ^ 49))
    let b := if on && !was then raise b .coneThrottle { unit := 0xE } else b
    setInputs (tickFree { b with acts := Acts.zero, power := { b.power with coneAt := b.power.coneAt + 350 } })

/-! ### Supply and temperature (R355 to R358) -/

/-- Arrays that were clocked start again through the advance ramp. -/
def restartArrays (b : Block) : Block :=
  (allFin 4).foldl (fun b n => if decide ((getArr b n).gate = .gated) then b else startAdvance b n) b

/-- VWARN_ASSERT (R357): arrays, issue stage, line, vector engine, sequencer, streams and kiln stop; the event is raised once. -/
def vwarnAssert (b : Block) : Block :=
  if !b.pins.vwarn then b
  else
    let b := { b with pins := { b.pins with vwarn := false }, power := { b.power with vClearAt := none } }
    raise (setFld b .mgtVwarn 24 2 3) .vwarn { unit := 0xE }

/-- VWARN_N_RELEASE: the settle count starts. -/
def vwarnRelease (b : Block) : Block :=
  if b.pins.vwarn then b
  else setFld { b with pins := { b.pins with vwarn := true }, power := { b.power with vClearAt := some b.beat } } .mgtVwarn 24 1 0

/-- VWARN_SETTLE_EXPIRY (R357, R358): the stopped units resume; arrays that a trip still stops go on waiting. -/
def vwarnSettle (b : Block) : Block :=
  match b.power.vClearAt with
  | some t =>
    if frozenV b && getFld b .mgtVwarn 0 24 ≤ b.beat - t then
      let b := setFld { b with power := { b.power with vClearAt := none } } .mgtVwarn 25 1 0
      jobAdvance (if stoppedT b then b else restartArrays b)
    else b
  | none => b

/-- THERM_WARN_ASSERT and THERM_WARN_CLEAR (R355). -/
def thermWarn (b : Block) (low : Bool) : Block :=
  if b.pins.thermWarn != low then b
  else
    let b := { b with pins := { b.pins with thermWarn := !low } }
    let b := if low then bumpFld b .mgtTherm 32 16 1 else b
    setInputs (setFld b .mgtTherm 24 1 (b2n low))

/-- THERM_TRIP_ASSERT (R356). -/
def thermTrip (b : Block) : Block :=
  if !b.pins.thermTrip then b
  else
    let b := { b with pins := { b.pins with thermTrip := false }, power := { b.power with tClearAt := none } }
    setFld (bumpFld b .mgtTherm 48 16 1) .mgtTherm 25 2 3

/-- THERM_TRIP_N_RELEASE. -/
def thermRelease (b : Block) : Block :=
  if b.pins.thermTrip then b
  else setFld { b with pins := { b.pins with thermTrip := true }, power := { b.power with tClearAt := some b.beat } } .mgtTherm 25 1 0

/-- THERM_SETTLE_EXPIRY (R356, R358). -/
def thermSettle (b : Block) : Block :=
  match b.power.tClearAt with
  | some t =>
    if stoppedT b && getFld b .mgtTherm 0 24 ≤ b.beat - t then
      let b := setFld { b with power := { b.power with tClearAt := none } } .mgtTherm 26 1 0
      if frozenV b then b else restartArrays b
    else b
  | none => b

/-! ### Boot SRAM and image (R359, R360) -/

def bootBytes (b : Block) (a n : Nat) : List Byte := memBytes b.boot a n
def bootLe (b : Block) (a n : Nat) : Nat := leNat (bootBytes b a n)

/-- The check of R360: 0 when the image is accepted, else the REASON of R364. -/
def verifyReason (b : Block) : Nat :=
  let len := bootLe b 0x0C 4
  let key := bootBytes b 0x20 96
  if bootLe b 0 4 != 0x53573250 || bootLe b 4 4 != 1 || len % 64 != 0 || 57088 < len then 1
  else if sha384 key != Config.fwKeyDigest.toNat then 2
  else if !ecdsaVerify (sha384 (bootBytes b 0 0x80 ++ bootBytes b 0x100 len)) (beNat (bootBytes b 0x80 48)) (beNat (bootBytes b 0xB0 48))
      (beNat (key.take 48)) (beNat (key.drop 48)) then 3
  else if bootLe b 8 4 < getFld b .mgtBootMinver 0 32 then 4
  else 0

/-- BOOT_WAIT, or a failure that the host may retry (R359, R364). -/
def bootOpen (b : Block) : Bool :=
  let ph := getFld b .mgtBootStatus 0 4
  let re := getFld b .mgtBootStatus 4 4
  ph == 1 || (ph == 8 && decide (1 ≤ re) && decide (re ≤ 4))

def bootReject (b : Block) : Block := hwSet b .mgtBootStatus 33

/-- MGT_BOOT_PTR (R359). -/
def writeBootPtr (b : Block) (v : W64) : Block := if bootOpen b then setFld b .mgtBootPtr 0 14 (bitsOf v.toNat 13 0) else bootReject b

/-- MGT_BOOT_DATA (R359). -/
def writeBootData (b : Block) (v : W64) : Block :=
  let p := getFld b .mgtBootPtr 0 14
  if !bootOpen b || 0x2000 ≤ p then bootReject b
  else setFld { b with boot := memPutBytes b.boot (8 * p) (leBytes 8 v.toNat) } .mgtBootPtr 0 14 ((p + 1) % 2 ^ 14)

/-- MGT_BOOT_CTL (R362, R364): TEST is kept; GO starts Verify, of the steward's restart where an engine reset failed in it. -/
def writeBootCtl (b : Block) (v : W64) : Block :=
  let b := setFld b .mgtBootCtl 1 2 (bitsOf v.toNat 2 1)
  if bitAt v.toNat 0 && bootOpen b then
    setFld (setFld { b with rst := if b.rst = .failed then .steward else b.rst } .mgtBootStatus 0 8 2) .engStatus 1 1 0
  else b

/-! ### Repair map (R361) -/

/-- Banks of a region. -/
def regionBanks (r : Nat) : Nat :=
  match r with
  | 0 | 1 | 2 | 3 => 256
  | 4 => 384
  | 5 | 6 => 32
  | 7 => 96
  | 8 | 9 => 16
  | _ => 0

/-- One entry: taken, or skipped and counted. -/
def mapEntry (enabled : Nat) (st : List (Nat × Nat × Nat × Nat) × Nat) (e : Nat) : List (Nat × Nat × Nat × Nat) × Nat :=
  let r := bitsOf e 3 0
  let k := bitsOf e 15 4
  let row := bitsOf e 24 16
  let sp := bitsOf e 27 25
  if regionBanks r ≤ k || (r < 4 && !bitAt enabled r) || st.1.any (fun q => q.1 == r && q.2.1 == k && (q.2.2.1 == row || q.2.2.2 == sp)) then
    (st.1, st.2 + 1)
  else (st.1 ++ [(r, k, row, sp)], st.2)

/-- Repair: the map is applied, its RETIRE mask included, or not at all. -/
def repair (b : Block) : Block :=
  let n := bootLe b 0xE004 4
  let ok := bootLe b 0xE000 4 == 0x52504D50 && decide (n ≤ 1022)
    && crcFold 0 0 (bootBytes b 0xE000 12 ++ bootBytes b 0xE010 (8 * n)) == bootLe b 0xE00C 4
  if !ok then setFld { b with spares := [] } .mgtBootStatus 8 1 1
  else
    let st := (List.range n).foldl (fun st i => mapEntry (getFld b .engConfig 4 4) st (bootLe b (0xE010 + 8 * i) 8)) ([], 0)
    let b := setFld { b with spares := st.1 } .mgtBootStatus 8 21 (st.1.length * 2 + st.2 * 2 ^ 11)
    setFld b .mgtRetire 0 4 (getFld b .mgtRetire 0 4 ||| bootLe b 0xE008 4 % 16)

/-! ### Challenge (R390, R404) -/

/-- A new challenge is in place. -/
def placeChallenge (b : Block) : Block :=
  let n := b.steward.chal
  let b := (allFin 6).foldl (fun b k => setRaw b (.dbgChal k) (Config.challenge n k.val)) b
  setFld { b with steward := { b.steward with chal := n + 1 } } .dbgChalStatus 2 1 1

/-- DBG_RESP_GO (R404). -/
def writeRespGo (b : Block) (v : W64) : Block :=
  if bitAt v.toNat 0 && getFld b .dbgChalStatus 0 3 == 4 then setFld b .dbgChalStatus 1 1 1 else b

/-- DBG_RESP_k (R404). -/
def writeResp (b : Block) (k : Fin 12) (v : W64) : Block :=
  if getFld b .dbgChalStatus 1 1 == 1 then b else setRaw b (.dbgResp k) v

/-- The response signs the challenge under a key of the debug key digest (R390, log 43). -/
def respGood (b : Block) : Bool :=
  let msg := (allFin 6).flatMap (fun k => leBytes 8 (rawReg b (.dbgChal k)).toNat) ++ leBytes 8 (readReg b .engId).toNat
  let resp := (allFin 12).flatMap (fun k => leBytes 8 (rawReg b (.dbgResp k)).toNat)
  let h := sha384 msg
  let r := beNat (resp.take 48)
  let s := beNat (resp.drop 48)
  (ecdsaKeys h r s).any (fun q => ecdsaVerify h r s q.1 q.2 && keyDigest q.1 q.2 == Config.dbgKeyDigest.toNat)

/-- The debugger halts the steward (R405). -/
def dbgHalted (b : Block) : Bool := getFld b .dbgSteward 0 1 == 1

/-- DBG_VERIFY_DONE (R404): the ROM of the steward verifies, in a failed start too, while the debugger does not halt it. -/
def dbgVerified (b : Block) : Block :=
  if dbgHalted b || inP2 b || getFld b .dbgChalStatus 1 1 == 0 then b
  else if respGood b then setFld b .dbgChalStatus 0 3 1
  else placeChallenge (bumpFld (setFld b .dbgChalStatus 1 1 0) .dbgChalStatus 8 8 1)

/-- DBG_STEWARD (R405): HALT, and a step while it is 1. -/
def writeSteward (b : Block) (v : W64) : Block :=
  let b := setFld b .dbgSteward 0 1 (v.toNat % 2)
  if v.toNat % 2 == 1 && bitAt v.toNat 1 then { b with steward := { b.steward with steps := b.steward.steps + 1 } } else b

/-! ### Start-up (R362 to R365) -/

/-- The end of a start in FAILED (R364): after REASON 0x5 to 0x7 only a cold reset starts again. -/
def failStart (b : Block) (reason : Nat) : Block :=
  let b := setFld (setFld (setFld b .mgtBootStatus 0 8 (8 + 16 * reason)) .engStatus 1 1 1) .engStatus 0 1 0
  notify { b with steward := { b.steward with dead := if 5 ≤ reason then reason else 0 } } 7 none reason 0 false

/-- An RST_ENG_N that is still low when a start ends begins its reset then (R332). -/
def heldReset (b : Block) : Block := if b.pins.rstEng then b else engineResetStart b

/-- Firmware start (R362, R396, R397): map and grade, image version, heartbeat, READY. -/
def firmwareStart (b : Block) : Block :=
  let m := getFld b .engConfig 4 4 &&& (15 - getFld b .mgtRetire 0 4)
  let b := setFld (setFld b .engConfig 0 4 m) .engConfig 8 3 (gradeOf m)
  let b := setRaw b .mgtFw (BitVec.ofNat 64 (bootLe b 8 4 + bootLe b 0x10 2 * 2 ^ 32))
  let b := setFld (setFld b .mgtBootStatus 0 8 7) .engStatus 0 1 1
  { b with steward := { b.steward with running := true, beatAt := b.beat, patrolAt := b.beat } }

/-- Arrays that fail their test are retired (R363). -/
def testRetire (b : Block) (fails : Nat) : Block :=
  let f := fails &&& getFld b .engConfig 4 4 &&& (15 - getFld b .mgtRetire 0 4)
  setFld (setFld b .mgtRetire 0 4 (getFld b .mgtRetire 0 4 ||| f)) .mgtBootStatus 29 4 f

/-- BOOT_VERIFY_DONE (R360 to R362): an accepted image goes on through repair and SRAM init to the self-test. -/
def bootVerified (b : Block) : Block :=
  if getFld b .mgtBootStatus 0 4 != 2 || dbgHalted b || decide (b.rst ≠ .idle) || b.steward.p2Exit then b
  else match verifyReason b with
    | 0 => setFld { repair b with sram := [], ecc1 := [], ecc2 := [] } .mgtBootStatus 0 4 5
    | r => heldReset (placeChallenge (failStart b r))

/-- Banks of a region that are enabled at start-up: every one but the staging of an array that is disabled or retired. -/
def bankEnabled (b : Block) (r : Nat) : Bool :=
  decide (4 ≤ r && r < 10) || (decide (r < 4) && bitAt (getFld b .engConfig 4 4) r && !bitAt (getFld b .mgtRetire 0 4) r)

/-- The words that the March C− test, run with TEST other than 0, finds in enabled banks: flat word index, and whether it is uncorrectable (R363, R366). -/
def marchWords (b : Block) (found : List (Nat × Bool)) : List (Nat × Bool) :=
  if getFld b .mgtBootCtl 1 2 == 0 then [] else found.filter (fun q => bankEnabled b (q.1 / 0x1000000))

/-- Each of them is counted and logged (R340, R341, R363). -/
def marchLog (b : Block) (found : List (Nat × Bool)) : Block :=
  (marchWords b found).foldl (fun b q =>
    eccLog (if q.2 then bumpFld b .mgtEcc 32 16 1 else bumpFld b .mgtEcc 0 32 1) q.1 q.2 false) b

/-- Arrays whose staging holds an uncorrectable word. -/
def marchRetire (b : Block) (found : List (Nat × Bool)) : Nat :=
  (List.range 4).foldl (fun m n => m + (if (marchWords b found).any (fun q => q.2 && q.1 / 0x1000000 == n) then 2 ^ n else 0)) 0

/-- START_UP_END (R362 to R364): the self-test has ended as the operands say. -/
def startUpEnd (b : Block) (arrFail : Nat) (unitFail : Bool) (found : List (Nat × Bool)) : Block :=
  if getFld b .mgtBootStatus 0 4 != 5 || dbgHalted b || frozenV b then b
  else
    let sramFail := (marchWords b found).any (fun q => q.2 && decide (4 ≤ q.1 / 0x1000000))
    let b := testRetire (marchLog b found) (arrFail ||| marchRetire b found)
    let m := getFld b .engConfig 4 4 &&& (15 - getFld b .mgtRetire 0 4)
    heldReset (placeChallenge (if unitFail then failStart b 5
      else if sramFail then failStart b 6
      else if popcount4 m < 3 then failStart b 7
      else notify (firmwareStart b) 7 none 0 0 false))

/-- Class V restarts (R11). -/
def restartCounters (b : Block) : Block :=
  let b := hwSet { resetRegs (fun k => decide (k = .V)) b with coins := [] } .engStatus 4
  (allFin 16).foldl (fun b c => modCtx b c (fun x => { x with elapsed := 0#64 })) b

/-- The part of a start that an engine reset and an exit from P2 run (R365): Verify on the image in place, the array check, firmware start;
`told` sends the start-up notice. After a start that failed for REASON 5 to 7 it fails again with that REASON (R364, log 132). -/
def restartSteward (b : Block) (arrFail : Nat) (told : Bool) : Block :=
  match (if b.steward.dead == 0 then verifyReason b else b.steward.dead) with
  | 0 =>
    let b := firmwareStart (testRetire { b with rst := .idle, steward := { b.steward with p2Exit := false } } arrFail)
    if told then notify b 7 none 0 0 false else b
  | r => failStart b r

/-- The power and the registers come back at the exit from P2, whether Verify then accepts the image or not (R11, R350, log 132). -/
def p2Restore (b : Block) : Block :=
  if inP2 b then setFld (hwSet (restartCounters b) .engStatus 3) .mgtPwr 2 2 0 else b

/-- The steward phases end (R330, R331, R350, R365). Where Verify fails, the engine stays out of READY until GO brings another image. -/
def stewardReady (b : Block) (arrFail : Nat) : Block :=
  if dbgHalted b || frozenV b || getFld b .engStatus 2 1 == 1 then b
  else if b.rst = .steward then
    let b := restartSteward { b with rst := .failed } arrFail true
    if getFld b .dbgChalStatus 0 1 == 1 then b else placeChallenge b
  else if b.steward.p2Exit && getFld b .mgtBootStatus 0 4 != 8 then restartSteward (p2Restore b) arrFail false
  else b

/-! ### Power states (R347 to R350) -/

def pwrState (b : Block) : Nat := getFld b .mgtPwr 2 2

/-- REQ = P0: a pending request is withdrawn, P1 ends after 64 cycles, an exit from P2 begins. -/
def reqP0 (b : Block) : Block :=
  let b := setFld (setFld b .mgtPwr 0 2 0) .mgtPwr 4 1 0
  if pwrState b == 1 then { setFld b .mgtPwr 2 2 0 with power := { b.power with p1Gated := false, wake := b.beat + 64 } }
  else if pwrState b == 2 then { b with steward := { b.steward with p2Exit := true } }
  else b

/-- REQ = P1. -/
def reqP1 (b : Block) : Block := setFld (setFld b .mgtPwr 0 2 1) .mgtPwr 4 1 0
/-- REQ = P2: pending, unless the engine is there. -/
def reqP2 (b : Block) : Block := setFld (setFld b .mgtPwr 0 2 2) .mgtPwr 4 1 (b2n (pwrState b != 2 || b.steward.p2Exit))
/-- REQ = P3: pending. -/
def reqP3 (b : Block) : Block := setFld (setFld b .mgtPwr 0 2 3) .mgtPwr 4 1 1

/-- MGT_PWR. -/
def writePwr (b : Block) (v : W64) : Block :=
  match v.toNat % 4 with
  | 0 => reqP0 b
  | 1 => reqP1 b
  | 2 => reqP2 b
  | _ => reqP3 b

/-- The units that P1 gates are idle (R347); what they hold of a PREEMPTED context survives P1 (R348). -/
def unitsIdle (b : Block) : Bool :=
  (allFin 4).all (fun n => arrIdle b n && (getArr b n).tiles.isEmpty && (getArr b n).rows.isEmpty)
    && (queueHead b .vec).isNone && (queueHead b .line).isNone && b.line.isNone
    && b.jobs.all (fun j => decide ((getCtx b j.ctx).state ≠ .running) && (!j.running || decide ((getCtx b j.ctx).state = .preempted)))
    && b.entries.all (fun e => !(decide (e.eunit = .vec) && e.started && e.phase != 255))

/-- P1_ENTRY. -/
def p1Enter (b : Block) : Block :=
  if getFld b .mgtPwr 0 2 == 1 && pwrState b == 0 && unitsIdle b then
    let b := (allFin 4).foldl (fun b n => modArr b n (fun a => { a with gate := .gated })) b
    { setFld b .mgtPwr 2 2 1 with power := { b.power with p1Gated := true } }
  else b

/-- The conditions of R349. -/
def engineAtRest (b : Block) : Bool :=
  (allFin 16).all (fun c => match (getCtx b c).state with | .free | .done | .faulted => true | _ => false)
    && b.mp.isEmpty && b.walks.isEmpty && b.launchRead.isNone && b.fabTags.isEmpty
    && decide (rawReg b .schCqHead = rawReg b .schCqTail) && (allFin 4).all (fun n => !chkBusy b n)

/-- The chain unit's buffers and both links when the bypass opens or closes: both sides drive a link reset (R289, R380, R381). -/
def chainLost (b : Block) : Block :=
  driveLrst (driveLrst { b with chain := { ChainSt.reset with tileNo := b.chain.tileNo, creditsOut := if bypassed b then 0 else chnIntake b } } true) false

/-- POWER_DOWN (R349, R386): the steward shadows the registers and powers down; P3 also notifies and raises PWR_OFF_OK. -/
def powerDown (b : Block) : Block :=
  if getFld b .mgtPwr 4 1 == 0 || !engineAtRest b || frozenV b || !(stewardOn b || pwrState b == 2) then b
  else
    let req := getFld b .mgtPwr 0 2
    let b := { b with
      power := { b.power with shadowSaves := b.power.shadowSaves + 1, p1Gated := false, wake := 0 }
      steward := { b.steward with running := false, p2Exit := false } }
    let b := setFld (setFld b .mgtPwr 2 2 req) .mgtPwr 4 1 0
    if req == 3 then chainLost (notify { b with pins := { b.pins with pwrOffOk := true } } 8 none 0 0 false) else b

/-! ### Locked and clamped registers (R346, R354) -/

def lockReg (b : Block) (r : Reg) : Block := { b with rlocks := r.addr :: b.rlocks }
def locked (b : Block) (r : Reg) : Bool := b.rlocks.contains r.addr

/-- MGT_CLK_CFG (R346). -/
def writeClkCfg (b : Block) (v : W64) : Block :=
  let m := bitsOf v.toNat 12 0
  if locked b .mgtClkCfg || m < 2400 || 4200 < m then b else lockReg (setFld b .mgtClkCfg 0 13 m) .mgtClkCfg

/-- MGT_CONE_LIMITS (R354): CAP is set once; SUSTAIN is limited to CAP, PEAK is at least SUSTAIN. -/
def writeConeLimits (b : Block) (v : W64) : Block :=
  let n := v.toNat
  let b := if locked b .mgtConeLimits || 600 < bitsOf n 9 0 then b else lockReg (setFld b .mgtConeLimits 0 10 (bitsOf n 9 0)) .mgtConeLimits
  let s := min (bitsOf n 19 10) (getFld b .mgtConeLimits 0 10)
  setFld b .mgtConeLimits 10 21 (s + max s (bitsOf n 29 20) * 2 ^ 10 + bitsOf n 30 30 * 2 ^ 20)

/-! ### Cold reset (R333, R362, R387) -/

/-- Every register and all that the engine holds is lost. What number free values and the test port go on with is no state of the engine. -/
def lose (b : Block) (p : Pins) : Block :=
  { Block.reset with
    pins := p, jtag := b.jtag, freeTick := b.freeTick
    steward := { StewardSt.reset with chal := b.steward.chal, steps := b.steward.steps }
    power := { PowerSt.reset with shadowSaves := b.power.shadowSaves } }

/-- RST_COLD_N falls: the bypass closes, unless it was closed (R381). -/
def coldAssert (b : Block) : Block :=
  if !b.pins.rstCold then b
  else
    let c := lose b { b.pins with rstCold := false, pwrOffOk := false }
    if bypassed b then c else chainLost c

/-- RST_COLD_N rises (R1, R2, R362): the straps are sampled; without a grade the start ends here, else the engine waits for its image. -/
def coldRelease (b : Block) (en : BitVec 4) (ix : BitVec 3) : Block :=
  if b.pins.rstCold || b.pins.absent then b
  else
    let b := lose b { b.pins with rstCold := true, powered := true, arrayEn := en, engineIndex := ix }
    let m := en.toNat
    let b := setFld (setFld (setFld (setFld b .engConfig 0 4 m) .engConfig 4 4 m) .engConfig 8 3 (gradeOf m)) .engConfig 12 3 ix.toNat
    chainLost (setInputs (samplePins (if gradeOf m == 0 then setFld b .engStatus 2 1 1 else setFld b .mgtBootStatus 0 4 1)))

/-- ENG_ABSENT changes (R381). -/
def absentChange (b : Block) (a : Bool) : Block :=
  if b.pins.absent == a then b
  else
    let c := { b with pins := { b.pins with absent := a } }
    if bypassed b == bypassed c then c else chainLost c

/-- POWER_REMOVAL (R347, R386). -/
def powerRemoval (b : Block) : Block :=
  if pwrState b == 3 && b.pins.pwrOffOk && b.pins.powered then { lose b { b.pins with powered := false } with jtag := Jtag.reset } else b

/-! ### Meanings -/

/-- CONE_WINDOW_END (R353). -/
def execConeWindowEnd (s : State) : Host.Outcome State Fault Refusal := s.onLive coneWindow
/-- VWARN_ASSERT (R357). -/
def execVwarnAssert (s : State) : Host.Outcome State Fault Refusal :=
  s.on (fun b => if live b then vwarnAssert b else { b with pins := { b.pins with vwarn := false } })
/-- VWARN_N_RELEASE (R357). -/
def execVwarnNRelease (s : State) : Host.Outcome State Fault Refusal :=
  s.on (fun b => if live b then vwarnRelease b else { b with pins := { b.pins with vwarn := true } })
/-- VWARN_SETTLE_EXPIRY (R357). -/
def execVwarnSettleExpiry (s : State) : Host.Outcome State Fault Refusal := s.onLive vwarnSettle
/-- THERM_WARN_ASSERT (R355). -/
def execThermWarnAssert (s : State) : Host.Outcome State Fault Refusal :=
  s.on (fun b => if live b then thermWarn b true else { b with pins := { b.pins with thermWarn := false } })
/-- THERM_WARN_CLEAR (R355). -/
def execThermWarnClear (s : State) : Host.Outcome State Fault Refusal :=
  s.on (fun b => if live b then thermWarn b false else { b with pins := { b.pins with thermWarn := true } })
/-- THERM_TRIP_ASSERT (R356). -/
def execThermTripAssert (s : State) : Host.Outcome State Fault Refusal :=
  s.on (fun b => if live b then thermTrip b else { b with pins := { b.pins with thermTrip := false } })
/-- THERM_TRIP_N_RELEASE (R356). -/
def execThermTripNRelease (s : State) : Host.Outcome State Fault Refusal :=
  s.on (fun b => if live b then thermRelease b else { b with pins := { b.pins with thermTrip := true } })
/-- THERM_SETTLE_EXPIRY (R356). -/
def execThermSettleExpiry (s : State) : Host.Outcome State Fault Refusal := s.onLive thermSettle
/-- RST_COLD_N_ASSERT (R333). -/
def execRstColdNAssert (s : State) : Host.Outcome State Fault Refusal := s.on coldAssert
/-- RST_COLD_N_RELEASE (R362). -/
def execRstColdNRelease (en : BitVec 4) (ix : BitVec 3) (s : State) : Host.Outcome State Fault Refusal := s.on (fun b => coldRelease b en ix)
/-- ENG_ABSENT_CHANGE (R381). -/
def execEngAbsentChange (a : Bool) (s : State) : Host.Outcome State Fault Refusal := s.on (fun b => absentChange b a)
/-- POWER_REMOVAL (R347). -/
def execPowerRemoval (s : State) : Host.Outcome State Fault Refusal := s.on powerRemoval
/-- BOOT_VERIFY_DONE (R360). -/
def execBootVerifyDone (s : State) : Host.Outcome State Fault Refusal := s.onLive bootVerified
/-- START_UP_END (R362). -/
def execStartUpEnd (f : BitVec 4) (u : Bool) (found : List (Nat × Bool)) (s : State) : Host.Outcome State Fault Refusal :=
  s.onLive (fun b => startUpEnd b f.toNat u found)
/-- ENGINE_RESET_READY (R330). -/
def execEngineResetReady (f : BitVec 4) (s : State) : Host.Outcome State Fault Refusal := s.onLive (fun b => stewardReady b f.toNat)
/-- MGT_PWR.REQ = P0 (R350). -/
def execMgtPwrReqP0 (s : State) : Host.Outcome State Fault Refusal := s.onWrite .mgtPwr reqP0
/-- MGT_PWR.REQ = P1 (R347). -/
def execMgtPwrReqP1 (s : State) : Host.Outcome State Fault Refusal := s.onWrite .mgtPwr reqP1
/-- MGT_PWR.REQ = P2 (R349). -/
def execMgtPwrReqP2 (s : State) : Host.Outcome State Fault Refusal := s.onWrite .mgtPwr reqP2
/-- MGT_PWR.REQ = P3 (R349). -/
def execMgtPwrReqP3 (s : State) : Host.Outcome State Fault Refusal := s.onWrite .mgtPwr reqP3
/-- P1_ENTRY (R347). -/
def execP1Entry (s : State) : Host.Outcome State Fault Refusal := s.onLive p1Enter
/-- POWER_DOWN (R349). -/
def execPowerDown (s : State) : Host.Outcome State Fault Refusal := s.on (fun b => if live b then powerDown b else b)
/-- Write of MGT_CLK_CFG (R346). -/
def execMgtClkCfgWrite (v : W64) (s : State) : Host.Outcome State Fault Refusal := s.onWrite .mgtClkCfg (fun b => writeClkCfg b v)
/-- Write of MGT_CONE_LIMITS (R354). -/
def execMgtConeLimitsWrite (v : W64) (s : State) : Host.Outcome State Fault Refusal := s.onWrite .mgtConeLimits (fun b => writeConeLimits b v)
/-- Write of MGT_BOOT_PTR (R359). -/
def execMgtBootPtrWrite (v : W64) (s : State) : Host.Outcome State Fault Refusal := s.onWrite .mgtBootPtr (fun b => writeBootPtr b v)
/-- Write of MGT_BOOT_DATA (R359). -/
def execMgtBootDataWrite (v : W64) (s : State) : Host.Outcome State Fault Refusal := s.onWrite .mgtBootData (fun b => writeBootData b v)
/-- Write of MGT_BOOT_CTL (R362). -/
def execMgtBootGo (v : W64) (s : State) : Host.Outcome State Fault Refusal := s.onWrite .mgtBootCtl (fun b => writeBootCtl b v)
/-- DBG_VERIFY_DONE (R404). -/
def execDbgVerifyDone (s : State) : Host.Outcome State Fault Refusal := s.onLive dbgVerified

end Sys2Proof.Machine
end

