-- ==== Sys2Proof/Machine/Ports.lean ====
section
/-! DEFINITION. The control port (R369 to R372), register writes by access code (R8), the command queue and launch (R274 to R277),
pre-emption (R249, R250), the scheduling registers, and the test port (R389). -/

namespace Sys2Proof.Machine

open Sys2Proof

/-! ### Writes by access code (R8) -/

/-- What a write of `v` leaves in one field. -/
def writeField (lk : Bool) (v w : W64) (f : Field) : W64 :=
  let x := bitsOf v.toNat (f.lo + f.wid - 1) f.lo
  let old := bitsOf w.toNat (f.lo + f.wid - 1) f.lo
  match f.acc with
  | .RW => insertBits w f.lo f.wid x
  | .RWL => if lk then w else insertBits w f.lo f.wid x
  | .W1C => insertBits w f.lo f.wid (old - (old &&& x))
  | .W1S => insertBits w f.lo f.wid (old ||| x)
  | .RO | .WO | .RC => w

/-- Whether hardware has counted in a field, or set it, in this beat, and what (R9). -/
def coinOf (b : Block) (r : Reg) (lo : Nat) : Option Coin := b.coins.find? (fun k => k.reg == r.addr && k.lo == lo)

/-- A bit that hardware has set in this beat stays set over a clear (R9). -/
def keepSet (b : Block) (r : Reg) (w : W64) : W64 :=
  r.fields.foldl (fun w f => if decide (f.acc = .W1C) && (coinOf b r f.lo).isSome then insertBits w f.lo 1 1 else w) w

/-- A write of a register without behaviour of its own. -/
def writePlain (b : Block) (r : Reg) (v : W64) : Block :=
  let c := setRaw b r (keepSet b r (r.fields.foldl (writeField (locked b r) v) (rawReg b r)))
  if r.fields.any (fun f => decide (f.acc = .RWL)) && !locked b r then lockReg c r else c

/-! ### Scheduling registers (R236, R237, R247, R399, R400) -/

def ctlReject (b : Block) : Block := hwSet b .schStatus 0

def restFree (b : Block) (c : Ctx) : Bool := match (getCtx b c).state with | .free | .done => true | _ => false

/-- SCH_PEG_CFG_Pp (R236, R399). -/
def writePegCfg (b : Block) (p : Peg) (v : W64) : Block :=
  let n := v.toNat
  let prod := bitsOf n 6 4
  let cons := bitsOf n 10 8
  if restFree b (pegOwner b p) && restFree b (Fin.ofNat 16 (bitsOf n 3 0)) && decide (prod ≤ 4) && decide (cons ≤ 4) && prod != cons then
    writePlain b (.schPegCfg p) v
  else ctlReject b

/-- SCH_PEG_Pp (R237, R399). -/
def writePeg (b : Block) (p : Peg) (v : W64) : Block :=
  let may := !pegEn b p || (match (getCtx b (pegOwner b p)).state with | .free | .done | .preempted => true | _ => false)
  if may then setPeg b p ⟨BitVec.ofNat 16 (bitsOf v.toNat 15 0), BitVec.ofNat 16 (bitsOf v.toNat 31 16)⟩ else ctlReject b

/-- Bytes of the region of window `k`, 0 for the reserved one (R14, R400). -/
def winRegion (k : Nat) : Nat :=
  match k with
  | 0 => regionSize 9
  | 1 | 2 | 3 | 4 => regionSize 0
  | 5 => regionSize 7
  | 6 => regionSize 8
  | _ => 0

/-- Two ranges share a byte. -/
def rangesMeet (a n x m : Nat) : Bool := decide (a < x + m) && decide (x < a + n) && n != 0 && m != 0

/-- SCH_WIN_Cc_k (R400). -/
def writeWin (b : Block) (c : Ctx) (k : Fin 8) (v : W64) : Block :=
  let base := 64 * bitsOf v.toNat 19 0
  let size := 64 * bitsOf v.toNat 52 32
  let clash := (allFin 16).any (fun d => decide (d ≠ c) && decide ((getCtx b d).state ≠ .free)
    && rangesMeet base size (winBase b d k.val) (winSize b d k.val))
  if decide ((getCtx b c).state = .free) && k.val != 7 && decide (base + size ≤ winRegion k.val) && !clash then writePlain b (.schWin c k) v
  else ctlReject b

/-- A context that works: RUNNING or PREEMPTING (R247). -/
def working (b : Block) (c : Nat) : Bool :=
  match (getCtx b (Fin.ofNat 16 c)).state with | .running | .preempting => true | _ => false

/-- One array's part of a write of SCH_FIXED (R247, R248). -/
def writeFixedPart (v : W64) (b : Block) (n : Arr) : Block :=
  let part := bitsOf v.toNat (8 * n.val + 4) (8 * n.val)
  if anyTileHeld b n || (fixedEn b n && working b (fixedCtx b n)) || working b (part / 2) then ctlReject b
  else setFld (setFld b .schFixed (8 * n.val) 5 part) .schFixed (8 * n.val + 5) 1 0

/-- SCH_FIXED. -/
def writeFixed (b : Block) (v : W64) : Block := (allFin 4).foldl (writeFixedPart v) b

/-- SCH_LOG_SIZE_Cc: NEXT returns to 0 (R398). -/
def writeLogSize (b : Block) (c : Ctx) (v : W64) : Block := setFld (writePlain b (.schLogSize c) v) (.schLogSize c) 20 32 0

/-! ### Translation and stream registers (R218, R378, R402) -/

/-- XLT_ROOT_Cc (R402). -/
def writeRoot (b : Block) (c : Ctx) (v : W64) : Block :=
  if (getCtx b c).state = .free then writePlain b (.xltRoot c) v else hwSet b .xltStatus 19

/-- XLT_INVAL by SCOPE (R401). -/
def writeInval (b : Block) (v : W64) : Block :=
  let c : Ctx := Fin.ofNat 16 (bitsOf v.toNat 3 0)
  match bitsOf v.toNat 5 4 with
  | 0 => invalPage b c (bitsOf v.toNat 48 21 * 2 ^ 21)
  | 1 => invalContext b c
  | 2 => invalAll b
  | _ => hwSet b .xltStatus 18

/-- Shares of a class over every context. -/
def shareSum (b : Block) (lo : Nat) : Nat := ((allFin 16).map (fun c => getFld b (.strSplit c) lo 7)).foldl (· + ·) 0

/-- STR_SPLIT_Cc (R218). -/
def writeSplit (b : Block) (c : Ctx) (v : W64) : Block :=
  let b' := writePlain b (.strSplit c) v
  if ([0, 8, 16] : List Nat).all (fun lo => decide (shareSum b' lo ≤ 64)) then b' else hwSet b .strStatus 33

/-- STR_PORTMAP_CFG (`none`) and STR_PORTMAP_k (R378). -/
def writePortmap (b : Block) (k : Option (Fin 32)) (v : W64) : Block :=
  if !b.mp.isEmpty || !b.walks.isEmpty then b
  else match k with
    | none => let m := bitsOf v.toNat 5 0; if 12 ≤ m && m ≤ 40 then writePlain b .strPortmapCfg v else b
    | some k =>
      if (List.range 8).all (fun j => decide (bitsOf v.toNat (8 * j + 4) (8 * j) ≤ 23)) then writePlain b (.strPortmap k) v else b

/-! ### Pre-emption (R249, R250) -/

/-- SCH_CTL action 0x1. -/
def preempt (b : Block) (c : Ctx) : Block :=
  if (getCtx b c).state = .running then modCtx b c (fun x => { x with state := .preempting }) else ctlReject b

/-- A stream of the context that still moves: not halted, with bytes or requests left. -/
def streamMoves (b : Block) (c : Ctx) (x : Stream) : Bool :=
  decide (x.ctx = c) && !isInbound x && x.halted.isNone && !streamDone b x.id && !lineWaits b x

/-- A dispatched entry that a pre-emption leaves where it is: waiting in its queue, stopped by a fault, stopped and parked, waiting for
contributions, an UPDATE whose pair products the sequencer still owes it, or with only halted streams left. A LINE that has started runs to its
end, over a page fault too (R199). -/
def entryRests (b : Block) (e : Entry) : Bool :=
  let op := wOpc e.word.toNat
  !e.started || e.phase == 255
    || ((op == 0x20 || op == 0x21) && e.phase != 1
        && (allFin 64).any (fun g => (getGrp b g).stack.any (fun (k : StackRec) => k.run.entry == e.id)))
    || ((op == 0x2B || op == 0x2C) && (allFin 64).any (fun g => (getGrp b g).close == some e.id && decide ((getGrp b g).state = .waiting)))
    || (op == 0x3B && e.phase == 3 && b.jobs.any (fun j => j.entry == e.id))
    || (op != 0x40 && (entryStreams b e.id).any (fun x => x.halted.isSome))

/-- The arrays hold nothing of the context: no pass, replay, read, drain or tile in a bank. -/
def arrayRests (b : Block) (c : Ctx) (n : Arr) : Bool :=
  let a := getArr b n
  let mine := fun (k : BankSt) => !bankEmpty k && (match k.grp with | some g => decide ((getGrp b g).ctx = c) | none => decide (k.ctx = c))
  (allFin 16).all (fun g => (getPos b n g).run.all (fun (r : PassRun) => decide (r.ctx ≠ c)) && !mine (getPos b n g).b0 && !mine (getPos b n g).b1)
    && a.reads.all (fun t => decide (t.ctx ≠ c)) && a.tiles.all (fun d => decide (d.src.ctx ≠ c))
    && a.replays.all (fun q => decide (q.2.ctx ≠ c)) && a.resume.all (fun (r : ResumeEnt) => decide (r.ctx ≠ c))

/-- No unit executes work of the context and no bank holds its tiles (R249 step 5). -/
def ctxRests (b : Block) (c : Ctx) : Bool :=
  (allFin 4).all (arrayRests b c) && b.xfers.all (fun x => decide (x.ctx ≠ c)) && b.streams.all (fun x => !streamMoves b c x)
    && b.entries.all (fun e => decide (e.ctx ≠ c) || entryRests b e)

/-- PREEMPT_REST. -/
def preemptRest (b : Block) (c : Ctx) : Block :=
  if decide ((getCtx b c).state = .preempting) && ctxRests b c then
    notify (modCtx b c (fun x => { x with state := .preempted })) 5 (some c) 0 0 false
  else b

/-- SCH_CTL action 0x2: resume entries at the heads of their arrays' queues, in the order of parking; the context runs again, and
its work wakes the units that P1 gates (R348); closes whose counts were met meanwhile go on. -/
def resumeCtx (b : Block) (c : Ctx) : Block :=
  if (getCtx b c).state = .preempted then
    let mine := b.preParked.filter (fun q => decide (q.2.ctx = c))
    let b := { b with preParked := b.preParked.filter (fun q => decide (q.2.ctx ≠ c)) }
    let b := (allFin 4).foldl (fun b n =>
      let l := (mine.filter (fun q => decide (q.1 = n))).map (·.2)
      if l.isEmpty then b else modArr b n (fun a => { a with resume := a.resume ++ l })) b
    let b := if mine.isEmpty && b.entries.all (fun e => !(decide (e.ctx = c) && gatedUnit e.eunit)) && b.jobs.all (fun j => decide (j.ctx ≠ c))
      then b else wakeUnits b .array
    let b := modCtx b c (fun x => { x with state := .running })
    let b := (allFin 64).foldl (fun b g => if (getGrp b g).ctx = c then countMet b g else b) b
    ctxDone b c
  else ctlReject b

/-- SCH_CTL (R398). -/
def writeCtl (b : Block) (v : W64) : Block :=
  let c : Ctx := Fin.ofNat 16 (bitsOf v.toNat 3 0)
  match bitsOf v.toNat 5 4 with
  | 1 => preempt b c
  | 2 => resumeCtx b c
  | _ => ctlReject b

/-! ### The command queue (R274 to R276) -/

def cqHead (b : Block) : Nat := getFld b .schCqHead 0 32
def cqTail (b : Block) : Nat := getFld b .schCqTail 0 32
def cqLog (b : Block) : Nat := getFld b .schCqSize 0 4
def cqEnabled (b : Block) : Bool := decide (6 ≤ cqLog b) && decide (cqLog b ≤ 12)

/-- SCH_CQ_TAIL (R275). -/
def writeTail (b : Block) (v : W64) : Block :=
  let t := bitsOf v.toNat 31 0
  let n := (t + 2 ^ 32 - cqHead b) % 2 ^ 32
  if if cqEnabled b then decide (n ≤ 2 ^ cqLog b) else n == 0 then setFld b .schCqTail 0 32 t else ctlReject b

/-- SCH_CQ_SIZE and SCH_CQ_BASE (R275). -/
def writeCq (b : Block) (size : Bool) (v : W64) : Block :=
  if cqHead b != cqTail b || b.launch.isSome then ctlReject b
  else if size then setFld (setFld (writePlain b .schCqSize v) .schCqHead 0 32 0) .schCqTail 0 32 0
  else writePlain b .schCqBase v

/-- Fields of a launch entry (R274). -/
structure Launch where
  ctx : Ctx
  strands : Nat
  img : Bool
  notify : Bool
  tagVal : Nat
  src : Nat
  dst : Nat
  len : Nat
  pos : Fin 4 → Nat
  reserved : Bool

def parseLaunch (w : Vector W64 8) : Launch :=
  let n := fun (i : Fin 8) => (w.get i).toNat
  { ctx := Fin.ofNat 16 (bitsOf (n 0) 3 0)
    strands := bitsOf (n 0) 7 4
    img := bitAt (n 0) 8
    notify := bitAt (n 0) 9
    tagVal := bitsOf (n 0) 31 16
    src := bitsOf (n 1) 47 0
    dst := bitsOf (n 2) 15 0
    len := bitsOf (n 2) 48 32
    pos := fun s => if s.val < 2 then bitsOf (n 3) (32 * s.val + 17) (32 * s.val) else bitsOf (n 4) (32 * (s.val - 2) + 17) (32 * (s.val - 2))
    reserved := bitsOf (n 0) 15 10 != 0 || bitsOf (n 0) 63 32 != 0 || bitsOf (n 1) 63 48 != 0 || bitsOf (n 2) 31 16 != 0 || bitsOf (n 2) 63 49 != 0
      || bitsOf (n 3) 31 18 != 0 || bitsOf (n 3) 63 50 != 0 || bitsOf (n 4) 31 18 != 0 || bitsOf (n 4) 63 50 != 0
      || n 5 != 0 || n 6 != 0 || n 7 != 0 }

/-- The reason of a rejection before any image byte is copied, 0 when none applies (R276). -/
def launchReason (b : Block) (l : Launch) : Nat :=
  let st := (getCtx b l.ctx).state
  if l.reserved || l.strands == 0 then 3
  else if st ≠ .free ∧ st ≠ .running then 1
  else if (allFin 4).any (fun s => bitAt l.strands s.val && (getStrand b l.ctx s).started) then 2
  else if l.img && (l.len == 0 || decide (65536 < l.len) || l.src % 64 != 0 || !inWin b l.ctx 0 (64 * l.dst) (64 * l.len)) then 3
  else 0

/-- The entry is consumed: HEAD moves on, a rejection is recorded, the notice is sent. -/
def consume (b : Block) (l : Launch) (reason : Nat) (named : Bool) : Block :=
  let h := cqHead b
  let b := if reason == 0 then b else
    hwSet (setFld (setFld b .schCqStatus 1 3 reason) .schCqStatus 8 32 h) .schCqStatus 0
  let b := setFld { b with launch := none } .schCqHead 0 32 ((h + 1) % 2 ^ 32)
  if named && l.notify then notify b 3 (some l.ctx) l.tagVal 0 (reason != 0) else b

/-- The strands that an entry names start. -/
def startStrands (b : Block) (l : Launch) : Block :=
  let b := (allFin 4).foldl (fun b s => if bitAt l.strands s.val then
      modStrand (dropFetched b l.ctx s) l.ctx s (fun x => { x with pos := l.pos s, started := true, halted := false, yielded := false, markAt := arrNow b })
    else b) b
  modCtx b l.ctx (fun x => { x with state := .running, tagVal := BitVec.ofNat 16 l.tagVal })

/-- The command queue goes on: READY, a grade, no engine fault, no pending power request (R2, R4, R320, R349). -/
def queueGoes (b : Block) : Bool :=
  decide (b.rst = .idle) && getFld b .engStatus 0 1 == 1 && getFld b .engConfig 8 3 != 0 && b.engFault.isNone
    && getFld b .mgtPwr 4 1 == 0 && !inP2 b

/-- It has an entry to take. -/
def queueRuns (b : Block) : Bool := queueGoes b && cqEnabled b && cqHead b != cqTail b

/-- A read of the command queue goes out under tag 0x1840: `n` bytes from the 64-byte aligned `src`, within 4 KiB, in whole units (R275, R375). -/
def queueRead (b : Block) (src n : Nat) (c : Option Ctx) : Block :=
  let beats := (src % 256 + n + 255) / 256
  let q : LaunchRead := { src := src, len := n, beats := beats, port := portOf b src, key := bankKey b src, issued := b.beat, zombie := false }
  hotRaise (countAct { b with launchRead := some q } (fun a => { a with mport := a.mport + beats })) q.key c
    (match c with | some c => (getCtx b c).gen | none => 0#16) 0

/-- Address of the entry with counter value `i` (R275). -/
def entryAddr (b : Block) (i : Nat) : Nat := 4096 * getFld b .schCqBase 12 36 + 64 * (i % 2 ^ cqLog b)

/-- The image read that is due: address and bytes, up to the end of the image or of a 4 KiB page (R276, R375). -/
def imageRead (l : Launch) (copied : Nat) : Nat × Nat :=
  let a := l.src + 64 * copied
  (a, min (64 * (l.len - copied)) (4096 - a % 4096))

/-- The next step of an entry whose words have been read: it waits for a fence, is rejected, copies its image at the context's read share, or
starts its strands; the context's state is tested again after the copy (R276). -/
def launchWith (b : Block) (r : LaunchRun) (w : Vector W64 8) : Block :=
  let l := parseLaunch w
  let st := (getCtx b l.ctx).state
  if r.copied == 0 && decide (st = .fencing ∨ st = .quarantine) then b
  else match (if r.copied == 0 then launchReason b l else 0) with
    | 0 =>
      if l.img && decide (r.copied < l.len) then
        let (a, n) := imageRead l r.copied
        let cost := 256 * ((a % 256 + n + 255) / 256)
        if frozenV b || sharesZero b l.ctx || decide ((getCtx b l.ctx).regRead < cost) then b
        else queueRead (chargeClass b l.ctx false cost) a n (some l.ctx)
      else if decide (st ≠ .free ∧ st ≠ .running) then consume b l 1 true
      else consume (startStrands b l) l 0 true
    | k => consume b l k true

/-- The command queue takes its next step on the entry at HEAD, once nothing of it is being read (R276). -/
def launchStep (b : Block) : Block :=
  if b.launchRead.isSome then b
  else match b.launch with
    | none => if queueRuns b then queueRead { b with launch := some ⟨cqHead b, none, 0⟩ } (entryAddr b (cqHead b)) 64 none else b
    | some r =>
      if !queueGoes b then b
      else match r.words with
        | none => queueRead b (entryAddr b r.idx) 64 none
        | some w => launchWith b r w

/-- The words of a launch entry in the 64 bytes that were read. -/
def entryWords (bs : List Byte) : Vector W64 8 := Vector.ofFn (fun i => BitVec.ofNat 64 (leNat ((bs.drop (8 * i.val)).take 8)))

/-- The read under tag 0x1840 has returned `data`, from the request's first unit on, or failed or timed out (R275, R276, R328): the entry's words,
or bytes of the image, which go to the command store; a failed read rejects the entry, without a notice where its words are not known (log 105). -/
def launchResponse (b : Block) (err : Bool) (data : List Byte) : Block :=
  match b.launchRead with
  | none => b
  | some q =>
    let b := keyFreed { b with launchRead := none } q.key
    let got := (List.range q.len).map (fun i => data.getD (q.src % 256 + i) 0#8)
    match (if q.zombie then none else b.launch) with
    | none => b
    | some r =>
      (match r.words with
      | none => if err then consume b (parseLaunch (entryWords [])) 4 false else { b with launch := some { r with words := some (entryWords got) } }
      | some w =>
        let l := parseLaunch w
        if err then consume b l 4 true
        else { (sramWrite b (cmdBase + 64 * (l.dst + r.copied)) got).1 with launch := some { r with copied := r.copied + q.len / 64 } })

/-- A response that LAUNCH_ENTRY brings: it answers the read of the entry's words (`words`) or of its image, where that is the read under way;
a failed one answers either. The entry's next step follows (log 131). -/
def launchAnswer (words err : Bool) (b : Block) (data : List Byte) : Block :=
  match b.launch with
  | some r =>
    if b.launchRead.any (fun q => !q.zombie) && (err || r.words.isNone == words) then
      (if err then launchResponse b true [] else launchStep (launchResponse b false data))
    else b
  | none => b

/-- LAUNCH_ENTRY (R276): the next step of the entry at HEAD, with the responses that come with the command: `ent` to the read of its words, `img`
to the reads of its image in order, `err` a failure of the read that is then under way. Reads that have none are answered by MP_READ_RESPONSE. -/
def launchEntry (ent : List Byte) (img : List (List Byte)) (err : Bool) (b : Block) : Block :=
  let b := launchStep b
  let b := if ent.isEmpty then b else launchAnswer true false b ent
  let b := img.foldl (launchAnswer false false) b
  if err then launchAnswer false true b [] else b

/-! ### Register writes with behaviour of their own -/

/-- Registers whose write has behaviour of its own; `none` for the others. -/
def writeSpecial (b : Block) (v : W64) : Reg → Option Block
  | .engReset => some (match bitsOf v.toNat 5 4 with
      | 1 => contextReset b (Fin.ofNat 16 (bitsOf v.toNat 3 0))
      | 2 => engineReset b
      | _ => b)
  | .engFaultPtr => some (writeFaultPtr b v)
  | .arrRamp n => some (let k := bitsOf v.toNat 3 0
      let c := writePlain b (.arrRamp n) v
      if 3 ≤ k && k ≤ 12 then c else setFld c (.arrRamp n) 0 4 (getFld b (.arrRamp n) 0 4))
  | .arrAbftCtl n => some (modArr (writePlain b (.arrAbftCtl n) v) n (fun a => { a with abftCount := 0 }))
  | .klnCfg => some (let c := writePlain b .klnCfg v
      if bitsOf v.toNat 3 0 ≤ 8 then c else setFld c .klnCfg 0 4 (getFld b .klnCfg 0 4))
  | .strResume => some (strResume b (Fin.ofNat 16 (bitsOf v.toNat 3 0)))
  | .strPortmapCfg => some (writePortmap b none v)
  | .strPortmap k => some (writePortmap b (some k) v)
  | .strSplit c => some (writeSplit b c v)
  | .schCtl => some (writeCtl b v)
  | .schFixed => some (writeFixed b v)
  | .schCqBase => some (writeCq b false v)
  | .schCqSize => some (writeCq b true v)
  | .schCqTail => some (writeTail b v)
  | .schLogSize c => some (writeLogSize b c v)
  | .schPegCfg p => some (writePegCfg b p v)
  | .schPeg p => some (writePeg b p v)
  | .schWin c k => some (writeWin b c k v)
  | .chnCfg => some (writeChnCfg b v)
  | .fabPeer n => some (writePeer b n v)
  | .chkCtl n => some (chkRegWrite b n .ctl v)
  | .chkValue n => some (chkRegWrite b n .value v)
  | .chkExpect n => some (chkRegWrite b n .expect v)
  | .chkFeed n => some (chkFeedReg b n v)
  | .mgtPwr => some (writePwr b v)
  | .mgtClkCfg => some (writeClkCfg b v)
  | .mgtConeLimits => some (writeConeLimits b v)
  | .mgtBootCtl => some (writeBootCtl b v)
  | .mgtBootPtr => some (writeBootPtr b v)
  | .mgtBootData => some (writeBootData b v)
  | .xltInval => some (writeInval b v)
  | .xltRoot c => some (writeRoot b c v)
  | .dbgResp k => some (writeResp b k v)
  | .dbgRespGo => some (writeRespGo b v)
  | .dbgSteward => some (writeSteward b v)
  | _ => none

/-- A write of a register; one of an array that is disabled or retired is ignored (R3). -/
def writeReg (b : Block) (r : Reg) (v : W64) : Block :=
  if r.arrOf.any (fun n => !usable b n) then b else (writeSpecial b v r).getD (writePlain b r v)

/-! ### The control port (R369 to R371) -/

/-- The registers of the DBG page that answer while the engine is locked (R403). -/
def Reg.openDbg : Reg → Bool
  | .dbgChal _ | .dbgChalStatus | .dbgResp _ | .dbgRespGo => true
  | _ => false

/-- An address of the DBG page that answers LOCKED (R370). -/
def dbgLocked (b : Block) (a : Nat) : Bool :=
  a / 0x10000 == 0x0E && getFld b .dbgChalStatus 0 1 == 0 && !(Reg.ofAddr a).any Reg.openDbg

/-- The error of an access, 0 when it is taken: FORMAT before UNAVAILABLE before LOCKED (R370). -/
def cpError (b : Block) (a be : Nat) : Nat :=
  if be != 255 || a % 8 != 0 then 1 else if !pageUp b a then 2 else if dbgLocked b a then 3 else 0

/-- A write through the control port. -/
def portWrite (b : Block) (a be : Nat) (v : W64) : Block :=
  if !cpOpen b then b
  else match cpError b a be with
    | 0 => respond (match Reg.ofAddr a with | some r => writeReg b r v | none => b) 0#64 0
    | e => respond b 0#64 e

/-- What hardware has counted in a read-clear field in this beat comes after the sample of a read in it (R9). -/
def beforeCoins (b : Block) (r : Reg) : Block :=
  r.fields.foldl (fun d f => match coinOf b r f.lo with
    | some k => if f.acc = .RC then setFld d r f.lo f.wid k.before else d
    | none => d) b

/-- The value that a read of a register in this beat samples (R8, R9). -/
def sampleReg (b : Block) (r : Reg) : W64 := readReg (beforeCoins b r) r

/-- A read: its read-clear fields clear after the sample, and what hardware has counted in them in this beat is applied after the clear (R8, R9). -/
def afterRead (b : Block) (r : Reg) : Block :=
  let c := r.fields.foldl (fun d f => match coinOf b r f.lo with
    | some k => if f.acc = .RC then setFld d r f.lo f.wid (min (2 ^ f.wid - 1) k.n) else d
    | none => d) (readClears b r)
  { c with coins := c.coins.map (fun k => if k.reg == r.addr then { k with before := 0 } else k) }

/-- A read through the control port: the value is sampled, then read-clear fields clear (R8, R371); a read of another size answers FORMAT (R7). -/
def portRead (b : Block) (a be : Nat) : Block :=
  if !cpOpen b then b
  else match cpError b a be with
    | 0 => (match Reg.ofAddr a with
      | some r => respond (if r.arrOf.any (fun n => !usable b n) then b else afterRead b r) (sampleReg b r) 0
      | none => respond b 0#64 0)
    | e => respond b 0#64 e

/-- NOTICE_SEND (R372). -/
def noticeSend (b : Block) : Block :=
  match b.notices with
  | [] => b
  | n :: r => if b.pins.rstCold && b.pins.powered then { b with notices := r, noticeOut := some n } else b

/-- IRQ_N is low (R373). -/
def irqLow (b : Block) : Bool :=
  live b && ((getFld b .engFaultCtl 33 1 == 1 && ptrWR b != ptrRD b) || getFld b .mgtSwdt 24 1 == 1)

/-! ### The test port (R389) -/

/-- The boundary register: management inputs, straps, status outputs, in the order of R368 from bit 0 (log 5). -/
def boundaryWord (b : Block) : Nat :=
  let p := b.pins
  b2n p.rstCold + b2n p.rstEng * 2 + b2n p.vwarn * 4 + b2n p.thermWarn * 8 + b2n p.thermTrip * 16 + b2n p.absent * 32
    + b2n (live b && getFld b .engStatus 0 1 == 1) * 64 + b2n p.pwrOffOk * 128 + p.arrayEn.toNat * 256 + p.engineIndex.toNat * 4096

/-- The test port takes an instruction; TRST_N low holds it in Test-Logic-Reset (R368, R389). -/
def setJtag (b : Block) (ir : BitVec 8) (f : Jtag → Jtag) : Block :=
  if !b.pins.powered then b
  else if b.pins.trst then { b with jtag := { f b.jtag with ir := ir } } else { b with jtag := Jtag.reset }

/-- BYPASS: one bit shifts through the bypass register. -/
def bypass (b : Block) (tdi : Bool) : Block :=
  setJtag b 0xFF#8 (fun j => { j with tdo := decide (j.ir = 0xFF#8) && j.dr.toNat % 2 == 1, dr := BitVec.ofNat 96 (b2n tdi) })

/-- DBGACC: bits 23:0 address, 87:24 data, 88 write (log 5). While the engine is locked it reaches the challenge and response registers
and otherwise acts as BYPASS (R389, R390, R403). -/
def dbgAcc (b : Block) (dr : BitVec 96) : Block :=
  let a := bitsOf dr.toNat 23 0
  let shut := fun (j : Jtag) => { j with dr := BitVec.ofNat 96 (dr.toNat % 2 ^ 24) }
  if !live b || !b.pins.trst || a / 0x10000 != 0x0E || a % 8 != 0 || !pageUp b a || !decide (b.rst ≠ .computeReset) then setJtag b 0x20#8 shut
  else if dbgLocked b a then bypass b (bitAt dr.toNat 95)
  else if bitAt dr.toNat 88 then
    setJtag (match Reg.ofAddr a with | some r => writeReg b r (BitVec.ofNat 64 (bitsOf dr.toNat 87 24)) | none => b) 0x20#8 (fun j => { j with dr := BitVec.ofNat 96 (dr.toNat % 2 ^ 89) })
  else
    match Reg.ofAddr a with
    | some r => setJtag (afterRead b r) 0x20#8 (fun j => { j with dr := BitVec.ofNat 96 (a + (sampleReg b r).toNat * 2 ^ 24) })
    | none => setJtag b 0x20#8 shut

/-! ### Meanings -/

/-- LAUNCH_ENTRY (R276). -/
def execLaunchEntry (ent : List Byte) (img : List (List Byte)) (err : Bool) (s : State) : Host.Outcome State Fault Refusal :=
  s.onLive (launchEntry ent img err)
/-- MP_READ_RESPONSE (R376, R377): tag 0x1840 is the command queue's. -/
def execMpReadResponse (tag : BitVec 13) (err : BitVec 2) (data : List Byte) (s : State) : Host.Outcome State Fault Refusal :=
  s.onLive (fun b => if tag = 0x1840#13 then launchResponse b (err != 0#2) data else jobAdvance (readResponse b tag.toNat err.toNat data))
/-- TAG_TIMEOUT (R328): tag 0x1840 is the command queue's. -/
def execTagTimeout (tag : BitVec 13) (s : State) : Host.Outcome State Fault Refusal :=
  s.onLive (fun b => if tag = 0x1840#13 then
      (if b.launchRead.any (fun q => decide (tagTimeoutLimit b ≤ b.beat - q.issued)) then launchResponse b true [] else b)
    else tagTimedOut b tag.toNat)
/-- NOTICE_SEND (R372). -/
def execNoticeSend (s : State) : Host.Outcome State Fault Refusal := s.onBlk noticeSend
/-- SCH_CTL action 0x1 (R249). -/
def execSchCtlPreempt (c : Ctx) (s : State) : Host.Outcome State Fault Refusal := s.onWrite .schCtl (fun b => preempt b c)
/-- PREEMPT_REST (R249). -/
def execPreemptRest (c : Ctx) (s : State) : Host.Outcome State Fault Refusal := s.onLive (fun b => preemptRest b c)
/-- SCH_CTL action 0x2 (R250). -/
def execSchCtlResume (c : Ctx) (s : State) : Host.Outcome State Fault Refusal := s.onWrite .schCtl (fun b => resumeCtx b c)
/-- Write of XLT_ROOT_Cc (R402). -/
def execXltRootWrite (c : Ctx) (v : W64) (s : State) : Host.Outcome State Fault Refusal := s.onWrite (.xltRoot c) (fun b => writeRoot b c v)
/-- Write of STR_SPLIT_Cc (R218). -/
def execStrSplitWrite (c : Ctx) (v : W64) (s : State) : Host.Outcome State Fault Refusal := s.onWrite (.strSplit c) (fun b => writeSplit b c v)
/-- Write of STR_PORTMAP_CFG or STR_PORTMAP_k (R378). -/
def execStrPortmapWrite (k : Option (Fin 32)) (v : W64) (s : State) : Host.Outcome State Fault Refusal := s.onWrite .strPortmapCfg (fun b => writePortmap b k v)
/-- Write of SCH_CQ_TAIL (R275). -/
def execSchCqTailWrite (v : W64) (s : State) : Host.Outcome State Fault Refusal := s.onWrite .schCqTail (fun b => writeTail b v)
/-- Write of SCH_CQ_BASE or SCH_CQ_SIZE (R275). -/
def execSchCqConfigWrite (size : Bool) (v : W64) (s : State) : Host.Outcome State Fault Refusal := s.onWrite .schCqSize (fun b => writeCq b size v)
/-- Write of SCH_PEG_CFG_Pp (R399). -/
def execSchPegCfgWrite (p : Peg) (v : W64) (s : State) : Host.Outcome State Fault Refusal := s.onWrite (.schPegCfg p) (fun b => writePegCfg b p v)
/-- Write of SCH_PEG_Pp (R237). -/
def execSchPegWrite (p : Peg) (v : W64) (s : State) : Host.Outcome State Fault Refusal := s.onWrite (.schPeg p) (fun b => writePeg b p v)
/-- Write of SCH_WIN_Cc_k (R400). -/
def execSchWinWrite (c : Ctx) (k : Fin 8) (v : W64) (s : State) : Host.Outcome State Fault Refusal := s.onWrite (.schWin c k) (fun b => writeWin b c k v)
/-- Write of SCH_FIXED (R247). -/
def execSchFixedWrite (v : W64) (s : State) : Host.Outcome State Fault Refusal := s.onWrite .schFixed (fun b => writeFixed b v)
/-- Write of SCH_LOG_SIZE_Cc (R398). -/
def execSchLogSizeWrite (c : Ctx) (v : W64) (s : State) : Host.Outcome State Fault Refusal := s.onWrite (.schLogSize c) (fun b => writeLogSize b c v)
/-- Write of MGT_RETIRE (R342). -/
def execMgtRetireRequest (v : W64) (s : State) : Host.Outcome State Fault Refusal := s.onWrite .mgtRetire (fun b => writePlain b .mgtRetire v)
/-- Write of DBG_RESP_GO (R404). -/
def execDbgRespGo (v : W64) (s : State) : Host.Outcome State Fault Refusal := s.onWrite .dbgRespGo (fun b => writeRespGo b v)
/-- Write of DBG_STEWARD (R405). -/
def execDbgStewardHalt (v : W64) (s : State) : Host.Outcome State Fault Refusal := s.onBlk (fun b => portWrite b 0x0E0200 255 v)
/-- Write of DBG_STEWARD with STEP = 1 and HALT as it stands (R405). -/
def execDbgStewardStep (s : State) : Host.Outcome State Fault Refusal :=
  s.onBlk (fun b => portWrite b 0x0E0200 255 (BitVec.ofNat 64 (getFld b .dbgSteward 0 1 + 2)))
/-- Read of DBG_MEM_DATA (R403). -/
def execDbgMemDataRead (s : State) : Host.Outcome State Fault Refusal := s.onBlk (fun b => portRead b 0x0E0218 255)
/-- A control-port read (R9, R371). -/
def execReadClearCounter (q : CpRead) (s : State) : Host.Outcome State Fault Refusal := s.onBlk (fun b => portRead b q.addr.toNat q.be.toNat)
/-- DBGACC (R389). -/
def execDbgacc (dr : BitVec 96) (s : State) : Host.Outcome State Fault Refusal := s.onBlk (fun b => dbgAcc b dr)
/-- IDCODE (R389). -/
def execIdcode (s : State) : Host.Outcome State Fault Refusal := s.onBlk (fun b => setJtag b 0x01#8 (fun j => { j with dr := 0x1D325A4F#96 }))
/-- SAMPLE/PRELOAD (R389). -/
def execSamplePreload (p : BitVec 16) (s : State) : Host.Outcome State Fault Refusal :=
  s.onBlk (fun b => setJtag b 0x02#8 (fun j => { j with dr := BitVec.ofNat 96 (boundaryWord b), boundary := p }))
/-- BYPASS (R389). -/
def execBypass (tdi : Bool) (s : State) : Host.Outcome State Fault Refusal := s.onBlk (fun b => bypass b tdi)
/-- A control-port write (R8, R370). -/
def execRegisterWrite (a : BitVec 24) (be : BitVec 8) (v : W64) (s : State) : Host.Outcome State Fault Refusal := s.onBlk (fun b => portWrite b a.toNat be.toNat v)
/-- Write of ARR_ABFT_CTL (R75). -/
def execArrAbftCtlWrite (n : Arr) (v : W64) (s : State) : Host.Outcome State Fault Refusal := s.onWrite (.arrAbftCtl n) (fun b => writeReg b (.arrAbftCtl n) v)

end Sys2Proof.Machine
end

