-- ==== Sys2Proof/Machine/Strands.lean ====
section
/-! DEFINITION. The strand instructions (R259): each is a dispatch opportunity of its strand for its own opcode (log 1). -/

namespace Sys2Proof.Machine

open Sys2Proof

/-- NOP (R264): nothing but its sync field. -/
def execNop (c : Ctx) (s : Strand) (st : State) : Host.Outcome State Fault Refusal := st.onLive (fun b => issue (fun w => wOpc w == 0x00) b c s)

/-- SETQ (R261). -/
def execSetq (c : Ctx) (s : Strand) (st : State) : Host.Outcome State Fault Refusal := st.onLive (fun b => issue (fun w => wOpc w == 0x01) b c s)

/-- ADDQ (R261). -/
def execAddq (c : Ctx) (s : Strand) (st : State) : Host.Outcome State Fault Refusal := st.onLive (fun b => issue (fun w => wOpc w == 0x02) b c s)

/-- JUMP (R262). -/
def execJump (c : Ctx) (s : Strand) (st : State) : Host.Outcome State Fault Refusal := st.onLive (fun b => issue (fun w => wOpc w == 0x03) b c s)

/-- LOOP (R262). -/
def execLoop (c : Ctx) (s : Strand) (st : State) : Host.Outcome State Fault Refusal := st.onLive (fun b => issue (fun w => wOpc w == 0x04) b c s)

/-- EVENT (R263). -/
def execEvent (c : Ctx) (s : Strand) (st : State) : Host.Outcome State Fault Refusal := st.onLive (fun b => issue (fun w => wOpc w == 0x05) b c s)

/-- YIELD (R235, R264). -/
def execYield (c : Ctx) (s : Strand) (st : State) : Host.Outcome State Fault Refusal := st.onLive (fun b => issue (fun w => wOpc w == 0x06) b c s)

/-- HALT (R264). -/
def execHalt (c : Ctx) (s : Strand) (st : State) : Host.Outcome State Fault Refusal := st.onLive (fun b => issue (fun w => wOpc w == 0x07) b c s)

/-- PWAIT (R236, R265). -/
def execPwait (c : Ctx) (s : Strand) (st : State) : Host.Outcome State Fault Refusal := st.onLive (fun b => issue (fun w => wOpc w == 0x08) b c s)

/-- PPOST (R236, R238, R265). -/
def execPpost (c : Ctx) (s : Strand) (st : State) : Host.Outcome State Fault Refusal := st.onLive (fun b => issue (fun w => wOpc w == 0x09) b c s)

/-- MARK (R240, R241, R266). -/
def execMark (c : Ctx) (s : Strand) (st : State) : Host.Outcome State Fault Refusal := st.onLive (fun b => issue (fun w => wOpc w == 0x0A) b c s)

/-- FENCE (R243). -/
def execFence (c : Ctx) (s : Strand) (st : State) : Host.Outcome State Fault Refusal := st.onLive (fun b => issue (fun w => wOpc w == 0x0B) b c s)

/-- LOAD (R211, R212): enters the load streamer. -/
def execLoad (c : Ctx) (s : Strand) (st : State) : Host.Outcome State Fault Refusal := st.onLive (fun b => issue (fun w => wOpc w == 0x10) b c s)

/-- STORE (R211, R212): enters the store streamer. -/
def execStore (c : Ctx) (s : Strand) (st : State) : Host.Outcome State Fault Refusal := st.onLive (fun b => issue (fun w => wOpc w == 0x11) b c s)

/-- COPY (R213): enters the load streamer. -/
def execCopy (c : Ctx) (s : Strand) (st : State) : Host.Outcome State Fault Refusal := st.onLive (fun b => issue (fun w => wOpc w == 0x12) b c s)

/-- FILL (R215): enters the store streamer. -/
def execFill (c : Ctx) (s : Strand) (st : State) : Host.Outcome State Fault Refusal := st.onLive (fun b => issue (fun w => wOpc w == 0x13) b c s)

/-- SHORT (R224): enters the short path. -/
def execShort (c : Ctx) (s : Strand) (st : State) : Host.Outcome State Fault Refusal := st.onLive (fun b => issue (fun w => wOpc w == 0x14) b c s)

/-- PASS (R57 to R60): enters its array. -/
def execPass (c : Ctx) (s : Strand) (st : State) : Host.Outcome State Fault Refusal := st.onLive (fun b => issue (fun w => wOpc w == 0x20) b c s)

/-- GANG (R69, R70): enters the queue of every member. -/
def execGang (c : Ctx) (s : Strand) (st : State) : Host.Outcome State Fault Refusal := st.onLive (fun b => issue (fun w => wOpc w == 0x21) b c s)

/-- WALL (R71, R267). -/
def execWall (c : Ctx) (s : Strand) (st : State) : Host.Outcome State Fault Refusal := st.onLive (fun b => issue (fun w => wOpc w == 0x22) b c s)

/-- SWAP (R248, R267). -/
def execSwap (c : Ctx) (s : Strand) (st : State) : Host.Outcome State Fault Refusal := st.onLive (fun b => issue (fun w => wOpc w == 0x23) b c s)

/-- GOPEN (R96, R97): enters the kiln. -/
def execGopen (c : Ctx) (s : Strand) (st : State) : Host.Outcome State Fault Refusal := st.onLive (fun b => issue (fun w => wOpc w == 0x28) b c s)

/-- GPARK (R106): enters the kiln. -/
def execGpark (c : Ctx) (s : Strand) (st : State) : Host.Outcome State Fault Refusal := st.onLive (fun b => issue (fun w => wOpc w == 0x29) b c s)

/-- GRESUME (R106): enters the kiln. -/
def execGresume (c : Ctx) (s : Strand) (st : State) : Host.Outcome State Fault Refusal := st.onLive (fun b => issue (fun w => wOpc w == 0x2A) b c s)

/-- GCLOSE (R103, R104): enters the kiln. -/
def execGclose (c : Ctx) (s : Strand) (st : State) : Host.Outcome State Fault Refusal := st.onLive (fun b => issue (fun w => wOpc w == 0x2B) b c s)

/-- GMERGE (R103, R105): enters the kiln. -/
def execGmerge (c : Ctx) (s : Strand) (st : State) : Host.Outcome State Fault Refusal := st.onLive (fun b => issue (fun w => wOpc w == 0x2C) b c s)

/-- GLZCFG (R139 to R142): enters its array. -/
def execGlzcfg (c : Ctx) (s : Strand) (st : State) : Host.Outcome State Fault Refusal := st.onLive (fun b => issue (fun w => wOpc w == 0x30) b c s)

/-- VOP (R163): enters the vector engine. -/
def execVop (c : Ctx) (s : Strand) (st : State) : Host.Outcome State Fault Refusal := st.onLive (fun b => issue (fun w => wOpc w == 0x38) b c s)

/-- NORM (R165): enters the vector engine. -/
def execNorm (c : Ctx) (s : Strand) (st : State) : Host.Outcome State Fault Refusal := st.onLive (fun b => issue (fun w => wOpc w == 0x39) b c s)

/-- RULECFG with ACTION BEGIN (R172): enters the vector engine. -/
def execRulecfgBegin (c : Ctx) (s : Strand) (st : State) : Host.Outcome State Fault Refusal := st.onLive (fun b => issue (fun w => wOpc w == 0x3A && bitsOf w 33 32 == 0) b c s)

/-- RULECFG with ACTION ABORT (R172): enters the vector engine. -/
def execRulecfgAbort (c : Ctx) (s : Strand) (st : State) : Host.Outcome State Fault Refusal := st.onLive (fun b => issue (fun w => wOpc w == 0x3A && bitsOf w 33 32 == 1) b c s)

/-- RULECFG with ACTION CHECK (R172): enters the vector engine. -/
def execRulecfgCheck (c : Ctx) (s : Strand) (st : State) : Host.Outcome State Fault Refusal := st.onLive (fun b => issue (fun w => wOpc w == 0x3A && bitsOf w 33 32 == 2) b c s)

/-- UPDATE (R174): enters the vector engine. -/
def execUpdate (c : Ctx) (s : Strand) (st : State) : Host.Outcome State Fault Refusal := st.onLive (fun b => issue (fun w => wOpc w == 0x3B) b c s)

/-- PRECOND (R183): enters the vector engine. -/
def execPrecond (c : Ctx) (s : Strand) (st : State) : Host.Outcome State Fault Refusal := st.onLive (fun b => issue (fun w => wOpc w == 0x3C) b c s)

/-- LINE (R191 to R194): enters the line. -/
def execLine (c : Ctx) (s : Strand) (st : State) : Host.Outcome State Fault Refusal := st.onLive (fun b => issue (fun w => wOpc w == 0x40) b c s)

/-- CHSEND (R268): enters the chain unit. -/
def execChsend (c : Ctx) (s : Strand) (st : State) : Host.Outcome State Fault Refusal := st.onLive (fun b => issue (fun w => wOpc w == 0x48) b c s)

/-- CHRECV (R268): enters the chain unit. -/
def execChrecv (c : Ctx) (s : Strand) (st : State) : Host.Outcome State Fault Refusal := st.onLive (fun b => issue (fun w => wOpc w == 0x49) b c s)

/-- CHKSEED (R270): enters its channel's queue. -/
def execChkseed (c : Ctx) (s : Strand) (st : State) : Host.Outcome State Fault Refusal := st.onLive (fun b => issue (fun w => wOpc w == 0x50) b c s)

/-- CHKCMP (R270): enters its channel's queue. -/
def execChkcmp (c : Ctx) (s : Strand) (st : State) : Host.Outcome State Fault Refusal := st.onLive (fun b => issue (fun w => wOpc w == 0x51) b c s)

/-- CKPT (R272, R273): enters the store streamer. -/
def execCkpt (c : Ctx) (s : Strand) (st : State) : Host.Outcome State Fault Refusal := st.onLive (fun b => issue (fun w => wOpc w == 0x58) b c s)

/-- RESTORE (R272, R273): enters the load streamer. -/
def execRestore (c : Ctx) (s : Strand) (st : State) : Host.Outcome State Fault Refusal := st.onLive (fun b => issue (fun w => wOpc w == 0x59) b c s)

/-- YIELD_EXPIRY (R235). -/
def execYieldExpiry (c : Ctx) (s : Strand) (st : State) : Host.Outcome State Fault Refusal := st.onLive (fun b => yieldExpiry b c s)

end Sys2Proof.Machine
end

