-- ==== Sys2Proof/Machine/Dispatch.lean ====
section
/-! DEFINITION. Dispatch: one arm per command, each a direct call of its meaning. -/

namespace Sys2Proof.Machine

open Sys2Proof

def exec (i : Instr) (s : State) : Host.Outcome State Fault Refusal :=
  match i with
  | .nop c q => Sys2Proof.Machine.execNop c q s
  | .setq c q => Sys2Proof.Machine.execSetq c q s
  | .addq c q => Sys2Proof.Machine.execAddq c q s
  | .jump c q => Sys2Proof.Machine.execJump c q s
  | .loop c q => Sys2Proof.Machine.execLoop c q s
  | .event c q => Sys2Proof.Machine.execEvent c q s
  | .yield c q => Sys2Proof.Machine.execYield c q s
  | .yieldExpiry c q => Sys2Proof.Machine.execYieldExpiry c q s
  | .halt c q => Sys2Proof.Machine.execHalt c q s
  | .pwait c q => Sys2Proof.Machine.execPwait c q s
  | .ppost c q => Sys2Proof.Machine.execPpost c q s
  | .mark c q => Sys2Proof.Machine.execMark c q s
  | .fence c q => Sys2Proof.Machine.execFence c q s
  | .load c q => Sys2Proof.Machine.execLoad c q s
  | .store c q => Sys2Proof.Machine.execStore c q s
  | .copy c q => Sys2Proof.Machine.execCopy c q s
  | .fill c q => Sys2Proof.Machine.execFill c q s
  | .short c q => Sys2Proof.Machine.execShort c q s
  | .pass c q => Sys2Proof.Machine.execPass c q s
  | .passStart n => Sys2Proof.Machine.execPassStart n s
  | .inputCycle n g => Sys2Proof.Machine.execInputCycle n g s
  | .rowRead n => Sys2Proof.Machine.execRowRead n s
  | .passComplete e => Sys2Proof.Machine.execPassComplete e s
  | .gang c q => Sys2Proof.Machine.execGang c q s
  | .wall c q => Sys2Proof.Machine.execWall c q s
  | .swap c q => Sys2Proof.Machine.execSwap c q s
  | .rampStep n => Sys2Proof.Machine.execRampStep n s
  | .arrayClockGate n => Sys2Proof.Machine.execArrayClockGate n s
  | .preemptStop n g => Sys2Proof.Machine.execPreemptStop n g s
  | .gopen c q => Sys2Proof.Machine.execGopen c q s
  | .gpark c q => Sys2Proof.Machine.execGpark c q s
  | .gresume c q => Sys2Proof.Machine.execGresume c q s
  | .gclose c q => Sys2Proof.Machine.execGclose c q s
  | .gmerge c q => Sys2Proof.Machine.execGmerge c q s
  | .gmergeReoffer g => Sys2Proof.Machine.execGmergeReoffer g s
  | .kilnTransferDone x => Sys2Proof.Machine.execKilnTransferDone x s
  | .kilnMergeComplete g => Sys2Proof.Machine.execKilnMergeComplete g s
  | .peerTimeout g => Sys2Proof.Machine.execPeerTimeout g s
  | .glzcfg c q => Sys2Proof.Machine.execGlzcfg c q s
  | .glzcfgLoad n => Sys2Proof.Machine.execGlzcfgLoad n s
  | .glazeCompareResult n => Sys2Proof.Machine.execGlazeCompareResult n s
  | .glazeRowOut n => Sys2Proof.Machine.execGlazeRowOut n s
  | .wheelService w => Sys2Proof.Machine.execWheelService w s
  | .vop c q => Sys2Proof.Machine.execVop c q s
  | .norm c q => Sys2Proof.Machine.execNorm c q s
  | .rulecfgBegin c q => Sys2Proof.Machine.execRulecfgBegin c q s
  | .rulecfgAbort c q => Sys2Proof.Machine.execRulecfgAbort c q s
  | .rulecfgCheck c q => Sys2Proof.Machine.execRulecfgCheck c q s
  | .update c q => Sys2Proof.Machine.execUpdate c q s
  | .precond c q => Sys2Proof.Machine.execPrecond c q s
  | .sequencerJobStart => Sys2Proof.Machine.execSequencerJobStart s
  | .rulePassEntry n => Sys2Proof.Machine.execRulePassEntry n s
  | .line c q => Sys2Proof.Machine.execLine c q s
  | .lineStripRestart => Sys2Proof.Machine.execLineStripRestart s
  | .chsend c q => Sys2Proof.Machine.execChsend c q s
  | .chrecv c q => Sys2Proof.Machine.execChrecv c q s
  | .chkseed c q => Sys2Proof.Machine.execChkseed c q s
  | .chkcmp c q => Sys2Proof.Machine.execChkcmp c q s
  | .ckpt c q => Sys2Proof.Machine.execCkpt c q s
  | .restore c q => Sys2Proof.Machine.execRestore c q s
  | .instructionComplete e => Sys2Proof.Machine.execInstructionComplete e s
  | .streamRequestIssue sid => Sys2Proof.Machine.execStreamRequestIssue sid s
  | .translationWalkDone wid ptes err => Sys2Proof.Machine.execTranslationWalkDone wid ptes err s
  | .mpReadResponse tag err data => Sys2Proof.Machine.execMpReadResponse tag err data s
  | .mpWriteCompletion tag err => Sys2Proof.Machine.execMpWriteCompletion tag err s
  | .tagTimeout tag => Sys2Proof.Machine.execTagTimeout tag s
  | .launchEntry ent img err => Sys2Proof.Machine.execLaunchEntry ent img err s
  | .chainFrameArrival hdr data => Sys2Proof.Machine.execChainFrameArrival hdr data s
  | .chainFrameSend => Sys2Proof.Machine.execChainFrameSend s
  | .chainCreditReturn cnt => Sys2Proof.Machine.execChainCreditReturn cnt s
  | .chainFrameRepair => Sys2Proof.Machine.execChainFrameRepair s
  | .chainHoldLimit => Sys2Proof.Machine.execChainHoldLimit s
  | .chainLinkReset downstream => Sys2Proof.Machine.execChainLinkReset downstream s
  | .fabRxWrite hdr data => Sys2Proof.Machine.execFabRxWrite hdr data s
  | .fabRxWack hdr => Sys2Proof.Machine.execFabRxWack hdr s
  | .fabRxOffer hdr => Sys2Proof.Machine.execFabRxOffer hdr s
  | .fabRxGrant hdr => Sys2Proof.Machine.execFabRxGrant hdr s
  | .fabRxCdata hdr data => Sys2Proof.Machine.execFabRxCdata hdr data s
  | .fabRxCdone hdr => Sys2Proof.Machine.execFabRxCdone hdr s
  | .fabRxPost hdr => Sys2Proof.Machine.execFabRxPost hdr s
  | .fabRxPack hdr => Sys2Proof.Machine.execFabRxPack hdr s
  | .fabRxRevoke hdr => Sys2Proof.Machine.execFabRxRevoke hdr s
  | .fabRxRack hdr => Sys2Proof.Machine.execFabRxRack hdr s
  | .fabRetryResend tag => Sys2Proof.Machine.execFabRetryResend tag s
  | .fabTagTimeout tag => Sys2Proof.Machine.execFabTagTimeout tag s
  | .grantTimeout slot => Sys2Proof.Machine.execGrantTimeout slot s
  | .noticeSend => Sys2Proof.Machine.execNoticeSend s
  | .stewardHeartbeat => Sys2Proof.Machine.execStewardHeartbeat s
  | .swdtLost => Sys2Proof.Machine.execSwdtLost s
  | .scrubPatrol => Sys2Proof.Machine.execScrubPatrol s
  | .coneWindowEnd => Sys2Proof.Machine.execConeWindowEnd s
  | .vwarnAssert => Sys2Proof.Machine.execVwarnAssert s
  | .vwarnSettleExpiry => Sys2Proof.Machine.execVwarnSettleExpiry s
  | .thermWarnAssert => Sys2Proof.Machine.execThermWarnAssert s
  | .thermWarnClear => Sys2Proof.Machine.execThermWarnClear s
  | .thermTripAssert => Sys2Proof.Machine.execThermTripAssert s
  | .thermSettleExpiry => Sys2Proof.Machine.execThermSettleExpiry s
  | .rstColdNAssert => Sys2Proof.Machine.execRstColdNAssert s
  | .rstColdNRelease arrayEn engineIndex => Sys2Proof.Machine.execRstColdNRelease arrayEn engineIndex s
  | .rstEngNAssert => Sys2Proof.Machine.execRstEngNAssert s
  | .rstEngNRelease => Sys2Proof.Machine.execRstEngNRelease s
  | .engAbsentChange absent => Sys2Proof.Machine.execEngAbsentChange absent s
  | .bootVerifyDone => Sys2Proof.Machine.execBootVerifyDone s
  | .startUpEnd arrFail unitFail found => Sys2Proof.Machine.execStartUpEnd arrFail unitFail found s
  | .engineResetReady arrFail => Sys2Proof.Machine.execEngineResetReady arrFail s
  | .engResetContext c => Sys2Proof.Machine.execEngResetContext c s
  | .engResetEngine => Sys2Proof.Machine.execEngResetEngine s
  | .fenceComplete c => Sys2Proof.Machine.execFenceComplete c s
  | .fenceLimitExpiry c => Sys2Proof.Machine.execFenceLimitExpiry c s
  | .schCtlPreempt c => Sys2Proof.Machine.execSchCtlPreempt c s
  | .preemptRest c => Sys2Proof.Machine.execPreemptRest c s
  | .schCtlResume c => Sys2Proof.Machine.execSchCtlResume c s
  | .resumeEntry n => Sys2Proof.Machine.execResumeEntry n s
  | .strResume c => Sys2Proof.Machine.execStrResume c s
  | .xltInvalPage c va => Sys2Proof.Machine.execXltInvalPage c va s
  | .xltInvalContext c => Sys2Proof.Machine.execXltInvalContext c s
  | .xltInvalAll => Sys2Proof.Machine.execXltInvalAll s
  | .xltRootWrite c v => Sys2Proof.Machine.execXltRootWrite c v s
  | .strSplitWrite c v => Sys2Proof.Machine.execStrSplitWrite c v s
  | .strPortmapWrite k v => Sys2Proof.Machine.execStrPortmapWrite k v s
  | .schCqTailWrite v => Sys2Proof.Machine.execSchCqTailWrite v s
  | .schCqConfigWrite size v => Sys2Proof.Machine.execSchCqConfigWrite size v s
  | .schPegCfgWrite p v => Sys2Proof.Machine.execSchPegCfgWrite p v s
  | .schPegWrite p v => Sys2Proof.Machine.execSchPegWrite p v s
  | .schWinWrite c k v => Sys2Proof.Machine.execSchWinWrite c k v s
  | .schFixedWrite v => Sys2Proof.Machine.execSchFixedWrite v s
  | .schLogSizeWrite c v => Sys2Proof.Machine.execSchLogSizeWrite c v s
  | .fabPeerWrite n v => Sys2Proof.Machine.execFabPeerWrite n v s
  | .chnCfgWrite v => Sys2Proof.Machine.execChnCfgWrite v s
  | .chkFeed n v => Sys2Proof.Machine.execChkFeed n v s
  | .chkRegisterWrite n r v => Sys2Proof.Machine.execChkRegisterWrite n r v s
  | .engFaultPtrWrite v => Sys2Proof.Machine.execEngFaultPtrWrite v s
  | .mgtRetireRequest v => Sys2Proof.Machine.execMgtRetireRequest v s
  | .mgtPwrReqP0 => Sys2Proof.Machine.execMgtPwrReqP0 s
  | .mgtPwrReqP1 => Sys2Proof.Machine.execMgtPwrReqP1 s
  | .mgtPwrReqP2 => Sys2Proof.Machine.execMgtPwrReqP2 s
  | .mgtPwrReqP3 => Sys2Proof.Machine.execMgtPwrReqP3 s
  | .p1Entry => Sys2Proof.Machine.execP1Entry s
  | .powerDown => Sys2Proof.Machine.execPowerDown s
  | .mgtClkCfgWrite v => Sys2Proof.Machine.execMgtClkCfgWrite v s
  | .mgtConeLimitsWrite v => Sys2Proof.Machine.execMgtConeLimitsWrite v s
  | .mgtBootPtrWrite v => Sys2Proof.Machine.execMgtBootPtrWrite v s
  | .mgtBootDataWrite v => Sys2Proof.Machine.execMgtBootDataWrite v s
  | .mgtBootGo v => Sys2Proof.Machine.execMgtBootGo v s
  | .dbgRespGo v => Sys2Proof.Machine.execDbgRespGo v s
  | .dbgVerifyDone => Sys2Proof.Machine.execDbgVerifyDone s
  | .dbgStewardHalt v => Sys2Proof.Machine.execDbgStewardHalt v s
  | .dbgStewardStep => Sys2Proof.Machine.execDbgStewardStep s
  | .dbgMemDataRead => Sys2Proof.Machine.execDbgMemDataRead s
  | .readClearCounter req => Sys2Proof.Machine.execReadClearCounter req s
  | .dbgacc dr => Sys2Proof.Machine.execDbgacc dr s
  | .idcode => Sys2Proof.Machine.execIdcode s
  | .samplePreload preload => Sys2Proof.Machine.execSamplePreload preload s
  | .bypass tdi => Sys2Proof.Machine.execBypass tdi s
  | .registerWrite addr be data => Sys2Proof.Machine.execRegisterWrite addr be data s
  | .vwarnNRelease => Sys2Proof.Machine.execVwarnNRelease s
  | .thermTripNRelease => Sys2Proof.Machine.execThermTripNRelease s
  | .powerRemoval => Sys2Proof.Machine.execPowerRemoval s
  | .arrAbftCtlWrite n v => Sys2Proof.Machine.execArrAbftCtlWrite n v s

end Sys2Proof.Machine
end

