-- ==== Sys2Proof/Safety.lean ====
section
/-! DEFINITION. What a safe run is, and the terms the statements are written in: a taken register write, a dispatch, what changed between two
blocks, the commands that events of pins are, and the engine held in cold reset. -/

namespace Sys2Proof

open Sys2Proof.Machine

/-- A state from which the next step neither faults nor refuses. -/
def safeStep (s : State) : Prop := ∃ t, step s = .next t

/-- The control port takes a request, and the page of `r` answers (R370, R371). -/
def portTakes (s : State) (r : Reg) : Bool := cpOpen s.blk && pageUp s.blk r.addr

/-- The completion of a taken access that returns no data, under the ID of its request (R369). -/
def okRsp (b : Block) : CpRsp := ⟨b.pins.cpReqId, 0#64, 0#2⟩

/-- `s` after a taken register write that leaves the block as `b`, with its completion. -/
def wrote (s : State) (b : Block) : State := { s with blk := respond b 0#64 0 }

/-- From `b` to `d` nothing but registers, with what hardware has counted and set in them in this beat, and the responses of the control port has
changed (R9, R369). -/
def onlyRegs (b d : Block) : Prop := d = { b with regs := d.regs, coins := d.coins, cp := d.cp, cpQ := d.cpQ }

/-- From `b` to `d` nothing but register `r` and the responses of the control port has changed. -/
def onlyReg (r : Reg) (b d : Block) : Prop := onlyRegs b d ∧ ∀ r', r' ≠ r → rawReg d r' = rawReg b r'

/-- The notice `n` joins the queue of `b`, behind those of earlier beats and before those of its own beat with a higher KIND (R372). -/
def noticeAdded (b d : Block) (n : W64) : Prop :=
  ∃ a z, b.notices = a ++ z ∧ d.notices = a ++ n :: z ∧ b.notices.length - b.noticeNew ≤ a.length
    ∧ ∀ x ∈ z.head?, n.toNat % 16 < x.toNat % 16

/-- Nothing waits that a beat lets go on: no running job, no post, no packet in the loopback, no REVOKE of a fence. -/
structure QuietBeat (b : Block) : Prop where
  job : jobRunning b = none
  posts : b.posts = []
  loop : b.fabLoop = []
  sent : ∀ c f, (getCtx b c).fence = some f → f.unsent = []

/-- Strand `q` of context `c` dispatches the word `w` now: the engine runs, the issue stage advances, the strand may fetch, the word at its
position is `w`, its static and state checks pass, the rotation takes this strand, and no word of SRAM holds an error (R233, R234, R251, R256). -/
structure Dispatches (b : Block) (c : Ctx) (q : Strand) (w : BitVec 128) : Prop where
  live : live b = true
  issues : issueOn b = true
  strand : strandLive b c q = true
  fetched : fetch b c q = .word w
  static : staticOk q w.toNat = true
  picked : pick b = some (4 * c.val + q.val)
  ecc1 : b.ecc1 = []
  ecc2 : b.ecc2 = []
  checks : opBad b c q w.toNat = []

/-- No scalar slot of `b` but slot `k` of strand `q` of context `c` differs in `d` (R257). -/
def onlySlot (c : Ctx) (q : Strand) (k : Fin 32) (b d : Block) : Prop :=
  ∀ c' q' k', (c', q', k') ≠ (c, q, k) → getSlot d c' q' k' = getSlot b c' q' k'

/-- What the units hold is the same in both blocks: memory, arrays, groups, kiln, streams, requests, sequencer, line and chain. -/
def sameUnits (b d : Block) : Prop :=
  d.sram = b.sram ∧ d.boot = b.boot ∧ d.arrays = b.arrays ∧ d.groups = b.groups ∧ d.kiln = b.kiln ∧ d.streams = b.streams ∧ d.mp = b.mp
    ∧ d.tlb = b.tlb ∧ d.jobs = b.jobs ∧ d.rules = b.rules ∧ d.line = b.line ∧ d.chain = b.chain

/-- Commands that are an event of a management pin or of the supply (R347, R355 to R357, R368, R381, R386). -/
def pinEvent : Instr → Bool
  | .vwarnAssert | .vwarnNRelease | .thermWarnAssert | .thermWarnClear | .thermTripAssert | .thermTripNRelease | .rstColdNAssert
  | .rstColdNRelease _ _ | .rstEngNAssert | .rstEngNRelease | .engAbsentChange _ | .powerDown | .powerRemoval => true
  | _ => false

/-- Commands that reach an engine that does not run: events of pins, the test port, what passes the bypass of the chain, and a notice already
queued. -/
def reachesDead : Instr → Bool
  | .idcode | .samplePreload _ | .bypass _ | .dbgacc _ | .chainFrameArrival _ _ | .chainCreditReturn _ | .chainLinkReset _ | .noticeSend => true
  | i => pinEvent i

/-- Everything the engine holds is at its reset value but for the pins, the test port, what passes the bypass (a frame, credits, a link reset), and
the counters with which the model numbers free values (R333, R381, R388). -/
def atReset (b : Block) : Prop :=
  b = { lose b b.pins with chain := { ChainSt.reset with
    out := b.chain.out, creditsOut := b.chain.creditsOut, lrstDown := b.chain.lrstDown, lrstUp := b.chain.lrstUp } }

/-- While RST_COLD_N is low the engine is at reset (R333). -/
def coldHeld (s : State) : Prop := s.blk.pins.rstCold = false → atReset s.blk

/-- A context state that a context reset takes (R326). -/
def resettable (x : CtxState) : Bool :=
  match x with
  | .running | .done | .preempting | .preempted | .faulted => true
  | .free | .fencing | .quarantine => false

/-- The units' clocks run: neither frozen by the supply nor stopped by the temperature nor gated by P1 (R347, R357, R358). -/
structure UnitsRun (b : Block) : Prop where
  live : live b = true
  cold : frozenV b = false
  cool : stoppedT b = false
  awake : awake b = true

/-- No word of SRAM holds an error (R16). -/
def eccClean (b : Block) : Prop := b.ecc1 = [] ∧ b.ecc2 = []

/-- A running engine meets a request of kind `kind` with `len` bytes of payload, in its right form, with room for the answer (R292, R383). -/
structure RxMeets (b : Block) (hdr : BitVec 512) (kind len : Nat) : Prop where
  live : live b = true
  isKind : pkKind hdr.toNat = kind
  beats : len = hdrBytes hdr
  room : answerRoom b = true

/-- The only tag that an answer of kind `kind` names is `x`, a live tag of the answer's context and generation (R296). -/
structure RxAnswers (b : Block) (hdr : BitVec 512) (kind : Nat) (x : FabTag) : Prop where
  live : live b = true
  isKind : pkKind hdr.toNat = kind
  beats : hdrBytes hdr = 0
  held : x ∈ b.fabTags
  named : x.tag = pkTag hdr.toNat
  only : ∀ y ∈ b.fabTags, y.tag = x.tag → y = x
  ctx : x.ctx = pkDstCtx hdr.toNat
  gen : x.gen.toNat = pkDstGen hdr.toNat
  current : x.zombie = false

/-- The answer `hdr` to a packet that `b` has met goes out: by the loopback where it names this engine, else on a lane (R291, R292). -/
def answered (b d : Block) (hdr : BitVec 512) : Prop :=
  ∃ p : FabPkt, p.hdr = hdr ∧ p.data = [] ∧ (if isLoop b hdr = true then p ∈ d.fabLoop else p ∈ d.fabTx)

/-- No tag of the block has number `n`. -/
def tagFree (b : Block) (n : Nat) : Prop := ∀ y ∈ b.fabTags, y.tag ≠ n

/-- No M-port request of the block has tag `n`. -/
def mpFree (b : Block) (n : Nat) : Prop := ∀ y ∈ b.mp, y.tag ≠ n

/-- Entry `e` of number `i` is under way in its unit and posts nothing when it completes. -/
structure Works (b : Block) (i : Nat) (e : Entry) : Prop where
  live : live b = true
  found : findEntry b i = some e
  noPost : wordPen e.word = false

end Sys2Proof
end

