-- ==== Sys2Proof/Certificates/Slice0/Obligations.lean ====
section
/-! DEFINITION. The statements for the provers. Numbers in brackets are rules R<n> of spec/; "log <n>" is an entry of notes/assumptions. -/

open Sys2Proof Sys2Proof.Machine

/-! ### The queue, time, and the machine as a whole -/

/-- The command at the front runs with the queue's rest (the block's way of taking commands; log 1). -/
def Obligations.StepRunsTheFrontCommand : Prop :=
  ∀ (c : Instr) (s : State), step { s with pending := c :: s.pending } = exec c s

/-- With no command waiting one beat passes: three ARR cycles for the context time of the RUNNING contexts, and where nothing waits that a beat lets
go on (a running job, a post, a REVOKE, a packet of the loopback) nothing moves in the units; what hardware counted and set is of the past beat, and
the compute part leaves its reset while RST_ENG_N is high; an engine that does not run stays as it is (R9, R17, R242, R330; that a beat is what an
empty queue does is the model's choice, log 3). -/
def Obligations.BeatPassesWhenNoCommandWaits : Prop :=
  ∀ s : State, s.pending = [] → ∃ t : State, step s = .next t ∧ t.pending = []
    ∧ (live s.blk = false → t = s)
    ∧ (live s.blk = true → QuietBeat s.blk → t.blk.beat = s.blk.beat + 1 ∧ t.blk.regs = s.blk.regs ∧ t.blk.pegs = s.blk.pegs ∧ t.blk.entries = s.blk.entries
        ∧ t.blk.notices = s.blk.notices ∧ t.blk.pins = s.blk.pins ∧ sameUnits s.blk t.blk ∧ t.blk.coins = [] ∧ t.blk.noticeNew = 0
        ∧ t.blk.rst = (if s.blk.rst = .computeReset ∧ s.blk.pins.rstEng = true then .steward else s.blk.rst)
        ∧ ∀ c, (getCtx t.blk c).elapsed = (if (getCtx s.blk c).state = .running then (getCtx s.blk c).elapsed + 3#64 else (getCtx s.blk c).elapsed)
            ∧ (getCtx t.blk c).state = (getCtx s.blk c).state ∧ (getCtx t.blk c).gen = (getCtx s.blk c).gen
            ∧ (getCtx t.blk c).strands = (getCtx s.blk c).strands)

/-- Every command answers a next state and leaves the queue's rest as it is: the spec gives every event of this block an effect. -/
def Obligations.EveryCommandAnswers : Prop :=
  ∀ (i : Instr) (s : State), ∃ t : State, exec i s = .next t ∧ t.pending = s.pending

/-- Only an event of a pin or of the supply moves the management pins; and of these, none but the rise of RST_COLD_N changes what was sampled of the
straps: a change of the straps is ignored until then (R1, R368). -/
def Obligations.PinsMoveOnlyByPinEvents : Prop :=
  (∀ (i : Instr) (s t : State), pinEvent i = false → exec i s = .next t → t.blk.pins = s.blk.pins)
  ∧ (∀ (i : Instr) (s t : State), (∀ en ix, i ≠ .rstColdNRelease en ix) → exec i s = .next t →
      t.blk.pins.arrayEn = s.blk.pins.arrayEn ∧ t.blk.pins.engineIndex = s.blk.pins.engineIndex)

/-- INVARIANT: the SRAM and the boot SRAM keep their canonical form, addresses rising and no byte listed that reads as an unlisted one does, whatever command
comes, so that stores that read alike are equal (R6, R16, R359; the form is the model's own, log 5). It holds from every state that meets it. -/
def Obligations.MemoryStaysCanonical : Prop :=
  ∀ s t : State, Memory.wf s.blk.sram = true → Memory.wf s.blk.boot = true → step s = .next t →
    Memory.wf t.blk.sram = true ∧ Memory.wf t.blk.boot = true

/-- An engine in cold reset, in P3 or without power takes nothing but events of its pins, the test port, the frames of the bypass and the
notices already queued: every other command leaves it as it is (R371, R388, R391). -/
def Obligations.DeadEngineIgnoresCommands : Prop :=
  ∀ (i : Instr) (s : State), live s.blk = false → reachesDead i = false → exec i s = .next s

/-- INVARIANT: while RST_COLD_N is low every register and everything else the engine holds stands at its reset value, whatever command comes
(R333). It holds of every state, not only of those that a run reaches. -/
def Obligations.ColdResetHoldsTheEngine : Prop :=
  ∀ s t : State, coldHeld s → step s = .next t → coldHeld t

/-- The invariant holds at reset, where RST_COLD_N is low and every register has its reset value. -/
def Obligations.ResetIsColdHeld : Prop :=
  coldHeld State.reset ∧ State.reset.blk.pins.rstCold = false ∧ (∀ r, rawReg State.reset.blk r = r.resetVal) ∧ State.reset.pending = []

/-! ### Cold reset and the straps -/

/-- RST_COLD_N falls: every register, class K included, returns to its reset value, and nothing the engine held survives: contexts are FREE
under generation 0, groups FREE, pegs 0, no instruction, stream, request or translation is left; the bypass closes (R333).
Completes: rstColdNAssert. -/
def Obligations.ColdAssertLosesEverything : Prop :=
  ∀ s : State, s.blk.pins.rstCold = true → ∃ t : State, exec .rstColdNAssert s = .next t
    ∧ t.blk.pins = { s.blk.pins with rstCold := false, pwrOffOk := false } ∧ atReset t.blk
    ∧ (∀ r, rawReg t.blk r = r.resetVal) ∧ (∀ c, (getCtx t.blk c).state = .free ∧ (getCtx t.blk c).gen = 0#16)
    ∧ (∀ g, (getGrp t.blk g).state = .free) ∧ (∀ p, getPeg t.blk p = ⟨0#16, 0#16⟩)
    ∧ t.blk.entries = [] ∧ t.blk.streams = [] ∧ t.blk.mp = [] ∧ t.blk.tlb = [] ∧ t.blk.kiln = [] ∧ bypassed t.blk = true

/-- RST_COLD_N rises at a present engine: the straps are sampled into the pins' record and ENG_CONFIG, the grade follows from the number of
ARRAY_EN bits set, and a set of straps without a grade ends the start in STRAP_INVALID, any other waits for its image (R1, R2, R362).
Completes: rstColdNRelease. -/
def Obligations.ColdReleaseSamplesTheStraps : Prop :=
  ∀ (s : State) (en : BitVec 4) (ix : BitVec 3), s.blk.pins.rstCold = false → s.blk.pins.absent = false →
    ∃ t : State, exec (.rstColdNRelease en ix) s = .next t ∧ t.blk.pins.rstCold = true
      ∧ t.blk.pins.arrayEn = en ∧ t.blk.pins.engineIndex = ix
      ∧ getFld t.blk .engConfig 0 4 = en.toNat ∧ getFld t.blk .engConfig 4 4 = en.toNat ∧ getFld t.blk .engConfig 12 3 = ix.toNat
      ∧ (let k := ((List.range 4).filter (fun i => en.getLsbD i)).length
         getFld t.blk .engConfig 8 3 = (if k < 3 then 0 else k)
          ∧ getFld t.blk .engStatus 2 1 = (if k < 3 then 1 else 0) ∧ getFld t.blk .mgtBootStatus 0 4 = (if k < 3 then 0 else 1))
      ∧ getFld t.blk .engStatus 0 1 = 0 ∧ (∀ c, (getCtx t.blk c).state = .free)

/-! ### Supply, temperature, engine reset and power -/

/-- VWARN_N: the fall sets ASSERTED and FROZEN and counts the event once; the rise clears ASSERTED, keeps FROZEN and starts the settle count;
at its end FROZEN clears, every clocked array that no trip still stops starts its advance ramp at level 0, and a job of the sequencer that
waited goes on (R79, R317, R357, R358).
Completes: vwarnAssert, vwarnNRelease, vwarnSettleExpiry. -/
def Obligations.SupplyWarningFreezesAndSettles : Prop :=
  (∀ s : State, live s.blk = true → s.blk.pins.vwarn = true → ∃ t : State, exec .vwarnAssert s = .next t
      ∧ t.blk.pins = { s.blk.pins with vwarn := false } ∧ getFld t.blk .mgtVwarn 24 1 = 1 ∧ frozenV t.blk = true
      ∧ getFld t.blk (.engEventCnt 0x17) 0 32 = min (2 ^ 32 - 1) (getFld s.blk (.engEventCnt 0x17) 0 32 + 1)
      ∧ sameUnits s.blk t.blk)
  ∧ (∀ s : State, live s.blk = true → s.blk.pins.vwarn = false → ∃ t : State, exec .vwarnNRelease s = .next t
      ∧ t.blk.pins = { s.blk.pins with vwarn := true } ∧ getFld t.blk .mgtVwarn 24 1 = 0 ∧ frozenV t.blk = frozenV s.blk
      ∧ t.blk.power.vClearAt = some s.blk.beat ∧ sameUnits s.blk t.blk)
  ∧ (∀ (s : State) (τ : Nat), live s.blk = true → s.blk.power.vClearAt = some τ → frozenV s.blk = true →
      getFld s.blk .mgtVwarn 0 24 ≤ s.blk.beat - τ → ∃ d, exec .vwarnSettleExpiry s = .next { s with blk := { jobAdvance d with pins := s.blk.pins } }
        ∧ frozenV d = false ∧ d.power.vClearAt = none ∧ (jobRunning s.blk = none → jobAdvance d = d)
        ∧ ∀ n, if stoppedT s.blk = true ∨ (getArr s.blk n).gate = .gated then getArr d n = getArr s.blk n
            else (getArr d n).gate = .ramping ∧ (getArr d n).adv.level = 0 ∧ (getArr d n).adv.to_ = 64)

/-- THERM_WARN_N: the fall counts once, shows in MGT_THERM and limits every array's input level to 32 or the cone's level, whichever is lower; the
rise leaves the cone's level as the limit (R355, R358).
Completes: thermWarnAssert, thermWarnClear. -/
def Obligations.ThermalWarningLimitsInputs : Prop :=
  (∀ s : State, live s.blk = true → s.blk.pins.thermWarn = true → ∃ t : State, exec .thermWarnAssert s = .next t
      ∧ t.blk.pins = { s.blk.pins with thermWarn := false } ∧ getFld t.blk .mgtTherm 24 1 = 1
      ∧ getFld t.blk .mgtTherm 32 16 = min (2 ^ 16 - 1) (getFld s.blk .mgtTherm 32 16 + 1)
      ∧ ∀ n, (getArr t.blk n).inp.to_ = min (getFld s.blk .mgtConeStatus 42 7) 32 ∧ (getArr t.blk n).pos = (getArr s.blk n).pos)
  ∧ (∀ s : State, live s.blk = true → s.blk.pins.thermWarn = false → ∃ t : State, exec .thermWarnClear s = .next t
      ∧ t.blk.pins = { s.blk.pins with thermWarn := true } ∧ getFld t.blk .mgtTherm 24 1 = 0
      ∧ getFld t.blk .mgtTherm 32 16 = getFld s.blk .mgtTherm 32 16
      ∧ ∀ n, (getArr t.blk n).inp.to_ = min (getFld s.blk .mgtConeStatus 42 7) 64 ∧ (getArr t.blk n).pos = (getArr s.blk n).pos)

/-- THERM_TRIP_N: the fall counts once and stops the arrays; the rise starts the settle count; at its end the stop is over and every
clocked array starts its advance ramp, unless the supply still freezes them (R356, R358).
Completes: thermTripAssert, thermTripNRelease, thermSettleExpiry. -/
def Obligations.ThermalTripStopsAndSettles : Prop :=
  (∀ s : State, live s.blk = true → s.blk.pins.thermTrip = true → ∃ t : State, exec .thermTripAssert s = .next t
      ∧ t.blk.pins = { s.blk.pins with thermTrip := false } ∧ getFld t.blk .mgtTherm 25 1 = 1 ∧ stoppedT t.blk = true
      ∧ getFld t.blk .mgtTherm 48 16 = min (2 ^ 16 - 1) (getFld s.blk .mgtTherm 48 16 + 1) ∧ sameUnits s.blk t.blk)
  ∧ (∀ s : State, live s.blk = true → s.blk.pins.thermTrip = false → ∃ t : State, exec .thermTripNRelease s = .next t
      ∧ t.blk.pins = { s.blk.pins with thermTrip := true } ∧ getFld t.blk .mgtTherm 25 1 = 0 ∧ stoppedT t.blk = stoppedT s.blk
      ∧ t.blk.power.tClearAt = some s.blk.beat ∧ sameUnits s.blk t.blk)
  ∧ (∀ (s : State) (τ : Nat), live s.blk = true → s.blk.power.tClearAt = some τ → stoppedT s.blk = true →
      getFld s.blk .mgtTherm 0 24 ≤ s.blk.beat - τ → ∃ t : State, exec .thermSettleExpiry s = .next t ∧ stoppedT t.blk = false
        ∧ t.blk.power.tClearAt = none
        ∧ ∀ n, if frozenV s.blk = true ∨ (getArr s.blk n).gate = .gated then getArr t.blk n = getArr s.blk n
            else (getArr t.blk n).gate = .ramping ∧ (getArr t.blk n).adv.level = 0 ∧ (getArr t.blk n).adv.to_ = 64)

/-- RST_ENG_N: its fall outside a cold start begins an engine reset, and READY goes: a fence while some context is neither FREE nor in QUARANTINE,
else the compute reset at once, where the low pin holds it; its rise while it holds the compute reset leaves the compute part at reset, which the
next beat ends: every context is FREE or stays in QUARANTINE under its own generation, every group is FREE, the SRAM keeps its contents (R330,
R332).
Completes: rstEngNAssert, rstEngNRelease. -/
def Obligations.EngineResetPin : Prop :=
  (∀ s : State, live s.blk = true → s.blk.pins.rstEng = true → s.blk.rst = .idle → 7 ≤ getFld s.blk .mgtBootStatus 0 4 →
      ∃ t : State, exec .rstEngNAssert s = .next t ∧ t.blk.pins = { s.blk.pins with rstEng := false }
        ∧ t.blk.rst = (if ∀ c, (getCtx s.blk c).state = .free ∨ (getCtx s.blk c).state = .quarantine then .computeReset else .fencing)
        ∧ getFld t.blk .engStatus 0 1 = 0 ∧ t.blk.sram = s.blk.sram)
  ∧ (∀ s : State, live s.blk = true → s.blk.pins.rstEng = false → s.blk.rst = .computeReset →
      ∃ t : State, exec .rstEngNRelease s = .next t ∧ t.blk.pins = { s.blk.pins with rstEng := true } ∧ t.blk.rst = .computeReset
        ∧ (∀ c, (getCtx t.blk c).state = (if (getCtx s.blk c).state = .quarantine then .quarantine else .free)
            ∧ (getCtx t.blk c).gen = (getCtx s.blk c).gen)
        ∧ (∀ g, (getGrp t.blk g).state = .free) ∧ t.blk.sram = s.blk.sram ∧ t.blk.entries = [] ∧ t.blk.mp = s.blk.mp)

/-- ENG_ABSENT moves its pin, and where that opens or closes the bypass both links are reset: no credit of the chain is left (R289, R381).
Completes: engAbsentChange. -/
def Obligations.AbsentDrivesTheBypass : Prop :=
  ∀ (s : State) (a : Bool), s.blk.pins.absent ≠ a → ∃ t : State, exec (.engAbsentChange a) s = .next t
    ∧ t.blk.pins = { s.blk.pins with absent := a } ∧ t.blk = { s.blk with pins := t.blk.pins, chain := t.blk.chain }
    ∧ (if bypassed t.blk = bypassed s.blk then t.blk.chain = s.blk.chain
       else t.blk.chain.credits = 0 ∧ t.blk.chain.linkUp = false ∧ t.blk.chain.ring = [] ∧ t.blk.chain.keep = [])

/-- MGT_PWR.REQ: P0 withdraws a pending request, ends P1 at once and begins the exit from P2; P1 is taken up when the units are idle; P2 and P3
are pending until POWER_DOWN; P2 is not where the engine is there already and stays (R347, R349, R350).
Completes: mgtPwrReqP0, mgtPwrReqP1, mgtPwrReqP2, mgtPwrReqP3. -/
def Obligations.PowerRequests : Prop :=
  (∀ s : State, portTakes s .mgtPwr = true → ∃ t : State, exec .mgtPwrReqP0 s = .next t ∧ getFld t.blk .mgtPwr 0 2 = 0 ∧ getFld t.blk .mgtPwr 4 1 = 0
      ∧ getFld t.blk .mgtPwr 2 2 = (if getFld s.blk .mgtPwr 2 2 = 1 then 0 else getFld s.blk .mgtPwr 2 2)
      ∧ (getFld s.blk .mgtPwr 2 2 = 2 → t.blk.steward.p2Exit = true) ∧ sameUnits s.blk t.blk)
  ∧ (∀ s : State, portTakes s .mgtPwr = true → ∃ t : State, exec .mgtPwrReqP1 s = .next t ∧ onlyReg .mgtPwr s.blk t.blk
      ∧ getFld t.blk .mgtPwr 0 2 = 1 ∧ getFld t.blk .mgtPwr 2 2 = getFld s.blk .mgtPwr 2 2 ∧ getFld t.blk .mgtPwr 4 1 = 0)
  ∧ (∀ s : State, portTakes s .mgtPwr = true → ∃ t : State, exec .mgtPwrReqP2 s = .next t ∧ onlyReg .mgtPwr s.blk t.blk
      ∧ getFld t.blk .mgtPwr 0 2 = 2 ∧ getFld t.blk .mgtPwr 2 2 = getFld s.blk .mgtPwr 2 2
      ∧ getFld t.blk .mgtPwr 4 1 = (if getFld s.blk .mgtPwr 2 2 = 2 ∧ s.blk.steward.p2Exit = false then 0 else 1))
  ∧ (∀ s : State, portTakes s .mgtPwr = true → ∃ t : State, exec .mgtPwrReqP3 s = .next t ∧ onlyReg .mgtPwr s.blk t.blk
      ∧ getFld t.blk .mgtPwr 0 2 = 3 ∧ getFld t.blk .mgtPwr 2 2 = getFld s.blk .mgtPwr 2 2 ∧ getFld t.blk .mgtPwr 4 1 = 1)

/-- The power states are entered: P1 when it is requested in P0 and its units are idle, every array gated; P2 and P3 when the request is pending, the
engine rests and the steward works, the heartbeat then stopping and P3 raising PWR_OFF_OK with its notice; after P3 the supply may go, and with
it everything but the straps' record (R347, R349, R386).
Completes: p1Entry, powerDown, powerRemoval. -/
def Obligations.PowerStatesAreEntered : Prop :=
  (∀ s : State, live s.blk = true → getFld s.blk .mgtPwr 0 2 = 1 → getFld s.blk .mgtPwr 2 2 = 0 → unitsIdle s.blk = true →
      ∃ t : State, exec .p1Entry s = .next t ∧ getFld t.blk .mgtPwr 2 2 = 1 ∧ (∀ n, (getArr t.blk n).gate = .gated)
        ∧ t.blk.power = { s.blk.power with p1Gated := true } ∧ t.blk.sram = s.blk.sram ∧ t.blk.groups = s.blk.groups)
  ∧ (∀ s : State, live s.blk = true → getFld s.blk .mgtPwr 4 1 = 1 → engineAtRest s.blk = true → frozenV s.blk = false → stewardOn s.blk = true →
      2 ≤ getFld s.blk .mgtPwr 0 2 → ∃ t : State, exec .powerDown s = .next t ∧ getFld t.blk .mgtPwr 2 2 = getFld s.blk .mgtPwr 0 2
        ∧ getFld t.blk .mgtPwr 4 1 = 0 ∧ t.blk.steward.running = false ∧ t.blk.sram = s.blk.sram
        ∧ (if getFld s.blk .mgtPwr 0 2 = 3 then t.blk.pins = { s.blk.pins with pwrOffOk := true } ∧ bypassed t.blk = true
              ∧ (s.blk.notices.length < 32 → ∃ n, noticeAdded s.blk t.blk n ∧ n.toNat % 16 = 8)
            else t.blk.pins = s.blk.pins ∧ t.blk.notices = s.blk.notices))
  ∧ (∀ s : State, getFld s.blk .mgtPwr 2 2 = 3 → s.blk.pins.pwrOffOk = true → s.blk.pins.powered = true →
      ∃ t : State, exec .powerRemoval s = .next t ∧ t.blk.pins = { s.blk.pins with powered := false } ∧ live t.blk = false
        ∧ (∀ r, rawReg t.blk r = r.resetVal) ∧ t.blk.jtag = Jtag.reset)

/-! ### Start-up, steward and management registers -/

/-- The boot SRAM is written only while the engine waits for its image: PTR takes the word address; DATA stores its eight bytes, lowest first, at word PTR
below the shadow area and moves PTR on; otherwise the write is ignored and BOOT REJECT is set (R359).
Completes: mgtBootPtrWrite, mgtBootDataWrite. -/
def Obligations.BootSramWrites : Prop :=
  (∀ (s : State) (v : W64), portTakes s .mgtBootPtr = true → ∃ t : State, exec (.mgtBootPtrWrite v) s = .next t
      ∧ (if bootOpen s.blk = true then onlyReg .mgtBootPtr s.blk t.blk ∧ getFld t.blk .mgtBootPtr 0 14 = v.toNat % 2 ^ 14
         else onlyReg .mgtBootStatus s.blk t.blk ∧ getFld t.blk .mgtBootStatus 33 1 = 1))
  ∧ (∀ (s : State) (v : W64), portTakes s .mgtBootData = true → ∃ t : State, exec (.mgtBootDataWrite v) s = .next t
      ∧ (if bootOpen s.blk = true ∧ getFld s.blk .mgtBootPtr 0 14 < 0x2000 then
          (∀ i < 8, memGet t.blk.boot (8 * getFld s.blk .mgtBootPtr 0 14 + i) = (v >>> (8 * i)).setWidth 8)
            ∧ (∀ a, (a < 8 * getFld s.blk .mgtBootPtr 0 14 ∨ 8 * getFld s.blk .mgtBootPtr 0 14 + 8 ≤ a) → memGet t.blk.boot a = memGet s.blk.boot a)
            ∧ getFld t.blk .mgtBootPtr 0 14 = getFld s.blk .mgtBootPtr 0 14 + 1
            ∧ onlyReg .mgtBootPtr { s.blk with boot := t.blk.boot } t.blk
         else onlyReg .mgtBootStatus s.blk t.blk ∧ getFld t.blk .mgtBootStatus 33 1 = 1))

/-- MGT_BOOT_CTL keeps TEST, and its GO starts Verify, clearing START_FAIL, when the engine waits for its image or may be retried; an engine reset
that failed then goes on with the steward's restart (R362, R364, R365).
Completes: mgtBootGo. -/
def Obligations.BootGoStartsVerify : Prop :=
  ∀ (s : State) (v : W64), portTakes s .mgtBootCtl = true → ∃ t : State, exec (.mgtBootGo v) s = .next t ∧ onlyRegs { s.blk with rst := t.blk.rst } t.blk
    ∧ getFld t.blk .mgtBootCtl 1 2 = v.toNat / 2 % 4
    ∧ (if v.getLsbD 0 = true ∧ bootOpen s.blk = true then
        getFld t.blk .mgtBootStatus 0 4 = 2 ∧ getFld t.blk .mgtBootStatus 4 4 = 0 ∧ getFld t.blk .engStatus 1 1 = 0
          ∧ t.blk.rst = (if s.blk.rst = .failed then .steward else s.blk.rst)
       else rawReg t.blk .mgtBootStatus = rawReg s.blk .mgtBootStatus ∧ rawReg t.blk .engStatus = rawReg s.blk .engStatus ∧ t.blk.rst = s.blk.rst)

/-- Verify of a cold start ends: an accepted image goes on to the self-test with the SRAM written to zero; a rejected one ends the start in FAILED with its REASON and
START_FAIL (R360, R362, R364).
Completes: bootVerifyDone. -/
def Obligations.VerifyDecidesTheStart : Prop :=
  ∀ s : State, live s.blk = true → getFld s.blk .mgtBootStatus 0 4 = 2 → dbgHalted s.blk = false → s.blk.rst = .idle → s.blk.steward.p2Exit = false →
    s.blk.pins.rstEng = true →
    ∃ t : State, exec .bootVerifyDone s = .next t
      ∧ (if verifyReason s.blk = 0 then getFld t.blk .mgtBootStatus 0 4 = 5 ∧ (∀ a, memGet t.blk.sram a = 0#8) ∧ t.blk.boot = s.blk.boot
         else getFld t.blk .mgtBootStatus 0 4 = 8 ∧ getFld t.blk .mgtBootStatus 4 4 = verifyReason s.blk ∧ getFld t.blk .engStatus 1 1 = 1
           ∧ getFld t.blk .engStatus 0 1 = 0 ∧ t.blk.sram = s.blk.sram)

/-- The self-test ends: the words that a SRAM test found bad in enabled banks are counted; arrays that failed, or whose staging holds an uncorrectable
word, are retired and leave ARRAY_MAP; a failed unit ends in FAILED 5, an uncorrectable word of another region in FAILED 6, fewer than three
arrays in FAILED 7; else the engine is READY in PHASE 7 with its steward beating (R4, R340, R341, R362 to R364).
Completes: startUpEnd. -/
def Obligations.SelfTestEndsTheStart : Prop :=
  ∀ (s : State) (f : BitVec 4) (u : Bool) (found : List (Nat × Bool)), live s.blk = true → getFld s.blk .mgtBootStatus 0 4 = 5 → dbgHalted s.blk = false →
    frozenV s.blk = false → s.blk.pins.rstEng = true → ∃ t : State, exec (.startUpEnd f u found) s = .next t
      ∧ (let bad := marchWords s.blk found
         let f' := fun (n : Arr) => f.getLsbD n.val || bad.any (fun q => q.2 && q.1 / 0x1000000 == n.val)
         let left := getFld s.blk .engConfig 4 4 &&& (15 - (getFld s.blk .mgtRetire 0 4 ||| (f.toNat ||| marchRetire s.blk found)))
         let reason := if u = true then 5 else if bad.any (fun q => q.2 && decide (4 ≤ q.1 / 0x1000000)) = true then 6 else if popcount4 left < 3 then 7 else 0
         getFld t.blk .mgtEcc 0 32 = min (2 ^ 32 - 1) (getFld s.blk .mgtEcc 0 32 + (bad.filter (fun q => !q.2)).length)
          ∧ getFld t.blk .mgtEcc 32 16 = min (2 ^ 16 - 1) (getFld s.blk .mgtEcc 32 16 + (bad.filter (·.2)).length)
          ∧ (∀ n : Arr, f' n = true → bitAt (getFld s.blk .engConfig 4 4) n.val = true → bitAt (getFld t.blk .mgtRetire 0 4) n.val = true)
          ∧ if reason = 0 then getFld t.blk .mgtBootStatus 0 4 = 7 ∧ getFld t.blk .engStatus 0 1 = 1 ∧ getFld t.blk .engConfig 0 4 = left
              ∧ t.blk.steward.running = true
            else getFld t.blk .mgtBootStatus 0 4 = 8 ∧ getFld t.blk .mgtBootStatus 4 4 = reason ∧ getFld t.blk .engStatus 0 1 = 0)

/-- The steward phases of an engine reset end: with an accepted image the engine is READY again and the reset is over; else the start is FAILED with the image's
REASON, or with that of a failed start that only a cold reset ends. At the exit from P2 the power state is P0 and the registers are restored, with the
class V counters started again, whether the image is accepted or not (R11, R330, R350, R364, R365; that such a restart fails again is the model's
reading, log 132).
Completes: engineResetReady. -/
def Obligations.EngineResetEndsReady : Prop :=
  (∀ (s : State) (f : BitVec 4), live s.blk = true → s.blk.rst = .steward → dbgHalted s.blk = false → frozenV s.blk = false →
    getFld s.blk .engStatus 2 1 = 0 → ∃ t : State, exec (.engineResetReady f) s = .next t ∧ t.blk.sram = s.blk.sram
      ∧ (let reason := if s.blk.steward.dead = 0 then verifyReason s.blk else s.blk.steward.dead
         if reason = 0 then t.blk.rst = .idle ∧ getFld t.blk .engStatus 0 1 = 1 ∧ getFld t.blk .mgtBootStatus 0 4 = 7 ∧ t.blk.steward.running = true
         else t.blk.rst = .failed ∧ getFld t.blk .engStatus 0 1 = 0 ∧ getFld t.blk .mgtBootStatus 0 4 = 8 ∧ getFld t.blk .mgtBootStatus 4 4 = reason % 16))
  ∧ (∀ (s : State) (f : BitVec 4), live s.blk = true → getFld s.blk .mgtPwr 2 2 = 2 → s.blk.steward.p2Exit = true → s.blk.rst ≠ .steward →
      getFld s.blk .mgtBootStatus 0 4 ≠ 8 → dbgHalted s.blk = false → frozenV s.blk = false → getFld s.blk .engStatus 2 1 = 0 →
      ∃ t : State, exec (.engineResetReady f) s = .next t ∧ t.blk.sram = s.blk.sram ∧ getFld t.blk .mgtPwr 2 2 = 0
        ∧ getFld t.blk .engStatus 3 1 = 1 ∧ getFld t.blk .engStatus 4 1 = 1 ∧ (∀ c, (getCtx t.blk c).elapsed = 0#64)
        ∧ (s.blk.steward.dead = 0 → verifyReason s.blk = 0 → getFld t.blk .engStatus 0 1 = 1 ∧ t.blk.steward.running = true ∧ t.blk.steward.p2Exit = false)
        ∧ (s.blk.steward.dead = 0 → verifyReason s.blk ≠ 0 → getFld t.blk .engStatus 0 1 = 0 ∧ getFld t.blk .mgtBootStatus 0 4 = 8))

/-- The steward's periodic duties while it works: a heartbeat is counted every 350,000 beats at the earliest, a patrol reads one line of 64 bytes
after another every 64 beats, which the estimator counts, and a heartbeat missing for LIMIT beats sets LOST once with its notice and stops nothing
(R324, R340, R352).
Completes: stewardHeartbeat, scrubPatrol, swdtLost. -/
def Obligations.StewardDuties : Prop :=
  (∀ s : State, live s.blk = true → stewardOn s.blk = true → s.blk.steward.beatAt + 350000 ≤ s.blk.beat →
      ∃ t : State, exec .stewardHeartbeat s = .next t ∧ t.blk.steward.beatAt = s.blk.beat
        ∧ getFld t.blk .mgtHeartbeat 0 32 = (getFld s.blk .mgtHeartbeat 0 32 + 1) % 2 ^ 32)
  ∧ (∀ s : State, live s.blk = true → stewardOn s.blk = true → s.blk.steward.patrolAt + 64 ≤ s.blk.beat →
      s.blk.ecc1 = [] → s.blk.ecc2 = [] → ∃ t : State, exec .scrubPatrol s = .next t
        ∧ t.blk = { countSram s.blk (patrolLine (patrolRegions s.blk) s.blk.steward.patrol) 64 with steward := { s.blk.steward with
            patrolAt := s.blk.beat
            patrol := if s.blk.steward.patrol + 1 < patrolLines s.blk then s.blk.steward.patrol + 1 else 0 } })
  ∧ (∀ s : State, live s.blk = true → getFld s.blk .mgtPwr 2 2 ≠ 2 → getFld s.blk .mgtSwdt 24 1 = 0 →
      getFld s.blk .mgtSwdt 0 24 ≤ s.blk.beat - s.blk.steward.beatAt → s.blk.notices.length < 32 →
      ∃ t : State, exec .swdtLost s = .next t ∧ onlyReg .mgtSwdt { s.blk with notices := t.blk.notices, noticeNew := t.blk.noticeNew } t.blk
        ∧ getFld t.blk .mgtSwdt 24 1 = 1 ∧ ∃ n, noticeAdded s.blk t.blk n ∧ n.toNat % 16 = 9)

/-- A window of the cone ends 350 beats after the last: the window is counted where THROTTLE was set before it, the next begins with nothing counted, and no
state of a computation changes (R352, R353; the energies of the events are the firmware's, free values of the model, log 10).
Completes: coneWindowEnd. -/
def Obligations.ConeWindowEnds : Prop :=
  ∀ s : State, live s.blk = true → s.blk.power.coneAt + 350 ≤ s.blk.beat → ∃ t : State, exec .coneWindowEnd s = .next t
    ∧ t.blk.power.coneAt = s.blk.power.coneAt + 350 ∧ t.blk.acts = Acts.zero ∧ t.blk.freeTick = s.blk.freeTick + 1
    ∧ getFld t.blk .mgtConeCnt 0 32 =
        (if getFld s.blk .mgtConeStatus 49 1 = 1 then min (2 ^ 32 - 1) (getFld s.blk .mgtConeCnt 0 32 + 1) else getFld s.blk .mgtConeCnt 0 32)
    ∧ (getFld s.blk .mgtConeLimits 30 1 = 0 → getFld t.blk .mgtConeStatus 49 1 = 0 ∧ getFld t.blk .mgtConeStatus 42 7 = 64)
    ∧ t.blk.sram = s.blk.sram ∧ t.blk.groups = s.blk.groups ∧ t.blk.ctxs = s.blk.ctxs ∧ ∀ n, (getArr t.blk n).pos = (getArr s.blk n).pos

/-- MGT_CLK_CFG takes the first write of 2,400 to 4,200 MHz after cold reset and locks; any other write leaves it (R8, R346). MGT_CONE_LIMITS: CAP takes
its first write up to 600 and locks; SUSTAIN is limited to CAP, PEAK is at least SUSTAIN, EN is as written (R354).
Completes: mgtClkCfgWrite, mgtConeLimitsWrite. -/
def Obligations.ClockAndConeLimits : Prop :=
  (∀ (s : State) (v : W64), portTakes s .mgtClkCfg = true → ∃ t : State, exec (.mgtClkCfgWrite v) s = .next t
      ∧ (if locked s.blk .mgtClkCfg = false ∧ 2400 ≤ v.toNat % 2 ^ 13 ∧ v.toNat % 2 ^ 13 ≤ 4200 then
          getFld t.blk .mgtClkCfg 0 13 = v.toNat % 2 ^ 13 ∧ locked t.blk .mgtClkCfg = true
            ∧ onlyReg .mgtClkCfg { s.blk with rlocks := t.blk.rlocks } t.blk
         else t = wrote s s.blk))
  ∧ (∀ (s : State) (v : W64), portTakes s .mgtConeLimits = true → ∃ t : State, exec (.mgtConeLimitsWrite v) s = .next t
      ∧ (let cap := if locked s.blk .mgtConeLimits = false ∧ v.toNat % 2 ^ 10 ≤ 600 then v.toNat % 2 ^ 10 else getFld s.blk .mgtConeLimits 0 10
         getFld t.blk .mgtConeLimits 0 10 = cap
          ∧ getFld t.blk .mgtConeLimits 10 10 = min (v.toNat / 2 ^ 10 % 2 ^ 10) cap
          ∧ getFld t.blk .mgtConeLimits 20 10 = max (getFld t.blk .mgtConeLimits 10 10) (v.toNat / 2 ^ 20 % 2 ^ 10)
          ∧ getFld t.blk .mgtConeLimits 30 1 = v.toNat / 2 ^ 30 % 2)
      ∧ onlyReg .mgtConeLimits { s.blk with rlocks := t.blk.rlocks } t.blk)

/-- The debug registers: GO is taken only while a challenge is VALID, no verification runs and the engine is locked; a verification that succeeds unlocks and
withdraws the challenge, one that fails is counted and places a new challenge; on an unlocked engine HALT is kept, a step is made while it is 1, and a
read of DBG_MEM_DATA returns the word at the address and moves the address on (R390, R403 to R405).
Completes: dbgRespGo, dbgVerifyDone, dbgStewardHalt, dbgStewardStep, dbgMemDataRead. -/
def Obligations.DebugAccess : Prop :=
  (∀ (s : State) (v : W64), portTakes s .dbgRespGo = true → ∃ t : State, exec (.dbgRespGo v) s = .next t
      ∧ (if v.getLsbD 0 = true ∧ getFld s.blk .dbgChalStatus 0 3 = 4 then
          onlyReg .dbgChalStatus s.blk t.blk ∧ getFld t.blk .dbgChalStatus 0 3 = 6
         else t = wrote s s.blk))
  ∧ (∀ s : State, live s.blk = true → dbgHalted s.blk = false → inP2 s.blk = false → getFld s.blk .dbgChalStatus 1 1 = 1 → ∃ t : State, exec .dbgVerifyDone s = .next t
      ∧ (if respGood s.blk = true then getFld t.blk .dbgChalStatus 0 3 = 1 ∧ getFld t.blk .dbgChalStatus 8 8 = getFld s.blk .dbgChalStatus 8 8
         else getFld t.blk .dbgChalStatus 1 2 = 2 ∧ getFld t.blk .dbgChalStatus 0 1 = getFld s.blk .dbgChalStatus 0 1
           ∧ getFld t.blk .dbgChalStatus 8 8 = min 255 (getFld s.blk .dbgChalStatus 8 8 + 1)
           ∧ t.blk.steward.chal = s.blk.steward.chal + 1)
      ∧ sameUnits s.blk t.blk)
  ∧ (∀ (s : State) (v : W64), cpOpen s.blk = true → getFld s.blk .mgtPwr 2 2 ≠ 2 → getFld s.blk .dbgChalStatus 0 1 = 1 →
      ∃ t : State, exec (.dbgStewardHalt v) s = .next t ∧ getFld t.blk .dbgSteward 0 1 = v.toNat % 2 ∧ t.blk.cp = okRsp s.blk
        ∧ t.blk.steward.steps = (if v.getLsbD 0 = true ∧ v.getLsbD 1 = true then s.blk.steward.steps + 1 else s.blk.steward.steps))
  ∧ (∀ s : State, cpOpen s.blk = true → getFld s.blk .mgtPwr 2 2 ≠ 2 → getFld s.blk .dbgChalStatus 0 1 = 1 →
      ∃ t : State, exec .dbgStewardStep s = .next t ∧ getFld t.blk .dbgSteward 0 1 = getFld s.blk .dbgSteward 0 1 ∧ t.blk.cp = okRsp s.blk
        ∧ t.blk.steward.steps = (if getFld s.blk .dbgSteward 0 1 = 1 then s.blk.steward.steps + 1 else s.blk.steward.steps))
  ∧ (∀ s : State, cpOpen s.blk = true → getFld s.blk .mgtPwr 2 2 ≠ 2 → getFld s.blk .dbgChalStatus 0 1 = 1 →
      ∃ t : State, exec .dbgMemDataRead s = .next t ∧ t.blk.cp = ⟨s.blk.pins.cpReqId, bootWord s.blk (getFld s.blk .dbgMemAddr 3 14), 0#2⟩
        ∧ onlyReg .dbgMemAddr s.blk t.blk ∧ getFld t.blk .dbgMemAddr 3 14 = (getFld s.blk .dbgMemAddr 3 14 + 1) % 2 ^ 14)

/-- The test port of a powered engine: each instruction is in the instruction register after it; IDCODE reads 0x1D325A4F; SAMPLE/PRELOAD samples the pins and keeps
the preload; BYPASS shifts its bit; DBGACC of an address outside the challenge registers acts as BYPASS while the engine is locked, and reads a register of the page while it
is not. TRST_N low holds the port in its reset. None of them touches anything but the test port, but for what a DBGACC reads (R368, R389, R403).
Completes: idcode, samplePreload, bypass, dbgacc. -/
def Obligations.TestPort : Prop :=
  (∀ s : State, s.blk.pins.powered = true → s.blk.pins.trst = true → ∃ t : State, exec .idcode s = .next t
      ∧ t.blk = { s.blk with jtag := { s.blk.jtag with ir := 0x01#8, dr := 0x1D325A4F#96 } })
  ∧ (∀ (s : State) (p : BitVec 16), s.blk.pins.powered = true → s.blk.pins.trst = true → ∃ t : State, exec (.samplePreload p) s = .next t
      ∧ t.blk = { s.blk with jtag := t.blk.jtag } ∧ t.blk.jtag.ir = 0x02#8 ∧ t.blk.jtag.boundary = p
      ∧ t.blk.jtag.dr.getLsbD 0 = s.blk.pins.rstCold ∧ t.blk.jtag.dr.getLsbD 1 = s.blk.pins.rstEng ∧ t.blk.jtag.dr.getLsbD 2 = s.blk.pins.vwarn
      ∧ (∀ i < 4, t.blk.jtag.dr.getLsbD (8 + i) = s.blk.pins.arrayEn.getLsbD i))
  ∧ (∀ (s : State) (x : Bool), s.blk.pins.powered = true → s.blk.pins.trst = true → ∃ t : State, exec (.bypass x) s = .next t
      ∧ t.blk = { s.blk with jtag := t.blk.jtag } ∧ t.blk.jtag.ir = 0xFF#8 ∧ t.blk.jtag.dr.getLsbD 0 = x
      ∧ (s.blk.jtag.ir = 0xFF#8 → t.blk.jtag.tdo = s.blk.jtag.dr.getLsbD 0))
  ∧ (∀ (s : State) (dr : BitVec 96), live s.blk = true → s.blk.pins.trst = true → s.blk.rst ≠ .computeReset → getFld s.blk .mgtPwr 2 2 ≠ 2 →
      getFld s.blk .dbgChalStatus 0 1 = 0 → dr.toNat % 2 ^ 24 / 0x10000 = 0x0E → dr.toNat % 8 = 0 →
      (Reg.ofAddr (dr.toNat % 2 ^ 24)).any Reg.openDbg = false → ∃ t : State, exec (.dbgacc dr) s = .next t
        ∧ t.blk = { s.blk with jtag := t.blk.jtag } ∧ t.blk.jtag.ir = 0xFF#8)
  ∧ (∀ (s : State) (dr : BitVec 96) (r : Reg), live s.blk = true → s.blk.pins.trst = true → s.blk.rst ≠ .computeReset → getFld s.blk .mgtPwr 2 2 ≠ 2 →
      getFld s.blk .dbgChalStatus 0 1 = 1 → dr.toNat % 2 ^ 24 = r.addr → r.addr / 0x10000 = 0x0E → dr.getLsbD 88 = false →
      ∃ t : State, exec (.dbgacc dr) s = .next t ∧ t.blk.jtag.ir = 0x20#8 ∧ t.blk.jtag.dr.toNat = r.addr + (sampleReg s.blk r).toNat * 2 ^ 24)
  ∧ (∀ (s : State) (i : Instr), s.blk.pins.powered = true → s.blk.pins.trst = false →
      (i = .idcode ∨ (∃ p, i = .samplePreload p) ∨ (∃ x, i = .bypass x) ∨ ∃ dr, i = .dbgacc dr) →
      exec i s = .next { s with blk := { s.blk with jtag := Jtag.reset } })

/-! ### The control port and the register map -/

/-- A write of a register without behaviour of its own, by the access code of each field: RW takes the value, RWL takes it unless it is locked and then locks, W1C clears the
bits written as 1, but for one that hardware sets in the same beat, W1S sets them, RO, WO and RC keep theirs; no other register and no other state changes, and the answer is OK
(R8, R9, R370).
Completes: registerWrite. -/
def Obligations.RegisterWriteByAccessCode : Prop :=
  ∀ (s : State) (r : Reg) (v : W64), cpOpen s.blk = true → pageUp s.blk r.addr = true → dbgLocked s.blk r.addr = false →
    r.arrOf.any (fun n => !usable s.blk n) = false → writeSpecial s.blk v r = none →
    ∃ t : State, exec (.registerWrite (BitVec.ofNat 24 r.addr) 0xFF#8 v) s = .next t ∧ t.blk.cp = okRsp s.blk
      ∧ onlyReg r { s.blk with rlocks := t.blk.rlocks } t.blk
      ∧ (∀ f ∈ r.fields, getFld t.blk r f.lo f.wid =
          (let x := v.toNat / 2 ^ f.lo % 2 ^ f.wid
           let old := getFld s.blk r f.lo f.wid
           match f.acc with
           | .RW => x
           | .RWL => if locked s.blk r = true then old else x
           | .W1C => if (coinOf s.blk r f.lo).isSome = true then (old - (old &&& x)) ||| 1 else old - (old &&& x)
           | .W1S => old ||| x
           | .RO | .WO | .RC => old))
      ∧ ((∃ f ∈ r.fields, f.acc = .RWL) → locked t.blk r = true)

/-- The port's errors, in this order and without any effect but the response: FORMAT for byte enables other than 0xFF or an unaligned address, UNAVAILABLE for a page that does
not answer, LOCKED for a debug register of a locked engine; writes and reads meet them alike (R7, R370). -/
def Obligations.PortErrorsHaveNoEffect : Prop :=
  ∀ (s : State) (a : BitVec 24) (be : BitVec 8) (v : W64), cpOpen s.blk = true →
    (let e : Nat := if be ≠ 0xFF#8 ∨ a.toNat % 8 ≠ 0 then 1 else if pageUp s.blk a.toNat = false then 2
        else if dbgLocked s.blk a.toNat = true then 3 else 0
     (e ≠ 0 → exec (.registerWrite a be v) s = .next { s with blk := respond s.blk 0#64 e }
        ∧ exec (.readClearCounter ⟨a, be⟩) s = .next { s with blk := respond s.blk 0#64 e }))

/-- A read returns the register's value as it stood before what hardware has counted in the same beat, and then clears its read-clear fields, which hold that count after it; so
in every register that is no array's; nothing else changes but the address behind DBG_MEM_DATA (R8, R9, R371).
Completes: readClearCounter. -/
def Obligations.ReadsReturnAndClear : Prop :=
  ∀ (s : State) (r : Reg), cpOpen s.blk = true → pageUp s.blk r.addr = true → dbgLocked s.blk r.addr = false → r.arrOf = none →
    r ≠ .dbgMemData → ∃ t : State, exec (.readClearCounter ⟨BitVec.ofNat 24 r.addr, 0xFF#8⟩) s = .next t ∧ t.blk.cp = ⟨s.blk.pins.cpReqId, sampleReg s.blk r, 0#2⟩
      ∧ onlyReg r s.blk t.blk
      ∧ ((∀ f ∈ r.fields, f.acc = .RC → coinOf s.blk r f.lo = none) → sampleReg s.blk r = readReg s.blk r)
      ∧ (∀ f ∈ r.fields, getFld t.blk r f.lo f.wid =
          (if f.acc = .RC then (match coinOf s.blk r f.lo with | some k => min (2 ^ f.wid - 1) k.n | none => 0) else getFld s.blk r f.lo f.wid))
      ∧ (liveWord s.blk r = none → ∀ f ∈ r.fields, f.acc = .RC → (sampleReg s.blk r).toNat / 2 ^ f.lo % 2 ^ f.wid =
          (match coinOf s.blk r f.lo with | some k => k.before % 2 ^ f.wid | none => getFld s.blk r f.lo f.wid))

/-- Reserved bits read as 0: no read of any register shows a bit outside its fields (R10). -/
def Obligations.ReservedBitsReadZero : Prop :=
  ∀ (b : Block) (r : Reg) (i : Nat), (∀ f ∈ r.fields, i < f.lo ∨ f.lo + f.wid ≤ i) → (readReg b r).getLsbD i = false

/-- The registers of an array that is disabled or retired: a write is ignored and answers OK, a read returns 0 and answers OK; for ARR_STATUS of a retired array see STATE 0x1
(R3, R342). A write of ARR_ABFT_CTL of a usable array takes its fields and starts the count of passes anew (R75).
Completes: arrAbftCtlWrite. -/
def Obligations.ArrayRegisters : Prop :=
  (∀ (s : State) (r : Reg) (n : Arr) (v : W64), cpOpen s.blk = true → pageUp s.blk r.addr = true → r.arrOf = some n → usable s.blk n = false →
      exec (.registerWrite (BitVec.ofNat 24 r.addr) 0xFF#8 v) s = .next (wrote s s.blk)
        ∧ exec (.readClearCounter ⟨BitVec.ofNat 24 r.addr, 0xFF#8⟩) s =
            .next { s with blk := (respond s.blk (if r = .arrStatus n ∧ bitAt (getFld s.blk .mgtRetire 0 4) n.val = true then 1#64 else 0#64) 0) })
  ∧ (∀ (s : State) (n : Arr) (v : W64), portTakes s (.arrAbftCtl n) = true → usable s.blk n = true → ∃ t : State, exec (.arrAbftCtlWrite n v) s = .next t
      ∧ onlyReg (.arrAbftCtl n) { s.blk with arrays := t.blk.arrays } t.blk
      ∧ getArr t.blk n = { getArr s.blk n with abftCount := 0 } ∧ (∀ m, m ≠ n → getArr t.blk m = getArr s.blk m)
      ∧ getFld t.blk (.arrAbftCtl n) 0 2 = v.toNat % 4 ∧ getFld t.blk (.arrAbftCtl n) 8 16 = v.toNat / 2 ^ 8 % 2 ^ 16)

/-- MGT_RETIRE.REQUEST takes the bits written as 1 until the steward serves them; the host's read pointer moves only within the 64 records before WR
(R323, R342).
Completes: mgtRetireRequest, engFaultPtrWrite. -/
def Obligations.RetireRequestAndFaultPointer : Prop :=
  (∀ (s : State) (v : W64), portTakes s .mgtRetire = true → ∃ t : State, exec (.mgtRetireRequest v) s = .next t ∧ onlyReg .mgtRetire s.blk t.blk
      ∧ getFld t.blk .mgtRetire 4 4 = (getFld s.blk .mgtRetire 4 4 ||| v.toNat / 16 % 16) ∧ getFld t.blk .mgtRetire 0 4 = getFld s.blk .mgtRetire 0 4)
  ∧ (∀ (s : State) (v : W64), portTakes s .engFaultPtr = true → ∃ t : State, exec (.engFaultPtrWrite v) s = .next t
      ∧ (if (ptrWR s.blk + 65536 - v.toNat / 65536 % 65536) % 65536 ≤ 64 then
          onlyReg .engFaultPtr s.blk t.blk ∧ ptrRD t.blk = v.toNat / 65536 % 65536 ∧ ptrWR t.blk = ptrWR s.blk
         else t = wrote s s.blk))

/-- R326 whole: a write of ENG_RESET with KIND 1 is taken, and fences the context under its next generation, exactly when the context is RUNNING, DONE, PREEMPTING,
PREEMPTED or FAULTED; KIND 2 begins an engine reset unless one is in progress (one that failed is not); every other write changes nothing and raises nothing. The write commands and the general
register write agree.
Completes: engResetContext, engResetEngine. -/
def Obligations.ResetWritesAreTakenOrIgnored : Prop :=
  (∀ (s : State) (c : Ctx), portTakes s .engReset = true → ∃ t : State, exec (.engResetContext c) s = .next t
      ∧ (if resettable (getCtx s.blk c).state = true then
          (getCtx t.blk c).state = .fencing ∧ (getCtx t.blk c).gen = (getCtx s.blk c).gen + 1#16 ∧ (∀ e ∈ t.blk.entries, e.ctx ≠ c)
            ∧ t.blk.sram = s.blk.sram
         else t = wrote s s.blk))
  ∧ (∀ s : State, portTakes s .engReset = true → ∃ t : State, exec .engResetEngine s = .next t
      ∧ (if s.blk.rst = .idle ∨ s.blk.rst = .failed then (t.blk.rst = .fencing ∨ t.blk.rst = .computeReset) ∧ getFld t.blk .engStatus 0 1 = 0 ∧ t.blk.sram = s.blk.sram else t = wrote s s.blk))
  ∧ (∀ (s : State) (v : W64), portTakes s .engReset = true →
      exec (.registerWrite 0x000100#24 0xFF#8 v) s =
        (if v.toNat / 16 % 4 = 1 then exec (.engResetContext (Fin.ofNat 16 (v.toNat % 16))) s
         else if v.toNat / 16 % 4 = 2 then exec .engResetEngine s else .next (wrote s s.blk)))

/-- A fence ends when nothing of its context is waited for, or at ENG_FENCE_LIMIT: the context is FREE, or in QUARANTINE while a zombie tag of it is left, its strands,
counts and windows are at their reset values, and no translation of it is left (R327, R402).
Completes: fenceComplete, fenceLimitExpiry. -/
def Obligations.FenceEnds : Prop :=
  (∀ (s : State) (c : Ctx), live s.blk = true → s.blk.rst = .idle → (getCtx s.blk c).state = .fencing → fencePending s.blk c = false →
      ∃ t : State, exec (.fenceComplete c) s = .next t
        ∧ (getCtx t.blk c).state = (if zombieLeft s.blk c = true then .quarantine else .free) ∧ (getCtx t.blk c).gen = (getCtx s.blk c).gen
        ∧ (∀ q, getStrand t.blk c q = StrandSt.reset) ∧ (∀ k, rawReg t.blk (.schWin c k) = 0#64) ∧ (∀ e ∈ t.blk.tlb, e.ctx ≠ c))
  ∧ (∀ (s : State) (c : Ctx) (f : FenceSt), live s.blk = true → s.blk.rst = .idle → (getCtx s.blk c).state = .fencing →
      (getCtx s.blk c).fence = some f → max 1 (getFld s.blk .engFenceLimit 0 32) ≤ s.blk.beat - f.since →
      ∃ t : State, exec (.fenceLimitExpiry c) s = .next t
        ∧ (getCtx t.blk c).state = (if s.blk.mp.any (fun r => decide (r.ctx = c)) = true ∨ s.blk.fabTags.any (fun x => decide (x.ctx = c)) = true then .quarantine else .free)
        ∧ (getCtx t.blk c).gen = (getCtx s.blk c).gen ∧ (∀ q, getStrand t.blk c q = StrandSt.reset) ∧ (∀ e ∈ t.blk.tlb, e.ctx ≠ c))

/-! ### Contexts and scheduling registers -/

/-- SCH_CTL: action 1 pre-empts a RUNNING context, whose strands then dispatch nothing; action 2 lets a PREEMPTED context go on, its parked tiles becoming resume entries of their
arrays in the order of parking; in any other state the action is ignored and CTL_REJECT is set. A pre-empted context that has come to rest is PREEMPTED and a
notice of kind 5 goes out (R249, R250).
Completes: schCtlPreempt, schCtlResume, preemptRest. -/
def Obligations.PreemptionAndResume : Prop :=
  (∀ (s : State) (c : Ctx), portTakes s .schCtl = true → ∃ t : State, exec (.schCtlPreempt c) s = .next t
      ∧ (if (getCtx s.blk c).state = .running then
          getCtx t.blk c = { getCtx s.blk c with state := .preempting } ∧ (∀ d, d ≠ c → getCtx t.blk d = getCtx s.blk d)
            ∧ t = wrote s { s.blk with ctxs := t.blk.ctxs } ∧ ∀ q, strandLive t.blk c q = false
         else onlyReg .schStatus s.blk t.blk ∧ getFld t.blk .schStatus 0 1 = 1))
  ∧ (∀ (s : State) (c : Ctx), portTakes s .schCtl = true → ∃ t : State, exec (.schCtlResume c) s = .next t
      ∧ (if (getCtx s.blk c).state = .preempted then
          (getCtx t.blk c).strands = (getCtx s.blk c).strands
            ∧ ((∃ e ∈ s.blk.entries, e.ctx = c) ∨ (∃ q, (getStrand s.blk c q).started = true ∧ (getStrand s.blk c q).halted = false) →
                (getCtx t.blk c).state = .running)
            ∧ (∀ n, (getArr t.blk n).resume = (getArr s.blk n).resume
                ++ (s.blk.preParked.filter (fun x => decide (x.1 = n) && decide (x.2.ctx = c))).map (·.2))
            ∧ t.blk.preParked = s.blk.preParked.filter (fun x => decide (x.2.ctx ≠ c))
         else onlyReg .schStatus s.blk t.blk ∧ getFld t.blk .schStatus 0 1 = 1))
  ∧ (∀ (s : State) (c : Ctx), live s.blk = true → (getCtx s.blk c).state = .preempting → ctxRests s.blk c = true → s.blk.notices.length < 32 →
      ∃ (t : State) (n : W64), exec (.preemptRest c) s = .next t ∧ getCtx t.blk c = { getCtx s.blk c with state := .preempted }
        ∧ t.blk = { s.blk with ctxs := t.blk.ctxs, notices := t.blk.notices, noticeNew := t.blk.noticeNew }
        ∧ noticeAdded s.blk t.blk n ∧ n.toNat % 2 ^ 9 = 5 + 16 + 32 * c.val)

/-- Pegs: a pair takes a new configuration only while its old and new contexts are FREE or DONE and its two sides are distinct and not reserved codes; its counts are written while its owner
is FREE, DONE or PREEMPTED or the pair is not enabled; any other write is ignored in full and sets CTL_REJECT (R236, R237, R399).
Completes: schPegCfgWrite, schPegWrite. -/
def Obligations.PegWrites : Prop :=
  (∀ (s : State) (p : Peg) (v : W64), portTakes s (.schPegCfg p) = true → ∃ t : State, exec (.schPegCfgWrite p v) s = .next t
      ∧ (if restFree s.blk (pegOwner s.blk p) = true ∧ restFree s.blk (Fin.ofNat 16 (v.toNat % 16)) = true ∧ v.toNat / 16 % 8 ≤ 4
            ∧ v.toNat / 2 ^ 8 % 8 ≤ 4 ∧ v.toNat / 16 % 8 ≠ v.toNat / 2 ^ 8 % 8 then
          onlyReg (.schPegCfg p) s.blk t.blk ∧ pegOwner t.blk p = Fin.ofNat 16 (v.toNat % 16) ∧ pegProd t.blk p = v.toNat / 16 % 8
            ∧ pegCons t.blk p = v.toNat / 2 ^ 8 % 8 ∧ pegPeer t.blk p = v.toNat / 2 ^ 12 % 2 ^ 12 ∧ pegEn t.blk p = v.getLsbD 24
         else onlyReg .schStatus s.blk t.blk ∧ getFld t.blk .schStatus 0 1 = 1))
  ∧ (∀ (s : State) (p : Peg) (v : W64), portTakes s (.schPeg p) = true → ∃ t : State, exec (.schPegWrite p v) s = .next t
      ∧ (if pegEn s.blk p = false ∨ (getCtx s.blk (pegOwner s.blk p)).state = .free ∨ (getCtx s.blk (pegOwner s.blk p)).state = .done
            ∨ (getCtx s.blk (pegOwner s.blk p)).state = .preempted then
          getPeg t.blk p = ⟨v.setWidth 16, (v >>> 16).setWidth 16⟩ ∧ (∀ q, q ≠ p → getPeg t.blk q = getPeg s.blk q)
            ∧ t = wrote s { s.blk with pegs := t.blk.pegs }
         else onlyReg .schStatus s.blk t.blk ∧ getFld t.blk .schStatus 0 1 = 1))

/-- A window of a context is written only while the context is FREE, for k below 7, inside its region and apart from the same window of every context that is not FREE (R400); the mark log's
SIZE is written and its NEXT returns to 0 (R398).
Completes: schWinWrite, schLogSizeWrite. -/
def Obligations.WindowAndLogWrites : Prop :=
  (∀ (s : State) (c : Ctx) (k : Fin 8) (v : W64), portTakes s (.schWin c k) = true → ∃ t : State, exec (.schWinWrite c k v) s = .next t
      ∧ (let base := v.toNat % 2 ^ 20
         let size := v.toNat / 2 ^ 32 % 2 ^ 21
         if (getCtx s.blk c).state = .free ∧ k ≠ 7 ∧ 64 * (base + size) ≤ winRegion k.val
            ∧ (∀ d, d ≠ c → (getCtx s.blk d).state ≠ .free → rangesMeet (64 * base) (64 * size) (winBase s.blk d k.val) (winSize s.blk d k.val) = false) then
          onlyReg (.schWin c k) s.blk t.blk ∧ getFld t.blk (.schWin c k) 0 20 = base ∧ getFld t.blk (.schWin c k) 32 21 = size
         else onlyReg .schStatus s.blk t.blk ∧ getFld t.blk .schStatus 0 1 = 1))
  ∧ (∀ (s : State) (c : Ctx) (v : W64), portTakes s (.schLogSize c) = true → ∃ t : State, exec (.schLogSizeWrite c v) s = .next t
      ∧ onlyReg (.schLogSize c) s.blk t.blk ∧ getFld t.blk (.schLogSize c) 0 20 = v.toNat % 2 ^ 20 ∧ getFld t.blk (.schLogSize c) 20 32 = 0)

/-- SCH_FIXED, array by array: EN and CTX are taken and SIDE returns to 0 where the array holds no tile and neither the fixed nor the named context works; elsewhere that array's part stays and
CTL_REJECT is set (R247, R248; that the named context counts as well is the model's reading, log 33).
Completes: schFixedWrite. -/
def Obligations.FixedModeWrites : Prop :=
  ∀ (s : State) (v : W64), portTakes s .schFixed = true → ∃ t : State, exec (.schFixedWrite v) s = .next t ∧ onlyRegs s.blk t.blk
    ∧ (let part := fun (n : Arr) => v.toNat / 2 ^ (8 * n.val) % 32
       let stays := fun (n : Arr) => anyTileHeld s.blk n || (fixedEn s.blk n && working s.blk (fixedCtx s.blk n)) || working s.blk (part n / 2)
       (∀ n, getFld t.blk .schFixed (8 * n.val) 6 = if stays n = true then getFld s.blk .schFixed (8 * n.val) 6 else part n)
        ∧ ((∃ n, stays n = true) → getFld t.blk .schStatus 0 1 = 1)
        ∧ ((∀ n, stays n = false) → rawReg t.blk .schStatus = rawReg s.blk .schStatus))
    ∧ ∀ r, r ≠ .schFixed → r ≠ .schStatus → rawReg t.blk r = rawReg s.blk r

/-- The command queue's registers: TAIL takes a value at most 2^SIZE_LOG above HEAD, and only HEAD's own value while the queue is disabled; BASE and SIZE are taken while HEAD = TAIL and no entry is in progress, and a
taken SIZE sets both to 0; any other write is ignored with CTL_REJECT (R275).
Completes: schCqTailWrite, schCqConfigWrite. -/
def Obligations.CommandQueueWrites : Prop :=
  (∀ (s : State) (v : W64), portTakes s .schCqTail = true → ∃ t : State, exec (.schCqTailWrite v) s = .next t
      ∧ (let n := (v.toNat % 2 ^ 32 + 2 ^ 32 - getFld s.blk .schCqHead 0 32) % 2 ^ 32
         if (if 6 ≤ getFld s.blk .schCqSize 0 4 ∧ getFld s.blk .schCqSize 0 4 ≤ 12 then n ≤ 2 ^ getFld s.blk .schCqSize 0 4 else n = 0) then
          onlyReg .schCqTail s.blk t.blk ∧ getFld t.blk .schCqTail 0 32 = v.toNat % 2 ^ 32
         else onlyReg .schStatus s.blk t.blk ∧ getFld t.blk .schStatus 0 1 = 1))
  ∧ (∀ (s : State) (size : Bool) (v : W64), portTakes s .schCqSize = true → ∃ t : State, exec (.schCqConfigWrite size v) s = .next t ∧ onlyRegs s.blk t.blk
      ∧ (if getFld s.blk .schCqHead 0 32 ≠ getFld s.blk .schCqTail 0 32 ∨ s.blk.launch.isSome = true then onlyReg .schStatus s.blk t.blk ∧ getFld t.blk .schStatus 0 1 = 1
         else if size = true then getFld t.blk .schCqSize 0 4 = v.toNat % 16 ∧ getFld t.blk .schCqHead 0 32 = 0 ∧ getFld t.blk .schCqTail 0 32 = 0
         else onlyReg .schCqBase s.blk t.blk ∧ getFld t.blk .schCqBase 12 36 = v.toNat / 2 ^ 12 % 2 ^ 36))

/-- Launch by the command queue. LAUNCH_ENTRY reads the 64 bytes of the entry at HEAD under tag 0x1840; the response brings its words. An image is read at the context's read share
within 4 KiB, and its bytes go to the command store as they return. With no byte left to copy the entry is consumed: HEAD moves on; unless it is rejected, each strand it names
starts at its position and the context is RUNNING; a rejection starts nothing and is recorded with its reason and index. A read that fails or meets its timeout rejects with reason
0x4. A response that comes with LAUNCH_ENTRY is one that MP_READ_RESPONSE brings after its step, to the read that it names (R274 to R276, R328, R375).
Completes: launchEntry, mpReadResponse, tagTimeout. -/
def Obligations.LaunchStartsStrands : Prop :=
  (∀ s : State, live s.blk = true → queueRuns s.blk = true → s.blk.launch = none → s.blk.launchRead = none → ∃ (t : State) (q : LaunchRead), exec (.launchEntry [] [] false) s = .next t
      ∧ t.blk.launch = some ⟨getFld s.blk .schCqHead 0 32, none, 0⟩ ∧ t.blk.launchRead = some q
      ∧ q.src = 4096 * getFld s.blk .schCqBase 12 36 + 64 * (getFld s.blk .schCqHead 0 32 % 2 ^ getFld s.blk .schCqSize 0 4) ∧ q.len = 64
      ∧ q.issued = s.blk.beat ∧ q.zombie = false ∧ t.blk.ctxs = s.blk.ctxs ∧ sameUnits s.blk t.blk)
  ∧ (∀ (s : State) (data : List Byte) (q : LaunchRead) (r : LaunchRun), live s.blk = true → s.blk.launchRead = some q → q.zombie = false → s.blk.launch = some r → eccClean s.blk →
      ∃ t : State, exec (.mpReadResponse 0x1840#13 0#2 data) s = .next t ∧ t.blk.launchRead = none ∧ t.blk.ctxs = s.blk.ctxs ∧ t.blk.regs = s.blk.regs
        ∧ (let got := (List.range q.len).map (fun i => data.getD (q.src % 256 + i) 0#8)
           (r.words = none → t.blk.launch = some { r with words := some (entryWords got) } ∧ t.blk.sram = s.blk.sram)
            ∧ ∀ w, r.words = some w →
              (let a := cmdBase + 64 * ((parseLaunch w).dst + r.copied)
               t.blk.launch = some { r with copied := r.copied + q.len / 64 } ∧ (∀ i < q.len, memGet t.blk.sram (a + i) = data.getD (q.src % 256 + i) 0#8)
                ∧ ∀ y, (y < a ∨ a + q.len ≤ y) → memGet t.blk.sram y = memGet s.blk.sram y)))
  ∧ (∀ (s : State) (w : Vector W64 8) (i k : Nat), live s.blk = true → queueGoes s.blk = true → s.blk.launchRead = none → s.blk.launch = some ⟨i, some w, k⟩ →
      (let l := parseLaunch w
       l.img = true → k < l.len → (k = 0 → launchReason s.blk l = 0) → frozenV s.blk = false → sharesZero s.blk l.ctx = false →
       (let a := l.src + 64 * k
        let n := min (64 * (l.len - k)) (4096 - a % 4096)
        let cost := 256 * ((a % 256 + n + 255) / 256)
        cost ≤ (getCtx s.blk l.ctx).regRead → ∃ (t : State) (q : LaunchRead), exec (.launchEntry [] [] false) s = .next t ∧ t.blk.launchRead = some q ∧ q.src = a ∧ q.len = n ∧ q.issued = s.blk.beat
          ∧ q.zombie = false ∧ t.blk.launch = s.blk.launch ∧ (getCtx t.blk l.ctx).regRead = (getCtx s.blk l.ctx).regRead - cost
          ∧ (getCtx t.blk l.ctx).strands = (getCtx s.blk l.ctx).strands ∧ (∀ d, d ≠ l.ctx → getCtx t.blk d = getCtx s.blk d) ∧ sameUnits s.blk t.blk)))
  ∧ (∀ (s : State) (w : Vector W64 8) (i k : Nat), live s.blk = true → queueGoes s.blk = true → s.blk.launchRead = none → s.blk.launch = some ⟨i, some w, k⟩ →
      (let l := parseLaunch w
       let st := (getCtx s.blk l.ctx).state
       let reason := if k = 0 then launchReason s.blk l else if st ≠ .free ∧ st ≠ .running then 1 else 0
       (l.img = true → (k = 0 ∧ launchReason s.blk l ≠ 0) ∨ (k ≠ 0 ∧ l.len ≤ k)) → (k = 0 → st ≠ .fencing ∧ st ≠ .quarantine) →
       ∃ t : State, exec (.launchEntry [] [] false) s = .next t ∧ getFld t.blk .schCqHead 0 32 = (getFld s.blk .schCqHead 0 32 + 1) % 2 ^ 32 ∧ t.blk.launch = none
        ∧ (if reason = 0 then
            (getCtx t.blk l.ctx).state = .running ∧ (getCtx t.blk l.ctx).tagVal = BitVec.ofNat 16 l.tagVal
              ∧ (∀ q, getStrand t.blk l.ctx q = if bitAt l.strands q.val = true then
                  { getStrand s.blk l.ctx q with pos := l.pos q, started := true, halted := false, yielded := false, markAt := arrNow s.blk }
                else getStrand s.blk l.ctx q)
              ∧ (∀ d, d ≠ l.ctx → getCtx t.blk d = getCtx s.blk d)
           else t.blk.ctxs = s.blk.ctxs ∧ getFld t.blk .schCqStatus 0 1 = 1 ∧ getFld t.blk .schCqStatus 1 3 = reason
              ∧ getFld t.blk .schCqStatus 8 32 = getFld s.blk .schCqHead 0 32)
        ∧ t.blk.sram = s.blk.sram ∧ t.blk.entries = s.blk.entries))
  ∧ (∀ (s : State) (x : Instr) (q : LaunchRead) (r : LaunchRun), live s.blk = true → s.blk.launchRead = some q → q.zombie = false → s.blk.launch = some r →
      ((∃ err data, x = .mpReadResponse 0x1840#13 err data ∧ err ≠ 0#2) ∨ (x = .tagTimeout 0x1840#13 ∧ max 1 (getFld s.blk .engTagTimeout 0 32) ≤ s.blk.beat - q.issued)) →
      ∃ t : State, exec x s = .next t ∧ t.blk.launchRead = none ∧ t.blk.launch = none ∧ t.blk.ctxs = s.blk.ctxs
        ∧ getFld t.blk .schCqHead 0 32 = (getFld s.blk .schCqHead 0 32 + 1) % 2 ^ 32 ∧ getFld t.blk .schCqStatus 0 1 = 1
        ∧ getFld t.blk .schCqStatus 1 3 = 4 ∧ getFld t.blk .schCqStatus 8 32 = getFld s.blk .schCqHead 0 32)
  ∧ (∀ (s t : State) (ent : List Byte) (img : List (List Byte)) (err : Bool), live s.blk = true → exec (.launchEntry [] [] false) s = .next t →
      ((t.blk.launch = none ∨ ∀ q, t.blk.launchRead = some q → q.zombie = true) → exec (.launchEntry ent img err) s = .next t)
      ∧ (∀ (q : LaunchRead) (r : LaunchRun), t.blk.launchRead = some q → q.zombie = false → t.blk.launch = some r →
          (r.words = none → (∀ u, ent ≠ [] → exec (.mpReadResponse 0x1840#13 0#2 ent) t = .next u → exec (.launchEntry ent img err) s = exec (.launchEntry [] img err) u)
            ∧ exec (.launchEntry [] img err) s = exec (.launchEntry [] [] err) s)
          ∧ (r.words ≠ none → exec (.launchEntry ent img err) s = exec (.launchEntry [] img err) s
            ∧ ∀ d l u, img = d :: l → exec (.mpReadResponse 0x1840#13 0#2 d) t = .next u → exec (.launchEntry [] img err) s = exec (.launchEntry [] l err) u)
          ∧ exec (.launchEntry [] [] true) s = exec (.mpReadResponse 0x1840#13 1#2 []) t))

/-! ### Translation, streams, peers, chain and check registers -/

/-- XLT_ROOT_Cc is taken while its context is FREE, else CFG_REJECT is set. XLT_INVAL removes the entry of a page, the entries of a context, or all, and nothing else from the cache, and what
a walk in flight then finds of them is not kept; while BUSY it is ignored and sets INVAL_REJECT (R221, R401, R402).
Completes: xltRootWrite, xltInvalPage, xltInvalContext, xltInvalAll. -/
def Obligations.TranslationRegisters : Prop :=
  (∀ (s : State) (c : Ctx) (v : W64), portTakes s (.xltRoot c) = true → ∃ t : State, exec (.xltRootWrite c v) s = .next t
      ∧ (if (getCtx s.blk c).state = .free then
          onlyReg (.xltRoot c) s.blk t.blk ∧ getFld t.blk (.xltRoot c) 0 1 = v.toNat % 2 ∧ getFld t.blk (.xltRoot c) 13 35 = v.toNat / 2 ^ 13 % 2 ^ 35
         else onlyReg .xltStatus s.blk t.blk ∧ getFld t.blk .xltStatus 19 1 = 1))
  ∧ (∀ (s : State) (i : Instr) (sel : TlbEnt → Bool) (wk : Walk → Bool), portTakes s .xltInval = true →
      ((∃ c va, i = .xltInvalPage c va ∧ (sel = fun e => tlbHit e c va.toNat) ∧ wk = fun w => decide (w.ctx = c) && w.va / 0x40000000 == va.toNat / 0x40000000)
        ∨ (∃ c, i = .xltInvalContext c ∧ (sel = fun e => decide (e.ctx = c)) ∧ wk = fun w => decide (w.ctx = c))
        ∨ (i = .xltInvalAll ∧ (sel = fun _ => true) ∧ wk = fun _ => true)) →
      ∃ t : State, exec i s = .next t
        ∧ (if xltBusy s.blk = true then onlyReg .xltStatus s.blk t.blk ∧ getFld t.blk .xltStatus 18 1 = 1
           else t = wrote s { s.blk with
              tlb := s.blk.tlb.filter (fun e => !sel e), invalBusy := t.blk.invalBusy, invalUntil := t.blk.invalUntil
              walks := s.blk.walks.map (fun w => if wk w = true then { w with stale := true } else w) } ∧ xltBusy t.blk = true))

/-- STR_SPLIT_Cc is taken while the shares of each class over all contexts come to at most 64, else SPLIT_REJECT is set (R218); the port map is written only while no tag is held, with map
entries below 24 and PMAP_LSB from 12 to 40 (R378); STR_RESUME lets every halted stream of its context go on, one whose halt
record had freed its slot without one (R222).
Completes: strSplitWrite, strPortmapWrite, strResume. -/
def Obligations.StreamRegisters : Prop :=
  (∀ (s : State) (c : Ctx) (v : W64), portTakes s (.strSplit c) = true → ∃ t : State, exec (.strSplitWrite c v) s = .next t
      ∧ (let sum := fun (lo : Nat) => ((allFin 16).map (fun d => if d = c then v.toNat / 2 ^ lo % 2 ^ 7 else getFld s.blk (.strSplit d) lo 7)).foldl (· + ·) 0
         if sum 0 ≤ 64 ∧ sum 8 ≤ 64 ∧ sum 16 ≤ 64 then
          onlyReg (.strSplit c) s.blk t.blk ∧ (∀ lo ∈ ([0, 8, 16] : List Nat), getFld t.blk (.strSplit c) lo 7 = v.toNat / 2 ^ lo % 2 ^ 7)
         else onlyReg .strStatus s.blk t.blk ∧ getFld t.blk .strStatus 33 1 = 1))
  ∧ (∀ (s : State) (k : Option (Fin 32)) (v : W64), portTakes s .strPortmapCfg = true → ∃ t : State, exec (.strPortmapWrite k v) s = .next t
      ∧ (match k with
        | none => if s.blk.mp = [] ∧ s.blk.walks = [] ∧ 12 ≤ v.toNat % 2 ^ 6 ∧ v.toNat % 2 ^ 6 ≤ 40 then
            onlyReg .strPortmapCfg s.blk t.blk ∧ getFld t.blk .strPortmapCfg 0 6 = v.toNat % 2 ^ 6 else t = wrote s s.blk
        | some k => if s.blk.mp = [] ∧ s.blk.walks = [] ∧ (∀ j < 8, v.toNat / 2 ^ (8 * j) % 32 ≤ 23) then
            onlyReg (.strPortmap k) s.blk t.blk ∧ (∀ j < 8, getFld t.blk (.strPortmap k) (8 * j) 5 = v.toNat / 2 ^ (8 * j) % 32) else t = wrote s s.blk))
  ∧ (∀ (s : State) (c : Ctx), portTakes s .strResume = true →
      exec (.strResume c) s = .next (wrote s { s.blk with streams := s.blk.streams.map (fun x => if x.ctx = c ∧ x.halted.isSome = true then
        { x with halted := none, slotless := (match x.owner with
          | .entry e => ((haltRecords s.blk .load ++ haltRecords s.blk .store).map (·.2)).contains e
          | _ => false) } else x) }))

/-- A peer entry takes its fields, its REVOKED bit clearing, while neither its old nor its new context works; else CFG_REJECT (R291). CHN_CFG is taken in pass mode with an empty ring or in take mode with
nothing queued, and a new INTAKE resets the link: this side drives the reset for 8 PORT cycles and its receiver then advertises INTAKE; else CFG_REJECT (R290, R301, R380).
Completes: fabPeerWrite, chnCfgWrite. -/
def Obligations.PeerAndChainConfiguration : Prop :=
  (∀ (s : State) (n : Fin 4096) (v : W64), portTakes s (.fabPeer n) = true → ∃ t : State, exec (.fabPeerWrite n v) s = .next t
      ∧ (if activeCtx s.blk (Fin.ofNat 16 (getFld s.blk (.fabPeer n) 1 4)) = true ∨ activeCtx s.blk (Fin.ofNat 16 (v.toNat / 2 % 16)) = true then
          onlyReg .fabStatus s.blk t.blk ∧ getFld t.blk .fabStatus 33 1 = 1
         else onlyReg (.fabPeer n) s.blk t.blk ∧ rawReg t.blk (.fabPeer n) = (v &&& 0x00FFFFFFFFFFFFFF#64)))
  ∧ (∀ (s : State) (v : W64), portTakes s .chnCfg = true → ∃ t : State, exec (.chnCfgWrite v) s = .next t
      ∧ (if (if chnTake s.blk = true then ∃ e ∈ s.blk.entries, e.eunit = .chain else s.blk.chain.ring ≠ []) then
          onlyReg .chnStatus s.blk t.blk ∧ getFld t.blk .chnStatus 34 1 = 1
         else v.toNat % 4 ≤ 1 → 1 ≤ v.toNat / 2 ^ 6 % 2 ^ 10 → v.toNat / 2 ^ 6 % 2 ^ 10 + v.toNat / 2 ^ 16 % 2 ^ 10 ≤ 1024 →
          onlyReg .chnCfg { s.blk with chain := t.blk.chain } t.blk
            ∧ getFld t.blk .chnCfg 0 2 = v.toNat % 4 ∧ getFld t.blk .chnCfg 2 4 = v.toNat / 4 % 16
            ∧ getFld t.blk .chnCfg 6 10 = v.toNat / 2 ^ 6 % 2 ^ 10 ∧ getFld t.blk .chnCfg 16 10 = v.toNat / 2 ^ 16 % 2 ^ 10
            ∧ getFld t.blk .chnCfg 32 16 = v.toNat / 2 ^ 32 % 2 ^ 16
            ∧ t.blk.chain = (if v.toNat / 2 ^ 6 % 2 ^ 10 = getFld s.blk .chnCfg 6 10 then s.blk.chain
                else { s.blk.chain with creditsOut := v.toNat / 2 ^ 6 % 2 ^ 10, holdFrom := none, lrstUp := portNow s.blk + 8 })))

/-- A check channel takes register writes while no feed holds it, it is not BUSY and its owner is FREE, DONE, PREEMPTED or FAULTED: a feed folds the 1, 2 or 4 low bytes, byte 0 first, and keeps it BUSY
for as many beats; CTL, VALUE and EXPECT are set. Any other write is ignored in full and sets REG_REJECT (R305, R310).
Completes: chkFeed, chkRegisterWrite. -/
def Obligations.CheckRegisterWrites : Prop :=
  (∀ (s : State) (n : Chk) (v : W64), portTakes s (.chkFeed n) = true → ∃ t : State, exec (.chkFeed n v) s = .next t
      ∧ (let size := v.toNat / 2 ^ 32 % 4
         if chkWritable s.blk n = true ∧ size ≠ 3 then
          chkV t.blk n = crcFold (chkPoly s.blk n) (chkV s.blk n) (leBytes (2 ^ size) (v.toNat % 2 ^ 32)) % 2 ^ crcWidth (chkPoly s.blk n)
            ∧ getChk t.blk n = { getChk s.blk n with busyUntil := s.blk.beat + 2 ^ size } ∧ (∀ m, m ≠ n → getChk t.blk m = getChk s.blk m)
            ∧ onlyReg (.chkValue n) { s.blk with chks := t.blk.chks } t.blk
         else onlyReg (.chkStatus n) s.blk t.blk ∧ getFld t.blk (.chkStatus n) 8 1 = 1))
  ∧ (∀ (s : State) (n : Chk) (r : ChkReg) (v : W64), portTakes s (.chkCtl n) = true → ∃ t : State, exec (.chkRegisterWrite n r v) s = .next t ∧ onlyRegs { s.blk with chks := t.blk.chks } t.blk
      ∧ (∀ m, getChk t.blk m = if m = n ∧ r = .value ∧ chkWritable s.blk n = true then { getChk s.blk m with preFold := none } else getChk s.blk m)
      ∧ (if chkWritable s.blk n = true then
          (match r with
            | .ctl => getFld t.blk (.chkCtl n) 0 7 = v.toNat % 2 ^ 7 ∧ chkV t.blk n = (rawReg s.blk (.chkValue n)).toNat % 2 ^ crcWidth (v.toNat % 2)
            | .value => onlyReg (.chkValue n) { s.blk with chks := t.blk.chks } t.blk ∧ chkV t.blk n = v.toNat % 2 ^ crcWidth (chkPoly s.blk n)
            | .expect => onlyReg (.chkExpect n) s.blk t.blk ∧ rawReg t.blk (.chkExpect n) = v)
         else onlyReg (.chkStatus n) s.blk t.blk ∧ getFld t.blk (.chkStatus n) 8 1 = 1))

/-- A queued notice leaves a powered engine in the order in which the notices arose, and nothing else changes (R372).
Completes: noticeSend. -/
def Obligations.NoticesLeaveInOrder : Prop :=
  ∀ (s : State) (n : W64) (r : List W64), s.blk.notices = n :: r → s.blk.pins.rstCold = true → s.blk.pins.powered = true →
    exec .noticeSend s = .next { s with blk := { s.blk with notices := r, noticeOut := some n } }

/-! ### Instructions of the issue stage -/

/-- R261 whole: SETQ writes its immediate into the slot, or into bits LO + WM1 : LO of it; ADDQ writes QA + IMM (+ QB) modulo 2^64; no other slot changes, the strand moves to its next instruction,
and no unit is touched. A SETQ of a field that ends above bit 63, and reserved bits, fail the static check.
Completes: setq, addq. -/
def Obligations.SetqAndAddq : Prop :=
  (∀ (s : State) (c : Ctx) (q : Strand) (w : BitVec 128), Dispatches s.blk c q w → wOpc w.toNat = 0x01 →
      ∃ t : State, exec (.setq c q) s = .next t
        ∧ (let k := slotAt w.toNat 36 32
           let lo := w.toNat / 2 ^ 38 % 2 ^ 6
           let wm1 := w.toNat / 2 ^ 44 % 2 ^ 6
           (∀ i < 64, (getSlot t.blk c q k).getLsbD i =
              if w.getLsbD 37 = false then w.getLsbD (64 + i)
              else if lo ≤ i ∧ i ≤ lo + wm1 then w.getLsbD (64 + (i - lo)) else (getSlot s.blk c q k).getLsbD i)
            ∧ onlySlot c q k s.blk t.blk ∧ (getStrand t.blk c q).pos = (getStrand s.blk c q).pos + 1 ∧ sameUnits s.blk t.blk))
  ∧ (∀ (s : State) (c : Ctx) (q : Strand) (w : BitVec 128), Dispatches s.blk c q w → wOpc w.toNat = 0x02 →
      ∃ t : State, exec (.addq c q) s = .next t
        ∧ (let k := slotAt w.toNat 36 32
           getSlot t.blk c q k = getSlot s.blk c q (slotAt w.toNat 41 37) + (w >>> 64).setWidth 64
              + (if w.getLsbD 47 = true then getSlot s.blk c q (slotAt w.toNat 46 42) else 0#64)
            ∧ onlySlot c q k s.blk t.blk ∧ (getStrand t.blk c q).pos = (getStrand s.blk c q).pos + 1 ∧ sameUnits s.blk t.blk))
  ∧ (∀ (q : Strand) (w : BitVec 128), wOpc w.toNat = 0x01 → w.getLsbD 37 = true → 63 < w.toNat / 2 ^ 38 % 2 ^ 6 + w.toNat / 2 ^ 44 % 2 ^ 6 →
      staticOk q w.toNat = false)
  ∧ (∀ (q : Strand) (w : BitVec 128), ((wOpc w.toNat = 0x01 ∧ w.toNat / 2 ^ 50 % 2 ^ 14 ≠ 0) ∨ (wOpc w.toNat = 0x02 ∧ w.toNat / 2 ^ 48 % 2 ^ 16 ≠ 0)) →
      staticOk q w.toNat = false)

/-- R262 whole: a taken JUMP sets POS = TARGET, by the condition on its slot; LOOP writes QC = QC − 1 modulo 2^64 and is taken when the new QC is not 0; a branch not taken moves to the next
instruction; JUMP changes no slot, LOOP only its counter, and no unit is touched. Reserved bits fail the static check.
Completes: jump, loop. -/
def Obligations.JumpAndLoop : Prop :=
  (∀ (s : State) (c : Ctx) (q : Strand) (w : BitVec 128), Dispatches s.blk c q w → wOpc w.toNat = 0x03 →
      ∃ t : State, exec (.jump c q) s = .next t
        ∧ (let v := getSlot s.blk c q (slotAt w.toNat 56 52)
           let cond := w.toNat / 2 ^ 50 % 4
           let taken := cond = 0 ∨ (cond = 1 ∧ v = 0#64) ∨ (cond = 2 ∧ v ≠ 0#64) ∨ (cond = 3 ∧ v.getLsbD 63 = true)
           (taken → (getStrand t.blk c q).pos = w.toNat / 2 ^ 32 % 2 ^ 18)
            ∧ (¬ taken → (getStrand t.blk c q).pos = (getStrand s.blk c q).pos + 1))
        ∧ (∀ c' q' k', getSlot t.blk c' q' k' = getSlot s.blk c' q' k') ∧ sameUnits s.blk t.blk)
  ∧ (∀ (s : State) (c : Ctx) (q : Strand) (w : BitVec 128), Dispatches s.blk c q w → wOpc w.toNat = 0x04 →
      ∃ t : State, exec (.loop c q) s = .next t
        ∧ (let k := slotAt w.toNat 54 50
           getSlot t.blk c q k = getSlot s.blk c q k - 1#64 ∧ onlySlot c q k s.blk t.blk
            ∧ (getStrand t.blk c q).pos = if getSlot s.blk c q k - 1#64 ≠ 0#64 then w.toNat / 2 ^ 32 % 2 ^ 18 else (getStrand s.blk c q).pos + 1)
        ∧ sameUnits s.blk t.blk)
  ∧ (∀ (q : Strand) (w : BitVec 128), ((wOpc w.toNat = 0x03 ∧ w.toNat / 2 ^ 57 ≠ 0) ∨ (wOpc w.toNat = 0x04 ∧ w.toNat / 2 ^ 55 ≠ 0)) → staticOk q w.toNat = false)

/-- R263 whole: EVENT writes VALUE, its strand and the slot QV into the context's event registers and adds 1 to their COUNT, replacing what an earlier EVENT left there; with NOTIFY a notice of kind 2 carries VALUE. It
changes no slot and touches no unit. Reserved bits fail the static check.
Completes: event. -/
def Obligations.EventReportsToTheHost : Prop :=
  (∀ (s : State) (c : Ctx) (q : Strand) (w : BitVec 128), Dispatches s.blk c q w → wOpc w.toNat = 0x05 →
      ∃ t : State, exec (.event c q) s = .next t
        ∧ getFld t.blk (.schEvent c) 0 16 = w.toNat / 2 ^ 32 % 2 ^ 16 ∧ getFld t.blk (.schEvent c) 16 2 = q.val
        ∧ getFld t.blk (.schEvent c) 32 16 = min (2 ^ 16 - 1) (getFld s.blk (.schEvent c) 32 16 + 1)
        ∧ rawReg t.blk (.schEventData c) = getSlot s.blk c q (slotAt w.toNat 52 48)
        ∧ (w.getLsbD 53 = true → s.blk.notices.length < 32 → w.getLsbD 13 = false →
            ∃ n, noticeAdded s.blk t.blk n ∧ n.toNat % 2 ^ 9 = 2 + 16 + 32 * c.val ∧ n.toNat / 2 ^ 16 % 2 ^ 16 = w.toNat / 2 ^ 32 % 2 ^ 16)
        ∧ (w.getLsbD 53 = true → s.blk.notices.length < 31 →
            ∃ n ∈ t.blk.notices, n.toNat % 2 ^ 9 = 2 + 16 + 32 * c.val ∧ n.toNat / 2 ^ 16 % 2 ^ 16 = w.toNat / 2 ^ 32 % 2 ^ 16)
        ∧ (getStrand t.blk c q).pos = (getStrand s.blk c q).pos + 1
        ∧ (∀ c' q' k', getSlot t.blk c' q' k' = getSlot s.blk c' q' k') ∧ sameUnits s.blk t.blk)
  ∧ (∀ (q : Strand) (w : BitVec 128), wOpc w.toNat = 0x05 → w.toNat / 2 ^ 54 ≠ 0 → staticOk q w.toNat = false)

/-- NOP, FENCE, PWAIT, YIELD, HALT and MARK do what they say to their strand and to nothing else but pegs, registers and notices: NOP, FENCE and PWAIT move on; YIELD holds the strand for CYCLES ARR cycles and its expiry ends that; HALT ends
it; MARK takes the cycle of the mark (R235, R236, R240, R264). PWAIT takes N from the count its role waits on.
Completes: nop, yield, halt, pwait, mark, fence, yieldExpiry. -/
def Obligations.StrandInstructions : Prop :=
  (∀ (s : State) (c : Ctx) (q : Strand) (w : BitVec 128) (i : Instr) (op : Nat),
      (i, op) ∈ [(.nop c q, 0x00), (.yield c q, 0x06), (.halt c q, 0x07), (.pwait c q, 0x08), (.mark c q, 0x0A), (.fence c q, 0x0B)] →
      Dispatches s.blk c q w → wOpc w.toNat = op → ∃ t : State, exec i s = .next t
        ∧ getStrand t.blk c q = { getStrand s.blk c q with
            pos := (getStrand s.blk c q).pos + 1
            halted := if op = 0x07 then true else (getStrand s.blk c q).halted
            yielded := if op = 0x06 then true else (getStrand s.blk c q).yielded
            yieldUntil := if op = 0x06 then arrNow s.blk + w.toNat / 2 ^ 32 % 2 ^ 16 else (getStrand s.blk c q).yieldUntil
            markAt := if op = 0x0A then arrNow s.blk else (getStrand s.blk c q).markAt }
        ∧ (op ≠ 0x0A → sameUnits s.blk t.blk) ∧ t.blk.sram = s.blk.sram ∧ t.blk.arrays = s.blk.arrays ∧ t.blk.groups = s.blk.groups)
  ∧ (∀ (s : State) (c : Ctx) (q : Strand) (w : BitVec 128), Dispatches s.blk c q w → wOpc w.toNat = 0x08 → bitAt w.toNat 13 = false →
      ∃ t : State, exec (.pwait c q) s = .next t ∧
        (∀ r, pegRole s.blk (wPeg w.toNat) c q = some r → pegCount t.blk (wPeg w.toNat) r + wPegN w.toNat = pegCount s.blk (wPeg w.toNat) r)
        ∧ (∀ p, p ≠ wPeg w.toNat → getPeg t.blk p = getPeg s.blk p))
  ∧ (∀ (s : State) (c : Ctx) (q : Strand), live s.blk = true → (getStrand s.blk c q).yielded = true → (getStrand s.blk c q).yieldUntil < arrNow s.blk + 2 →
      ∃ t : State, exec (.yieldExpiry c q) s = .next t ∧ getStrand t.blk c q = { getStrand s.blk c q with yielded := false }
        ∧ t.blk = { s.blk with ctxs := t.blk.ctxs } ∧ (∀ d q', (d, q') ≠ (c, q) → getStrand t.blk d q' = getStrand s.blk d q'))

/-- A PPOST to a side of its own engine adds N to FULL from the producer and to EMPTY from the consumer; above 65,535 the count stays there and the owning context is FAULTED (R236, R237, R265).
Completes: ppost. -/
def Obligations.LocalPostsCount : Prop :=
  ∀ (s : State) (c : Ctx) (q : Strand) (w : BitVec 128) (r : Role), Dispatches s.blk c q w → wOpc w.toNat = 0x09 →
    pegRole s.blk (wPeg w.toNat) c q = some r → postRemote s.blk (wPeg w.toNat) r = false → bitAt w.toNat 12 = false → bitAt w.toNat 13 = false →
    ∃ t : State, exec (.ppost c q) s = .next t
      ∧ (let x := getPeg s.blk (wPeg w.toNat)
         let old := match r with | .producer => x.full.toNat | .consumer => x.empty.toNat
         let v : BitVec 16 := BitVec.ofNat 16 (min 65535 (old + wPegN w.toNat))
         getPeg t.blk (wPeg w.toNat) = (match r with | .producer => { x with full := v } | .consumer => { x with empty := v })
          ∧ (65535 < old + wPegN w.toNat → (getCtx t.blk c).state = .faulted)
          ∧ (old + wPegN w.toNat ≤ 65535 → (getCtx t.blk c).state = .running))
      ∧ (∀ p, p ≠ wPeg w.toNat → getPeg t.blk p = getPeg s.blk p) ∧ (getStrand t.blk c q).pos = (getStrand s.blk c q).pos + 1 ∧ sameUnits s.blk t.blk

/-! ### Instructions that enter a unit, and their completion -/

/-- Every instruction that is no business of the issue stage alone enters its unit's queue, at the end, with the word, context, generation, strand and position it was dispatched with; the
strand moves to its next instruction and no scalar slot, no SRAM, no kiln record and no request changes. GCLOSE and GMERGE enter too, and while contributions are short they leave the queue for
their group's record, the group then WAITING (R19, R21, R58, R96, R103, R106, R141, R163, R165, R172, R174, R183).
Completes: load, store, copy, fill, short, pass, gang, wall, swap, gopen, gpark, gresume, glzcfg, vop, norm, rulecfgBegin, rulecfgAbort, rulecfgCheck, update, precond, line, chsend, chrecv, chkseed, chkcmp, ckpt, restore, gclose, gmerge. -/
def Obligations.InstructionsEnterTheirUnits : Prop :=
  (∀ (s : State) (c : Ctx) (q : Strand) (w : BitVec 128) (i : Instr) (op : Nat) (act : Option Nat) (u : EUnit),
      (i, op, act, u) ∈ ([(.load c q, 0x10, none, .load), (.store c q, 0x11, none, .store), (.copy c q, 0x12, none, .load), (.fill c q, 0x13, none, .store),
        (.short c q, 0x14, none, .short), (.pass c q, 0x20, none, .array), (.gang c q, 0x21, none, .array), (.wall c q, 0x22, none, .array),
        (.swap c q, 0x23, none, .array), (.gopen c q, 0x28, none, .kiln), (.gpark c q, 0x29, none, .kiln), (.gresume c q, 0x2A, none, .kiln),
        (.glzcfg c q, 0x30, none, .array), (.vop c q, 0x38, none, .vec), (.norm c q, 0x39, none, .vec), (.rulecfgBegin c q, 0x3A, some 0, .vec),
        (.rulecfgAbort c q, 0x3A, some 1, .vec), (.rulecfgCheck c q, 0x3A, some 2, .vec), (.update c q, 0x3B, none, .vec), (.precond c q, 0x3C, none, .vec),
        (.line c q, 0x40, none, .line), (.chsend c q, 0x48, none, .chain), (.chrecv c q, 0x49, none, .chain),
        (.chkseed c q, 0x50, none, .chk (chkIx w.toNat)), (.chkcmp c q, 0x51, none, .chk (chkIx w.toNat)),
        (.ckpt c q, 0x58, none, .store), (.restore c q, 0x59, none, .load)] : List (Instr × Nat × Option Nat × EUnit)) →
      Dispatches s.blk c q w → wOpc w.toNat = op → (∀ a, act = some a → w.toNat / 2 ^ 32 % 4 = a) →
      ∃ (t : State) (e : Entry), exec i s = .next t ∧ t.blk.entries = s.blk.entries ++ [e] ∧ e.word = w ∧ e.ctx = c ∧ e.gen = (getCtx s.blk c).gen ∧ e.strand = q
        ∧ e.pos = (getStrand s.blk c q).pos ∧ e.eunit = u ∧ e.started = false
        ∧ (getStrand t.blk c q).pos = (getStrand s.blk c q).pos + 1 ∧ (∀ c' q' k', getSlot t.blk c' q' k' = getSlot s.blk c' q' k')
        ∧ t.blk.sram = s.blk.sram ∧ t.blk.kiln = s.blk.kiln ∧ t.blk.mp = s.blk.mp ∧ t.blk.tlb = s.blk.tlb ∧ t.blk.chain = s.blk.chain)
  ∧ (∀ (s : State) (c : Ctx) (q : Strand) (w : BitVec 128) (i : Instr) (op : Nat),
      (i, op) ∈ ([(.gclose c q, 0x2B), (.gmerge c q, 0x2C)] : List (Instr × Nat)) → Dispatches s.blk c q w → wOpc w.toNat = op →
      ∃ (t : State) (e : Entry), exec i s = .next t
        ∧ (let g := kGrp w.toNat
           let met := (getGrp s.blk g).localCnt + (getGrp s.blk g).remoteCnt = (getGrp s.blk g).expect
           e ∈ t.blk.entries ∧ e.word = w ∧ e.ctx = c ∧ e.gen = (getCtx s.blk c).gen ∧ e.strand = q ∧ e.pos = (getStrand s.blk c q).pos ∧ e.eunit = .kiln
            ∧ (getGrp t.blk g).close = some e.id ∧ (getGrp t.blk g).waitFrom = s.blk.beat
            ∧ (met → e.started = false ∧ (getGrp t.blk g).state = (getGrp s.blk g).state)
            ∧ (¬ met → e.started = true ∧ (getGrp t.blk g).state = .waiting)
            ∧ ∀ g', g' ≠ g → getGrp t.blk g' = getGrp s.blk g')
        ∧ (getStrand t.blk c q).pos = (getStrand s.blk c q).pos + 1 ∧ (∀ c' q' k', getSlot t.blk c' q' k' = getSlot s.blk c' q' k')
        ∧ t.blk.sram = s.blk.sram ∧ t.blk.kiln = s.blk.kiln ∧ t.blk.mp = s.blk.mp ∧ t.blk.tlb = s.blk.tlb ∧ t.blk.chain = s.blk.chain)

/-- Instructions complete in their units. WALL at its array's head changes the mode, or halts its context while a tile is held; SWAP exchanges the staging sides; CHKSEED sets the
polynomial and the running value of its channel; CHKCMP compares, writes its slot on a match and halts its context on a mismatch, which it counts; a PASS or GANG whose parts have all
ended, and any other instruction, leaves the scoreboard when its last stream has ended (R22, R71, R248, R260, R271, R313).
Completes: instructionComplete, passComplete. -/
def Obligations.InstructionsComplete : Prop :=
  (∀ (s : State) (i : Nat) (e : Entry) (n : Arr), Works s.blk i e → wOpc e.word.toNat = 0x22 → n = arrAt e.word.toNat 33 32 → e.phase = 0 →
      arrHead s.blk n = some e → liveResume s.blk n = [] → earlierDone s.blk n e = true → ∃ t : State, exec (.instructionComplete i) s = .next t
        ∧ (if anyTileHeld s.blk n = true then (getCtx t.blk e.ctx).state = .faulted ∧ t.blk.arrays = s.blk.arrays
           else getArr t.blk n = { getArr s.blk n with wall := e.word.toNat / 2 ^ 34 % 4 } ∧ findEntry t.blk i = none ∧ ∀ m, m ≠ n → getArr t.blk m = getArr s.blk m)
        ∧ t.blk.sram = s.blk.sram ∧ t.blk.groups = s.blk.groups)
  ∧ (∀ (s : State) (i : Nat) (e : Entry) (n : Arr), Works s.blk i e → wOpc e.word.toNat = 0x23 → n = arrAt e.word.toNat 33 32 → e.phase = 0 →
      arrHead s.blk n = some e → liveResume s.blk n = [] → earlierDone s.blk n e = true → ∃ t : State, exec (.instructionComplete i) s = .next t
        ∧ getFld t.blk .schFixed (8 * n.val + 5) 1 = 1 - getFld s.blk .schFixed (8 * n.val + 5) 1 ∧ findEntry t.blk i = none
        ∧ (∀ m, m ≠ n → getFld t.blk .schFixed (8 * m.val) 6 = getFld s.blk .schFixed (8 * m.val) 6) ∧ sameUnits s.blk t.blk)
  ∧ (∀ (s : State) (i : Nat) (e : Entry) (n : Chk), Works s.blk i e → wOpc e.word.toNat = 0x50 → n = chkIx e.word.toNat → e.eunit = .chk n → e.phase = 0 →
      queueHead s.blk (.chk n) = some e → chkBusy s.blk n = false → feedsDone s.blk e n = true → ∃ t : State, exec (.instructionComplete i) s = .next t
        ∧ chkPoly t.blk n = e.word.toNat / 2 ^ 34 % 2 ∧ chkV t.blk n = (e.reads.getD 0 0#64).toNat % 2 ^ crcWidth (e.word.toNat / 2 ^ 34 % 2)
        ∧ findEntry t.blk i = none ∧ sameUnits s.blk t.blk)
  ∧ (∀ (s : State) (i : Nat) (e : Entry) (n : Chk), Works s.blk i e → wOpc e.word.toNat = 0x51 → n = chkIx e.word.toNat → e.eunit = .chk n → e.phase = 0 →
      queueHead s.blk (.chk n) = some e → chkBusy s.blk n = false → feedsDone s.blk e n = true → ∃ t : State, exec (.instructionComplete i) s = .next t
        ∧ rawReg t.blk (.chkExpect n) = e.reads.getD 0 0#64 ∧ chkV t.blk n = chkV s.blk n
        ∧ (if chkV s.blk n = (e.reads.getD 0 0#64).toNat % 2 ^ crcWidth (chkPoly s.blk n) then
            findEntry t.blk i = none ∧ (e.word.getLsbD 39 = true → getSlot t.blk e.ctx e.strand (slotAt e.word.toNat 44 40) = BitVec.ofNat 64 (chkV s.blk n))
           else (getCtx t.blk e.ctx).state = .faulted ∧ getFld t.blk (.chkCount n) 0 16 = min (2 ^ 16 - 1) (getFld s.blk (.chkCount n) 0 16 + 1))
        ∧ sameUnits s.blk t.blk)
  ∧ (∀ (s : State) (i : Nat) (e : Entry) (x : Instr), (x = .instructionComplete i ∨ (x = .passComplete i ∧ (wOpc e.word.toNat = 0x20 ∨ wOpc e.word.toNat = 0x21))) →
      Works s.blk i e → e.phase = 1 → entryStreamsDone s.blk i = true → ∃ t : State, exec x s = .next t
        ∧ findEntry t.blk i = none ∧ t.blk.entries = s.blk.entries.filter (fun y => y.id != i) ∧ t.blk.sram = s.blk.sram ∧ t.blk.arrays = s.blk.arrays)

/-! ### Arrays -/

/-- A step of a ramp moves its level linearly, rounded toward the old level, and the accumulator by the bubbles' carry; an advance ramp that is complete leaves its array running; an idle
array is gated after HOLD_OFF cycles and no other is (R67, R68).
Completes: rampStep, arrayClockGate. -/
def Obligations.RampsAndGating : Prop :=
  (∀ (s : State) (n : Arr), UnitsRun s.blk → ∃ t : State, exec (.rampStep n) s = .next t ∧ t.blk = { s.blk with arrays := t.blk.arrays }
      ∧ (∀ m, m ≠ n → getArr t.blk m = getArr s.blk m)
      ∧ (let after := fun (r : Ramp) => if r.steps ≤ r.step then r else
            let lv := if r.from_ ≤ r.to_ then r.from_ + (r.to_ - r.from_) * (r.step + 1) / r.steps else r.from_ - (r.from_ - r.to_) * (r.step + 1) / r.steps
            { r with step := r.step + 1, level := lv, acc := (r.acc + getFld s.blk (.arrRamp n) 0 4 * lv) % 64 }
         let a := getArr s.blk n
         getArr t.blk n = { a with
            inp := after a.inp
            adv := if a.gate = .ramping then after a.adv else a.adv
            gate := if a.gate = .ramping ∧ (after a.adv).steps ≤ (after a.adv).step then .running else a.gate }))
  ∧ (∀ (s : State) (n : Arr), live s.blk = true → ∃ t : State, exec (.arrayClockGate n) s = .next t ∧ t.blk = { s.blk with arrays := t.blk.arrays }
      ∧ (∀ m, m ≠ n → getArr t.blk m = getArr s.blk m)
      ∧ getArr t.blk n = (if (getArr s.blk n).gate = .running ∧ arrIdle s.blk n = true
            ∧ getFld s.blk (.arrRamp n) 16 16 ≤ arrNow s.blk - (getArr s.blk n).idleSince then { getArr s.blk n with gate := .gated } else getArr s.blk n))

/-- Passes on an array. A PASS at the queue's head starts at its position, in the bank not used last when both are free; its input cycles move on through K by the rows of a cycle, and a bubble
changes nothing; the row path hands the next row of a drained tile to the drain; a held tile of a PREEMPTING context starts to park, and its running grouped pass stops and parks in stack form;
a GLZCFG takes a program slot and completes (R56, R62, R65, R80, R141).
Completes: passStart, inputCycle, rowRead, preemptStop, glzcfgLoad. -/
def Obligations.PassesRunOnArrays : Prop :=
  (∀ (s : State) (n : Arr) (e : Entry), UnitsRun s.blk → usable s.blk n = true → (getArr s.blk n).replays = [] → liveResume s.blk n = [] →
      arrHead s.blk n = some e → wOpc e.word.toNat = 0x20 → pArr e.word.toNat = n → pGrpEn e.word.toNat = false → typeIsComplex (pTA e.word.toNat) = false →
      (let p := getPos s.blk n (pSag e.word.toNat)
       p.run = none → p.b0.state = .empty → p.b1.state = .empty → ∃ (t : State) (r : PassRun), exec (.passStart n) s = .next t
        ∧ (getPos t.blk n (pSag e.word.toNat)).run = some r ∧ r.entry = e.id ∧ r.bank = 1 - p.last ∧ (getPos t.blk n (pSag e.word.toNat)).last = 1 - p.last
        ∧ r.m = pM e.word.toNat ∧ r.n = pN e.word.toNat ∧ r.k = pK e.word.toNat ∧ r.kpos = 0
        ∧ ((getPos t.blk n (pSag e.word.toNat)).bank r.bank).state = .filling ∧ ((getPos t.blk n (pSag e.word.toNat)).bank r.bank).cells = []
        ∧ (∀ g, g ≠ pSag e.word.toNat → getPos t.blk n g = getPos s.blk n g) ∧ (∀ m, m ≠ n → getArr t.blk m = getArr s.blk m)
        ∧ t.blk.sram = s.blk.sram ∧ t.blk.groups = s.blk.groups))
  ∧ (∀ (s : State) (n : Arr) (g : Sag) (r : PassRun), live s.blk = true → (getPos s.blk n g).run = some r → arrRuns s.blk n = true → (r.gang = false ∨ r.replay = true) → preemptHolds s.blk r = false →
      splitSteps r.ta = 1 → r.split = 0 → r.ended = false → r.kpos + rowsPerCycle r.ta r.tb < r.k → eccClean s.blk → ∃ (t : State) (r' : PassRun), exec (.inputCycle n g) s = .next t
        ∧ (getPos t.blk n g).run = some r' ∧ r'.kpos = r.kpos + rowsPerCycle r.ta r.tb ∧ r'.k = r.k ∧ r'.entry = r.entry ∧ r'.bank = r.bank ∧ r'.ended = false
        ∧ (∀ h, h ≠ g → getPos t.blk n h = getPos s.blk n h) ∧ (∀ m, m ≠ n → getArr t.blk m = getArr s.blk m) ∧ t.blk.sram = s.blk.sram)
  ∧ (∀ (s : State) (n : Arr) (g : Sag), live s.blk = true →
      (arrRuns s.blk n = false ∨ ∃ r, (getPos s.blk n g).run = some r ∧ preemptHolds s.blk r = true) → ∃ t : State, exec (.inputCycle n g) s = .next t ∧ t.blk = s.blk)
  ∧ (∀ (s : State) (n : Arr) (x : TileRead) (k : BankIx), live s.blk = true → arrRuns s.blk n = true → nextRead s.blk n = some x →
      x.kind = .drain → x.checked = false → x.complex = false → x.bank = some k → x.next + 1 < x.m →
      ∃ t : State, exec (.rowRead n) s = .next t
        ∧ (getArr t.blk n).rows = (getArr s.blk n).rows ++ [⟨x.tid, x.next,
             (List.range x.w).map (fun j => (cellGet ((getPos s.blk n x.sag).bank k).cells (x.next * x.w + j)).total), []⟩]
        ∧ (getArr t.blk n).reads = (getArr s.blk n).reads.map (fun y => if y.tid == x.tid then { y with next := y.next + 1 } else y) ∧ (getArr t.blk n).pos = (getArr s.blk n).pos ∧ t.blk.sram = s.blk.sram)
  ∧ (∀ (s : State) (n : Arr) (g : Sag) (k : BankIx) (q : Grp), live s.blk = true → arrAwake s.blk n = true → (getPos s.blk n g).run = none → heldOf s.blk n g = some (k, q) →
      ∃ (t : State) (x : TileRead), exec (.preemptStop n g) s = .next t ∧ (getArr t.blk n).reads = (getArr s.blk n).reads ++ [x] ∧ x.kind = .park ∧ x.grp = some q ∧ x.sag = g ∧ x.bank = some k
        ∧ ((getPos t.blk n g).bank k).state = .reading ∧ ((getPos t.blk n g).bank k).cells = ((getPos s.blk n g).bank k).cells ∧ t.blk.groups = s.blk.groups)
  ∧ (∀ (s : State) (n : Arr) (g : Sag) (r : PassRun), live s.blk = true → arrRuns s.blk n = true → (getPos s.blk n g).run = some r → (getCtx s.blk r.ctx).state = .preempting →
      r.grp ≠ none → r.replay = false → stopPoint s.blk r = true → ∃ (t : State) (x : TileRead), exec (.preemptStop n g) s = .next t ∧ (getPos t.blk n g).run = none
        ∧ (getArr t.blk n).reads = (getArr s.blk n).reads ++ [x] ∧ x.kind = .preempt ∧ x.grp = r.grp ∧ x.sag = g ∧ x.run = some r
        ∧ ((getPos t.blk n g).bank r.bank).state = .reading ∧ ((getPos t.blk n g).bank r.bank).cells = ((getPos s.blk n g).bank r.bank).cells ∧ t.blk.groups = s.blk.groups)
  ∧ (∀ (s : State) (n : Arr) (e : Entry), arrHead s.blk n = some e → liveResume s.blk n = [] → Works s.blk e.id e → wOpc e.word.toNat = 0x30 →
      ((getArr s.blk n).slots.filter (fun x => decide (x.ctx = e.ctx) && x.close == e.word.getLsbD 50)).length < 2 → ∃ t : State, exec (.glzcfgLoad n) s = .next t
        ∧ (getArr t.blk n).slots = (getArr s.blk n).slots ++ [⟨e.ctx, e.word.getLsbD 50, e.progNo⟩] ∧ findEntry t.blk e.id = none
        ∧ (getArr t.blk n).pos = (getArr s.blk n).pos ∧ t.blk.sram = s.blk.sram ∧ t.blk.groups = s.blk.groups)

/-! ### Kiln -/

/-- The kiln's events. A waiting group that meets FAB_PEER_TIMEOUT halts its close's context; an eviction that has been written counts in KLN_SPILLS and leaves its group SPILLED at its unit;
a merge that ends adds its rank to M and goes on to the next rank; a GMERGE that is granted moves its T; a resume entry starts the load of its tile into a free bank, or halts its context after a
change of the wall mode (R100, R103, R105, R107, R112, R250).
Completes: peerTimeout, kilnTransferDone, kilnMergeComplete, gmergeReoffer, resumeEntry. -/
def Obligations.KilnEvents : Prop :=
  (∀ (s : State) (g : Grp) (i : Nat) (e : Entry), live s.blk = true → (getGrp s.blk g).state = .waiting → getFld s.blk .fabPeerTimeout 0 32 ≤ s.blk.beat - (getGrp s.blk g).waitFrom →
      (getGrp s.blk g).close = some i → findEntry s.blk i = some e → e.phase ≠ 255 → faultable s.blk e.ctx = true → ∃ t : State, exec (.peerTimeout g) s = .next t
        ∧ (getCtx t.blk e.ctx).state = .faulted ∧ getFld t.blk (.engEventCnt 0x07) 0 32 = min (2 ^ 32 - 1) (getFld s.blk (.engEventCnt 0x07) 0 32 + 1) ∧ sameUnits s.blk t.blk)
  ∧ (∀ (s : State) (i : Nat) (x : Xfer), live s.blk = true → findXfer s.blk i = some x → x.kind = .spill → x.entry = 0 → xferMoved s.blk i = true →
      ∃ t : State, exec (.kilnTransferDone i) s = .next t ∧ findXfer t.blk i = none ∧ findRec t.blk x.rec_ = none
        ∧ getFld t.blk .klnSpills 0 32 = min (2 ^ 32 - 1) (getFld s.blk .klnSpills 0 32 + 1)
        ∧ (∃ st, getGrp t.blk x.grp = { getGrp s.blk x.grp with state := st, loc := .spill x.unit_ }
            ∧ ((getGrp s.blk x.grp).state ≠ .waiting → st = .spilled)
            ∧ ((getGrp s.blk x.grp).state = .waiting → st = .waiting
                ∨ (st = .draining ∧ (getGrp s.blk x.grp).localCnt + (getGrp s.blk x.grp).remoteCnt = (getGrp s.blk x.grp).expect)))
        ∧ (∀ g, g ≠ x.grp → getGrp t.blk g = getGrp s.blk g) ∧ t.blk.arrays = s.blk.arrays)
  ∧ (∀ (s : State) (g : Grp) (rank : Nat) (m r : KRec), live s.blk = true → frozenV s.blk = false → eccClean s.blk → (getGrp s.blk g).merging = some rank →
      (getGrp s.blk g).mRec = some m.id → findRec s.blk m.id = some m → mergeSource s.blk g rank = some r → r.id ≠ m.id → ∃ t : State, exec (.kilnMergeComplete g) s = .next t
        ∧ (getGrp t.blk g).nextRank = rank + 1 ∧ (getGrp t.blk g).nadd = min (2 ^ 32 - 1) ((getGrp s.blk g).nadd + (r.nadd + 1))
        ∧ (findRec t.blk m.id).map (·.cells) = some (cellsAdd (getGrp s.blk g) m.cells r.cells)
        ∧ (let float := (getGrp s.blk g).kind ≠ 2 ∧ (getGrp s.blk g).mode ≠ 2
           let first := float ∧ (getGrp s.blk g).lapsed = false ∧ 2 ^ 22 < (getGrp s.blk g).nadd + (r.nadd + 1)
           ((getGrp t.blk g).lapsed = true ↔ (getGrp s.blk g).lapsed = true ∨ (float ∧ r.lapsed = true) ∨ first)
            ∧ getFld t.blk (.engEventCnt 0x10) 0 32 = (if first then min (2 ^ 32 - 1) (getFld s.blk (.engEventCnt 0x10) 0 32 + 1) else getFld s.blk (.engEventCnt 0x10) 0 32))
        ∧ (∀ h, h ≠ g → getGrp t.blk h = getGrp s.blk h) ∧ t.blk.arrays = s.blk.arrays ∧ t.blk.sram = s.blk.sram)
  ∧ (∀ (s : State) (g d : Grp) (rank rec_ : Nat) (e : Entry), live s.blk = true → frozenV s.blk = false →
      s.blk.entries.find? (fun e => wOpc e.word.toNat == 0x2C && decide (kGrp e.word.toNat = g) && e.phase == 2 && e.started) = some e →
      d.val = e.word.toNat / 2 ^ 38 % 2 ^ 6 → rank = e.word.toNat / 2 ^ 44 % 2 ^ 12 → offerAnswer s.blk d rank none = .grantReserve →
      (if rank = 0 then (getGrp s.blk d).mRec else (getGrp s.blk d).resRec) = some rec_ → ∃ (t : State) (x : Xfer), exec (.gmergeReoffer g) s = .next t
        ∧ x ∈ t.blk.xfers ∧ x.kind = .gmerge ∧ x.grp = g ∧ x.entry = e.id ∧ x.rec_ = rec_ ∧ x.target = d.val ∧ x.rank = rank
        ∧ (bankOf s.blk g = none → x.ready = true)
        ∧ (∀ n sg k, bankOf s.blk g = some (n, sg, k) → ∃ y ∈ (getArr t.blk n).reads, y.kind = .merge ∧ y.grp = some g ∧ y.xfer = x.id)
        ∧ t.blk.groups = s.blk.groups ∧ t.blk.kiln = s.blk.kiln)
  ∧ (∀ (s : State) (n : Arr) (q : ResumeEnt) (rest : List ResumeEnt), live s.blk = true → arrAwake s.blk n = true → liveResume s.blk n = q :: rest →
      moving s.blk q.grp = false → loadBusy s.blk n = false → q.wall = (getArr s.blk n).wall →
      ((getGrp s.blk q.grp).state = .parked ∨ (getGrp s.blk q.grp).state = .spilled ∨ (getGrp s.blk q.grp).state = .parkedStack ∨ (getGrp s.blk q.grp).state = .waiting) →
      (let p := getPos s.blk n q.sag
       let k : BankIx := if singleMode (getGrp s.blk q.grp) = true then 0 else 1 - p.last
       p.run = none → p.b0.state = .empty → p.b1.state = .empty → ∃ t : State, exec (.resumeEntry n) s = .next t ∧ (getArr t.blk n).resume = (getArr s.blk n).resume.erase q
        ∧ ((getPos t.blk n q.sag).bank k).state = .loading ∧ ((getPos t.blk n q.sag).bank k).grp = some q.grp
        ∧ (∃ x ∈ t.blk.xfers, x.kind = .resume ∧ x.grp = q.grp ∧ x.arr = n ∧ x.sag = q.sag ∧ x.bank = k) ∧ t.blk.groups = s.blk.groups))
  ∧ (∀ (s : State) (n : Arr) (q : ResumeEnt) (rest : List ResumeEnt), live s.blk = true → arrAwake s.blk n = true → liveResume s.blk n = q :: rest →
      moving s.blk q.grp = false → loadBusy s.blk n = false → q.wall ≠ (getArr s.blk n).wall → ∃ t : State, exec (.resumeEntry n) s = .next t
        ∧ (getArr t.blk n).resume = (getArr s.blk n).resume.erase q
        ∧ (getCtx t.blk q.ctx).state = .faulted ∧ (getArr t.blk n).pos = (getArr s.blk n).pos ∧ t.blk.groups = s.blk.groups)

/-! ### Drains, sequencer, line -/

/-- The drains, the wheels, the sequencer and the line. A compare that fails for the first time is counted and has its pass replayed, one that passes releases its tile; a row leaves stage 9 in order; a
wheel serves the drain whose turn is next, or turns bytes that a LOAD has read; a held layer end of RULE 0 or 1 without commit counts its step and closes the rule; a rule pass leaves the tiles held at its position; a LINE whose halted weight stream
was resumed reads its strip again (R76, R153, R156, R166, R167, R179, R199, R407).
Completes: glazeCompareResult, glazeRowOut, wheelService, sequencerJobStart, rulePassEntry, lineStripRestart. -/
def Obligations.DrainsSequencerAndLine : Prop :=
  (∀ (s : State) (n : Arr) (d : DTile) (r : PassRun), UnitsRun s.blk → usable s.blk n = true →
      (getArr s.blk n).tiles.find? (fun d => !d.checkDone && !(getArr s.blk n).reads.any (fun t => t.tid == d.tid)) = some d →
      d.src.run = some r → ∃ t : State, exec (.glazeCompareResult n) s = .next t
        ∧ (∀ k, mismatch s.blk n d r = some k → r.replay = false →
            getFld t.blk (.arrAbftFirst n) 0 32 = min (2 ^ 32 - 1) (getFld s.blk (.arrAbftFirst n) 0 32 + 1)
              ∧ (∃ r', (getArr t.blk n).replays = (getArr s.blk n).replays ++ [(d.src.sag, r')] ∧ r'.replay = true) ∧ (∀ x ∈ (getArr t.blk n).tiles, x.tid ≠ d.tid))
        ∧ (mismatch s.blk n d r = none → d.src.kind = .drain →
            (getArr t.blk n).tiles = (getArr s.blk n).tiles.map (fun x => if x.tid == d.tid then { x with checkDone := true } else x) ∧ t.blk.regs = s.blk.regs))
  ∧ (∀ (s : State) (n : Arr) (x : DRow) (rest : List DRow) (d : DTile), UnitsRun s.blk → eccClean s.blk → usable s.blk n = true → (getArr s.blk n).rows = x :: rest →
      (getArr s.blk n).tiles.find? (fun d => d.tid == x.tid) = some d → d.src.kind ≠ .peer → rowMay s.blk n d = true → d.rowsOut + 1 ≠ readRows d.src →
      ∃ t : State, exec (.glazeRowOut n) s = .next t ∧ (getArr t.blk n).rows = rest
        ∧ ((getArr t.blk n).tiles.find? (fun d => d.tid == x.tid)).map (·.rowsOut) = some (d.rowsOut + 1)
        ∧ (getArr t.blk n).pos = (getArr s.blk n).pos ∧ (∀ m, m ≠ n → getArr t.blk m = getArr s.blk m) ∧ t.blk.groups = s.blk.groups)
  ∧ (∀ (s : State) (w : Fin 2) (n : Arr), live s.blk = true → drainWaits s.blk w n = true →
      (let from_ := s.blk.wheelNext.get w
       ∀ u ∈ wheelUsers s.blk w, u ≠ n.val → (from_ ≤ n.val ∧ (u < from_ ∨ n.val < u)) ∨ (n.val < from_ ∧ u < from_ ∧ n.val < u)) →
      ∃ t : State, exec (.wheelService w) s = .next t
        ∧ getArr t.blk n = { getArr s.blk n with credit := (getArr s.blk n).credit.set w.val ((getArr s.blk n).credit.get w + 1024) w.isLt } ∧ (∀ m, m ≠ n → getArr t.blk m = getArr s.blk m)
        ∧ t.blk.wheelNext.get w = n.val + 1 ∧ t.blk = { s.blk with
            arrays := t.blk.arrays, wheelNext := t.blk.wheelNext, acts := t.blk.acts, ecc1 := t.blk.ecc1, ecc2 := t.blk.ecc2 })
  ∧ (∀ (s : State) (w : Fin 2) (x : Stream) (a k : Nat) (f : Nat → Byte), live s.blk = true → eccClean s.blk → findStream s.blk x.id = some x →
      (∀ y ∈ s.blk.streams, y.turned = true → y.turnNo = x.turnNo → y = x) → x.turned = true → x.write = false → x.wheel = some w →
      wheelUsers s.blk w = [4 + x.turnNo] → k ≤ 1024 → x.wq = (List.range k).map (fun i => (.mem (a + i), f i)) → ∃ t : State, exec (.wheelService w) s = .next t
        ∧ (∀ i < k, memGet t.blk.sram (a + i) = f i) ∧ (∀ y, (y < a ∨ a + k ≤ y) → memGet t.blk.sram y = memGet s.blk.sram y)
        ∧ (findStream t.blk x.id).map (·.wq) = some [] ∧ t.blk.wheelNext.get w = 5 + x.turnNo ∧ t.blk.arrays = s.blk.arrays)
  ∧ (∀ (s : State) (j : Job), UnitsRun s.blk → eccClean s.blk → jobRunning s.blk = none → s.blk.jobs.find? (fun j => jobRuns s.blk j.ctx) = some j → entryStreamsDone s.blk j.entry = true →
      j.kind = .layerEnd → j.held = false → hRule s.blk j.hdr < 2 → hHold s.blk j.hdr = false → hF s.blk j.hdr 6 62 62 = 0 → ∃ t : State, exec .sequencerJobStart s = .next t
        ∧ (∀ x ∈ t.blk.jobs, x.id ≠ j.id) ∧ findRule t.blk j.ctx j.hdr = none ∧ hStep t.blk j.hdr = (hStep s.blk j.hdr + 1) % 2 ^ 32 ∧ t.blk.arrays = s.blk.arrays)
  ∧ (∀ (s : State) (n : Arr) (j : Job) (p : Prod) (ps : List Prod), UnitsRun s.blk → jobRunning s.blk = some j → j.prods = p :: ps → 2 ≤ p.tiles.length →
      (ruleArrays s.blk j.cfg).contains n = true → fixedEn s.blk n = false → jobRuns s.blk j.ctx = true → jobStreamsDone s.blk j.id = true → (getArr s.blk n).wall = 0 →
      (getArr s.blk n).replays = [] → tokenBlocked s.blk j.ctx (jobWindow s.blk j n) = false → (getPos s.blk n 0).run = none → (getPos s.blk n 0).b0.state = .empty →
      (getPos s.blk n 0).b1.state = .empty → ∃ t : State, exec (.rulePassEntry n) s = .next t
        ∧ getPos t.blk n 0 = { getPos s.blk n 0 with last := 1 - (getPos s.blk n 0).last } ∧ (∀ g, g ≠ 0 → getPos t.blk n g = getPos s.blk n g)
        ∧ (∀ m, m ≠ n → getArr t.blk m = getArr s.blk m) ∧ t.blk.groups = s.blk.groups
        ∧ ((jobRunning t.blk).map (·.prods) = some ({ p with tiles := p.tiles.drop 1 } :: ps) ∨ (getCtx t.blk j.ctx).state = .faulted))
  ∧ (∀ (s : State) (l : LineRun) (e : Entry), live s.blk = true → frozenV s.blk = false → s.blk.line = some l → l.waitFault = true → findEntry s.blk l.entry = some e →
      (∀ x ∈ s.blk.streams, x.owner = .entry l.entry → x.write = false → x.halted = none ∧ streamOut s.blk x.id = 0) → ∃ t : State, exec .lineStripRestart s = .next t
        ∧ (let todo := lineTodo (parseDesc (e.descs.getD 0 [])) l.entry l.v
           t.blk = { s.blk with
            line := some { l with waitFault := false, step := 0, leaf := [], tot := [], taken := (todo 0).length - (todo l.strip).length }
            streams := s.blk.streams.map (fun x => if decide (x.owner = .entry l.entry) && !x.write then { x with todo := todo l.strip } else x) }))

/-! ### Streams, translation and M-ports -/

/-- A stream's next read takes the lowest free tag within its caps, is charged to its class and goes out under its page's translation; a page that the cache misses is counted and walked, each read of the
walk charged as it is issued. A walk goes on through a table, fills the cache from a leaf, and halts its stream at an entry not present. A read response lands byte by byte and frees its tag; so does a write completion; a request without a response for ENG_TAG_TIMEOUT cycles frees its tag and halts
its stream's context; one of a walk ends the walk (R123, R216, R217, R218, R220, R221, R222, R328, R376, R377; that the lowest free tag is taken is the model's choice, log 13).
Completes: streamRequestIssue, translationWalkDone, mpReadResponse, mpWriteCompletion, tagTimeout. -/
def Obligations.StreamsAndPorts : Prop :=
  (∀ (s : State) (i : Nat) (x : Stream) (g : Seg) (rest : List Seg), live s.blk = true → findStream s.blk i = some x → (∀ e, x.owner ≠ .entry e) → x.halted = none → x.todo = g :: rest →
      frozenV s.blk = false → x.feed = none → x.peer = none → x.write = false → sharesZero s.blk x.ctx = false → getFld s.blk (.xltRoot x.ctx) 0 1 = 1 → g.va < 2 ^ 49 →
      (∀ (h : TlbEnt) (k : Nat), s.blk.tlb.find? (fun h => tlbHit h x.ctx (g.va / 256 * 256)) = some h → freeTag s.blk x = some k →
          256 * (unitsOf (takeReq (g.va / 256) x.todo).1).length ≤ (getCtx s.blk x.ctx).regRead → ∃ (t : State) (r : MpReq), exec (.streamRequestIssue i) s = .next t
            ∧ t.blk.mp = s.blk.mp ++ [r] ∧ r.tag = k ∧ r.stream = i ∧ r.ctx = x.ctx ∧ r.gen = x.gen ∧ r.write = false ∧ r.va = g.va / 256 * 256
            ∧ r.pa = tlbPa h (g.va / 256 * 256) / 256 * 256 ∧ r.segs = (takeReq (g.va / 256) x.todo).1 ∧ r.beats = (unitsOf r.segs).length ∧ r.issued = s.blk.beat ∧ r.turned = x.turned
            ∧ (findStream t.blk i).map (·.todo) = some (takeReq (g.va / 256) x.todo).2
            ∧ (getCtx t.blk x.ctx).regRead = (getCtx s.blk x.ctx).regRead - 256 * r.beats ∧ t.blk.sram = s.blk.sram)
        ∧ (∀ k, s.blk.tlb.find? (fun h => tlbHit h x.ctx (g.va / 256 * 256)) = none → (∀ w ∈ s.blk.walks, w.ctx = x.ctx → w.va / 0x200000 ≠ g.va / 256 * 256 / 0x200000) →
            lowestFree 16 (s.blk.walks.map (·.idx)) = some k → 256 ≤ (getCtx s.blk x.ctx).regRead → ∃ (t : State) (w : Walk), exec (.streamRequestIssue i) s = .next t
              ∧ t.blk.walks = s.blk.walks ++ [w] ∧ w.idx = k ∧ w.ctx = x.ctx ∧ w.gen = x.gen ∧ w.va = g.va / 256 * 256 ∧ w.write = false ∧ w.stream = i ∧ w.issued = s.blk.beat
              ∧ w.lvl = 3 ∧ w.pa = getFld s.blk (.xltRoot x.ctx) 13 35 * 2 ^ 13 + 8 * (w.va / 2 ^ 39 % 2 ^ 10) ∧ w.stale = false ∧ w.denied = false
              ∧ getFld t.blk .xltMiss 0 32 = min (2 ^ 32 - 1) (getFld s.blk .xltMiss 0 32 + 1) ∧ (getCtx t.blk x.ctx).regRead = (getCtx s.blk x.ctx).regRead - 256
              ∧ t.blk.mp = s.blk.mp ∧ t.blk.streams = s.blk.streams))
  ∧ (∀ (s : State) (i : Nat) (p : W64) (rest : List W64) (w : Walk), live s.blk = true → s.blk.walks.find? (fun w => w.idx == i) = some w → w.gen = (getCtx s.blk w.ctx).gen →
      p.getLsbD 0 = true → p.toNat / 2 ^ 3 % 2 ^ 9 = 0 → p.toNat / 2 ^ 48 % 2 ^ 8 = 0 →
      (let at_ := p.toNat / 2 ^ 12 % 2 ^ 36 * 4096
       (p.getLsbD 1 = true → (w.lvl = 1 ∧ p.toNat / 2 ^ 12 % 2 ^ 9 = 0) ∨ (w.lvl = 2 ∧ p.toNat / 2 ^ 12 % 2 ^ 18 = 0) → w.stale = false →
          (w.write = true → w.denied = false ∧ p.getLsbD 2 = true) → ∃ t : State, exec (.translationWalkDone i (p :: rest) false) s = .next t
            ∧ t.blk.walks = s.blk.walks.filter (fun v => v.idx != i)
            ∧ t.blk.tlb.head? = some ⟨w.ctx, w.va / (if w.lvl = 2 then 0x40000000 else 0x200000), decide (w.lvl = 2), at_, !w.denied && p.getLsbD 2⟩
            ∧ t.blk.mp = s.blk.mp ∧ t.blk.streams = s.blk.streams ∧ t.blk.regs = s.blk.regs ∧ t.blk.ctxs = s.blk.ctxs)
        ∧ (p.getLsbD 1 = false → w.lvl = 2 ∨ w.lvl = 3 → rest = [] → 256 ≤ (getCtx s.blk w.ctx).regRead → ∃ (t : State) (v : Walk), exec (.translationWalkDone i (p :: rest) false) s = .next t
            ∧ t.blk.walks = s.blk.walks.filter (fun u => u.idx != i) ++ [v] ∧ v.idx = w.idx ∧ v.va = w.va ∧ v.lvl = w.lvl - 1 ∧ v.issued = s.blk.beat
            ∧ v.pa = at_ + 8 * (if w.lvl = 3 then w.va / 2 ^ 30 % 2 ^ 9 else w.va / 2 ^ 21 % 2 ^ 9) ∧ v.denied = (w.denied || !p.getLsbD 2)
            ∧ (getCtx t.blk w.ctx).regRead = (getCtx s.blk w.ctx).regRead - 256 ∧ t.blk.tlb = s.blk.tlb ∧ t.blk.mp = s.blk.mp ∧ t.blk.streams = s.blk.streams)))
  ∧ (∀ (s : State) (i : Nat) (p : W64) (rest : List W64) (w : Walk) (x : Stream) (e : Nat) (g : Seg) (l : List Seg), live s.blk = true →
      s.blk.walks.find? (fun w => w.idx == i) = some w → w.gen = (getCtx s.blk w.ctx).gen → p.getLsbD 0 = false → findStream s.blk w.stream = some x → x.owner = .entry e →
      x.todo = g :: l → ∃ (t : State) (y : Stream), exec (.translationWalkDone i (p :: rest) false) s = .next t ∧ t.blk.walks = s.blk.walks.filter (fun v => v.idx != i)
        ∧ t.blk.streams = s.blk.streams.filter (fun y => y.id != x.id) ++ [y] ∧ y = { x with halted := some g.va } ∧ t.blk.tlb = s.blk.tlb ∧ t.blk.sram = s.blk.sram)
  ∧ (∀ (s : State) (tag : BitVec 13) (data : List Byte) (r : MpReq) (x : Stream), live s.blk = true → s.blk.jobs = [] → eccClean s.blk → tag ≠ 0x1840#13 →
      s.blk.mp.find? (fun r => r.tag == tag.toNat && !r.write) = some r → r.zombie = false → r.redo = false → r.gen = (getCtx s.blk r.ctx).gen → findStream s.blk r.stream = some x →
      x.feed = none → x.fed = [] → x.later = [] → ∃ t : State, exec (.mpReadResponse tag 0#2 data) s = .next t ∧ mpFree t.blk tag.toNat
        ∧ (∀ a n, r.turned = false → r.segs = (List.range n).map (fun i => ⟨r.va + i, .mem (a + i)⟩) →
            (∀ i < n, memGet t.blk.sram (a + i) = data.getD i 0) ∧ (∀ y, (y < a ∨ a + n ≤ y) → memGet t.blk.sram y = memGet s.blk.sram y))
        ∧ (r.turned = true → (findStream t.blk x.id).map (·.wq) = some (x.wq ++ r.segs.map (fun s => (s.ref, data.getD (s.va - r.va) 0))) ∧ t.blk.sram = s.blk.sram)
        ∧ t.blk.arrays = s.blk.arrays ∧ t.blk.groups = s.blk.groups)
  ∧ (∀ (s : State) (tag : BitVec 13) (r : MpReq) (x : Stream), live s.blk = true → s.blk.jobs = [] → s.blk.mp.find? (fun r => r.tag == tag.toNat && r.write) = some r → r.zombie = false →
      findStream s.blk r.stream = some x → ∃ t : State, exec (.mpWriteCompletion tag 0#2) s = .next t ∧ mpFree t.blk tag.toNat
        ∧ t.blk.sram = s.blk.sram ∧ t.blk.arrays = s.blk.arrays ∧ t.blk.groups = s.blk.groups)
  ∧ (∀ (s : State) (tag : BitVec 13) (r : MpReq), live s.blk = true → tag.toNat < 0x1840 → s.blk.mp.find? (fun r => r.tag == tag.toNat) = some r →
      max 1 (getFld s.blk .engTagTimeout 0 32) ≤ s.blk.beat - r.issued → ∃ t : State, exec (.tagTimeout tag) s = .next t ∧ mpFree t.blk tag.toNat
        ∧ (∀ x e, r.zombie = false → findStream s.blk r.stream = some x → x.owner = .entry e → faultable s.blk x.ctx = true → (getCtx t.blk x.ctx).state = .faulted) ∧ t.blk.sram = s.blk.sram)
  ∧ (∀ (s : State) (tag : BitVec 13) (w : Walk), live s.blk = true → 0x1841 ≤ tag.toNat → tag.toNat ≤ 0x1850 → s.blk.walks.find? (fun w => w.idx == tag.toNat - 0x1841) = some w →
      max 1 (getFld s.blk .engTagTimeout 0 32) ≤ s.blk.beat - w.issued → ∃ t : State, exec (.tagTimeout tag) s = .next t ∧ t.blk.walks = s.blk.walks.filter (fun v => v.idx != w.idx) ∧ t.blk.sram = s.blk.sram)

/-! ### Chain and fabric -/

/-- The chain port. A frame that arrives at the bypass leaves unchanged; in pass mode it joins the ring as it came, and one that fails its check is counted; in take mode a first frame loses one hop and goes on while hops
are left, and opens its tile, and a duplicate is counted. Sending takes a credit and the oldest frame, or the next frame of a CHSEND under way; credits add up, or go on through the bypass; a re-read frame is counted
and the frame stands repaired; the hold limit cuts, and counts the entry into cut-through; a link reset takes the sender's credits or advertises the intake again, or goes on through the bypass (R280, R282 to R284,
R286 to R289, R380, R381).
Completes: chainFrameArrival, chainFrameSend, chainCreditReturn, chainFrameRepair, chainHoldLimit, chainLinkReset. -/
def Obligations.ChainPort : Prop :=
  (∀ (s : State) (hdr : BitVec 192) (data : List Byte), bypassed s.blk = true → ∃ (t : State) (f : Frame), exec (.chainFrameArrival hdr data) s = .next t
      ∧ t.blk = { s.blk with chain := { s.blk.chain with out := some f } } ∧ f.seq.toNat = hdr.toNat % 2 ^ 32 ∧ f.chainId.toNat = hdr.toNat / 2 ^ 32 % 2 ^ 16
      ∧ f.fidx = hdr.toNat / 2 ^ 48 % 2 ^ 10 ∧ f.nfr = hdr.toNat / 2 ^ 58 % 2 ^ 11 ∧ f.hops = hdr.toNat / 2 ^ 69 % 2 ^ 8 ∧ f.crc.toNat = hdr.toNat / 2 ^ 128 % 2 ^ 32)
  ∧ (∀ (s : State) (hdr : BitVec 192) (data : List Byte), bypassed s.blk = false → ∃ t : State, exec (.chainFrameArrival hdr data) s = .next t
      ∧ (let f := frameOf s.blk hdr data
         (getFld t.blk .chnCount 32 16 = if f.good = true then getFld s.blk .chnCount 32 16 else min (2 ^ 16 - 1) (getFld s.blk .chnCount 32 16 + 1))
          ∧ (chnTake s.blk = false → { f with slot := ringSlot s.blk } ∈ t.blk.chain.ring)
          ∧ (chnTake s.blk = true → f.fidx = 0 → s.blk.chain.cut = false →
              (∃ x ∈ t.blk.chain.tiles, x.id = s.blk.chain.tileNo + 1 ∧ x.seq = f.seq ∧ x.nfr = f.nfr ∧ x.hops = f.hops)
                ∧ ∃ y ∈ t.blk.chain.ring, y.tile = s.blk.chain.tileNo + 1 ∧ y.seq = f.seq ∧ y.data = f.data ∧ y.hops = f.hops - 1 ∧ y.fwd = decide (2 ≤ f.hops) ∧ y.copied = false)
          ∧ (∀ x, chnTake s.blk = true → f.fidx ≠ 0 → curTile s.blk = some x → f.fidx ≤ x.last →
              getFld t.blk .chnCount 48 16 = min (2 ^ 16 - 1) (getFld s.blk .chnCount 48 16 + 1)))
      ∧ t.blk.sram = s.blk.sram ∧ t.blk.entries = s.blk.entries)
  ∧ (∀ (s : State) (f : Frame), live s.blk = true → s.blk.pins.absent = false → s.blk.chain.credits ≠ 0 → s.blk.chain.ownTile = false → nextForward s.blk = some f →
      eccClean s.blk → ∃ t : State, exec .chainFrameSend s = .next t ∧ t.blk.chain.credits = s.blk.chain.credits - 1 ∧ t.blk.chain.out = some f ∧ t.blk.chain.fwdTile = decide (f.fidx + 1 < f.nfr)
        ∧ t.blk = { s.blk with chain := t.blk.chain, acts := t.blk.acts })
  ∧ (∀ (s : State) (e : Entry), live s.blk = true → s.blk.pins.absent = false → s.blk.chain.credits ≠ 0 → sendingEntry s.blk = some e →
      (s.blk.chain.ownTile = true ∨ (nextForward s.blk = none ∧ s.blk.chain.fwdTile = false)) → eccClean s.blk →
      ∃ (t : State) (f : Frame), exec .chainFrameSend s = .next t ∧ t.blk.chain = { s.blk.chain with credits := s.blk.chain.credits - 1, out := some f, ownTile := decide (f.fidx + 1 < f.nfr) }
        ∧ f = ownFrame s.blk e e.aux ∧ t.blk = { s.blk with
            chain := t.blk.chain, acts := t.blk.acts, entries := s.blk.entries.map (fun x => if x.id == e.id then { x with aux := x.aux + 1 } else x) })
  ∧ (∀ (s : State) (n : BitVec 11), n ≠ 0#11 → ∃ t : State, exec (.chainCreditReturn n) s = .next t ∧ t = { s with blk := { s.blk with chain := t.blk.chain } }
      ∧ t.blk.chain = (if bypassed s.blk = true then { s.blk.chain with creditsOut := s.blk.chain.creditsOut + n.toNat }
        else { s.blk.chain with credits := s.blk.chain.credits + n.toNat, linkUp := true }))
  ∧ (∀ (s : State) (e : Entry) (x : ChTile), live s.blk = true → s.blk.entries.find? (fun e => wOpc e.word.toNat == 0x49 && e.phase == 4) = some e → oldestTile s.blk = some x →
      entryStreamsDone s.blk e.id = true → ∃ t : State, exec .chainFrameRepair s = .next t ∧ getFld t.blk .chnCount 16 16 = min (2 ^ 16 - 1) (getFld s.blk .chnCount 16 16 + 1)
        ∧ (∀ y ∈ t.blk.streams, y.owner ≠ .entry e.id)
        ∧ (x.dropped = false → (∃ f ∈ s.blk.chain.ring, f.tile = x.id ∧ f.fidx = refetchIx s.blk x ∧ f.good = false) →
            ∀ f ∈ t.blk.chain.ring, f.tile = x.id → f.fidx = refetchIx s.blk x → f.good = true))
  ∧ (∀ (s : State) (τ : Nat), live s.blk = true → s.blk.chain.holdFrom = some τ → max 1 (getFld s.blk .chnHoldLimit 0 32) ≤ portNow s.blk - τ → ∃ t : State, exec .chainHoldLimit s = .next t
      ∧ t.blk.chain.cut = true ∧ getFld t.blk .chnCount 0 16 = (if s.blk.chain.cut = true then getFld s.blk .chnCount 0 16 else min (2 ^ 16 - 1) (getFld s.blk .chnCount 0 16 + 1)) ∧ t.blk.sram = s.blk.sram ∧ t.blk.entries = s.blk.entries)
  ∧ (∀ (s : State) (d : Bool), ∃ t : State, exec (.chainLinkReset d) s = .next t ∧ t = { s with blk := { s.blk with chain := t.blk.chain } }
      ∧ t.blk.chain = (if bypassed s.blk = true then
          (if d = true then { s.blk.chain with lrstUp := portNow s.blk + 8 } else { s.blk.chain with lrstDown := portNow s.blk + 8 })
        else if d = true then { s.blk.chain with credits := 0, linkUp := false }
        else { s.blk.chain with creditsOut := getFld s.blk .chnCfg 6 10, holdFrom := none }))

/-- The fabric port. Requests: one that the tests of the entry and of the context turn away is answered with their status; a WRITE within its quota becomes a stream of the receiving context; an OFFER of the next rank is granted a slot; a CDATA row lands in its grant; a POST counts at its peg; a REVOKE closes its
entry and ends what went through it. Answers free the tag they name; OK to an OFFER grants it, CDONE frees the group, PACK takes a post off the count, and RETRY has the request sent again after the
interval. Timeouts count and free; a grant without rows frees its slot (R101, R238, R292 to R299).
Completes: fabRxWrite, fabRxOffer, fabRxPost, fabRxCdata, fabRxRevoke, fabRxWack, fabRxGrant, fabRxCdone, fabRxPack, fabRxRack, fabRetryResend, fabTagTimeout, grantTimeout. -/
def Obligations.FabricPort : Prop :=
  (∀ (s : State) (hdr : BitVec 512) (i : Instr) (k len st : Nat),
      ((∃ data, i = .fabRxWrite hdr data ∧ k = 1 ∧ len = data.length) ∨ (i = .fabRxOffer hdr ∧ k = 3 ∧ len = 0) ∨ (i = .fabRxPost hdr ∧ k = 7 ∧ len = 0)) →
      RxMeets s.blk hdr k len → rxTest s.blk hdr.toNat = some st → ∃ t : State, exec i s = .next t ∧ answered s.blk t.blk (ansHdr hdr.toNat (k + 1) st 0) ∧ sameUnits s.blk t.blk)
  ∧ (∀ (s : State) (hdr : BitVec 512) (data : List Byte), RxMeets s.blk hdr 1 data.length → rxTest s.blk hdr.toNat = none →
      inHeld s.blk (pkDstCtx hdr.toNat) + data.length ≤ inQuota s.blk → inAll s.blk + data.length ≤ 262144 → inSegs hdr.toNat data ≠ [] → ∃ (t : State) (x : Stream), exec (.fabRxWrite hdr data) s = .next t
        ∧ t.blk.streams = s.blk.streams ++ [x] ∧ x.owner = .inbound hdr ∧ x.ctx = pkDstCtx hdr.toNat ∧ x.write = true ∧ x.todo = inSegs hdr.toNat data
        ∧ t.blk.inbuf = s.blk.inbuf ++ [(pkDstCtx hdr.toNat, data.length)] ∧ t.blk.sram = s.blk.sram ∧ t.blk.regs = s.blk.regs)
  ∧ (∀ (s : State) (hdr : BitVec 512) (g : Grp) (rank k rec_ : Nat), RxMeets s.blk hdr 3 0 → rxTest s.blk hdr.toNat = none → g.val = pkArg hdr.toNat % 2 ^ 6 →
      rank = pkArg hdr.toNat / 2 ^ 6 % 2 ^ 12 → offerAnswer s.blk g rank (some (BitVec.ofNat 16 (pkArg hdr.toNat / 2 ^ 18))) = .grantReserve →
      (if rank = 0 then (getGrp s.blk g).mRec else (getGrp s.blk g).resRec) = some rec_ → lowestFree 1024 (s.blk.grants.map (·.slot)) = some k → ∃ (t : State) (x : Grant), exec (.fabRxOffer hdr) s = .next t
        ∧ t.blk.grants = s.blk.grants ++ [x] ∧ x.slot = k ∧ x.grp = g ∧ x.rank = rank ∧ x.rec_ = rec_ ∧ x.peer = pkBack hdr.toNat ∧ x.tag = pkTag hdr.toNat ∧ x.rows = [] ∧ x.nadd = pkArg hdr.toNat / 2 ^ 48 % 2 ^ 32 ∧ x.lapsed = (pkArg hdr.toNat).testBit 36
        ∧ answered s.blk t.blk (ansHdr hdr.toNat 4 stOK k) ∧ t.blk.groups = s.blk.groups ∧ t.blk.kiln = s.blk.kiln ∧ t.blk.regs = s.blk.regs)
  ∧ (∀ (s : State) (hdr : BitVec 512) (data : List Byte) (x : Grant), RxMeets s.blk hdr 5 data.length → rxTest s.blk hdr.toNat = none →
      s.blk.grants.find? (fun y => y.slot == pkArg hdr.toNat % 2 ^ 10) = some x → x.peer = pkBack hdr.toNat → x.tag = pkTag hdr.toNat → (getGrp s.blk x.grp).kind ≠ 1 →
      (let row := pkArg hdr.toNat / 2 ^ 10 % 2 ^ 10
       let h := wallH (getGrp s.blk x.grp).shape
       data.length = 8 * wallW (getGrp s.blk x.grp).shape → row < h → row ∉ x.rows → x.rows.length + 1 < h → ∃ t : State, exec (.fabRxCdata hdr data) s = .next t
        ∧ t.blk.grants = s.blk.grants.map (fun y => if y.slot == x.slot then { y with rows := row :: x.rows, last := s.blk.beat } else y)
        ∧ t.blk.kiln = s.blk.kiln.map (fun r => if r.id == x.rec_ then landRow r row h (wallW (getGrp s.blk x.grp).shape) (wordsOf (wallW (getGrp s.blk x.grp).shape) data) else r)
        ∧ t.blk.regs = s.blk.regs ∧ t.blk.groups = s.blk.groups))
  ∧ (∀ (s : State) (hdr : BitVec 512) (p : Peg) (r : Role), RxMeets s.blk hdr 7 0 → rxTest s.blk hdr.toNat = none → p.val = pkArg hdr.toNat % 2 ^ 8 →
      r = (if (pkArg hdr.toNat).testBit 8 = true then .consumer else .producer) → pegEn s.blk p = true → (match r with | .producer => pegProd s.blk p | .consumer => pegCons s.blk p) = 4 →
      pegPeer s.blk p = pkBack hdr.toNat → activeCtx s.blk (pegOwner s.blk p) = true → ∃ t : State, exec (.fabRxPost hdr) s = .next t
        ∧ (let n := pkArg hdr.toNat / 2 ^ 9 % 2 ^ 16
           getPeg t.blk p = (match r with
             | .producer => { getPeg s.blk p with full := BitVec.ofNat 16 (min 65535 ((getPeg s.blk p).full.toNat + n)) }
             | .consumer => { getPeg s.blk p with empty := BitVec.ofNat 16 (min 65535 ((getPeg s.blk p).empty.toNat + n)) }))
        ∧ (∀ q, q ≠ p → getPeg t.blk q = getPeg s.blk q) ∧ answered s.blk t.blk (ansHdr hdr.toNat 8 stOK 0) ∧ sameUnits s.blk t.blk)
  ∧ (∀ (s : State) (hdr : BitVec 512), RxMeets s.blk hdr 9 0 → rxEntryTest s.blk hdr.toNat = none → ∃ t : State, exec (.fabRxRevoke hdr) s = .next t
      ∧ getFld t.blk (.fabPeer (Fin.ofNat 4096 (pkBack hdr.toNat))) 56 1 = 1 ∧ (∀ x ∈ t.blk.fabTags, x.peer ≠ pkBack hdr.toNat) ∧ (∀ x ∈ t.blk.grants, x.peer ≠ pkBack hdr.toNat)
      ∧ answered s.blk t.blk (ansHdr hdr.toNat 10 stOK 0) ∧ t.blk.sram = s.blk.sram)
  ∧ (∀ (s : State) (hdr : BitVec 512) (x : FabTag) (i : Nat) (sg : List Seg), RxAnswers s.blk hdr 2 x → x.kind = .write i sg → s.blk.jobs = [] → ∃ t : State, exec (.fabRxWack hdr) s = .next t
      ∧ (pkStatus hdr.toNat = stOK → tagFree t.blk x.tag ∧ t.blk.sram = s.blk.sram)
      ∧ (pkStatus hdr.toNat = stRetry → t.blk = { s.blk with fabTags := s.blk.fabTags.map (fun y => if y.tag == x.tag then
          { y with retryAt := some (s.blk.beat + max 1 (getFld s.blk .fabCfg 0 16)) } else y) }))
  ∧ (∀ (s : State) (hdr : BitVec 512) (x : FabTag) (g : Grp), RxAnswers s.blk hdr 4 x → x.kind = .offer g → x.granted = false → pkStatus hdr.toNat = stOK →
      ∃ t : State, exec (.fabRxGrant hdr) s = .next t ∧ (∃ y ∈ t.blk.fabTags, y.tag = x.tag ∧ y.granted = true ∧ y.retryAt = none) ∧ t.blk.groups = s.blk.groups ∧ t.blk.regs = s.blk.regs)
  ∧ (∀ (s : State) (hdr : BitVec 512) (x : FabTag) (g : Grp) (e : Entry), RxAnswers s.blk hdr 6 x → x.kind = .offer g → pkStatus hdr.toNat = stOK → offerEntry s.blk g = some e →
      ∃ t : State, exec (.fabRxCdone hdr) s = .next t ∧ tagFree t.blk x.tag ∧ (getGrp t.blk g).state = .free ∧ (∀ h, h ≠ g → getGrp t.blk h = getGrp s.blk h) ∧ t.blk.arrays = s.blk.arrays)
  ∧ (∀ (s : State) (hdr : BitVec 512) (x : FabTag) (i : Nat), RxAnswers s.blk hdr 8 x → x.kind = .post i → pkStatus hdr.toNat = stOK → ∃ t : State, exec (.fabRxPack hdr) s = .next t
      ∧ tagFree t.blk x.tag ∧ (getCtx t.blk x.ctx).unacked = (getCtx s.blk x.ctx).unacked - 1 ∧ sameUnits s.blk t.blk)
  ∧ (∀ (s : State) (hdr : BitVec 512) (x : FabTag), RxAnswers s.blk hdr 10 x → x.kind = .revoke → pkStatus hdr.toNat = stOK →
      (∀ f, (getCtx s.blk x.ctx).fence = some f → f.unsent = []) → ∃ t : State, exec (.fabRxRack hdr) s = .next t ∧ tagFree t.blk x.tag ∧ sameUnits s.blk t.blk)
  ∧ (∀ (s : State) (tag : BitVec 10) (x : FabTag) (due : Nat), live s.blk = true → s.blk.fabTags.find? (fun y => y.tag == tag.toNat && !y.zombie) = some x → x.retryAt = some due → due ≤ s.blk.beat →
      (let n := if x.pkt.data = [] then 64 else x.pkt.data.length
       n ≤ (getCtx s.blk x.ctx).regRemote → ∃ (t : State) (p : FabPkt), exec (.fabRetryResend tag) s = .next t ∧ p.hdr = x.pkt.hdr ∧ p.data = x.pkt.data
        ∧ p.lane = (if laneBytes s.blk 1 < laneBytes s.blk 0 then 1 else 0)
        ∧ (if isLoop s.blk x.pkt.hdr = true then t.blk.fabLoop = s.blk.fabLoop ++ [p] else t.blk.fabTx = s.blk.fabTx ++ [p])
        ∧ getFld t.blk .fabCount 0 16 = min (2 ^ 16 - 1) (getFld s.blk .fabCount 0 16 + 1) ∧ (getCtx t.blk x.ctx).regRemote = (getCtx s.blk x.ctx).regRemote - n ∧ sameUnits s.blk t.blk))
  ∧ (∀ (s : State) (tag : BitVec 10) (x : FabTag), live s.blk = true → s.blk.fabTags.find? (fun y => y.tag == tag.toNat) = some x → getFld s.blk .fabPeerTimeout 0 32 ≤ s.blk.beat - x.first →
      ∃ t : State, exec (.fabTagTimeout tag) s = .next t ∧ tagFree t.blk tag.toNat ∧ getFld t.blk .fabCount 16 16 = min (2 ^ 16 - 1) (getFld s.blk .fabCount 16 16 + 1) ∧ t.blk.sram = s.blk.sram)
  ∧ (∀ (s : State) (slot : BitVec 10) (x : Grant), live s.blk = true → s.blk.grants.find? (fun y => y.slot == slot.toNat) = some x → getFld s.blk .fabPeerTimeout 0 32 ≤ s.blk.beat - x.last →
      ∃ t : State, exec (.grantTimeout slot) s = .next t ∧ t.blk.grants = s.blk.grants.filter (fun y => y.slot != x.slot) ∧ t.blk.groups = s.blk.groups ∧ t.blk.regs = s.blk.regs ∧ t.blk.sram = s.blk.sram)
end

