-- ==== Sys2Proof/Laws/Sparse.lean ====
section
/-! SUPPORT. Sparse maps and byte memories: a read after a write, what a write leaves alone, and that every memory operation keeps the
canonical form. -/

namespace Sys2Proof.Laws

open Sys2Proof Sys2Proof.Machine

variable {α : Type}

/-! ### Reads after writes -/

theorem spGet_spDel_self (d : α) (l : List (Nat × α)) (a : Nat) : spGet d (spDel l a) a = d := by
  induction l with
  | nil => rfl
  | cons p r ih =>
    obtain ⟨k, w⟩ := p
    by_cases h : k = a
    · simp only [spDel, List.filter_cons, h, bne_self_eq_false]
      exact ih
    · simp only [spDel, List.filter_cons, bne_iff_ne, ne_eq, h, not_false_eq_true, if_true, spGet, if_false]
      exact ih

theorem spGet_spDel_ne (d : α) (l : List (Nat × α)) {a x : Nat} (h : x ≠ a) : spGet d (spDel l a) x = spGet d l x := by
  induction l with
  | nil => rfl
  | cons p r ih =>
    obtain ⟨k, w⟩ := p
    by_cases hk : k = a
    · subst hk
      simp only [spDel, List.filter_cons, bne_self_eq_false, spGet]
      rw [if_neg (Ne.symm h)]
      exact ih
    · simp only [spDel, List.filter_cons, bne_iff_ne, ne_eq, hk, not_false_eq_true, if_true, spGet]
      split
      · rfl
      · exact ih

theorem spGet_spIns_self (d : α) (l : List (Nat × α)) (a : Nat) (v : α) : spGet d (spIns l a v) a = v := by
  induction l with
  | nil => simp [spIns, spGet]
  | cons p r ih =>
    obtain ⟨k, w⟩ := p
    simp only [spIns]
    split
    · rename_i h
      simp only [spGet, if_neg (Nat.ne_of_lt h)]
      exact ih
    · simp [spGet]

theorem spGet_spIns_ne (d : α) (l : List (Nat × α)) {a x : Nat} (v : α) (h : x ≠ a) : spGet d (spIns l a v) x = spGet d l x := by
  induction l with
  | nil => simp [spIns, spGet, Ne.symm h]
  | cons p r ih =>
    obtain ⟨k, w⟩ := p
    simp only [spIns]
    split
    · simp only [spGet]
      split
      · rfl
      · exact ih
    · simp only [spGet, if_neg (Ne.symm h)]
      exact spGet_spDel_ne d ((k, w) :: r) h

@[simp] theorem spGet_spPut_self [DecidableEq α] (d : α) (l : List (Nat × α)) (a : Nat) (v : α) : spGet d (spPut d l a v) a = v := by
  unfold spPut
  split
  · rename_i h
    rw [spGet_spDel_self, h]
  · exact spGet_spIns_self d l a v

theorem spGet_spPut_ne [DecidableEq α] (d : α) (l : List (Nat × α)) {a x : Nat} (v : α) (h : x ≠ a) :
    spGet d (spPut d l a v) x = spGet d l x := by
  unfold spPut
  split
  · exact spGet_spDel_ne d l h
  · exact spGet_spIns_ne d l v h

/-! ### The canonical form -/

theorem spWf_mono [DecidableEq α] (d : Nat → α) {lo lo' : Nat} (l : List (Nat × α)) (h : lo' ≤ lo) (hw : spWf d lo l = true) : spWf d lo' l = true := by
  cases l with
  | nil => rfl
  | cons p r =>
    obtain ⟨k, w⟩ := p
    simp only [spWf, Bool.and_eq_true, decide_eq_true_eq] at hw ⊢
    exact ⟨⟨by omega, hw.1.2⟩, hw.2⟩

/-- Entries at or above `lo` hold no smaller key. -/
theorem spDel_of_lt [DecidableEq α] (d : Nat → α) {a : Nat} (l : List (Nat × α)) : ∀ {lo : Nat}, a < lo → spWf d lo l = true → spDel l a = l := by
  induction l with
  | nil => intro lo _ _; rfl
  | cons p r ih =>
    intro lo h hw
    obtain ⟨k, w⟩ := p
    simp only [spWf, Bool.and_eq_true, decide_eq_true_eq] at hw
    have hk : (k != a) = true := by simp; omega
    simp only [spDel, List.filter_cons, hk, if_true]
    exact congrArg _ (ih (by omega) hw.2)

theorem spWf_spDel [DecidableEq α] (d : Nat → α) (l : List (Nat × α)) (a : Nat) : ∀ {lo : Nat}, spWf d lo l = true → spWf d lo (spDel l a) = true := by
  induction l with
  | nil => intro lo h; exact h
  | cons p r ih =>
    intro lo hw
    obtain ⟨k, w⟩ := p
    simp only [spWf, Bool.and_eq_true, decide_eq_true_eq] at hw
    by_cases hk : (k != a) = true
    · simp only [spDel, List.filter_cons, hk, if_true, spWf, Bool.and_eq_true, decide_eq_true_eq]
      exact ⟨hw.1, ih hw.2⟩
    · simp only [spDel, List.filter_cons, hk]
      exact spWf_mono d _ (by omega) (ih hw.2)

theorem spWf_spIns [DecidableEq α] (d : Nat → α) (l : List (Nat × α)) (a : Nat) (v : α) (hv : v ≠ d a) :
    ∀ {lo : Nat}, lo ≤ a → spWf d lo l = true → spWf d lo (spIns l a v) = true := by
  induction l with
  | nil => intro lo h _; simp [spIns, spWf, h, hv]
  | cons p r ih =>
    intro lo h hw
    obtain ⟨k, w⟩ := p
    have hw0 := hw
    simp only [spWf, Bool.and_eq_true, decide_eq_true_eq] at hw
    simp only [spIns]
    split
    · rename_i hk
      simp only [spWf, Bool.and_eq_true, decide_eq_true_eq]
      exact ⟨hw.1, ih (by omega) hw.2⟩
    · rename_i hk
      simp only [spWf, Bool.and_eq_true, decide_eq_true_eq]
      refine ⟨⟨h, hv⟩, ?_⟩
      by_cases he : k = a
      · have : (k != a) = false := by simp [he]
        simp only [spDel, List.filter_cons, this]
        exact spWf_spDel d r a (spWf_mono d r (by omega) hw.2)
      · have : (k != a) = true := by simp [he]
        simp only [spDel, List.filter_cons, this, if_true, spWf, Bool.and_eq_true, decide_eq_true_eq]
        exact ⟨⟨by omega, hw.1.2⟩, spWf_spDel d r a hw.2⟩

theorem spWf_spPut [DecidableEq α] (d : α) (l : List (Nat × α)) (a : Nat) (v : α) (h : spWf (fun _ => d) 0 l = true) :
    spWf (fun _ => d) 0 (spPut d l a v) = true := by
  unfold spPut
  split
  · exact spWf_spDel _ l a h
  · rename_i hv
    exact spWf_spIns _ l a v hv (Nat.zero_le _) h

/-! ### Byte memories -/

@[simp] theorem memGet_memPut_self (m : Mem) (a : Nat) (v : Byte) : memGet (memPut m a v) a = v := spGet_spPut_self _ _ _ _

theorem memGet_memPut_ne (m : Mem) {a x : Nat} (v : Byte) (h : x ≠ a) : memGet (memPut m a v) x = memGet m x := spGet_spPut_ne _ _ _ h

theorem memPut_wf (m : Mem) (a : Nat) (v : Byte) (h : Memory.wf m = true) : Memory.wf (memPut m a v) = true := spWf_spPut _ _ _ _ h

theorem memPutBytes_wf (bs : List Byte) : ∀ (m : Mem) (a : Nat), Memory.wf m = true → Memory.wf (memPutBytes m a bs) = true := by
  induction bs with
  | nil => intro m a h; exact h
  | cons x r ih => intro m a h; exact ih _ _ (memPut_wf m a x h)

/-- A write of bytes leaves every address outside its range alone. -/
theorem memGet_memPutBytes_out (bs : List Byte) : ∀ (m : Mem) (a x : Nat), x < a ∨ a + bs.length ≤ x → memGet (memPutBytes m a bs) x = memGet m x := by
  induction bs with
  | nil => intro m a x _; rfl
  | cons b r ih =>
    intro m a x h
    simp only [memPutBytes, List.length_cons] at h ⊢
    rw [ih _ _ _ (by omega), memGet_memPut_ne _ _ (by omega)]

/-- A write of bytes puts each at its place. -/
theorem memGet_memPutBytes_in (bs : List Byte) : ∀ (m : Mem) (a i : Nat) (h : i < bs.length), memGet (memPutBytes m a bs) (a + i) = bs[i] := by
  induction bs with
  | nil => intro m a i h; simp at h
  | cons b r ih =>
    intro m a i h
    cases i with
    | zero =>
      simp only [memPutBytes, Nat.add_zero, List.getElem_cons_zero]
      rw [memGet_memPutBytes_out r _ _ _ (by omega), memGet_memPut_self]
    | succ i =>
      simp only [memPutBytes, List.getElem_cons_succ]
      rw [show a + (i + 1) = a + 1 + i from by omega]
      exact ih _ _ _ (by simpa using h)

theorem foldl_wf {β : Type} (f : Mem → β → Mem) (hf : ∀ m x, Memory.wf m = true → Memory.wf (f m x) = true) (l : List β) :
    ∀ m, Memory.wf m = true → Memory.wf (l.foldl f m) = true := by
  induction l with
  | nil => intro m h; exact h
  | cons x r ih => intro m h; exact ih _ (hf m x h)

theorem setBit1_wf (m : Mem) (a : Nat) (v : Bool) (h : Memory.wf m = true) : Memory.wf (setBit1 m a v) = true := by
  unfold setBit1
  exact memPut_wf _ _ _ h

theorem setBits_wf (m : Mem) (a n v : Nat) (h : Memory.wf m = true) : Memory.wf (setBits m a n v) = true := by
  unfold setBits
  split
  · exact memPutBytes_wf _ _ _ h
  · exact foldl_wf _ (fun m i hm => setBit1_wf m _ _ hm) _ _ h

theorem putRef_wf (m : Mem) (r : ByteRef) (x : Byte) (h : Memory.wf m = true) : Memory.wf (putRef m r x) = true := by
  cases r with
  | mem a => exact memPut_wf _ _ _ h
  | scale a => exact memPut_wf _ _ _ h
  | const b => exact h
  | bits l =>
    refine foldl_wf _ ?_ _ _ h
    intro m p hm
    split
    · exact setBit1_wf _ _ _ hm
    · exact hm

end Sys2Proof.Laws
end

