-- ==== Sys2Proof/Laws/State.lean ====
section
/-! SUPPORT. What each named update of the block leaves unchanged: one lemma per field, true by definition. -/

namespace Sys2Proof.Machine

open Sys2Proof

/-! ### setRaw -/

@[simp] theorem setRaw_beat (b : Block) (r : Reg) (v : W64) : (setRaw b r v).beat = b.beat := rfl
@[simp] theorem setRaw_pins (b : Block) (r : Reg) (v : W64) : (setRaw b r v).pins = b.pins := rfl
@[simp] theorem setRaw_ctxs (b : Block) (r : Reg) (v : W64) : (setRaw b r v).ctxs = b.ctxs := rfl
@[simp] theorem setRaw_pegs (b : Block) (r : Reg) (v : W64) : (setRaw b r v).pegs = b.pegs := rfl
@[simp] theorem setRaw_rot (b : Block) (r : Reg) (v : W64) : (setRaw b r v).rot = b.rot := rfl
@[simp] theorem setRaw_lastDispatch (b : Block) (r : Reg) (v : W64) : (setRaw b r v).lastDispatch = b.lastDispatch := rfl
@[simp] theorem setRaw_fetched (b : Block) (r : Reg) (v : W64) : (setRaw b r v).fetched = b.fetched := rfl
@[simp] theorem setRaw_entries (b : Block) (r : Reg) (v : W64) : (setRaw b r v).entries = b.entries := rfl
@[simp] theorem setRaw_sram (b : Block) (r : Reg) (v : W64) : (setRaw b r v).sram = b.sram := rfl
@[simp] theorem setRaw_boot (b : Block) (r : Reg) (v : W64) : (setRaw b r v).boot = b.boot := rfl
@[simp] theorem setRaw_ecc1 (b : Block) (r : Reg) (v : W64) : (setRaw b r v).ecc1 = b.ecc1 := rfl
@[simp] theorem setRaw_ecc2 (b : Block) (r : Reg) (v : W64) : (setRaw b r v).ecc2 = b.ecc2 := rfl
@[simp] theorem setRaw_streams (b : Block) (r : Reg) (v : W64) : (setRaw b r v).streams = b.streams := rfl
@[simp] theorem setRaw_mp (b : Block) (r : Reg) (v : W64) : (setRaw b r v).mp = b.mp := rfl
@[simp] theorem setRaw_tlb (b : Block) (r : Reg) (v : W64) : (setRaw b r v).tlb = b.tlb := rfl
@[simp] theorem setRaw_walks (b : Block) (r : Reg) (v : W64) : (setRaw b r v).walks = b.walks := rfl
@[simp] theorem setRaw_invalBusy (b : Block) (r : Reg) (v : W64) : (setRaw b r v).invalBusy = b.invalBusy := rfl
@[simp] theorem setRaw_invalUntil (b : Block) (r : Reg) (v : W64) : (setRaw b r v).invalUntil = b.invalUntil := rfl
@[simp] theorem setRaw_hotKeys (b : Block) (r : Reg) (v : W64) : (setRaw b r v).hotKeys = b.hotKeys := rfl
@[simp] theorem setRaw_arrays (b : Block) (r : Reg) (v : W64) : (setRaw b r v).arrays = b.arrays := rfl
@[simp] theorem setRaw_groups (b : Block) (r : Reg) (v : W64) : (setRaw b r v).groups = b.groups := rfl
@[simp] theorem setRaw_kiln (b : Block) (r : Reg) (v : W64) : (setRaw b r v).kiln = b.kiln := rfl
@[simp] theorem setRaw_xfers (b : Block) (r : Reg) (v : W64) : (setRaw b r v).xfers = b.xfers := rfl
@[simp] theorem setRaw_grants (b : Block) (r : Reg) (v : W64) : (setRaw b r v).grants = b.grants := rfl
@[simp] theorem setRaw_spillUse (b : Block) (r : Reg) (v : W64) : (setRaw b r v).spillUse = b.spillUse := rfl
@[simp] theorem setRaw_preParked (b : Block) (r : Reg) (v : W64) : (setRaw b r v).preParked = b.preParked := rfl
@[simp] theorem setRaw_spares (b : Block) (r : Reg) (v : W64) : (setRaw b r v).spares = b.spares := rfl
@[simp] theorem setRaw_wheelNext (b : Block) (r : Reg) (v : W64) : (setRaw b r v).wheelNext = b.wheelNext := rfl
@[simp] theorem setRaw_vecNext (b : Block) (r : Reg) (v : W64) : (setRaw b r v).vecNext = b.vecNext := rfl
@[simp] theorem setRaw_rules (b : Block) (r : Reg) (v : W64) : (setRaw b r v).rules = b.rules := rfl
@[simp] theorem setRaw_jobs (b : Block) (r : Reg) (v : W64) : (setRaw b r v).jobs = b.jobs := rfl
@[simp] theorem setRaw_line (b : Block) (r : Reg) (v : W64) : (setRaw b r v).line = b.line := rfl
@[simp] theorem setRaw_chain (b : Block) (r : Reg) (v : W64) : (setRaw b r v).chain = b.chain := rfl
@[simp] theorem setRaw_fabTags (b : Block) (r : Reg) (v : W64) : (setRaw b r v).fabTags = b.fabTags := rfl
@[simp] theorem setRaw_fabTx (b : Block) (r : Reg) (v : W64) : (setRaw b r v).fabTx = b.fabTx := rfl
@[simp] theorem setRaw_fabLoop (b : Block) (r : Reg) (v : W64) : (setRaw b r v).fabLoop = b.fabLoop := rfl
@[simp] theorem setRaw_posts (b : Block) (r : Reg) (v : W64) : (setRaw b r v).posts = b.posts := rfl
@[simp] theorem setRaw_inbuf (b : Block) (r : Reg) (v : W64) : (setRaw b r v).inbuf = b.inbuf := rfl
@[simp] theorem setRaw_chks (b : Block) (r : Reg) (v : W64) : (setRaw b r v).chks = b.chks := rfl
@[simp] theorem setRaw_launch (b : Block) (r : Reg) (v : W64) : (setRaw b r v).launch = b.launch := rfl
@[simp] theorem setRaw_launchRead (b : Block) (r : Reg) (v : W64) : (setRaw b r v).launchRead = b.launchRead := rfl
@[simp] theorem setRaw_notices (b : Block) (r : Reg) (v : W64) : (setRaw b r v).notices = b.notices := rfl
@[simp] theorem setRaw_noticeOut (b : Block) (r : Reg) (v : W64) : (setRaw b r v).noticeOut = b.noticeOut := rfl
@[simp] theorem setRaw_recNext (b : Block) (r : Reg) (v : W64) : (setRaw b r v).recNext = b.recNext := rfl
@[simp] theorem setRaw_engFault (b : Block) (r : Reg) (v : W64) : (setRaw b r v).engFault = b.engFault := rfl
@[simp] theorem setRaw_rst (b : Block) (r : Reg) (v : W64) : (setRaw b r v).rst = b.rst := rfl
@[simp] theorem setRaw_steward (b : Block) (r : Reg) (v : W64) : (setRaw b r v).steward = b.steward := rfl
@[simp] theorem setRaw_power (b : Block) (r : Reg) (v : W64) : (setRaw b r v).power = b.power := rfl
@[simp] theorem setRaw_cp (b : Block) (r : Reg) (v : W64) : (setRaw b r v).cp = b.cp := rfl
@[simp] theorem setRaw_cpQ (b : Block) (r : Reg) (v : W64) : (setRaw b r v).cpQ = b.cpQ := rfl
@[simp] theorem setRaw_coins (b : Block) (r : Reg) (v : W64) : (setRaw b r v).coins = b.coins := rfl
@[simp] theorem setRaw_noticeNew (b : Block) (r : Reg) (v : W64) : (setRaw b r v).noticeNew = b.noticeNew := rfl
@[simp] theorem setRaw_acts (b : Block) (r : Reg) (v : W64) : (setRaw b r v).acts = b.acts := rfl
@[simp] theorem setRaw_jtag (b : Block) (r : Reg) (v : W64) : (setRaw b r v).jtag = b.jtag := rfl
@[simp] theorem setRaw_rlocks (b : Block) (r : Reg) (v : W64) : (setRaw b r v).rlocks = b.rlocks := rfl
@[simp] theorem setRaw_freeTick (b : Block) (r : Reg) (v : W64) : (setRaw b r v).freeTick = b.freeTick := rfl

/-! ### setFld -/

@[simp] theorem setFld_beat (b : Block) (r : Reg) (lo wid v : Nat) : (setFld b r lo wid v).beat = b.beat := rfl
@[simp] theorem setFld_pins (b : Block) (r : Reg) (lo wid v : Nat) : (setFld b r lo wid v).pins = b.pins := rfl
@[simp] theorem setFld_ctxs (b : Block) (r : Reg) (lo wid v : Nat) : (setFld b r lo wid v).ctxs = b.ctxs := rfl
@[simp] theorem setFld_pegs (b : Block) (r : Reg) (lo wid v : Nat) : (setFld b r lo wid v).pegs = b.pegs := rfl
@[simp] theorem setFld_rot (b : Block) (r : Reg) (lo wid v : Nat) : (setFld b r lo wid v).rot = b.rot := rfl
@[simp] theorem setFld_lastDispatch (b : Block) (r : Reg) (lo wid v : Nat) : (setFld b r lo wid v).lastDispatch = b.lastDispatch := rfl
@[simp] theorem setFld_fetched (b : Block) (r : Reg) (lo wid v : Nat) : (setFld b r lo wid v).fetched = b.fetched := rfl
@[simp] theorem setFld_entries (b : Block) (r : Reg) (lo wid v : Nat) : (setFld b r lo wid v).entries = b.entries := rfl
@[simp] theorem setFld_sram (b : Block) (r : Reg) (lo wid v : Nat) : (setFld b r lo wid v).sram = b.sram := rfl
@[simp] theorem setFld_boot (b : Block) (r : Reg) (lo wid v : Nat) : (setFld b r lo wid v).boot = b.boot := rfl
@[simp] theorem setFld_ecc1 (b : Block) (r : Reg) (lo wid v : Nat) : (setFld b r lo wid v).ecc1 = b.ecc1 := rfl
@[simp] theorem setFld_ecc2 (b : Block) (r : Reg) (lo wid v : Nat) : (setFld b r lo wid v).ecc2 = b.ecc2 := rfl
@[simp] theorem setFld_streams (b : Block) (r : Reg) (lo wid v : Nat) : (setFld b r lo wid v).streams = b.streams := rfl
@[simp] theorem setFld_mp (b : Block) (r : Reg) (lo wid v : Nat) : (setFld b r lo wid v).mp = b.mp := rfl
@[simp] theorem setFld_tlb (b : Block) (r : Reg) (lo wid v : Nat) : (setFld b r lo wid v).tlb = b.tlb := rfl
@[simp] theorem setFld_walks (b : Block) (r : Reg) (lo wid v : Nat) : (setFld b r lo wid v).walks = b.walks := rfl
@[simp] theorem setFld_invalBusy (b : Block) (r : Reg) (lo wid v : Nat) : (setFld b r lo wid v).invalBusy = b.invalBusy := rfl
@[simp] theorem setFld_invalUntil (b : Block) (r : Reg) (lo wid v : Nat) : (setFld b r lo wid v).invalUntil = b.invalUntil := rfl
@[simp] theorem setFld_hotKeys (b : Block) (r : Reg) (lo wid v : Nat) : (setFld b r lo wid v).hotKeys = b.hotKeys := rfl
@[simp] theorem setFld_arrays (b : Block) (r : Reg) (lo wid v : Nat) : (setFld b r lo wid v).arrays = b.arrays := rfl
@[simp] theorem setFld_groups (b : Block) (r : Reg) (lo wid v : Nat) : (setFld b r lo wid v).groups = b.groups := rfl
@[simp] theorem setFld_kiln (b : Block) (r : Reg) (lo wid v : Nat) : (setFld b r lo wid v).kiln = b.kiln := rfl
@[simp] theorem setFld_xfers (b : Block) (r : Reg) (lo wid v : Nat) : (setFld b r lo wid v).xfers = b.xfers := rfl
@[simp] theorem setFld_grants (b : Block) (r : Reg) (lo wid v : Nat) : (setFld b r lo wid v).grants = b.grants := rfl
@[simp] theorem setFld_spillUse (b : Block) (r : Reg) (lo wid v : Nat) : (setFld b r lo wid v).spillUse = b.spillUse := rfl
@[simp] theorem setFld_preParked (b : Block) (r : Reg) (lo wid v : Nat) : (setFld b r lo wid v).preParked = b.preParked := rfl
@[simp] theorem setFld_spares (b : Block) (r : Reg) (lo wid v : Nat) : (setFld b r lo wid v).spares = b.spares := rfl
@[simp] theorem setFld_wheelNext (b : Block) (r : Reg) (lo wid v : Nat) : (setFld b r lo wid v).wheelNext = b.wheelNext := rfl
@[simp] theorem setFld_vecNext (b : Block) (r : Reg) (lo wid v : Nat) : (setFld b r lo wid v).vecNext = b.vecNext := rfl
@[simp] theorem setFld_rules (b : Block) (r : Reg) (lo wid v : Nat) : (setFld b r lo wid v).rules = b.rules := rfl
@[simp] theorem setFld_jobs (b : Block) (r : Reg) (lo wid v : Nat) : (setFld b r lo wid v).jobs = b.jobs := rfl
@[simp] theorem setFld_line (b : Block) (r : Reg) (lo wid v : Nat) : (setFld b r lo wid v).line = b.line := rfl
@[simp] theorem setFld_chain (b : Block) (r : Reg) (lo wid v : Nat) : (setFld b r lo wid v).chain = b.chain := rfl
@[simp] theorem setFld_fabTags (b : Block) (r : Reg) (lo wid v : Nat) : (setFld b r lo wid v).fabTags = b.fabTags := rfl
@[simp] theorem setFld_fabTx (b : Block) (r : Reg) (lo wid v : Nat) : (setFld b r lo wid v).fabTx = b.fabTx := rfl
@[simp] theorem setFld_fabLoop (b : Block) (r : Reg) (lo wid v : Nat) : (setFld b r lo wid v).fabLoop = b.fabLoop := rfl
@[simp] theorem setFld_posts (b : Block) (r : Reg) (lo wid v : Nat) : (setFld b r lo wid v).posts = b.posts := rfl
@[simp] theorem setFld_inbuf (b : Block) (r : Reg) (lo wid v : Nat) : (setFld b r lo wid v).inbuf = b.inbuf := rfl
@[simp] theorem setFld_chks (b : Block) (r : Reg) (lo wid v : Nat) : (setFld b r lo wid v).chks = b.chks := rfl
@[simp] theorem setFld_launch (b : Block) (r : Reg) (lo wid v : Nat) : (setFld b r lo wid v).launch = b.launch := rfl
@[simp] theorem setFld_launchRead (b : Block) (r : Reg) (lo wid v : Nat) : (setFld b r lo wid v).launchRead = b.launchRead := rfl
@[simp] theorem setFld_notices (b : Block) (r : Reg) (lo wid v : Nat) : (setFld b r lo wid v).notices = b.notices := rfl
@[simp] theorem setFld_noticeOut (b : Block) (r : Reg) (lo wid v : Nat) : (setFld b r lo wid v).noticeOut = b.noticeOut := rfl
@[simp] theorem setFld_recNext (b : Block) (r : Reg) (lo wid v : Nat) : (setFld b r lo wid v).recNext = b.recNext := rfl
@[simp] theorem setFld_engFault (b : Block) (r : Reg) (lo wid v : Nat) : (setFld b r lo wid v).engFault = b.engFault := rfl
@[simp] theorem setFld_rst (b : Block) (r : Reg) (lo wid v : Nat) : (setFld b r lo wid v).rst = b.rst := rfl
@[simp] theorem setFld_steward (b : Block) (r : Reg) (lo wid v : Nat) : (setFld b r lo wid v).steward = b.steward := rfl
@[simp] theorem setFld_power (b : Block) (r : Reg) (lo wid v : Nat) : (setFld b r lo wid v).power = b.power := rfl
@[simp] theorem setFld_cp (b : Block) (r : Reg) (lo wid v : Nat) : (setFld b r lo wid v).cp = b.cp := rfl
@[simp] theorem setFld_cpQ (b : Block) (r : Reg) (lo wid v : Nat) : (setFld b r lo wid v).cpQ = b.cpQ := rfl
@[simp] theorem setFld_coins (b : Block) (r : Reg) (lo wid v : Nat) : (setFld b r lo wid v).coins = b.coins := rfl
@[simp] theorem setFld_noticeNew (b : Block) (r : Reg) (lo wid v : Nat) : (setFld b r lo wid v).noticeNew = b.noticeNew := rfl
@[simp] theorem setFld_acts (b : Block) (r : Reg) (lo wid v : Nat) : (setFld b r lo wid v).acts = b.acts := rfl
@[simp] theorem setFld_jtag (b : Block) (r : Reg) (lo wid v : Nat) : (setFld b r lo wid v).jtag = b.jtag := rfl
@[simp] theorem setFld_rlocks (b : Block) (r : Reg) (lo wid v : Nat) : (setFld b r lo wid v).rlocks = b.rlocks := rfl
@[simp] theorem setFld_freeTick (b : Block) (r : Reg) (lo wid v : Nat) : (setFld b r lo wid v).freeTick = b.freeTick := rfl

/-! ### bumpFld -/

@[simp] theorem bumpFld_beat (b : Block) (r : Reg) (lo wid n : Nat) : (bumpFld b r lo wid n).beat = b.beat := rfl
@[simp] theorem bumpFld_pins (b : Block) (r : Reg) (lo wid n : Nat) : (bumpFld b r lo wid n).pins = b.pins := rfl
@[simp] theorem bumpFld_ctxs (b : Block) (r : Reg) (lo wid n : Nat) : (bumpFld b r lo wid n).ctxs = b.ctxs := rfl
@[simp] theorem bumpFld_pegs (b : Block) (r : Reg) (lo wid n : Nat) : (bumpFld b r lo wid n).pegs = b.pegs := rfl
@[simp] theorem bumpFld_rot (b : Block) (r : Reg) (lo wid n : Nat) : (bumpFld b r lo wid n).rot = b.rot := rfl
@[simp] theorem bumpFld_lastDispatch (b : Block) (r : Reg) (lo wid n : Nat) : (bumpFld b r lo wid n).lastDispatch = b.lastDispatch := rfl
@[simp] theorem bumpFld_fetched (b : Block) (r : Reg) (lo wid n : Nat) : (bumpFld b r lo wid n).fetched = b.fetched := rfl
@[simp] theorem bumpFld_entries (b : Block) (r : Reg) (lo wid n : Nat) : (bumpFld b r lo wid n).entries = b.entries := rfl
@[simp] theorem bumpFld_sram (b : Block) (r : Reg) (lo wid n : Nat) : (bumpFld b r lo wid n).sram = b.sram := rfl
@[simp] theorem bumpFld_boot (b : Block) (r : Reg) (lo wid n : Nat) : (bumpFld b r lo wid n).boot = b.boot := rfl
@[simp] theorem bumpFld_ecc1 (b : Block) (r : Reg) (lo wid n : Nat) : (bumpFld b r lo wid n).ecc1 = b.ecc1 := rfl
@[simp] theorem bumpFld_ecc2 (b : Block) (r : Reg) (lo wid n : Nat) : (bumpFld b r lo wid n).ecc2 = b.ecc2 := rfl
@[simp] theorem bumpFld_streams (b : Block) (r : Reg) (lo wid n : Nat) : (bumpFld b r lo wid n).streams = b.streams := rfl
@[simp] theorem bumpFld_mp (b : Block) (r : Reg) (lo wid n : Nat) : (bumpFld b r lo wid n).mp = b.mp := rfl
@[simp] theorem bumpFld_tlb (b : Block) (r : Reg) (lo wid n : Nat) : (bumpFld b r lo wid n).tlb = b.tlb := rfl
@[simp] theorem bumpFld_walks (b : Block) (r : Reg) (lo wid n : Nat) : (bumpFld b r lo wid n).walks = b.walks := rfl
@[simp] theorem bumpFld_invalBusy (b : Block) (r : Reg) (lo wid n : Nat) : (bumpFld b r lo wid n).invalBusy = b.invalBusy := rfl
@[simp] theorem bumpFld_invalUntil (b : Block) (r : Reg) (lo wid n : Nat) : (bumpFld b r lo wid n).invalUntil = b.invalUntil := rfl
@[simp] theorem bumpFld_hotKeys (b : Block) (r : Reg) (lo wid n : Nat) : (bumpFld b r lo wid n).hotKeys = b.hotKeys := rfl
@[simp] theorem bumpFld_arrays (b : Block) (r : Reg) (lo wid n : Nat) : (bumpFld b r lo wid n).arrays = b.arrays := rfl
@[simp] theorem bumpFld_groups (b : Block) (r : Reg) (lo wid n : Nat) : (bumpFld b r lo wid n).groups = b.groups := rfl
@[simp] theorem bumpFld_kiln (b : Block) (r : Reg) (lo wid n : Nat) : (bumpFld b r lo wid n).kiln = b.kiln := rfl
@[simp] theorem bumpFld_xfers (b : Block) (r : Reg) (lo wid n : Nat) : (bumpFld b r lo wid n).xfers = b.xfers := rfl
@[simp] theorem bumpFld_grants (b : Block) (r : Reg) (lo wid n : Nat) : (bumpFld b r lo wid n).grants = b.grants := rfl
@[simp] theorem bumpFld_spillUse (b : Block) (r : Reg) (lo wid n : Nat) : (bumpFld b r lo wid n).spillUse = b.spillUse := rfl
@[simp] theorem bumpFld_preParked (b : Block) (r : Reg) (lo wid n : Nat) : (bumpFld b r lo wid n).preParked = b.preParked := rfl
@[simp] theorem bumpFld_spares (b : Block) (r : Reg) (lo wid n : Nat) : (bumpFld b r lo wid n).spares = b.spares := rfl
@[simp] theorem bumpFld_wheelNext (b : Block) (r : Reg) (lo wid n : Nat) : (bumpFld b r lo wid n).wheelNext = b.wheelNext := rfl
@[simp] theorem bumpFld_vecNext (b : Block) (r : Reg) (lo wid n : Nat) : (bumpFld b r lo wid n).vecNext = b.vecNext := rfl
@[simp] theorem bumpFld_rules (b : Block) (r : Reg) (lo wid n : Nat) : (bumpFld b r lo wid n).rules = b.rules := rfl
@[simp] theorem bumpFld_jobs (b : Block) (r : Reg) (lo wid n : Nat) : (bumpFld b r lo wid n).jobs = b.jobs := rfl
@[simp] theorem bumpFld_line (b : Block) (r : Reg) (lo wid n : Nat) : (bumpFld b r lo wid n).line = b.line := rfl
@[simp] theorem bumpFld_chain (b : Block) (r : Reg) (lo wid n : Nat) : (bumpFld b r lo wid n).chain = b.chain := rfl
@[simp] theorem bumpFld_fabTags (b : Block) (r : Reg) (lo wid n : Nat) : (bumpFld b r lo wid n).fabTags = b.fabTags := rfl
@[simp] theorem bumpFld_fabTx (b : Block) (r : Reg) (lo wid n : Nat) : (bumpFld b r lo wid n).fabTx = b.fabTx := rfl
@[simp] theorem bumpFld_fabLoop (b : Block) (r : Reg) (lo wid n : Nat) : (bumpFld b r lo wid n).fabLoop = b.fabLoop := rfl
@[simp] theorem bumpFld_posts (b : Block) (r : Reg) (lo wid n : Nat) : (bumpFld b r lo wid n).posts = b.posts := rfl
@[simp] theorem bumpFld_inbuf (b : Block) (r : Reg) (lo wid n : Nat) : (bumpFld b r lo wid n).inbuf = b.inbuf := rfl
@[simp] theorem bumpFld_chks (b : Block) (r : Reg) (lo wid n : Nat) : (bumpFld b r lo wid n).chks = b.chks := rfl
@[simp] theorem bumpFld_launch (b : Block) (r : Reg) (lo wid n : Nat) : (bumpFld b r lo wid n).launch = b.launch := rfl
@[simp] theorem bumpFld_launchRead (b : Block) (r : Reg) (lo wid n : Nat) : (bumpFld b r lo wid n).launchRead = b.launchRead := rfl
@[simp] theorem bumpFld_notices (b : Block) (r : Reg) (lo wid n : Nat) : (bumpFld b r lo wid n).notices = b.notices := rfl
@[simp] theorem bumpFld_noticeOut (b : Block) (r : Reg) (lo wid n : Nat) : (bumpFld b r lo wid n).noticeOut = b.noticeOut := rfl
@[simp] theorem bumpFld_recNext (b : Block) (r : Reg) (lo wid n : Nat) : (bumpFld b r lo wid n).recNext = b.recNext := rfl
@[simp] theorem bumpFld_engFault (b : Block) (r : Reg) (lo wid n : Nat) : (bumpFld b r lo wid n).engFault = b.engFault := rfl
@[simp] theorem bumpFld_rst (b : Block) (r : Reg) (lo wid n : Nat) : (bumpFld b r lo wid n).rst = b.rst := rfl
@[simp] theorem bumpFld_steward (b : Block) (r : Reg) (lo wid n : Nat) : (bumpFld b r lo wid n).steward = b.steward := rfl
@[simp] theorem bumpFld_power (b : Block) (r : Reg) (lo wid n : Nat) : (bumpFld b r lo wid n).power = b.power := rfl
@[simp] theorem bumpFld_cp (b : Block) (r : Reg) (lo wid n : Nat) : (bumpFld b r lo wid n).cp = b.cp := rfl
@[simp] theorem bumpFld_cpQ (b : Block) (r : Reg) (lo wid n : Nat) : (bumpFld b r lo wid n).cpQ = b.cpQ := rfl
@[simp] theorem bumpFld_noticeNew (b : Block) (r : Reg) (lo wid n : Nat) : (bumpFld b r lo wid n).noticeNew = b.noticeNew := rfl
@[simp] theorem bumpFld_acts (b : Block) (r : Reg) (lo wid n : Nat) : (bumpFld b r lo wid n).acts = b.acts := rfl
@[simp] theorem bumpFld_jtag (b : Block) (r : Reg) (lo wid n : Nat) : (bumpFld b r lo wid n).jtag = b.jtag := rfl
@[simp] theorem bumpFld_rlocks (b : Block) (r : Reg) (lo wid n : Nat) : (bumpFld b r lo wid n).rlocks = b.rlocks := rfl
@[simp] theorem bumpFld_freeTick (b : Block) (r : Reg) (lo wid n : Nat) : (bumpFld b r lo wid n).freeTick = b.freeTick := rfl

/-! ### hwSet -/

@[simp] theorem hwSet_beat (b : Block) (r : Reg) (lo : Nat) : (hwSet b r lo).beat = b.beat := rfl
@[simp] theorem hwSet_pins (b : Block) (r : Reg) (lo : Nat) : (hwSet b r lo).pins = b.pins := rfl
@[simp] theorem hwSet_ctxs (b : Block) (r : Reg) (lo : Nat) : (hwSet b r lo).ctxs = b.ctxs := rfl
@[simp] theorem hwSet_pegs (b : Block) (r : Reg) (lo : Nat) : (hwSet b r lo).pegs = b.pegs := rfl
@[simp] theorem hwSet_rot (b : Block) (r : Reg) (lo : Nat) : (hwSet b r lo).rot = b.rot := rfl
@[simp] theorem hwSet_lastDispatch (b : Block) (r : Reg) (lo : Nat) : (hwSet b r lo).lastDispatch = b.lastDispatch := rfl
@[simp] theorem hwSet_fetched (b : Block) (r : Reg) (lo : Nat) : (hwSet b r lo).fetched = b.fetched := rfl
@[simp] theorem hwSet_entries (b : Block) (r : Reg) (lo : Nat) : (hwSet b r lo).entries = b.entries := rfl
@[simp] theorem hwSet_sram (b : Block) (r : Reg) (lo : Nat) : (hwSet b r lo).sram = b.sram := rfl
@[simp] theorem hwSet_boot (b : Block) (r : Reg) (lo : Nat) : (hwSet b r lo).boot = b.boot := rfl
@[simp] theorem hwSet_ecc1 (b : Block) (r : Reg) (lo : Nat) : (hwSet b r lo).ecc1 = b.ecc1 := rfl
@[simp] theorem hwSet_ecc2 (b : Block) (r : Reg) (lo : Nat) : (hwSet b r lo).ecc2 = b.ecc2 := rfl
@[simp] theorem hwSet_streams (b : Block) (r : Reg) (lo : Nat) : (hwSet b r lo).streams = b.streams := rfl
@[simp] theorem hwSet_mp (b : Block) (r : Reg) (lo : Nat) : (hwSet b r lo).mp = b.mp := rfl
@[simp] theorem hwSet_tlb (b : Block) (r : Reg) (lo : Nat) : (hwSet b r lo).tlb = b.tlb := rfl
@[simp] theorem hwSet_walks (b : Block) (r : Reg) (lo : Nat) : (hwSet b r lo).walks = b.walks := rfl
@[simp] theorem hwSet_invalBusy (b : Block) (r : Reg) (lo : Nat) : (hwSet b r lo).invalBusy = b.invalBusy := rfl
@[simp] theorem hwSet_invalUntil (b : Block) (r : Reg) (lo : Nat) : (hwSet b r lo).invalUntil = b.invalUntil := rfl
@[simp] theorem hwSet_hotKeys (b : Block) (r : Reg) (lo : Nat) : (hwSet b r lo).hotKeys = b.hotKeys := rfl
@[simp] theorem hwSet_arrays (b : Block) (r : Reg) (lo : Nat) : (hwSet b r lo).arrays = b.arrays := rfl
@[simp] theorem hwSet_groups (b : Block) (r : Reg) (lo : Nat) : (hwSet b r lo).groups = b.groups := rfl
@[simp] theorem hwSet_kiln (b : Block) (r : Reg) (lo : Nat) : (hwSet b r lo).kiln = b.kiln := rfl
@[simp] theorem hwSet_xfers (b : Block) (r : Reg) (lo : Nat) : (hwSet b r lo).xfers = b.xfers := rfl
@[simp] theorem hwSet_grants (b : Block) (r : Reg) (lo : Nat) : (hwSet b r lo).grants = b.grants := rfl
@[simp] theorem hwSet_spillUse (b : Block) (r : Reg) (lo : Nat) : (hwSet b r lo).spillUse = b.spillUse := rfl
@[simp] theorem hwSet_preParked (b : Block) (r : Reg) (lo : Nat) : (hwSet b r lo).preParked = b.preParked := rfl
@[simp] theorem hwSet_spares (b : Block) (r : Reg) (lo : Nat) : (hwSet b r lo).spares = b.spares := rfl
@[simp] theorem hwSet_wheelNext (b : Block) (r : Reg) (lo : Nat) : (hwSet b r lo).wheelNext = b.wheelNext := rfl
@[simp] theorem hwSet_vecNext (b : Block) (r : Reg) (lo : Nat) : (hwSet b r lo).vecNext = b.vecNext := rfl
@[simp] theorem hwSet_rules (b : Block) (r : Reg) (lo : Nat) : (hwSet b r lo).rules = b.rules := rfl
@[simp] theorem hwSet_jobs (b : Block) (r : Reg) (lo : Nat) : (hwSet b r lo).jobs = b.jobs := rfl
@[simp] theorem hwSet_line (b : Block) (r : Reg) (lo : Nat) : (hwSet b r lo).line = b.line := rfl
@[simp] theorem hwSet_chain (b : Block) (r : Reg) (lo : Nat) : (hwSet b r lo).chain = b.chain := rfl
@[simp] theorem hwSet_fabTags (b : Block) (r : Reg) (lo : Nat) : (hwSet b r lo).fabTags = b.fabTags := rfl
@[simp] theorem hwSet_fabTx (b : Block) (r : Reg) (lo : Nat) : (hwSet b r lo).fabTx = b.fabTx := rfl
@[simp] theorem hwSet_fabLoop (b : Block) (r : Reg) (lo : Nat) : (hwSet b r lo).fabLoop = b.fabLoop := rfl
@[simp] theorem hwSet_posts (b : Block) (r : Reg) (lo : Nat) : (hwSet b r lo).posts = b.posts := rfl
@[simp] theorem hwSet_inbuf (b : Block) (r : Reg) (lo : Nat) : (hwSet b r lo).inbuf = b.inbuf := rfl
@[simp] theorem hwSet_chks (b : Block) (r : Reg) (lo : Nat) : (hwSet b r lo).chks = b.chks := rfl
@[simp] theorem hwSet_launch (b : Block) (r : Reg) (lo : Nat) : (hwSet b r lo).launch = b.launch := rfl
@[simp] theorem hwSet_launchRead (b : Block) (r : Reg) (lo : Nat) : (hwSet b r lo).launchRead = b.launchRead := rfl
@[simp] theorem hwSet_notices (b : Block) (r : Reg) (lo : Nat) : (hwSet b r lo).notices = b.notices := rfl
@[simp] theorem hwSet_noticeOut (b : Block) (r : Reg) (lo : Nat) : (hwSet b r lo).noticeOut = b.noticeOut := rfl
@[simp] theorem hwSet_recNext (b : Block) (r : Reg) (lo : Nat) : (hwSet b r lo).recNext = b.recNext := rfl
@[simp] theorem hwSet_engFault (b : Block) (r : Reg) (lo : Nat) : (hwSet b r lo).engFault = b.engFault := rfl
@[simp] theorem hwSet_rst (b : Block) (r : Reg) (lo : Nat) : (hwSet b r lo).rst = b.rst := rfl
@[simp] theorem hwSet_steward (b : Block) (r : Reg) (lo : Nat) : (hwSet b r lo).steward = b.steward := rfl
@[simp] theorem hwSet_power (b : Block) (r : Reg) (lo : Nat) : (hwSet b r lo).power = b.power := rfl
@[simp] theorem hwSet_cp (b : Block) (r : Reg) (lo : Nat) : (hwSet b r lo).cp = b.cp := rfl
@[simp] theorem hwSet_cpQ (b : Block) (r : Reg) (lo : Nat) : (hwSet b r lo).cpQ = b.cpQ := rfl
@[simp] theorem hwSet_noticeNew (b : Block) (r : Reg) (lo : Nat) : (hwSet b r lo).noticeNew = b.noticeNew := rfl
@[simp] theorem hwSet_acts (b : Block) (r : Reg) (lo : Nat) : (hwSet b r lo).acts = b.acts := rfl
@[simp] theorem hwSet_jtag (b : Block) (r : Reg) (lo : Nat) : (hwSet b r lo).jtag = b.jtag := rfl
@[simp] theorem hwSet_rlocks (b : Block) (r : Reg) (lo : Nat) : (hwSet b r lo).rlocks = b.rlocks := rfl
@[simp] theorem hwSet_freeTick (b : Block) (r : Reg) (lo : Nat) : (hwSet b r lo).freeTick = b.freeTick := rfl

/-! ### countSram -/

@[simp] theorem countSram_beat (b : Block) (lo n : Nat) : (countSram b lo n).beat = b.beat := rfl
@[simp] theorem countSram_pins (b : Block) (lo n : Nat) : (countSram b lo n).pins = b.pins := rfl
@[simp] theorem countSram_regs (b : Block) (lo n : Nat) : (countSram b lo n).regs = b.regs := rfl
@[simp] theorem countSram_ctxs (b : Block) (lo n : Nat) : (countSram b lo n).ctxs = b.ctxs := rfl
@[simp] theorem countSram_pegs (b : Block) (lo n : Nat) : (countSram b lo n).pegs = b.pegs := rfl
@[simp] theorem countSram_rot (b : Block) (lo n : Nat) : (countSram b lo n).rot = b.rot := rfl
@[simp] theorem countSram_lastDispatch (b : Block) (lo n : Nat) : (countSram b lo n).lastDispatch = b.lastDispatch := rfl
@[simp] theorem countSram_fetched (b : Block) (lo n : Nat) : (countSram b lo n).fetched = b.fetched := rfl
@[simp] theorem countSram_entries (b : Block) (lo n : Nat) : (countSram b lo n).entries = b.entries := rfl
@[simp] theorem countSram_sram (b : Block) (lo n : Nat) : (countSram b lo n).sram = b.sram := rfl
@[simp] theorem countSram_boot (b : Block) (lo n : Nat) : (countSram b lo n).boot = b.boot := rfl
@[simp] theorem countSram_ecc1 (b : Block) (lo n : Nat) : (countSram b lo n).ecc1 = b.ecc1 := rfl
@[simp] theorem countSram_ecc2 (b : Block) (lo n : Nat) : (countSram b lo n).ecc2 = b.ecc2 := rfl
@[simp] theorem countSram_streams (b : Block) (lo n : Nat) : (countSram b lo n).streams = b.streams := rfl
@[simp] theorem countSram_mp (b : Block) (lo n : Nat) : (countSram b lo n).mp = b.mp := rfl
@[simp] theorem countSram_tlb (b : Block) (lo n : Nat) : (countSram b lo n).tlb = b.tlb := rfl
@[simp] theorem countSram_walks (b : Block) (lo n : Nat) : (countSram b lo n).walks = b.walks := rfl
@[simp] theorem countSram_invalBusy (b : Block) (lo n : Nat) : (countSram b lo n).invalBusy = b.invalBusy := rfl
@[simp] theorem countSram_invalUntil (b : Block) (lo n : Nat) : (countSram b lo n).invalUntil = b.invalUntil := rfl
@[simp] theorem countSram_hotKeys (b : Block) (lo n : Nat) : (countSram b lo n).hotKeys = b.hotKeys := rfl
@[simp] theorem countSram_arrays (b : Block) (lo n : Nat) : (countSram b lo n).arrays = b.arrays := rfl
@[simp] theorem countSram_groups (b : Block) (lo n : Nat) : (countSram b lo n).groups = b.groups := rfl
@[simp] theorem countSram_kiln (b : Block) (lo n : Nat) : (countSram b lo n).kiln = b.kiln := rfl
@[simp] theorem countSram_xfers (b : Block) (lo n : Nat) : (countSram b lo n).xfers = b.xfers := rfl
@[simp] theorem countSram_grants (b : Block) (lo n : Nat) : (countSram b lo n).grants = b.grants := rfl
@[simp] theorem countSram_spillUse (b : Block) (lo n : Nat) : (countSram b lo n).spillUse = b.spillUse := rfl
@[simp] theorem countSram_preParked (b : Block) (lo n : Nat) : (countSram b lo n).preParked = b.preParked := rfl
@[simp] theorem countSram_spares (b : Block) (lo n : Nat) : (countSram b lo n).spares = b.spares := rfl
@[simp] theorem countSram_wheelNext (b : Block) (lo n : Nat) : (countSram b lo n).wheelNext = b.wheelNext := rfl
@[simp] theorem countSram_vecNext (b : Block) (lo n : Nat) : (countSram b lo n).vecNext = b.vecNext := rfl
@[simp] theorem countSram_rules (b : Block) (lo n : Nat) : (countSram b lo n).rules = b.rules := rfl
@[simp] theorem countSram_jobs (b : Block) (lo n : Nat) : (countSram b lo n).jobs = b.jobs := rfl
@[simp] theorem countSram_line (b : Block) (lo n : Nat) : (countSram b lo n).line = b.line := rfl
@[simp] theorem countSram_chain (b : Block) (lo n : Nat) : (countSram b lo n).chain = b.chain := rfl
@[simp] theorem countSram_fabTags (b : Block) (lo n : Nat) : (countSram b lo n).fabTags = b.fabTags := rfl
@[simp] theorem countSram_fabTx (b : Block) (lo n : Nat) : (countSram b lo n).fabTx = b.fabTx := rfl
@[simp] theorem countSram_fabLoop (b : Block) (lo n : Nat) : (countSram b lo n).fabLoop = b.fabLoop := rfl
@[simp] theorem countSram_posts (b : Block) (lo n : Nat) : (countSram b lo n).posts = b.posts := rfl
@[simp] theorem countSram_inbuf (b : Block) (lo n : Nat) : (countSram b lo n).inbuf = b.inbuf := rfl
@[simp] theorem countSram_chks (b : Block) (lo n : Nat) : (countSram b lo n).chks = b.chks := rfl
@[simp] theorem countSram_launch (b : Block) (lo n : Nat) : (countSram b lo n).launch = b.launch := rfl
@[simp] theorem countSram_launchRead (b : Block) (lo n : Nat) : (countSram b lo n).launchRead = b.launchRead := rfl
@[simp] theorem countSram_notices (b : Block) (lo n : Nat) : (countSram b lo n).notices = b.notices := rfl
@[simp] theorem countSram_noticeOut (b : Block) (lo n : Nat) : (countSram b lo n).noticeOut = b.noticeOut := rfl
@[simp] theorem countSram_recNext (b : Block) (lo n : Nat) : (countSram b lo n).recNext = b.recNext := rfl
@[simp] theorem countSram_engFault (b : Block) (lo n : Nat) : (countSram b lo n).engFault = b.engFault := rfl
@[simp] theorem countSram_rst (b : Block) (lo n : Nat) : (countSram b lo n).rst = b.rst := rfl
@[simp] theorem countSram_steward (b : Block) (lo n : Nat) : (countSram b lo n).steward = b.steward := rfl
@[simp] theorem countSram_power (b : Block) (lo n : Nat) : (countSram b lo n).power = b.power := rfl
@[simp] theorem countSram_cp (b : Block) (lo n : Nat) : (countSram b lo n).cp = b.cp := rfl
@[simp] theorem countSram_cpQ (b : Block) (lo n : Nat) : (countSram b lo n).cpQ = b.cpQ := rfl
@[simp] theorem countSram_coins (b : Block) (lo n : Nat) : (countSram b lo n).coins = b.coins := rfl
@[simp] theorem countSram_noticeNew (b : Block) (lo n : Nat) : (countSram b lo n).noticeNew = b.noticeNew := rfl
@[simp] theorem countSram_jtag (b : Block) (lo n : Nat) : (countSram b lo n).jtag = b.jtag := rfl
@[simp] theorem countSram_rlocks (b : Block) (lo n : Nat) : (countSram b lo n).rlocks = b.rlocks := rfl
@[simp] theorem countSram_freeTick (b : Block) (lo n : Nat) : (countSram b lo n).freeTick = b.freeTick := rfl

/-! ### countAct -/

@[simp] theorem countAct_beat (b : Block) (f : Acts → Acts) : (countAct b f).beat = b.beat := rfl
@[simp] theorem countAct_pins (b : Block) (f : Acts → Acts) : (countAct b f).pins = b.pins := rfl
@[simp] theorem countAct_regs (b : Block) (f : Acts → Acts) : (countAct b f).regs = b.regs := rfl
@[simp] theorem countAct_ctxs (b : Block) (f : Acts → Acts) : (countAct b f).ctxs = b.ctxs := rfl
@[simp] theorem countAct_pegs (b : Block) (f : Acts → Acts) : (countAct b f).pegs = b.pegs := rfl
@[simp] theorem countAct_rot (b : Block) (f : Acts → Acts) : (countAct b f).rot = b.rot := rfl
@[simp] theorem countAct_lastDispatch (b : Block) (f : Acts → Acts) : (countAct b f).lastDispatch = b.lastDispatch := rfl
@[simp] theorem countAct_fetched (b : Block) (f : Acts → Acts) : (countAct b f).fetched = b.fetched := rfl
@[simp] theorem countAct_entries (b : Block) (f : Acts → Acts) : (countAct b f).entries = b.entries := rfl
@[simp] theorem countAct_sram (b : Block) (f : Acts → Acts) : (countAct b f).sram = b.sram := rfl
@[simp] theorem countAct_boot (b : Block) (f : Acts → Acts) : (countAct b f).boot = b.boot := rfl
@[simp] theorem countAct_ecc1 (b : Block) (f : Acts → Acts) : (countAct b f).ecc1 = b.ecc1 := rfl
@[simp] theorem countAct_ecc2 (b : Block) (f : Acts → Acts) : (countAct b f).ecc2 = b.ecc2 := rfl
@[simp] theorem countAct_streams (b : Block) (f : Acts → Acts) : (countAct b f).streams = b.streams := rfl
@[simp] theorem countAct_mp (b : Block) (f : Acts → Acts) : (countAct b f).mp = b.mp := rfl
@[simp] theorem countAct_tlb (b : Block) (f : Acts → Acts) : (countAct b f).tlb = b.tlb := rfl
@[simp] theorem countAct_walks (b : Block) (f : Acts → Acts) : (countAct b f).walks = b.walks := rfl
@[simp] theorem countAct_invalBusy (b : Block) (f : Acts → Acts) : (countAct b f).invalBusy = b.invalBusy := rfl
@[simp] theorem countAct_invalUntil (b : Block) (f : Acts → Acts) : (countAct b f).invalUntil = b.invalUntil := rfl
@[simp] theorem countAct_hotKeys (b : Block) (f : Acts → Acts) : (countAct b f).hotKeys = b.hotKeys := rfl
@[simp] theorem countAct_arrays (b : Block) (f : Acts → Acts) : (countAct b f).arrays = b.arrays := rfl
@[simp] theorem countAct_groups (b : Block) (f : Acts → Acts) : (countAct b f).groups = b.groups := rfl
@[simp] theorem countAct_kiln (b : Block) (f : Acts → Acts) : (countAct b f).kiln = b.kiln := rfl
@[simp] theorem countAct_xfers (b : Block) (f : Acts → Acts) : (countAct b f).xfers = b.xfers := rfl
@[simp] theorem countAct_grants (b : Block) (f : Acts → Acts) : (countAct b f).grants = b.grants := rfl
@[simp] theorem countAct_spillUse (b : Block) (f : Acts → Acts) : (countAct b f).spillUse = b.spillUse := rfl
@[simp] theorem countAct_preParked (b : Block) (f : Acts → Acts) : (countAct b f).preParked = b.preParked := rfl
@[simp] theorem countAct_spares (b : Block) (f : Acts → Acts) : (countAct b f).spares = b.spares := rfl
@[simp] theorem countAct_wheelNext (b : Block) (f : Acts → Acts) : (countAct b f).wheelNext = b.wheelNext := rfl
@[simp] theorem countAct_vecNext (b : Block) (f : Acts → Acts) : (countAct b f).vecNext = b.vecNext := rfl
@[simp] theorem countAct_rules (b : Block) (f : Acts → Acts) : (countAct b f).rules = b.rules := rfl
@[simp] theorem countAct_jobs (b : Block) (f : Acts → Acts) : (countAct b f).jobs = b.jobs := rfl
@[simp] theorem countAct_line (b : Block) (f : Acts → Acts) : (countAct b f).line = b.line := rfl
@[simp] theorem countAct_chain (b : Block) (f : Acts → Acts) : (countAct b f).chain = b.chain := rfl
@[simp] theorem countAct_fabTags (b : Block) (f : Acts → Acts) : (countAct b f).fabTags = b.fabTags := rfl
@[simp] theorem countAct_fabTx (b : Block) (f : Acts → Acts) : (countAct b f).fabTx = b.fabTx := rfl
@[simp] theorem countAct_fabLoop (b : Block) (f : Acts → Acts) : (countAct b f).fabLoop = b.fabLoop := rfl
@[simp] theorem countAct_posts (b : Block) (f : Acts → Acts) : (countAct b f).posts = b.posts := rfl
@[simp] theorem countAct_inbuf (b : Block) (f : Acts → Acts) : (countAct b f).inbuf = b.inbuf := rfl
@[simp] theorem countAct_chks (b : Block) (f : Acts → Acts) : (countAct b f).chks = b.chks := rfl
@[simp] theorem countAct_launch (b : Block) (f : Acts → Acts) : (countAct b f).launch = b.launch := rfl
@[simp] theorem countAct_launchRead (b : Block) (f : Acts → Acts) : (countAct b f).launchRead = b.launchRead := rfl
@[simp] theorem countAct_notices (b : Block) (f : Acts → Acts) : (countAct b f).notices = b.notices := rfl
@[simp] theorem countAct_noticeOut (b : Block) (f : Acts → Acts) : (countAct b f).noticeOut = b.noticeOut := rfl
@[simp] theorem countAct_recNext (b : Block) (f : Acts → Acts) : (countAct b f).recNext = b.recNext := rfl
@[simp] theorem countAct_engFault (b : Block) (f : Acts → Acts) : (countAct b f).engFault = b.engFault := rfl
@[simp] theorem countAct_rst (b : Block) (f : Acts → Acts) : (countAct b f).rst = b.rst := rfl
@[simp] theorem countAct_steward (b : Block) (f : Acts → Acts) : (countAct b f).steward = b.steward := rfl
@[simp] theorem countAct_power (b : Block) (f : Acts → Acts) : (countAct b f).power = b.power := rfl
@[simp] theorem countAct_cp (b : Block) (f : Acts → Acts) : (countAct b f).cp = b.cp := rfl
@[simp] theorem countAct_cpQ (b : Block) (f : Acts → Acts) : (countAct b f).cpQ = b.cpQ := rfl
@[simp] theorem countAct_coins (b : Block) (f : Acts → Acts) : (countAct b f).coins = b.coins := rfl
@[simp] theorem countAct_noticeNew (b : Block) (f : Acts → Acts) : (countAct b f).noticeNew = b.noticeNew := rfl
@[simp] theorem countAct_jtag (b : Block) (f : Acts → Acts) : (countAct b f).jtag = b.jtag := rfl
@[simp] theorem countAct_rlocks (b : Block) (f : Acts → Acts) : (countAct b f).rlocks = b.rlocks := rfl
@[simp] theorem countAct_freeTick (b : Block) (f : Acts → Acts) : (countAct b f).freeTick = b.freeTick := rfl

/-! ### dropFetched -/

@[simp] theorem dropFetched_beat (b : Block) (c : Ctx) (s : Strand) : (dropFetched b c s).beat = b.beat := rfl
@[simp] theorem dropFetched_pins (b : Block) (c : Ctx) (s : Strand) : (dropFetched b c s).pins = b.pins := rfl
@[simp] theorem dropFetched_regs (b : Block) (c : Ctx) (s : Strand) : (dropFetched b c s).regs = b.regs := rfl
@[simp] theorem dropFetched_ctxs (b : Block) (c : Ctx) (s : Strand) : (dropFetched b c s).ctxs = b.ctxs := rfl
@[simp] theorem dropFetched_pegs (b : Block) (c : Ctx) (s : Strand) : (dropFetched b c s).pegs = b.pegs := rfl
@[simp] theorem dropFetched_rot (b : Block) (c : Ctx) (s : Strand) : (dropFetched b c s).rot = b.rot := rfl
@[simp] theorem dropFetched_lastDispatch (b : Block) (c : Ctx) (s : Strand) : (dropFetched b c s).lastDispatch = b.lastDispatch := rfl
@[simp] theorem dropFetched_entries (b : Block) (c : Ctx) (s : Strand) : (dropFetched b c s).entries = b.entries := rfl
@[simp] theorem dropFetched_sram (b : Block) (c : Ctx) (s : Strand) : (dropFetched b c s).sram = b.sram := rfl
@[simp] theorem dropFetched_boot (b : Block) (c : Ctx) (s : Strand) : (dropFetched b c s).boot = b.boot := rfl
@[simp] theorem dropFetched_ecc1 (b : Block) (c : Ctx) (s : Strand) : (dropFetched b c s).ecc1 = b.ecc1 := rfl
@[simp] theorem dropFetched_ecc2 (b : Block) (c : Ctx) (s : Strand) : (dropFetched b c s).ecc2 = b.ecc2 := rfl
@[simp] theorem dropFetched_streams (b : Block) (c : Ctx) (s : Strand) : (dropFetched b c s).streams = b.streams := rfl
@[simp] theorem dropFetched_mp (b : Block) (c : Ctx) (s : Strand) : (dropFetched b c s).mp = b.mp := rfl
@[simp] theorem dropFetched_tlb (b : Block) (c : Ctx) (s : Strand) : (dropFetched b c s).tlb = b.tlb := rfl
@[simp] theorem dropFetched_walks (b : Block) (c : Ctx) (s : Strand) : (dropFetched b c s).walks = b.walks := rfl
@[simp] theorem dropFetched_invalBusy (b : Block) (c : Ctx) (s : Strand) : (dropFetched b c s).invalBusy = b.invalBusy := rfl
@[simp] theorem dropFetched_invalUntil (b : Block) (c : Ctx) (s : Strand) : (dropFetched b c s).invalUntil = b.invalUntil := rfl
@[simp] theorem dropFetched_hotKeys (b : Block) (c : Ctx) (s : Strand) : (dropFetched b c s).hotKeys = b.hotKeys := rfl
@[simp] theorem dropFetched_arrays (b : Block) (c : Ctx) (s : Strand) : (dropFetched b c s).arrays = b.arrays := rfl
@[simp] theorem dropFetched_groups (b : Block) (c : Ctx) (s : Strand) : (dropFetched b c s).groups = b.groups := rfl
@[simp] theorem dropFetched_kiln (b : Block) (c : Ctx) (s : Strand) : (dropFetched b c s).kiln = b.kiln := rfl
@[simp] theorem dropFetched_xfers (b : Block) (c : Ctx) (s : Strand) : (dropFetched b c s).xfers = b.xfers := rfl
@[simp] theorem dropFetched_grants (b : Block) (c : Ctx) (s : Strand) : (dropFetched b c s).grants = b.grants := rfl
@[simp] theorem dropFetched_spillUse (b : Block) (c : Ctx) (s : Strand) : (dropFetched b c s).spillUse = b.spillUse := rfl
@[simp] theorem dropFetched_preParked (b : Block) (c : Ctx) (s : Strand) : (dropFetched b c s).preParked = b.preParked := rfl
@[simp] theorem dropFetched_spares (b : Block) (c : Ctx) (s : Strand) : (dropFetched b c s).spares = b.spares := rfl
@[simp] theorem dropFetched_wheelNext (b : Block) (c : Ctx) (s : Strand) : (dropFetched b c s).wheelNext = b.wheelNext := rfl
@[simp] theorem dropFetched_vecNext (b : Block) (c : Ctx) (s : Strand) : (dropFetched b c s).vecNext = b.vecNext := rfl
@[simp] theorem dropFetched_rules (b : Block) (c : Ctx) (s : Strand) : (dropFetched b c s).rules = b.rules := rfl
@[simp] theorem dropFetched_jobs (b : Block) (c : Ctx) (s : Strand) : (dropFetched b c s).jobs = b.jobs := rfl
@[simp] theorem dropFetched_line (b : Block) (c : Ctx) (s : Strand) : (dropFetched b c s).line = b.line := rfl
@[simp] theorem dropFetched_chain (b : Block) (c : Ctx) (s : Strand) : (dropFetched b c s).chain = b.chain := rfl
@[simp] theorem dropFetched_fabTags (b : Block) (c : Ctx) (s : Strand) : (dropFetched b c s).fabTags = b.fabTags := rfl
@[simp] theorem dropFetched_fabTx (b : Block) (c : Ctx) (s : Strand) : (dropFetched b c s).fabTx = b.fabTx := rfl
@[simp] theorem dropFetched_fabLoop (b : Block) (c : Ctx) (s : Strand) : (dropFetched b c s).fabLoop = b.fabLoop := rfl
@[simp] theorem dropFetched_posts (b : Block) (c : Ctx) (s : Strand) : (dropFetched b c s).posts = b.posts := rfl
@[simp] theorem dropFetched_inbuf (b : Block) (c : Ctx) (s : Strand) : (dropFetched b c s).inbuf = b.inbuf := rfl
@[simp] theorem dropFetched_chks (b : Block) (c : Ctx) (s : Strand) : (dropFetched b c s).chks = b.chks := rfl
@[simp] theorem dropFetched_launch (b : Block) (c : Ctx) (s : Strand) : (dropFetched b c s).launch = b.launch := rfl
@[simp] theorem dropFetched_launchRead (b : Block) (c : Ctx) (s : Strand) : (dropFetched b c s).launchRead = b.launchRead := rfl
@[simp] theorem dropFetched_notices (b : Block) (c : Ctx) (s : Strand) : (dropFetched b c s).notices = b.notices := rfl
@[simp] theorem dropFetched_noticeOut (b : Block) (c : Ctx) (s : Strand) : (dropFetched b c s).noticeOut = b.noticeOut := rfl
@[simp] theorem dropFetched_recNext (b : Block) (c : Ctx) (s : Strand) : (dropFetched b c s).recNext = b.recNext := rfl
@[simp] theorem dropFetched_engFault (b : Block) (c : Ctx) (s : Strand) : (dropFetched b c s).engFault = b.engFault := rfl
@[simp] theorem dropFetched_rst (b : Block) (c : Ctx) (s : Strand) : (dropFetched b c s).rst = b.rst := rfl
@[simp] theorem dropFetched_steward (b : Block) (c : Ctx) (s : Strand) : (dropFetched b c s).steward = b.steward := rfl
@[simp] theorem dropFetched_power (b : Block) (c : Ctx) (s : Strand) : (dropFetched b c s).power = b.power := rfl
@[simp] theorem dropFetched_cp (b : Block) (c : Ctx) (s : Strand) : (dropFetched b c s).cp = b.cp := rfl
@[simp] theorem dropFetched_cpQ (b : Block) (c : Ctx) (s : Strand) : (dropFetched b c s).cpQ = b.cpQ := rfl
@[simp] theorem dropFetched_coins (b : Block) (c : Ctx) (s : Strand) : (dropFetched b c s).coins = b.coins := rfl
@[simp] theorem dropFetched_noticeNew (b : Block) (c : Ctx) (s : Strand) : (dropFetched b c s).noticeNew = b.noticeNew := rfl
@[simp] theorem dropFetched_acts (b : Block) (c : Ctx) (s : Strand) : (dropFetched b c s).acts = b.acts := rfl
@[simp] theorem dropFetched_jtag (b : Block) (c : Ctx) (s : Strand) : (dropFetched b c s).jtag = b.jtag := rfl
@[simp] theorem dropFetched_rlocks (b : Block) (c : Ctx) (s : Strand) : (dropFetched b c s).rlocks = b.rlocks := rfl
@[simp] theorem dropFetched_freeTick (b : Block) (c : Ctx) (s : Strand) : (dropFetched b c s).freeTick = b.freeTick := rfl

/-! ### wrapFld -/

@[simp] theorem wrapFld_beat (b : Block) (r : Reg) (lo wid n : Nat) : (wrapFld b r lo wid n).beat = b.beat := rfl
@[simp] theorem wrapFld_pins (b : Block) (r : Reg) (lo wid n : Nat) : (wrapFld b r lo wid n).pins = b.pins := rfl
@[simp] theorem wrapFld_ctxs (b : Block) (r : Reg) (lo wid n : Nat) : (wrapFld b r lo wid n).ctxs = b.ctxs := rfl
@[simp] theorem wrapFld_pegs (b : Block) (r : Reg) (lo wid n : Nat) : (wrapFld b r lo wid n).pegs = b.pegs := rfl
@[simp] theorem wrapFld_rot (b : Block) (r : Reg) (lo wid n : Nat) : (wrapFld b r lo wid n).rot = b.rot := rfl
@[simp] theorem wrapFld_lastDispatch (b : Block) (r : Reg) (lo wid n : Nat) : (wrapFld b r lo wid n).lastDispatch = b.lastDispatch := rfl
@[simp] theorem wrapFld_fetched (b : Block) (r : Reg) (lo wid n : Nat) : (wrapFld b r lo wid n).fetched = b.fetched := rfl
@[simp] theorem wrapFld_entries (b : Block) (r : Reg) (lo wid n : Nat) : (wrapFld b r lo wid n).entries = b.entries := rfl
@[simp] theorem wrapFld_sram (b : Block) (r : Reg) (lo wid n : Nat) : (wrapFld b r lo wid n).sram = b.sram := rfl
@[simp] theorem wrapFld_boot (b : Block) (r : Reg) (lo wid n : Nat) : (wrapFld b r lo wid n).boot = b.boot := rfl
@[simp] theorem wrapFld_ecc1 (b : Block) (r : Reg) (lo wid n : Nat) : (wrapFld b r lo wid n).ecc1 = b.ecc1 := rfl
@[simp] theorem wrapFld_ecc2 (b : Block) (r : Reg) (lo wid n : Nat) : (wrapFld b r lo wid n).ecc2 = b.ecc2 := rfl
@[simp] theorem wrapFld_streams (b : Block) (r : Reg) (lo wid n : Nat) : (wrapFld b r lo wid n).streams = b.streams := rfl
@[simp] theorem wrapFld_mp (b : Block) (r : Reg) (lo wid n : Nat) : (wrapFld b r lo wid n).mp = b.mp := rfl
@[simp] theorem wrapFld_tlb (b : Block) (r : Reg) (lo wid n : Nat) : (wrapFld b r lo wid n).tlb = b.tlb := rfl
@[simp] theorem wrapFld_walks (b : Block) (r : Reg) (lo wid n : Nat) : (wrapFld b r lo wid n).walks = b.walks := rfl
@[simp] theorem wrapFld_invalBusy (b : Block) (r : Reg) (lo wid n : Nat) : (wrapFld b r lo wid n).invalBusy = b.invalBusy := rfl
@[simp] theorem wrapFld_invalUntil (b : Block) (r : Reg) (lo wid n : Nat) : (wrapFld b r lo wid n).invalUntil = b.invalUntil := rfl
@[simp] theorem wrapFld_hotKeys (b : Block) (r : Reg) (lo wid n : Nat) : (wrapFld b r lo wid n).hotKeys = b.hotKeys := rfl
@[simp] theorem wrapFld_arrays (b : Block) (r : Reg) (lo wid n : Nat) : (wrapFld b r lo wid n).arrays = b.arrays := rfl
@[simp] theorem wrapFld_groups (b : Block) (r : Reg) (lo wid n : Nat) : (wrapFld b r lo wid n).groups = b.groups := rfl
@[simp] theorem wrapFld_kiln (b : Block) (r : Reg) (lo wid n : Nat) : (wrapFld b r lo wid n).kiln = b.kiln := rfl
@[simp] theorem wrapFld_xfers (b : Block) (r : Reg) (lo wid n : Nat) : (wrapFld b r lo wid n).xfers = b.xfers := rfl
@[simp] theorem wrapFld_grants (b : Block) (r : Reg) (lo wid n : Nat) : (wrapFld b r lo wid n).grants = b.grants := rfl
@[simp] theorem wrapFld_spillUse (b : Block) (r : Reg) (lo wid n : Nat) : (wrapFld b r lo wid n).spillUse = b.spillUse := rfl
@[simp] theorem wrapFld_preParked (b : Block) (r : Reg) (lo wid n : Nat) : (wrapFld b r lo wid n).preParked = b.preParked := rfl
@[simp] theorem wrapFld_spares (b : Block) (r : Reg) (lo wid n : Nat) : (wrapFld b r lo wid n).spares = b.spares := rfl
@[simp] theorem wrapFld_wheelNext (b : Block) (r : Reg) (lo wid n : Nat) : (wrapFld b r lo wid n).wheelNext = b.wheelNext := rfl
@[simp] theorem wrapFld_vecNext (b : Block) (r : Reg) (lo wid n : Nat) : (wrapFld b r lo wid n).vecNext = b.vecNext := rfl
@[simp] theorem wrapFld_rules (b : Block) (r : Reg) (lo wid n : Nat) : (wrapFld b r lo wid n).rules = b.rules := rfl
@[simp] theorem wrapFld_jobs (b : Block) (r : Reg) (lo wid n : Nat) : (wrapFld b r lo wid n).jobs = b.jobs := rfl
@[simp] theorem wrapFld_line (b : Block) (r : Reg) (lo wid n : Nat) : (wrapFld b r lo wid n).line = b.line := rfl
@[simp] theorem wrapFld_chain (b : Block) (r : Reg) (lo wid n : Nat) : (wrapFld b r lo wid n).chain = b.chain := rfl
@[simp] theorem wrapFld_fabTags (b : Block) (r : Reg) (lo wid n : Nat) : (wrapFld b r lo wid n).fabTags = b.fabTags := rfl
@[simp] theorem wrapFld_fabTx (b : Block) (r : Reg) (lo wid n : Nat) : (wrapFld b r lo wid n).fabTx = b.fabTx := rfl
@[simp] theorem wrapFld_fabLoop (b : Block) (r : Reg) (lo wid n : Nat) : (wrapFld b r lo wid n).fabLoop = b.fabLoop := rfl
@[simp] theorem wrapFld_posts (b : Block) (r : Reg) (lo wid n : Nat) : (wrapFld b r lo wid n).posts = b.posts := rfl
@[simp] theorem wrapFld_inbuf (b : Block) (r : Reg) (lo wid n : Nat) : (wrapFld b r lo wid n).inbuf = b.inbuf := rfl
@[simp] theorem wrapFld_chks (b : Block) (r : Reg) (lo wid n : Nat) : (wrapFld b r lo wid n).chks = b.chks := rfl
@[simp] theorem wrapFld_launch (b : Block) (r : Reg) (lo wid n : Nat) : (wrapFld b r lo wid n).launch = b.launch := rfl
@[simp] theorem wrapFld_launchRead (b : Block) (r : Reg) (lo wid n : Nat) : (wrapFld b r lo wid n).launchRead = b.launchRead := rfl
@[simp] theorem wrapFld_notices (b : Block) (r : Reg) (lo wid n : Nat) : (wrapFld b r lo wid n).notices = b.notices := rfl
@[simp] theorem wrapFld_noticeOut (b : Block) (r : Reg) (lo wid n : Nat) : (wrapFld b r lo wid n).noticeOut = b.noticeOut := rfl
@[simp] theorem wrapFld_recNext (b : Block) (r : Reg) (lo wid n : Nat) : (wrapFld b r lo wid n).recNext = b.recNext := rfl
@[simp] theorem wrapFld_engFault (b : Block) (r : Reg) (lo wid n : Nat) : (wrapFld b r lo wid n).engFault = b.engFault := rfl
@[simp] theorem wrapFld_rst (b : Block) (r : Reg) (lo wid n : Nat) : (wrapFld b r lo wid n).rst = b.rst := rfl
@[simp] theorem wrapFld_steward (b : Block) (r : Reg) (lo wid n : Nat) : (wrapFld b r lo wid n).steward = b.steward := rfl
@[simp] theorem wrapFld_power (b : Block) (r : Reg) (lo wid n : Nat) : (wrapFld b r lo wid n).power = b.power := rfl
@[simp] theorem wrapFld_cp (b : Block) (r : Reg) (lo wid n : Nat) : (wrapFld b r lo wid n).cp = b.cp := rfl
@[simp] theorem wrapFld_cpQ (b : Block) (r : Reg) (lo wid n : Nat) : (wrapFld b r lo wid n).cpQ = b.cpQ := rfl
@[simp] theorem wrapFld_coins (b : Block) (r : Reg) (lo wid n : Nat) : (wrapFld b r lo wid n).coins = b.coins := rfl
@[simp] theorem wrapFld_noticeNew (b : Block) (r : Reg) (lo wid n : Nat) : (wrapFld b r lo wid n).noticeNew = b.noticeNew := rfl
@[simp] theorem wrapFld_acts (b : Block) (r : Reg) (lo wid n : Nat) : (wrapFld b r lo wid n).acts = b.acts := rfl
@[simp] theorem wrapFld_jtag (b : Block) (r : Reg) (lo wid n : Nat) : (wrapFld b r lo wid n).jtag = b.jtag := rfl
@[simp] theorem wrapFld_rlocks (b : Block) (r : Reg) (lo wid n : Nat) : (wrapFld b r lo wid n).rlocks = b.rlocks := rfl
@[simp] theorem wrapFld_freeTick (b : Block) (r : Reg) (lo wid n : Nat) : (wrapFld b r lo wid n).freeTick = b.freeTick := rfl

/-! ### lockReg -/

@[simp] theorem lockReg_beat (b : Block) (r : Reg) : (lockReg b r).beat = b.beat := rfl
@[simp] theorem lockReg_pins (b : Block) (r : Reg) : (lockReg b r).pins = b.pins := rfl
@[simp] theorem lockReg_regs (b : Block) (r : Reg) : (lockReg b r).regs = b.regs := rfl
@[simp] theorem lockReg_ctxs (b : Block) (r : Reg) : (lockReg b r).ctxs = b.ctxs := rfl
@[simp] theorem lockReg_pegs (b : Block) (r : Reg) : (lockReg b r).pegs = b.pegs := rfl
@[simp] theorem lockReg_rot (b : Block) (r : Reg) : (lockReg b r).rot = b.rot := rfl
@[simp] theorem lockReg_lastDispatch (b : Block) (r : Reg) : (lockReg b r).lastDispatch = b.lastDispatch := rfl
@[simp] theorem lockReg_fetched (b : Block) (r : Reg) : (lockReg b r).fetched = b.fetched := rfl
@[simp] theorem lockReg_entries (b : Block) (r : Reg) : (lockReg b r).entries = b.entries := rfl
@[simp] theorem lockReg_sram (b : Block) (r : Reg) : (lockReg b r).sram = b.sram := rfl
@[simp] theorem lockReg_boot (b : Block) (r : Reg) : (lockReg b r).boot = b.boot := rfl
@[simp] theorem lockReg_ecc1 (b : Block) (r : Reg) : (lockReg b r).ecc1 = b.ecc1 := rfl
@[simp] theorem lockReg_ecc2 (b : Block) (r : Reg) : (lockReg b r).ecc2 = b.ecc2 := rfl
@[simp] theorem lockReg_streams (b : Block) (r : Reg) : (lockReg b r).streams = b.streams := rfl
@[simp] theorem lockReg_mp (b : Block) (r : Reg) : (lockReg b r).mp = b.mp := rfl
@[simp] theorem lockReg_tlb (b : Block) (r : Reg) : (lockReg b r).tlb = b.tlb := rfl
@[simp] theorem lockReg_walks (b : Block) (r : Reg) : (lockReg b r).walks = b.walks := rfl
@[simp] theorem lockReg_invalBusy (b : Block) (r : Reg) : (lockReg b r).invalBusy = b.invalBusy := rfl
@[simp] theorem lockReg_invalUntil (b : Block) (r : Reg) : (lockReg b r).invalUntil = b.invalUntil := rfl
@[simp] theorem lockReg_hotKeys (b : Block) (r : Reg) : (lockReg b r).hotKeys = b.hotKeys := rfl
@[simp] theorem lockReg_arrays (b : Block) (r : Reg) : (lockReg b r).arrays = b.arrays := rfl
@[simp] theorem lockReg_groups (b : Block) (r : Reg) : (lockReg b r).groups = b.groups := rfl
@[simp] theorem lockReg_kiln (b : Block) (r : Reg) : (lockReg b r).kiln = b.kiln := rfl
@[simp] theorem lockReg_xfers (b : Block) (r : Reg) : (lockReg b r).xfers = b.xfers := rfl
@[simp] theorem lockReg_grants (b : Block) (r : Reg) : (lockReg b r).grants = b.grants := rfl
@[simp] theorem lockReg_spillUse (b : Block) (r : Reg) : (lockReg b r).spillUse = b.spillUse := rfl
@[simp] theorem lockReg_preParked (b : Block) (r : Reg) : (lockReg b r).preParked = b.preParked := rfl
@[simp] theorem lockReg_spares (b : Block) (r : Reg) : (lockReg b r).spares = b.spares := rfl
@[simp] theorem lockReg_wheelNext (b : Block) (r : Reg) : (lockReg b r).wheelNext = b.wheelNext := rfl
@[simp] theorem lockReg_vecNext (b : Block) (r : Reg) : (lockReg b r).vecNext = b.vecNext := rfl
@[simp] theorem lockReg_rules (b : Block) (r : Reg) : (lockReg b r).rules = b.rules := rfl
@[simp] theorem lockReg_jobs (b : Block) (r : Reg) : (lockReg b r).jobs = b.jobs := rfl
@[simp] theorem lockReg_line (b : Block) (r : Reg) : (lockReg b r).line = b.line := rfl
@[simp] theorem lockReg_chain (b : Block) (r : Reg) : (lockReg b r).chain = b.chain := rfl
@[simp] theorem lockReg_fabTags (b : Block) (r : Reg) : (lockReg b r).fabTags = b.fabTags := rfl
@[simp] theorem lockReg_fabTx (b : Block) (r : Reg) : (lockReg b r).fabTx = b.fabTx := rfl
@[simp] theorem lockReg_fabLoop (b : Block) (r : Reg) : (lockReg b r).fabLoop = b.fabLoop := rfl
@[simp] theorem lockReg_posts (b : Block) (r : Reg) : (lockReg b r).posts = b.posts := rfl
@[simp] theorem lockReg_inbuf (b : Block) (r : Reg) : (lockReg b r).inbuf = b.inbuf := rfl
@[simp] theorem lockReg_chks (b : Block) (r : Reg) : (lockReg b r).chks = b.chks := rfl
@[simp] theorem lockReg_launch (b : Block) (r : Reg) : (lockReg b r).launch = b.launch := rfl
@[simp] theorem lockReg_launchRead (b : Block) (r : Reg) : (lockReg b r).launchRead = b.launchRead := rfl
@[simp] theorem lockReg_notices (b : Block) (r : Reg) : (lockReg b r).notices = b.notices := rfl
@[simp] theorem lockReg_noticeOut (b : Block) (r : Reg) : (lockReg b r).noticeOut = b.noticeOut := rfl
@[simp] theorem lockReg_recNext (b : Block) (r : Reg) : (lockReg b r).recNext = b.recNext := rfl
@[simp] theorem lockReg_engFault (b : Block) (r : Reg) : (lockReg b r).engFault = b.engFault := rfl
@[simp] theorem lockReg_rst (b : Block) (r : Reg) : (lockReg b r).rst = b.rst := rfl
@[simp] theorem lockReg_steward (b : Block) (r : Reg) : (lockReg b r).steward = b.steward := rfl
@[simp] theorem lockReg_power (b : Block) (r : Reg) : (lockReg b r).power = b.power := rfl
@[simp] theorem lockReg_cp (b : Block) (r : Reg) : (lockReg b r).cp = b.cp := rfl
@[simp] theorem lockReg_cpQ (b : Block) (r : Reg) : (lockReg b r).cpQ = b.cpQ := rfl
@[simp] theorem lockReg_coins (b : Block) (r : Reg) : (lockReg b r).coins = b.coins := rfl
@[simp] theorem lockReg_noticeNew (b : Block) (r : Reg) : (lockReg b r).noticeNew = b.noticeNew := rfl
@[simp] theorem lockReg_acts (b : Block) (r : Reg) : (lockReg b r).acts = b.acts := rfl
@[simp] theorem lockReg_jtag (b : Block) (r : Reg) : (lockReg b r).jtag = b.jtag := rfl
@[simp] theorem lockReg_freeTick (b : Block) (r : Reg) : (lockReg b r).freeTick = b.freeTick := rfl

/-! ### modCtx -/

@[simp] theorem modCtx_beat (b : Block) (c : Ctx) (f : CtxSt → CtxSt) : (modCtx b c f).beat = b.beat := rfl
@[simp] theorem modCtx_pins (b : Block) (c : Ctx) (f : CtxSt → CtxSt) : (modCtx b c f).pins = b.pins := rfl
@[simp] theorem modCtx_regs (b : Block) (c : Ctx) (f : CtxSt → CtxSt) : (modCtx b c f).regs = b.regs := rfl
@[simp] theorem modCtx_pegs (b : Block) (c : Ctx) (f : CtxSt → CtxSt) : (modCtx b c f).pegs = b.pegs := rfl
@[simp] theorem modCtx_rot (b : Block) (c : Ctx) (f : CtxSt → CtxSt) : (modCtx b c f).rot = b.rot := rfl
@[simp] theorem modCtx_lastDispatch (b : Block) (c : Ctx) (f : CtxSt → CtxSt) : (modCtx b c f).lastDispatch = b.lastDispatch := rfl
@[simp] theorem modCtx_fetched (b : Block) (c : Ctx) (f : CtxSt → CtxSt) : (modCtx b c f).fetched = b.fetched := rfl
@[simp] theorem modCtx_entries (b : Block) (c : Ctx) (f : CtxSt → CtxSt) : (modCtx b c f).entries = b.entries := rfl
@[simp] theorem modCtx_sram (b : Block) (c : Ctx) (f : CtxSt → CtxSt) : (modCtx b c f).sram = b.sram := rfl
@[simp] theorem modCtx_boot (b : Block) (c : Ctx) (f : CtxSt → CtxSt) : (modCtx b c f).boot = b.boot := rfl
@[simp] theorem modCtx_ecc1 (b : Block) (c : Ctx) (f : CtxSt → CtxSt) : (modCtx b c f).ecc1 = b.ecc1 := rfl
@[simp] theorem modCtx_ecc2 (b : Block) (c : Ctx) (f : CtxSt → CtxSt) : (modCtx b c f).ecc2 = b.ecc2 := rfl
@[simp] theorem modCtx_streams (b : Block) (c : Ctx) (f : CtxSt → CtxSt) : (modCtx b c f).streams = b.streams := rfl
@[simp] theorem modCtx_mp (b : Block) (c : Ctx) (f : CtxSt → CtxSt) : (modCtx b c f).mp = b.mp := rfl
@[simp] theorem modCtx_tlb (b : Block) (c : Ctx) (f : CtxSt → CtxSt) : (modCtx b c f).tlb = b.tlb := rfl
@[simp] theorem modCtx_walks (b : Block) (c : Ctx) (f : CtxSt → CtxSt) : (modCtx b c f).walks = b.walks := rfl
@[simp] theorem modCtx_invalBusy (b : Block) (c : Ctx) (f : CtxSt → CtxSt) : (modCtx b c f).invalBusy = b.invalBusy := rfl
@[simp] theorem modCtx_invalUntil (b : Block) (c : Ctx) (f : CtxSt → CtxSt) : (modCtx b c f).invalUntil = b.invalUntil := rfl
@[simp] theorem modCtx_hotKeys (b : Block) (c : Ctx) (f : CtxSt → CtxSt) : (modCtx b c f).hotKeys = b.hotKeys := rfl
@[simp] theorem modCtx_arrays (b : Block) (c : Ctx) (f : CtxSt → CtxSt) : (modCtx b c f).arrays = b.arrays := rfl
@[simp] theorem modCtx_groups (b : Block) (c : Ctx) (f : CtxSt → CtxSt) : (modCtx b c f).groups = b.groups := rfl
@[simp] theorem modCtx_kiln (b : Block) (c : Ctx) (f : CtxSt → CtxSt) : (modCtx b c f).kiln = b.kiln := rfl
@[simp] theorem modCtx_xfers (b : Block) (c : Ctx) (f : CtxSt → CtxSt) : (modCtx b c f).xfers = b.xfers := rfl
@[simp] theorem modCtx_grants (b : Block) (c : Ctx) (f : CtxSt → CtxSt) : (modCtx b c f).grants = b.grants := rfl
@[simp] theorem modCtx_spillUse (b : Block) (c : Ctx) (f : CtxSt → CtxSt) : (modCtx b c f).spillUse = b.spillUse := rfl
@[simp] theorem modCtx_preParked (b : Block) (c : Ctx) (f : CtxSt → CtxSt) : (modCtx b c f).preParked = b.preParked := rfl
@[simp] theorem modCtx_spares (b : Block) (c : Ctx) (f : CtxSt → CtxSt) : (modCtx b c f).spares = b.spares := rfl
@[simp] theorem modCtx_wheelNext (b : Block) (c : Ctx) (f : CtxSt → CtxSt) : (modCtx b c f).wheelNext = b.wheelNext := rfl
@[simp] theorem modCtx_vecNext (b : Block) (c : Ctx) (f : CtxSt → CtxSt) : (modCtx b c f).vecNext = b.vecNext := rfl
@[simp] theorem modCtx_rules (b : Block) (c : Ctx) (f : CtxSt → CtxSt) : (modCtx b c f).rules = b.rules := rfl
@[simp] theorem modCtx_jobs (b : Block) (c : Ctx) (f : CtxSt → CtxSt) : (modCtx b c f).jobs = b.jobs := rfl
@[simp] theorem modCtx_line (b : Block) (c : Ctx) (f : CtxSt → CtxSt) : (modCtx b c f).line = b.line := rfl
@[simp] theorem modCtx_chain (b : Block) (c : Ctx) (f : CtxSt → CtxSt) : (modCtx b c f).chain = b.chain := rfl
@[simp] theorem modCtx_fabTags (b : Block) (c : Ctx) (f : CtxSt → CtxSt) : (modCtx b c f).fabTags = b.fabTags := rfl
@[simp] theorem modCtx_fabTx (b : Block) (c : Ctx) (f : CtxSt → CtxSt) : (modCtx b c f).fabTx = b.fabTx := rfl
@[simp] theorem modCtx_fabLoop (b : Block) (c : Ctx) (f : CtxSt → CtxSt) : (modCtx b c f).fabLoop = b.fabLoop := rfl
@[simp] theorem modCtx_posts (b : Block) (c : Ctx) (f : CtxSt → CtxSt) : (modCtx b c f).posts = b.posts := rfl
@[simp] theorem modCtx_inbuf (b : Block) (c : Ctx) (f : CtxSt → CtxSt) : (modCtx b c f).inbuf = b.inbuf := rfl
@[simp] theorem modCtx_chks (b : Block) (c : Ctx) (f : CtxSt → CtxSt) : (modCtx b c f).chks = b.chks := rfl
@[simp] theorem modCtx_launch (b : Block) (c : Ctx) (f : CtxSt → CtxSt) : (modCtx b c f).launch = b.launch := rfl
@[simp] theorem modCtx_launchRead (b : Block) (c : Ctx) (f : CtxSt → CtxSt) : (modCtx b c f).launchRead = b.launchRead := rfl
@[simp] theorem modCtx_notices (b : Block) (c : Ctx) (f : CtxSt → CtxSt) : (modCtx b c f).notices = b.notices := rfl
@[simp] theorem modCtx_noticeOut (b : Block) (c : Ctx) (f : CtxSt → CtxSt) : (modCtx b c f).noticeOut = b.noticeOut := rfl
@[simp] theorem modCtx_recNext (b : Block) (c : Ctx) (f : CtxSt → CtxSt) : (modCtx b c f).recNext = b.recNext := rfl
@[simp] theorem modCtx_engFault (b : Block) (c : Ctx) (f : CtxSt → CtxSt) : (modCtx b c f).engFault = b.engFault := rfl
@[simp] theorem modCtx_rst (b : Block) (c : Ctx) (f : CtxSt → CtxSt) : (modCtx b c f).rst = b.rst := rfl
@[simp] theorem modCtx_steward (b : Block) (c : Ctx) (f : CtxSt → CtxSt) : (modCtx b c f).steward = b.steward := rfl
@[simp] theorem modCtx_power (b : Block) (c : Ctx) (f : CtxSt → CtxSt) : (modCtx b c f).power = b.power := rfl
@[simp] theorem modCtx_cp (b : Block) (c : Ctx) (f : CtxSt → CtxSt) : (modCtx b c f).cp = b.cp := rfl
@[simp] theorem modCtx_cpQ (b : Block) (c : Ctx) (f : CtxSt → CtxSt) : (modCtx b c f).cpQ = b.cpQ := rfl
@[simp] theorem modCtx_coins (b : Block) (c : Ctx) (f : CtxSt → CtxSt) : (modCtx b c f).coins = b.coins := rfl
@[simp] theorem modCtx_noticeNew (b : Block) (c : Ctx) (f : CtxSt → CtxSt) : (modCtx b c f).noticeNew = b.noticeNew := rfl
@[simp] theorem modCtx_acts (b : Block) (c : Ctx) (f : CtxSt → CtxSt) : (modCtx b c f).acts = b.acts := rfl
@[simp] theorem modCtx_jtag (b : Block) (c : Ctx) (f : CtxSt → CtxSt) : (modCtx b c f).jtag = b.jtag := rfl
@[simp] theorem modCtx_rlocks (b : Block) (c : Ctx) (f : CtxSt → CtxSt) : (modCtx b c f).rlocks = b.rlocks := rfl
@[simp] theorem modCtx_freeTick (b : Block) (c : Ctx) (f : CtxSt → CtxSt) : (modCtx b c f).freeTick = b.freeTick := rfl

/-! ### modStrand -/

@[simp] theorem modStrand_beat (b : Block) (c : Ctx) (s : Strand) (f : StrandSt → StrandSt) : (modStrand b c s f).beat = b.beat := rfl
@[simp] theorem modStrand_pins (b : Block) (c : Ctx) (s : Strand) (f : StrandSt → StrandSt) : (modStrand b c s f).pins = b.pins := rfl
@[simp] theorem modStrand_regs (b : Block) (c : Ctx) (s : Strand) (f : StrandSt → StrandSt) : (modStrand b c s f).regs = b.regs := rfl
@[simp] theorem modStrand_pegs (b : Block) (c : Ctx) (s : Strand) (f : StrandSt → StrandSt) : (modStrand b c s f).pegs = b.pegs := rfl
@[simp] theorem modStrand_rot (b : Block) (c : Ctx) (s : Strand) (f : StrandSt → StrandSt) : (modStrand b c s f).rot = b.rot := rfl
@[simp] theorem modStrand_lastDispatch (b : Block) (c : Ctx) (s : Strand) (f : StrandSt → StrandSt) : (modStrand b c s f).lastDispatch = b.lastDispatch := rfl
@[simp] theorem modStrand_fetched (b : Block) (c : Ctx) (s : Strand) (f : StrandSt → StrandSt) : (modStrand b c s f).fetched = b.fetched := rfl
@[simp] theorem modStrand_entries (b : Block) (c : Ctx) (s : Strand) (f : StrandSt → StrandSt) : (modStrand b c s f).entries = b.entries := rfl
@[simp] theorem modStrand_sram (b : Block) (c : Ctx) (s : Strand) (f : StrandSt → StrandSt) : (modStrand b c s f).sram = b.sram := rfl
@[simp] theorem modStrand_boot (b : Block) (c : Ctx) (s : Strand) (f : StrandSt → StrandSt) : (modStrand b c s f).boot = b.boot := rfl
@[simp] theorem modStrand_ecc1 (b : Block) (c : Ctx) (s : Strand) (f : StrandSt → StrandSt) : (modStrand b c s f).ecc1 = b.ecc1 := rfl
@[simp] theorem modStrand_ecc2 (b : Block) (c : Ctx) (s : Strand) (f : StrandSt → StrandSt) : (modStrand b c s f).ecc2 = b.ecc2 := rfl
@[simp] theorem modStrand_streams (b : Block) (c : Ctx) (s : Strand) (f : StrandSt → StrandSt) : (modStrand b c s f).streams = b.streams := rfl
@[simp] theorem modStrand_mp (b : Block) (c : Ctx) (s : Strand) (f : StrandSt → StrandSt) : (modStrand b c s f).mp = b.mp := rfl
@[simp] theorem modStrand_tlb (b : Block) (c : Ctx) (s : Strand) (f : StrandSt → StrandSt) : (modStrand b c s f).tlb = b.tlb := rfl
@[simp] theorem modStrand_walks (b : Block) (c : Ctx) (s : Strand) (f : StrandSt → StrandSt) : (modStrand b c s f).walks = b.walks := rfl
@[simp] theorem modStrand_invalBusy (b : Block) (c : Ctx) (s : Strand) (f : StrandSt → StrandSt) : (modStrand b c s f).invalBusy = b.invalBusy := rfl
@[simp] theorem modStrand_invalUntil (b : Block) (c : Ctx) (s : Strand) (f : StrandSt → StrandSt) : (modStrand b c s f).invalUntil = b.invalUntil := rfl
@[simp] theorem modStrand_hotKeys (b : Block) (c : Ctx) (s : Strand) (f : StrandSt → StrandSt) : (modStrand b c s f).hotKeys = b.hotKeys := rfl
@[simp] theorem modStrand_arrays (b : Block) (c : Ctx) (s : Strand) (f : StrandSt → StrandSt) : (modStrand b c s f).arrays = b.arrays := rfl
@[simp] theorem modStrand_groups (b : Block) (c : Ctx) (s : Strand) (f : StrandSt → StrandSt) : (modStrand b c s f).groups = b.groups := rfl
@[simp] theorem modStrand_kiln (b : Block) (c : Ctx) (s : Strand) (f : StrandSt → StrandSt) : (modStrand b c s f).kiln = b.kiln := rfl
@[simp] theorem modStrand_xfers (b : Block) (c : Ctx) (s : Strand) (f : StrandSt → StrandSt) : (modStrand b c s f).xfers = b.xfers := rfl
@[simp] theorem modStrand_grants (b : Block) (c : Ctx) (s : Strand) (f : StrandSt → StrandSt) : (modStrand b c s f).grants = b.grants := rfl
@[simp] theorem modStrand_spillUse (b : Block) (c : Ctx) (s : Strand) (f : StrandSt → StrandSt) : (modStrand b c s f).spillUse = b.spillUse := rfl
@[simp] theorem modStrand_preParked (b : Block) (c : Ctx) (s : Strand) (f : StrandSt → StrandSt) : (modStrand b c s f).preParked = b.preParked := rfl
@[simp] theorem modStrand_spares (b : Block) (c : Ctx) (s : Strand) (f : StrandSt → StrandSt) : (modStrand b c s f).spares = b.spares := rfl
@[simp] theorem modStrand_wheelNext (b : Block) (c : Ctx) (s : Strand) (f : StrandSt → StrandSt) : (modStrand b c s f).wheelNext = b.wheelNext := rfl
@[simp] theorem modStrand_vecNext (b : Block) (c : Ctx) (s : Strand) (f : StrandSt → StrandSt) : (modStrand b c s f).vecNext = b.vecNext := rfl
@[simp] theorem modStrand_rules (b : Block) (c : Ctx) (s : Strand) (f : StrandSt → StrandSt) : (modStrand b c s f).rules = b.rules := rfl
@[simp] theorem modStrand_jobs (b : Block) (c : Ctx) (s : Strand) (f : StrandSt → StrandSt) : (modStrand b c s f).jobs = b.jobs := rfl
@[simp] theorem modStrand_line (b : Block) (c : Ctx) (s : Strand) (f : StrandSt → StrandSt) : (modStrand b c s f).line = b.line := rfl
@[simp] theorem modStrand_chain (b : Block) (c : Ctx) (s : Strand) (f : StrandSt → StrandSt) : (modStrand b c s f).chain = b.chain := rfl
@[simp] theorem modStrand_fabTags (b : Block) (c : Ctx) (s : Strand) (f : StrandSt → StrandSt) : (modStrand b c s f).fabTags = b.fabTags := rfl
@[simp] theorem modStrand_fabTx (b : Block) (c : Ctx) (s : Strand) (f : StrandSt → StrandSt) : (modStrand b c s f).fabTx = b.fabTx := rfl
@[simp] theorem modStrand_fabLoop (b : Block) (c : Ctx) (s : Strand) (f : StrandSt → StrandSt) : (modStrand b c s f).fabLoop = b.fabLoop := rfl
@[simp] theorem modStrand_posts (b : Block) (c : Ctx) (s : Strand) (f : StrandSt → StrandSt) : (modStrand b c s f).posts = b.posts := rfl
@[simp] theorem modStrand_inbuf (b : Block) (c : Ctx) (s : Strand) (f : StrandSt → StrandSt) : (modStrand b c s f).inbuf = b.inbuf := rfl
@[simp] theorem modStrand_chks (b : Block) (c : Ctx) (s : Strand) (f : StrandSt → StrandSt) : (modStrand b c s f).chks = b.chks := rfl
@[simp] theorem modStrand_launch (b : Block) (c : Ctx) (s : Strand) (f : StrandSt → StrandSt) : (modStrand b c s f).launch = b.launch := rfl
@[simp] theorem modStrand_launchRead (b : Block) (c : Ctx) (s : Strand) (f : StrandSt → StrandSt) : (modStrand b c s f).launchRead = b.launchRead := rfl
@[simp] theorem modStrand_notices (b : Block) (c : Ctx) (s : Strand) (f : StrandSt → StrandSt) : (modStrand b c s f).notices = b.notices := rfl
@[simp] theorem modStrand_noticeOut (b : Block) (c : Ctx) (s : Strand) (f : StrandSt → StrandSt) : (modStrand b c s f).noticeOut = b.noticeOut := rfl
@[simp] theorem modStrand_recNext (b : Block) (c : Ctx) (s : Strand) (f : StrandSt → StrandSt) : (modStrand b c s f).recNext = b.recNext := rfl
@[simp] theorem modStrand_engFault (b : Block) (c : Ctx) (s : Strand) (f : StrandSt → StrandSt) : (modStrand b c s f).engFault = b.engFault := rfl
@[simp] theorem modStrand_rst (b : Block) (c : Ctx) (s : Strand) (f : StrandSt → StrandSt) : (modStrand b c s f).rst = b.rst := rfl
@[simp] theorem modStrand_steward (b : Block) (c : Ctx) (s : Strand) (f : StrandSt → StrandSt) : (modStrand b c s f).steward = b.steward := rfl
@[simp] theorem modStrand_power (b : Block) (c : Ctx) (s : Strand) (f : StrandSt → StrandSt) : (modStrand b c s f).power = b.power := rfl
@[simp] theorem modStrand_cp (b : Block) (c : Ctx) (s : Strand) (f : StrandSt → StrandSt) : (modStrand b c s f).cp = b.cp := rfl
@[simp] theorem modStrand_cpQ (b : Block) (c : Ctx) (s : Strand) (f : StrandSt → StrandSt) : (modStrand b c s f).cpQ = b.cpQ := rfl
@[simp] theorem modStrand_coins (b : Block) (c : Ctx) (s : Strand) (f : StrandSt → StrandSt) : (modStrand b c s f).coins = b.coins := rfl
@[simp] theorem modStrand_noticeNew (b : Block) (c : Ctx) (s : Strand) (f : StrandSt → StrandSt) : (modStrand b c s f).noticeNew = b.noticeNew := rfl
@[simp] theorem modStrand_acts (b : Block) (c : Ctx) (s : Strand) (f : StrandSt → StrandSt) : (modStrand b c s f).acts = b.acts := rfl
@[simp] theorem modStrand_jtag (b : Block) (c : Ctx) (s : Strand) (f : StrandSt → StrandSt) : (modStrand b c s f).jtag = b.jtag := rfl
@[simp] theorem modStrand_rlocks (b : Block) (c : Ctx) (s : Strand) (f : StrandSt → StrandSt) : (modStrand b c s f).rlocks = b.rlocks := rfl
@[simp] theorem modStrand_freeTick (b : Block) (c : Ctx) (s : Strand) (f : StrandSt → StrandSt) : (modStrand b c s f).freeTick = b.freeTick := rfl

/-! ### setPos -/

@[simp] theorem setPos_beat (b : Block) (c : Ctx) (s : Strand) (p : Nat) : (setPos b c s p).beat = b.beat := rfl
@[simp] theorem setPos_pins (b : Block) (c : Ctx) (s : Strand) (p : Nat) : (setPos b c s p).pins = b.pins := rfl
@[simp] theorem setPos_regs (b : Block) (c : Ctx) (s : Strand) (p : Nat) : (setPos b c s p).regs = b.regs := rfl
@[simp] theorem setPos_pegs (b : Block) (c : Ctx) (s : Strand) (p : Nat) : (setPos b c s p).pegs = b.pegs := rfl
@[simp] theorem setPos_rot (b : Block) (c : Ctx) (s : Strand) (p : Nat) : (setPos b c s p).rot = b.rot := rfl
@[simp] theorem setPos_lastDispatch (b : Block) (c : Ctx) (s : Strand) (p : Nat) : (setPos b c s p).lastDispatch = b.lastDispatch := rfl
@[simp] theorem setPos_fetched (b : Block) (c : Ctx) (s : Strand) (p : Nat) : (setPos b c s p).fetched = b.fetched := rfl
@[simp] theorem setPos_entries (b : Block) (c : Ctx) (s : Strand) (p : Nat) : (setPos b c s p).entries = b.entries := rfl
@[simp] theorem setPos_sram (b : Block) (c : Ctx) (s : Strand) (p : Nat) : (setPos b c s p).sram = b.sram := rfl
@[simp] theorem setPos_boot (b : Block) (c : Ctx) (s : Strand) (p : Nat) : (setPos b c s p).boot = b.boot := rfl
@[simp] theorem setPos_ecc1 (b : Block) (c : Ctx) (s : Strand) (p : Nat) : (setPos b c s p).ecc1 = b.ecc1 := rfl
@[simp] theorem setPos_ecc2 (b : Block) (c : Ctx) (s : Strand) (p : Nat) : (setPos b c s p).ecc2 = b.ecc2 := rfl
@[simp] theorem setPos_streams (b : Block) (c : Ctx) (s : Strand) (p : Nat) : (setPos b c s p).streams = b.streams := rfl
@[simp] theorem setPos_mp (b : Block) (c : Ctx) (s : Strand) (p : Nat) : (setPos b c s p).mp = b.mp := rfl
@[simp] theorem setPos_tlb (b : Block) (c : Ctx) (s : Strand) (p : Nat) : (setPos b c s p).tlb = b.tlb := rfl
@[simp] theorem setPos_walks (b : Block) (c : Ctx) (s : Strand) (p : Nat) : (setPos b c s p).walks = b.walks := rfl
@[simp] theorem setPos_invalBusy (b : Block) (c : Ctx) (s : Strand) (p : Nat) : (setPos b c s p).invalBusy = b.invalBusy := rfl
@[simp] theorem setPos_invalUntil (b : Block) (c : Ctx) (s : Strand) (p : Nat) : (setPos b c s p).invalUntil = b.invalUntil := rfl
@[simp] theorem setPos_hotKeys (b : Block) (c : Ctx) (s : Strand) (p : Nat) : (setPos b c s p).hotKeys = b.hotKeys := rfl
@[simp] theorem setPos_arrays (b : Block) (c : Ctx) (s : Strand) (p : Nat) : (setPos b c s p).arrays = b.arrays := rfl
@[simp] theorem setPos_groups (b : Block) (c : Ctx) (s : Strand) (p : Nat) : (setPos b c s p).groups = b.groups := rfl
@[simp] theorem setPos_kiln (b : Block) (c : Ctx) (s : Strand) (p : Nat) : (setPos b c s p).kiln = b.kiln := rfl
@[simp] theorem setPos_xfers (b : Block) (c : Ctx) (s : Strand) (p : Nat) : (setPos b c s p).xfers = b.xfers := rfl
@[simp] theorem setPos_grants (b : Block) (c : Ctx) (s : Strand) (p : Nat) : (setPos b c s p).grants = b.grants := rfl
@[simp] theorem setPos_spillUse (b : Block) (c : Ctx) (s : Strand) (p : Nat) : (setPos b c s p).spillUse = b.spillUse := rfl
@[simp] theorem setPos_preParked (b : Block) (c : Ctx) (s : Strand) (p : Nat) : (setPos b c s p).preParked = b.preParked := rfl
@[simp] theorem setPos_spares (b : Block) (c : Ctx) (s : Strand) (p : Nat) : (setPos b c s p).spares = b.spares := rfl
@[simp] theorem setPos_wheelNext (b : Block) (c : Ctx) (s : Strand) (p : Nat) : (setPos b c s p).wheelNext = b.wheelNext := rfl
@[simp] theorem setPos_vecNext (b : Block) (c : Ctx) (s : Strand) (p : Nat) : (setPos b c s p).vecNext = b.vecNext := rfl
@[simp] theorem setPos_rules (b : Block) (c : Ctx) (s : Strand) (p : Nat) : (setPos b c s p).rules = b.rules := rfl
@[simp] theorem setPos_jobs (b : Block) (c : Ctx) (s : Strand) (p : Nat) : (setPos b c s p).jobs = b.jobs := rfl
@[simp] theorem setPos_line (b : Block) (c : Ctx) (s : Strand) (p : Nat) : (setPos b c s p).line = b.line := rfl
@[simp] theorem setPos_chain (b : Block) (c : Ctx) (s : Strand) (p : Nat) : (setPos b c s p).chain = b.chain := rfl
@[simp] theorem setPos_fabTags (b : Block) (c : Ctx) (s : Strand) (p : Nat) : (setPos b c s p).fabTags = b.fabTags := rfl
@[simp] theorem setPos_fabTx (b : Block) (c : Ctx) (s : Strand) (p : Nat) : (setPos b c s p).fabTx = b.fabTx := rfl
@[simp] theorem setPos_fabLoop (b : Block) (c : Ctx) (s : Strand) (p : Nat) : (setPos b c s p).fabLoop = b.fabLoop := rfl
@[simp] theorem setPos_posts (b : Block) (c : Ctx) (s : Strand) (p : Nat) : (setPos b c s p).posts = b.posts := rfl
@[simp] theorem setPos_inbuf (b : Block) (c : Ctx) (s : Strand) (p : Nat) : (setPos b c s p).inbuf = b.inbuf := rfl
@[simp] theorem setPos_chks (b : Block) (c : Ctx) (s : Strand) (p : Nat) : (setPos b c s p).chks = b.chks := rfl
@[simp] theorem setPos_launch (b : Block) (c : Ctx) (s : Strand) (p : Nat) : (setPos b c s p).launch = b.launch := rfl
@[simp] theorem setPos_launchRead (b : Block) (c : Ctx) (s : Strand) (p : Nat) : (setPos b c s p).launchRead = b.launchRead := rfl
@[simp] theorem setPos_notices (b : Block) (c : Ctx) (s : Strand) (p : Nat) : (setPos b c s p).notices = b.notices := rfl
@[simp] theorem setPos_noticeOut (b : Block) (c : Ctx) (s : Strand) (p : Nat) : (setPos b c s p).noticeOut = b.noticeOut := rfl
@[simp] theorem setPos_recNext (b : Block) (c : Ctx) (s : Strand) (p : Nat) : (setPos b c s p).recNext = b.recNext := rfl
@[simp] theorem setPos_engFault (b : Block) (c : Ctx) (s : Strand) (p : Nat) : (setPos b c s p).engFault = b.engFault := rfl
@[simp] theorem setPos_rst (b : Block) (c : Ctx) (s : Strand) (p : Nat) : (setPos b c s p).rst = b.rst := rfl
@[simp] theorem setPos_steward (b : Block) (c : Ctx) (s : Strand) (p : Nat) : (setPos b c s p).steward = b.steward := rfl
@[simp] theorem setPos_power (b : Block) (c : Ctx) (s : Strand) (p : Nat) : (setPos b c s p).power = b.power := rfl
@[simp] theorem setPos_cp (b : Block) (c : Ctx) (s : Strand) (p : Nat) : (setPos b c s p).cp = b.cp := rfl
@[simp] theorem setPos_cpQ (b : Block) (c : Ctx) (s : Strand) (p : Nat) : (setPos b c s p).cpQ = b.cpQ := rfl
@[simp] theorem setPos_coins (b : Block) (c : Ctx) (s : Strand) (p : Nat) : (setPos b c s p).coins = b.coins := rfl
@[simp] theorem setPos_noticeNew (b : Block) (c : Ctx) (s : Strand) (p : Nat) : (setPos b c s p).noticeNew = b.noticeNew := rfl
@[simp] theorem setPos_acts (b : Block) (c : Ctx) (s : Strand) (p : Nat) : (setPos b c s p).acts = b.acts := rfl
@[simp] theorem setPos_jtag (b : Block) (c : Ctx) (s : Strand) (p : Nat) : (setPos b c s p).jtag = b.jtag := rfl
@[simp] theorem setPos_rlocks (b : Block) (c : Ctx) (s : Strand) (p : Nat) : (setPos b c s p).rlocks = b.rlocks := rfl
@[simp] theorem setPos_freeTick (b : Block) (c : Ctx) (s : Strand) (p : Nat) : (setPos b c s p).freeTick = b.freeTick := rfl

/-! ### setSlot -/

@[simp] theorem setSlot_beat (b : Block) (c : Ctx) (s : Strand) (q : Fin 32) (v : W64) : (setSlot b c s q v).beat = b.beat := rfl
@[simp] theorem setSlot_pins (b : Block) (c : Ctx) (s : Strand) (q : Fin 32) (v : W64) : (setSlot b c s q v).pins = b.pins := rfl
@[simp] theorem setSlot_regs (b : Block) (c : Ctx) (s : Strand) (q : Fin 32) (v : W64) : (setSlot b c s q v).regs = b.regs := rfl
@[simp] theorem setSlot_pegs (b : Block) (c : Ctx) (s : Strand) (q : Fin 32) (v : W64) : (setSlot b c s q v).pegs = b.pegs := rfl
@[simp] theorem setSlot_rot (b : Block) (c : Ctx) (s : Strand) (q : Fin 32) (v : W64) : (setSlot b c s q v).rot = b.rot := rfl
@[simp] theorem setSlot_lastDispatch (b : Block) (c : Ctx) (s : Strand) (q : Fin 32) (v : W64) : (setSlot b c s q v).lastDispatch = b.lastDispatch := rfl
@[simp] theorem setSlot_fetched (b : Block) (c : Ctx) (s : Strand) (q : Fin 32) (v : W64) : (setSlot b c s q v).fetched = b.fetched := rfl
@[simp] theorem setSlot_entries (b : Block) (c : Ctx) (s : Strand) (q : Fin 32) (v : W64) : (setSlot b c s q v).entries = b.entries := rfl
@[simp] theorem setSlot_sram (b : Block) (c : Ctx) (s : Strand) (q : Fin 32) (v : W64) : (setSlot b c s q v).sram = b.sram := rfl
@[simp] theorem setSlot_boot (b : Block) (c : Ctx) (s : Strand) (q : Fin 32) (v : W64) : (setSlot b c s q v).boot = b.boot := rfl
@[simp] theorem setSlot_ecc1 (b : Block) (c : Ctx) (s : Strand) (q : Fin 32) (v : W64) : (setSlot b c s q v).ecc1 = b.ecc1 := rfl
@[simp] theorem setSlot_ecc2 (b : Block) (c : Ctx) (s : Strand) (q : Fin 32) (v : W64) : (setSlot b c s q v).ecc2 = b.ecc2 := rfl
@[simp] theorem setSlot_streams (b : Block) (c : Ctx) (s : Strand) (q : Fin 32) (v : W64) : (setSlot b c s q v).streams = b.streams := rfl
@[simp] theorem setSlot_mp (b : Block) (c : Ctx) (s : Strand) (q : Fin 32) (v : W64) : (setSlot b c s q v).mp = b.mp := rfl
@[simp] theorem setSlot_tlb (b : Block) (c : Ctx) (s : Strand) (q : Fin 32) (v : W64) : (setSlot b c s q v).tlb = b.tlb := rfl
@[simp] theorem setSlot_walks (b : Block) (c : Ctx) (s : Strand) (q : Fin 32) (v : W64) : (setSlot b c s q v).walks = b.walks := rfl
@[simp] theorem setSlot_invalBusy (b : Block) (c : Ctx) (s : Strand) (q : Fin 32) (v : W64) : (setSlot b c s q v).invalBusy = b.invalBusy := rfl
@[simp] theorem setSlot_invalUntil (b : Block) (c : Ctx) (s : Strand) (q : Fin 32) (v : W64) : (setSlot b c s q v).invalUntil = b.invalUntil := rfl
@[simp] theorem setSlot_hotKeys (b : Block) (c : Ctx) (s : Strand) (q : Fin 32) (v : W64) : (setSlot b c s q v).hotKeys = b.hotKeys := rfl
@[simp] theorem setSlot_arrays (b : Block) (c : Ctx) (s : Strand) (q : Fin 32) (v : W64) : (setSlot b c s q v).arrays = b.arrays := rfl
@[simp] theorem setSlot_groups (b : Block) (c : Ctx) (s : Strand) (q : Fin 32) (v : W64) : (setSlot b c s q v).groups = b.groups := rfl
@[simp] theorem setSlot_kiln (b : Block) (c : Ctx) (s : Strand) (q : Fin 32) (v : W64) : (setSlot b c s q v).kiln = b.kiln := rfl
@[simp] theorem setSlot_xfers (b : Block) (c : Ctx) (s : Strand) (q : Fin 32) (v : W64) : (setSlot b c s q v).xfers = b.xfers := rfl
@[simp] theorem setSlot_grants (b : Block) (c : Ctx) (s : Strand) (q : Fin 32) (v : W64) : (setSlot b c s q v).grants = b.grants := rfl
@[simp] theorem setSlot_spillUse (b : Block) (c : Ctx) (s : Strand) (q : Fin 32) (v : W64) : (setSlot b c s q v).spillUse = b.spillUse := rfl
@[simp] theorem setSlot_preParked (b : Block) (c : Ctx) (s : Strand) (q : Fin 32) (v : W64) : (setSlot b c s q v).preParked = b.preParked := rfl
@[simp] theorem setSlot_spares (b : Block) (c : Ctx) (s : Strand) (q : Fin 32) (v : W64) : (setSlot b c s q v).spares = b.spares := rfl
@[simp] theorem setSlot_wheelNext (b : Block) (c : Ctx) (s : Strand) (q : Fin 32) (v : W64) : (setSlot b c s q v).wheelNext = b.wheelNext := rfl
@[simp] theorem setSlot_vecNext (b : Block) (c : Ctx) (s : Strand) (q : Fin 32) (v : W64) : (setSlot b c s q v).vecNext = b.vecNext := rfl
@[simp] theorem setSlot_rules (b : Block) (c : Ctx) (s : Strand) (q : Fin 32) (v : W64) : (setSlot b c s q v).rules = b.rules := rfl
@[simp] theorem setSlot_jobs (b : Block) (c : Ctx) (s : Strand) (q : Fin 32) (v : W64) : (setSlot b c s q v).jobs = b.jobs := rfl
@[simp] theorem setSlot_line (b : Block) (c : Ctx) (s : Strand) (q : Fin 32) (v : W64) : (setSlot b c s q v).line = b.line := rfl
@[simp] theorem setSlot_chain (b : Block) (c : Ctx) (s : Strand) (q : Fin 32) (v : W64) : (setSlot b c s q v).chain = b.chain := rfl
@[simp] theorem setSlot_fabTags (b : Block) (c : Ctx) (s : Strand) (q : Fin 32) (v : W64) : (setSlot b c s q v).fabTags = b.fabTags := rfl
@[simp] theorem setSlot_fabTx (b : Block) (c : Ctx) (s : Strand) (q : Fin 32) (v : W64) : (setSlot b c s q v).fabTx = b.fabTx := rfl
@[simp] theorem setSlot_fabLoop (b : Block) (c : Ctx) (s : Strand) (q : Fin 32) (v : W64) : (setSlot b c s q v).fabLoop = b.fabLoop := rfl
@[simp] theorem setSlot_posts (b : Block) (c : Ctx) (s : Strand) (q : Fin 32) (v : W64) : (setSlot b c s q v).posts = b.posts := rfl
@[simp] theorem setSlot_inbuf (b : Block) (c : Ctx) (s : Strand) (q : Fin 32) (v : W64) : (setSlot b c s q v).inbuf = b.inbuf := rfl
@[simp] theorem setSlot_chks (b : Block) (c : Ctx) (s : Strand) (q : Fin 32) (v : W64) : (setSlot b c s q v).chks = b.chks := rfl
@[simp] theorem setSlot_launch (b : Block) (c : Ctx) (s : Strand) (q : Fin 32) (v : W64) : (setSlot b c s q v).launch = b.launch := rfl
@[simp] theorem setSlot_launchRead (b : Block) (c : Ctx) (s : Strand) (q : Fin 32) (v : W64) : (setSlot b c s q v).launchRead = b.launchRead := rfl
@[simp] theorem setSlot_notices (b : Block) (c : Ctx) (s : Strand) (q : Fin 32) (v : W64) : (setSlot b c s q v).notices = b.notices := rfl
@[simp] theorem setSlot_noticeOut (b : Block) (c : Ctx) (s : Strand) (q : Fin 32) (v : W64) : (setSlot b c s q v).noticeOut = b.noticeOut := rfl
@[simp] theorem setSlot_recNext (b : Block) (c : Ctx) (s : Strand) (q : Fin 32) (v : W64) : (setSlot b c s q v).recNext = b.recNext := rfl
@[simp] theorem setSlot_engFault (b : Block) (c : Ctx) (s : Strand) (q : Fin 32) (v : W64) : (setSlot b c s q v).engFault = b.engFault := rfl
@[simp] theorem setSlot_rst (b : Block) (c : Ctx) (s : Strand) (q : Fin 32) (v : W64) : (setSlot b c s q v).rst = b.rst := rfl
@[simp] theorem setSlot_steward (b : Block) (c : Ctx) (s : Strand) (q : Fin 32) (v : W64) : (setSlot b c s q v).steward = b.steward := rfl
@[simp] theorem setSlot_power (b : Block) (c : Ctx) (s : Strand) (q : Fin 32) (v : W64) : (setSlot b c s q v).power = b.power := rfl
@[simp] theorem setSlot_cp (b : Block) (c : Ctx) (s : Strand) (q : Fin 32) (v : W64) : (setSlot b c s q v).cp = b.cp := rfl
@[simp] theorem setSlot_cpQ (b : Block) (c : Ctx) (s : Strand) (q : Fin 32) (v : W64) : (setSlot b c s q v).cpQ = b.cpQ := rfl
@[simp] theorem setSlot_coins (b : Block) (c : Ctx) (s : Strand) (q : Fin 32) (v : W64) : (setSlot b c s q v).coins = b.coins := rfl
@[simp] theorem setSlot_noticeNew (b : Block) (c : Ctx) (s : Strand) (q : Fin 32) (v : W64) : (setSlot b c s q v).noticeNew = b.noticeNew := rfl
@[simp] theorem setSlot_acts (b : Block) (c : Ctx) (s : Strand) (q : Fin 32) (v : W64) : (setSlot b c s q v).acts = b.acts := rfl
@[simp] theorem setSlot_jtag (b : Block) (c : Ctx) (s : Strand) (q : Fin 32) (v : W64) : (setSlot b c s q v).jtag = b.jtag := rfl
@[simp] theorem setSlot_rlocks (b : Block) (c : Ctx) (s : Strand) (q : Fin 32) (v : W64) : (setSlot b c s q v).rlocks = b.rlocks := rfl
@[simp] theorem setSlot_freeTick (b : Block) (c : Ctx) (s : Strand) (q : Fin 32) (v : W64) : (setSlot b c s q v).freeTick = b.freeTick := rfl

/-! ### setPeg -/

@[simp] theorem setPeg_beat (b : Block) (p : Peg) (x : PegSt) : (setPeg b p x).beat = b.beat := rfl
@[simp] theorem setPeg_pins (b : Block) (p : Peg) (x : PegSt) : (setPeg b p x).pins = b.pins := rfl
@[simp] theorem setPeg_regs (b : Block) (p : Peg) (x : PegSt) : (setPeg b p x).regs = b.regs := rfl
@[simp] theorem setPeg_ctxs (b : Block) (p : Peg) (x : PegSt) : (setPeg b p x).ctxs = b.ctxs := rfl
@[simp] theorem setPeg_rot (b : Block) (p : Peg) (x : PegSt) : (setPeg b p x).rot = b.rot := rfl
@[simp] theorem setPeg_lastDispatch (b : Block) (p : Peg) (x : PegSt) : (setPeg b p x).lastDispatch = b.lastDispatch := rfl
@[simp] theorem setPeg_fetched (b : Block) (p : Peg) (x : PegSt) : (setPeg b p x).fetched = b.fetched := rfl
@[simp] theorem setPeg_entries (b : Block) (p : Peg) (x : PegSt) : (setPeg b p x).entries = b.entries := rfl
@[simp] theorem setPeg_sram (b : Block) (p : Peg) (x : PegSt) : (setPeg b p x).sram = b.sram := rfl
@[simp] theorem setPeg_boot (b : Block) (p : Peg) (x : PegSt) : (setPeg b p x).boot = b.boot := rfl
@[simp] theorem setPeg_ecc1 (b : Block) (p : Peg) (x : PegSt) : (setPeg b p x).ecc1 = b.ecc1 := rfl
@[simp] theorem setPeg_ecc2 (b : Block) (p : Peg) (x : PegSt) : (setPeg b p x).ecc2 = b.ecc2 := rfl
@[simp] theorem setPeg_streams (b : Block) (p : Peg) (x : PegSt) : (setPeg b p x).streams = b.streams := rfl
@[simp] theorem setPeg_mp (b : Block) (p : Peg) (x : PegSt) : (setPeg b p x).mp = b.mp := rfl
@[simp] theorem setPeg_tlb (b : Block) (p : Peg) (x : PegSt) : (setPeg b p x).tlb = b.tlb := rfl
@[simp] theorem setPeg_walks (b : Block) (p : Peg) (x : PegSt) : (setPeg b p x).walks = b.walks := rfl
@[simp] theorem setPeg_invalBusy (b : Block) (p : Peg) (x : PegSt) : (setPeg b p x).invalBusy = b.invalBusy := rfl
@[simp] theorem setPeg_invalUntil (b : Block) (p : Peg) (x : PegSt) : (setPeg b p x).invalUntil = b.invalUntil := rfl
@[simp] theorem setPeg_hotKeys (b : Block) (p : Peg) (x : PegSt) : (setPeg b p x).hotKeys = b.hotKeys := rfl
@[simp] theorem setPeg_arrays (b : Block) (p : Peg) (x : PegSt) : (setPeg b p x).arrays = b.arrays := rfl
@[simp] theorem setPeg_groups (b : Block) (p : Peg) (x : PegSt) : (setPeg b p x).groups = b.groups := rfl
@[simp] theorem setPeg_kiln (b : Block) (p : Peg) (x : PegSt) : (setPeg b p x).kiln = b.kiln := rfl
@[simp] theorem setPeg_xfers (b : Block) (p : Peg) (x : PegSt) : (setPeg b p x).xfers = b.xfers := rfl
@[simp] theorem setPeg_grants (b : Block) (p : Peg) (x : PegSt) : (setPeg b p x).grants = b.grants := rfl
@[simp] theorem setPeg_spillUse (b : Block) (p : Peg) (x : PegSt) : (setPeg b p x).spillUse = b.spillUse := rfl
@[simp] theorem setPeg_preParked (b : Block) (p : Peg) (x : PegSt) : (setPeg b p x).preParked = b.preParked := rfl
@[simp] theorem setPeg_spares (b : Block) (p : Peg) (x : PegSt) : (setPeg b p x).spares = b.spares := rfl
@[simp] theorem setPeg_wheelNext (b : Block) (p : Peg) (x : PegSt) : (setPeg b p x).wheelNext = b.wheelNext := rfl
@[simp] theorem setPeg_vecNext (b : Block) (p : Peg) (x : PegSt) : (setPeg b p x).vecNext = b.vecNext := rfl
@[simp] theorem setPeg_rules (b : Block) (p : Peg) (x : PegSt) : (setPeg b p x).rules = b.rules := rfl
@[simp] theorem setPeg_jobs (b : Block) (p : Peg) (x : PegSt) : (setPeg b p x).jobs = b.jobs := rfl
@[simp] theorem setPeg_line (b : Block) (p : Peg) (x : PegSt) : (setPeg b p x).line = b.line := rfl
@[simp] theorem setPeg_chain (b : Block) (p : Peg) (x : PegSt) : (setPeg b p x).chain = b.chain := rfl
@[simp] theorem setPeg_fabTags (b : Block) (p : Peg) (x : PegSt) : (setPeg b p x).fabTags = b.fabTags := rfl
@[simp] theorem setPeg_fabTx (b : Block) (p : Peg) (x : PegSt) : (setPeg b p x).fabTx = b.fabTx := rfl
@[simp] theorem setPeg_fabLoop (b : Block) (p : Peg) (x : PegSt) : (setPeg b p x).fabLoop = b.fabLoop := rfl
@[simp] theorem setPeg_posts (b : Block) (p : Peg) (x : PegSt) : (setPeg b p x).posts = b.posts := rfl
@[simp] theorem setPeg_inbuf (b : Block) (p : Peg) (x : PegSt) : (setPeg b p x).inbuf = b.inbuf := rfl
@[simp] theorem setPeg_chks (b : Block) (p : Peg) (x : PegSt) : (setPeg b p x).chks = b.chks := rfl
@[simp] theorem setPeg_launch (b : Block) (p : Peg) (x : PegSt) : (setPeg b p x).launch = b.launch := rfl
@[simp] theorem setPeg_launchRead (b : Block) (p : Peg) (x : PegSt) : (setPeg b p x).launchRead = b.launchRead := rfl
@[simp] theorem setPeg_notices (b : Block) (p : Peg) (x : PegSt) : (setPeg b p x).notices = b.notices := rfl
@[simp] theorem setPeg_noticeOut (b : Block) (p : Peg) (x : PegSt) : (setPeg b p x).noticeOut = b.noticeOut := rfl
@[simp] theorem setPeg_recNext (b : Block) (p : Peg) (x : PegSt) : (setPeg b p x).recNext = b.recNext := rfl
@[simp] theorem setPeg_engFault (b : Block) (p : Peg) (x : PegSt) : (setPeg b p x).engFault = b.engFault := rfl
@[simp] theorem setPeg_rst (b : Block) (p : Peg) (x : PegSt) : (setPeg b p x).rst = b.rst := rfl
@[simp] theorem setPeg_steward (b : Block) (p : Peg) (x : PegSt) : (setPeg b p x).steward = b.steward := rfl
@[simp] theorem setPeg_power (b : Block) (p : Peg) (x : PegSt) : (setPeg b p x).power = b.power := rfl
@[simp] theorem setPeg_cp (b : Block) (p : Peg) (x : PegSt) : (setPeg b p x).cp = b.cp := rfl
@[simp] theorem setPeg_cpQ (b : Block) (p : Peg) (x : PegSt) : (setPeg b p x).cpQ = b.cpQ := rfl
@[simp] theorem setPeg_coins (b : Block) (p : Peg) (x : PegSt) : (setPeg b p x).coins = b.coins := rfl
@[simp] theorem setPeg_noticeNew (b : Block) (p : Peg) (x : PegSt) : (setPeg b p x).noticeNew = b.noticeNew := rfl
@[simp] theorem setPeg_acts (b : Block) (p : Peg) (x : PegSt) : (setPeg b p x).acts = b.acts := rfl
@[simp] theorem setPeg_jtag (b : Block) (p : Peg) (x : PegSt) : (setPeg b p x).jtag = b.jtag := rfl
@[simp] theorem setPeg_rlocks (b : Block) (p : Peg) (x : PegSt) : (setPeg b p x).rlocks = b.rlocks := rfl
@[simp] theorem setPeg_freeTick (b : Block) (p : Peg) (x : PegSt) : (setPeg b p x).freeTick = b.freeTick := rfl

/-! ### modArr -/

@[simp] theorem modArr_beat (b : Block) (n : Arr) (f : ArraySt → ArraySt) : (modArr b n f).beat = b.beat := rfl
@[simp] theorem modArr_pins (b : Block) (n : Arr) (f : ArraySt → ArraySt) : (modArr b n f).pins = b.pins := rfl
@[simp] theorem modArr_regs (b : Block) (n : Arr) (f : ArraySt → ArraySt) : (modArr b n f).regs = b.regs := rfl
@[simp] theorem modArr_ctxs (b : Block) (n : Arr) (f : ArraySt → ArraySt) : (modArr b n f).ctxs = b.ctxs := rfl
@[simp] theorem modArr_pegs (b : Block) (n : Arr) (f : ArraySt → ArraySt) : (modArr b n f).pegs = b.pegs := rfl
@[simp] theorem modArr_rot (b : Block) (n : Arr) (f : ArraySt → ArraySt) : (modArr b n f).rot = b.rot := rfl
@[simp] theorem modArr_lastDispatch (b : Block) (n : Arr) (f : ArraySt → ArraySt) : (modArr b n f).lastDispatch = b.lastDispatch := rfl
@[simp] theorem modArr_fetched (b : Block) (n : Arr) (f : ArraySt → ArraySt) : (modArr b n f).fetched = b.fetched := rfl
@[simp] theorem modArr_entries (b : Block) (n : Arr) (f : ArraySt → ArraySt) : (modArr b n f).entries = b.entries := rfl
@[simp] theorem modArr_sram (b : Block) (n : Arr) (f : ArraySt → ArraySt) : (modArr b n f).sram = b.sram := rfl
@[simp] theorem modArr_boot (b : Block) (n : Arr) (f : ArraySt → ArraySt) : (modArr b n f).boot = b.boot := rfl
@[simp] theorem modArr_ecc1 (b : Block) (n : Arr) (f : ArraySt → ArraySt) : (modArr b n f).ecc1 = b.ecc1 := rfl
@[simp] theorem modArr_ecc2 (b : Block) (n : Arr) (f : ArraySt → ArraySt) : (modArr b n f).ecc2 = b.ecc2 := rfl
@[simp] theorem modArr_streams (b : Block) (n : Arr) (f : ArraySt → ArraySt) : (modArr b n f).streams = b.streams := rfl
@[simp] theorem modArr_mp (b : Block) (n : Arr) (f : ArraySt → ArraySt) : (modArr b n f).mp = b.mp := rfl
@[simp] theorem modArr_tlb (b : Block) (n : Arr) (f : ArraySt → ArraySt) : (modArr b n f).tlb = b.tlb := rfl
@[simp] theorem modArr_walks (b : Block) (n : Arr) (f : ArraySt → ArraySt) : (modArr b n f).walks = b.walks := rfl
@[simp] theorem modArr_invalBusy (b : Block) (n : Arr) (f : ArraySt → ArraySt) : (modArr b n f).invalBusy = b.invalBusy := rfl
@[simp] theorem modArr_invalUntil (b : Block) (n : Arr) (f : ArraySt → ArraySt) : (modArr b n f).invalUntil = b.invalUntil := rfl
@[simp] theorem modArr_hotKeys (b : Block) (n : Arr) (f : ArraySt → ArraySt) : (modArr b n f).hotKeys = b.hotKeys := rfl
@[simp] theorem modArr_groups (b : Block) (n : Arr) (f : ArraySt → ArraySt) : (modArr b n f).groups = b.groups := rfl
@[simp] theorem modArr_kiln (b : Block) (n : Arr) (f : ArraySt → ArraySt) : (modArr b n f).kiln = b.kiln := rfl
@[simp] theorem modArr_xfers (b : Block) (n : Arr) (f : ArraySt → ArraySt) : (modArr b n f).xfers = b.xfers := rfl
@[simp] theorem modArr_grants (b : Block) (n : Arr) (f : ArraySt → ArraySt) : (modArr b n f).grants = b.grants := rfl
@[simp] theorem modArr_spillUse (b : Block) (n : Arr) (f : ArraySt → ArraySt) : (modArr b n f).spillUse = b.spillUse := rfl
@[simp] theorem modArr_preParked (b : Block) (n : Arr) (f : ArraySt → ArraySt) : (modArr b n f).preParked = b.preParked := rfl
@[simp] theorem modArr_spares (b : Block) (n : Arr) (f : ArraySt → ArraySt) : (modArr b n f).spares = b.spares := rfl
@[simp] theorem modArr_wheelNext (b : Block) (n : Arr) (f : ArraySt → ArraySt) : (modArr b n f).wheelNext = b.wheelNext := rfl
@[simp] theorem modArr_vecNext (b : Block) (n : Arr) (f : ArraySt → ArraySt) : (modArr b n f).vecNext = b.vecNext := rfl
@[simp] theorem modArr_rules (b : Block) (n : Arr) (f : ArraySt → ArraySt) : (modArr b n f).rules = b.rules := rfl
@[simp] theorem modArr_jobs (b : Block) (n : Arr) (f : ArraySt → ArraySt) : (modArr b n f).jobs = b.jobs := rfl
@[simp] theorem modArr_line (b : Block) (n : Arr) (f : ArraySt → ArraySt) : (modArr b n f).line = b.line := rfl
@[simp] theorem modArr_chain (b : Block) (n : Arr) (f : ArraySt → ArraySt) : (modArr b n f).chain = b.chain := rfl
@[simp] theorem modArr_fabTags (b : Block) (n : Arr) (f : ArraySt → ArraySt) : (modArr b n f).fabTags = b.fabTags := rfl
@[simp] theorem modArr_fabTx (b : Block) (n : Arr) (f : ArraySt → ArraySt) : (modArr b n f).fabTx = b.fabTx := rfl
@[simp] theorem modArr_fabLoop (b : Block) (n : Arr) (f : ArraySt → ArraySt) : (modArr b n f).fabLoop = b.fabLoop := rfl
@[simp] theorem modArr_posts (b : Block) (n : Arr) (f : ArraySt → ArraySt) : (modArr b n f).posts = b.posts := rfl
@[simp] theorem modArr_inbuf (b : Block) (n : Arr) (f : ArraySt → ArraySt) : (modArr b n f).inbuf = b.inbuf := rfl
@[simp] theorem modArr_chks (b : Block) (n : Arr) (f : ArraySt → ArraySt) : (modArr b n f).chks = b.chks := rfl
@[simp] theorem modArr_launch (b : Block) (n : Arr) (f : ArraySt → ArraySt) : (modArr b n f).launch = b.launch := rfl
@[simp] theorem modArr_launchRead (b : Block) (n : Arr) (f : ArraySt → ArraySt) : (modArr b n f).launchRead = b.launchRead := rfl
@[simp] theorem modArr_notices (b : Block) (n : Arr) (f : ArraySt → ArraySt) : (modArr b n f).notices = b.notices := rfl
@[simp] theorem modArr_noticeOut (b : Block) (n : Arr) (f : ArraySt → ArraySt) : (modArr b n f).noticeOut = b.noticeOut := rfl
@[simp] theorem modArr_recNext (b : Block) (n : Arr) (f : ArraySt → ArraySt) : (modArr b n f).recNext = b.recNext := rfl
@[simp] theorem modArr_engFault (b : Block) (n : Arr) (f : ArraySt → ArraySt) : (modArr b n f).engFault = b.engFault := rfl
@[simp] theorem modArr_rst (b : Block) (n : Arr) (f : ArraySt → ArraySt) : (modArr b n f).rst = b.rst := rfl
@[simp] theorem modArr_steward (b : Block) (n : Arr) (f : ArraySt → ArraySt) : (modArr b n f).steward = b.steward := rfl
@[simp] theorem modArr_power (b : Block) (n : Arr) (f : ArraySt → ArraySt) : (modArr b n f).power = b.power := rfl
@[simp] theorem modArr_cp (b : Block) (n : Arr) (f : ArraySt → ArraySt) : (modArr b n f).cp = b.cp := rfl
@[simp] theorem modArr_cpQ (b : Block) (n : Arr) (f : ArraySt → ArraySt) : (modArr b n f).cpQ = b.cpQ := rfl
@[simp] theorem modArr_coins (b : Block) (n : Arr) (f : ArraySt → ArraySt) : (modArr b n f).coins = b.coins := rfl
@[simp] theorem modArr_noticeNew (b : Block) (n : Arr) (f : ArraySt → ArraySt) : (modArr b n f).noticeNew = b.noticeNew := rfl
@[simp] theorem modArr_acts (b : Block) (n : Arr) (f : ArraySt → ArraySt) : (modArr b n f).acts = b.acts := rfl
@[simp] theorem modArr_jtag (b : Block) (n : Arr) (f : ArraySt → ArraySt) : (modArr b n f).jtag = b.jtag := rfl
@[simp] theorem modArr_rlocks (b : Block) (n : Arr) (f : ArraySt → ArraySt) : (modArr b n f).rlocks = b.rlocks := rfl
@[simp] theorem modArr_freeTick (b : Block) (n : Arr) (f : ArraySt → ArraySt) : (modArr b n f).freeTick = b.freeTick := rfl

/-! ### modGrp -/

@[simp] theorem modGrp_beat (b : Block) (g : Grp) (f : GroupSt → GroupSt) : (modGrp b g f).beat = b.beat := rfl
@[simp] theorem modGrp_pins (b : Block) (g : Grp) (f : GroupSt → GroupSt) : (modGrp b g f).pins = b.pins := rfl
@[simp] theorem modGrp_regs (b : Block) (g : Grp) (f : GroupSt → GroupSt) : (modGrp b g f).regs = b.regs := rfl
@[simp] theorem modGrp_ctxs (b : Block) (g : Grp) (f : GroupSt → GroupSt) : (modGrp b g f).ctxs = b.ctxs := rfl
@[simp] theorem modGrp_pegs (b : Block) (g : Grp) (f : GroupSt → GroupSt) : (modGrp b g f).pegs = b.pegs := rfl
@[simp] theorem modGrp_rot (b : Block) (g : Grp) (f : GroupSt → GroupSt) : (modGrp b g f).rot = b.rot := rfl
@[simp] theorem modGrp_lastDispatch (b : Block) (g : Grp) (f : GroupSt → GroupSt) : (modGrp b g f).lastDispatch = b.lastDispatch := rfl
@[simp] theorem modGrp_fetched (b : Block) (g : Grp) (f : GroupSt → GroupSt) : (modGrp b g f).fetched = b.fetched := rfl
@[simp] theorem modGrp_entries (b : Block) (g : Grp) (f : GroupSt → GroupSt) : (modGrp b g f).entries = b.entries := rfl
@[simp] theorem modGrp_sram (b : Block) (g : Grp) (f : GroupSt → GroupSt) : (modGrp b g f).sram = b.sram := rfl
@[simp] theorem modGrp_boot (b : Block) (g : Grp) (f : GroupSt → GroupSt) : (modGrp b g f).boot = b.boot := rfl
@[simp] theorem modGrp_ecc1 (b : Block) (g : Grp) (f : GroupSt → GroupSt) : (modGrp b g f).ecc1 = b.ecc1 := rfl
@[simp] theorem modGrp_ecc2 (b : Block) (g : Grp) (f : GroupSt → GroupSt) : (modGrp b g f).ecc2 = b.ecc2 := rfl
@[simp] theorem modGrp_streams (b : Block) (g : Grp) (f : GroupSt → GroupSt) : (modGrp b g f).streams = b.streams := rfl
@[simp] theorem modGrp_mp (b : Block) (g : Grp) (f : GroupSt → GroupSt) : (modGrp b g f).mp = b.mp := rfl
@[simp] theorem modGrp_tlb (b : Block) (g : Grp) (f : GroupSt → GroupSt) : (modGrp b g f).tlb = b.tlb := rfl
@[simp] theorem modGrp_walks (b : Block) (g : Grp) (f : GroupSt → GroupSt) : (modGrp b g f).walks = b.walks := rfl
@[simp] theorem modGrp_invalBusy (b : Block) (g : Grp) (f : GroupSt → GroupSt) : (modGrp b g f).invalBusy = b.invalBusy := rfl
@[simp] theorem modGrp_invalUntil (b : Block) (g : Grp) (f : GroupSt → GroupSt) : (modGrp b g f).invalUntil = b.invalUntil := rfl
@[simp] theorem modGrp_hotKeys (b : Block) (g : Grp) (f : GroupSt → GroupSt) : (modGrp b g f).hotKeys = b.hotKeys := rfl
@[simp] theorem modGrp_arrays (b : Block) (g : Grp) (f : GroupSt → GroupSt) : (modGrp b g f).arrays = b.arrays := rfl
@[simp] theorem modGrp_kiln (b : Block) (g : Grp) (f : GroupSt → GroupSt) : (modGrp b g f).kiln = b.kiln := rfl
@[simp] theorem modGrp_xfers (b : Block) (g : Grp) (f : GroupSt → GroupSt) : (modGrp b g f).xfers = b.xfers := rfl
@[simp] theorem modGrp_grants (b : Block) (g : Grp) (f : GroupSt → GroupSt) : (modGrp b g f).grants = b.grants := rfl
@[simp] theorem modGrp_spillUse (b : Block) (g : Grp) (f : GroupSt → GroupSt) : (modGrp b g f).spillUse = b.spillUse := rfl
@[simp] theorem modGrp_preParked (b : Block) (g : Grp) (f : GroupSt → GroupSt) : (modGrp b g f).preParked = b.preParked := rfl
@[simp] theorem modGrp_spares (b : Block) (g : Grp) (f : GroupSt → GroupSt) : (modGrp b g f).spares = b.spares := rfl
@[simp] theorem modGrp_wheelNext (b : Block) (g : Grp) (f : GroupSt → GroupSt) : (modGrp b g f).wheelNext = b.wheelNext := rfl
@[simp] theorem modGrp_vecNext (b : Block) (g : Grp) (f : GroupSt → GroupSt) : (modGrp b g f).vecNext = b.vecNext := rfl
@[simp] theorem modGrp_rules (b : Block) (g : Grp) (f : GroupSt → GroupSt) : (modGrp b g f).rules = b.rules := rfl
@[simp] theorem modGrp_jobs (b : Block) (g : Grp) (f : GroupSt → GroupSt) : (modGrp b g f).jobs = b.jobs := rfl
@[simp] theorem modGrp_line (b : Block) (g : Grp) (f : GroupSt → GroupSt) : (modGrp b g f).line = b.line := rfl
@[simp] theorem modGrp_chain (b : Block) (g : Grp) (f : GroupSt → GroupSt) : (modGrp b g f).chain = b.chain := rfl
@[simp] theorem modGrp_fabTags (b : Block) (g : Grp) (f : GroupSt → GroupSt) : (modGrp b g f).fabTags = b.fabTags := rfl
@[simp] theorem modGrp_fabTx (b : Block) (g : Grp) (f : GroupSt → GroupSt) : (modGrp b g f).fabTx = b.fabTx := rfl
@[simp] theorem modGrp_fabLoop (b : Block) (g : Grp) (f : GroupSt → GroupSt) : (modGrp b g f).fabLoop = b.fabLoop := rfl
@[simp] theorem modGrp_posts (b : Block) (g : Grp) (f : GroupSt → GroupSt) : (modGrp b g f).posts = b.posts := rfl
@[simp] theorem modGrp_inbuf (b : Block) (g : Grp) (f : GroupSt → GroupSt) : (modGrp b g f).inbuf = b.inbuf := rfl
@[simp] theorem modGrp_chks (b : Block) (g : Grp) (f : GroupSt → GroupSt) : (modGrp b g f).chks = b.chks := rfl
@[simp] theorem modGrp_launch (b : Block) (g : Grp) (f : GroupSt → GroupSt) : (modGrp b g f).launch = b.launch := rfl
@[simp] theorem modGrp_launchRead (b : Block) (g : Grp) (f : GroupSt → GroupSt) : (modGrp b g f).launchRead = b.launchRead := rfl
@[simp] theorem modGrp_notices (b : Block) (g : Grp) (f : GroupSt → GroupSt) : (modGrp b g f).notices = b.notices := rfl
@[simp] theorem modGrp_noticeOut (b : Block) (g : Grp) (f : GroupSt → GroupSt) : (modGrp b g f).noticeOut = b.noticeOut := rfl
@[simp] theorem modGrp_recNext (b : Block) (g : Grp) (f : GroupSt → GroupSt) : (modGrp b g f).recNext = b.recNext := rfl
@[simp] theorem modGrp_engFault (b : Block) (g : Grp) (f : GroupSt → GroupSt) : (modGrp b g f).engFault = b.engFault := rfl
@[simp] theorem modGrp_rst (b : Block) (g : Grp) (f : GroupSt → GroupSt) : (modGrp b g f).rst = b.rst := rfl
@[simp] theorem modGrp_steward (b : Block) (g : Grp) (f : GroupSt → GroupSt) : (modGrp b g f).steward = b.steward := rfl
@[simp] theorem modGrp_power (b : Block) (g : Grp) (f : GroupSt → GroupSt) : (modGrp b g f).power = b.power := rfl
@[simp] theorem modGrp_cp (b : Block) (g : Grp) (f : GroupSt → GroupSt) : (modGrp b g f).cp = b.cp := rfl
@[simp] theorem modGrp_cpQ (b : Block) (g : Grp) (f : GroupSt → GroupSt) : (modGrp b g f).cpQ = b.cpQ := rfl
@[simp] theorem modGrp_coins (b : Block) (g : Grp) (f : GroupSt → GroupSt) : (modGrp b g f).coins = b.coins := rfl
@[simp] theorem modGrp_noticeNew (b : Block) (g : Grp) (f : GroupSt → GroupSt) : (modGrp b g f).noticeNew = b.noticeNew := rfl
@[simp] theorem modGrp_acts (b : Block) (g : Grp) (f : GroupSt → GroupSt) : (modGrp b g f).acts = b.acts := rfl
@[simp] theorem modGrp_jtag (b : Block) (g : Grp) (f : GroupSt → GroupSt) : (modGrp b g f).jtag = b.jtag := rfl
@[simp] theorem modGrp_rlocks (b : Block) (g : Grp) (f : GroupSt → GroupSt) : (modGrp b g f).rlocks = b.rlocks := rfl
@[simp] theorem modGrp_freeTick (b : Block) (g : Grp) (f : GroupSt → GroupSt) : (modGrp b g f).freeTick = b.freeTick := rfl

/-! ### modChk -/

@[simp] theorem modChk_beat (b : Block) (n : Chk) (f : ChkSt → ChkSt) : (modChk b n f).beat = b.beat := rfl
@[simp] theorem modChk_pins (b : Block) (n : Chk) (f : ChkSt → ChkSt) : (modChk b n f).pins = b.pins := rfl
@[simp] theorem modChk_regs (b : Block) (n : Chk) (f : ChkSt → ChkSt) : (modChk b n f).regs = b.regs := rfl
@[simp] theorem modChk_ctxs (b : Block) (n : Chk) (f : ChkSt → ChkSt) : (modChk b n f).ctxs = b.ctxs := rfl
@[simp] theorem modChk_pegs (b : Block) (n : Chk) (f : ChkSt → ChkSt) : (modChk b n f).pegs = b.pegs := rfl
@[simp] theorem modChk_rot (b : Block) (n : Chk) (f : ChkSt → ChkSt) : (modChk b n f).rot = b.rot := rfl
@[simp] theorem modChk_lastDispatch (b : Block) (n : Chk) (f : ChkSt → ChkSt) : (modChk b n f).lastDispatch = b.lastDispatch := rfl
@[simp] theorem modChk_fetched (b : Block) (n : Chk) (f : ChkSt → ChkSt) : (modChk b n f).fetched = b.fetched := rfl
@[simp] theorem modChk_entries (b : Block) (n : Chk) (f : ChkSt → ChkSt) : (modChk b n f).entries = b.entries := rfl
@[simp] theorem modChk_sram (b : Block) (n : Chk) (f : ChkSt → ChkSt) : (modChk b n f).sram = b.sram := rfl
@[simp] theorem modChk_boot (b : Block) (n : Chk) (f : ChkSt → ChkSt) : (modChk b n f).boot = b.boot := rfl
@[simp] theorem modChk_ecc1 (b : Block) (n : Chk) (f : ChkSt → ChkSt) : (modChk b n f).ecc1 = b.ecc1 := rfl
@[simp] theorem modChk_ecc2 (b : Block) (n : Chk) (f : ChkSt → ChkSt) : (modChk b n f).ecc2 = b.ecc2 := rfl
@[simp] theorem modChk_streams (b : Block) (n : Chk) (f : ChkSt → ChkSt) : (modChk b n f).streams = b.streams := rfl
@[simp] theorem modChk_mp (b : Block) (n : Chk) (f : ChkSt → ChkSt) : (modChk b n f).mp = b.mp := rfl
@[simp] theorem modChk_tlb (b : Block) (n : Chk) (f : ChkSt → ChkSt) : (modChk b n f).tlb = b.tlb := rfl
@[simp] theorem modChk_walks (b : Block) (n : Chk) (f : ChkSt → ChkSt) : (modChk b n f).walks = b.walks := rfl
@[simp] theorem modChk_invalBusy (b : Block) (n : Chk) (f : ChkSt → ChkSt) : (modChk b n f).invalBusy = b.invalBusy := rfl
@[simp] theorem modChk_invalUntil (b : Block) (n : Chk) (f : ChkSt → ChkSt) : (modChk b n f).invalUntil = b.invalUntil := rfl
@[simp] theorem modChk_hotKeys (b : Block) (n : Chk) (f : ChkSt → ChkSt) : (modChk b n f).hotKeys = b.hotKeys := rfl
@[simp] theorem modChk_arrays (b : Block) (n : Chk) (f : ChkSt → ChkSt) : (modChk b n f).arrays = b.arrays := rfl
@[simp] theorem modChk_groups (b : Block) (n : Chk) (f : ChkSt → ChkSt) : (modChk b n f).groups = b.groups := rfl
@[simp] theorem modChk_kiln (b : Block) (n : Chk) (f : ChkSt → ChkSt) : (modChk b n f).kiln = b.kiln := rfl
@[simp] theorem modChk_xfers (b : Block) (n : Chk) (f : ChkSt → ChkSt) : (modChk b n f).xfers = b.xfers := rfl
@[simp] theorem modChk_grants (b : Block) (n : Chk) (f : ChkSt → ChkSt) : (modChk b n f).grants = b.grants := rfl
@[simp] theorem modChk_spillUse (b : Block) (n : Chk) (f : ChkSt → ChkSt) : (modChk b n f).spillUse = b.spillUse := rfl
@[simp] theorem modChk_preParked (b : Block) (n : Chk) (f : ChkSt → ChkSt) : (modChk b n f).preParked = b.preParked := rfl
@[simp] theorem modChk_spares (b : Block) (n : Chk) (f : ChkSt → ChkSt) : (modChk b n f).spares = b.spares := rfl
@[simp] theorem modChk_wheelNext (b : Block) (n : Chk) (f : ChkSt → ChkSt) : (modChk b n f).wheelNext = b.wheelNext := rfl
@[simp] theorem modChk_vecNext (b : Block) (n : Chk) (f : ChkSt → ChkSt) : (modChk b n f).vecNext = b.vecNext := rfl
@[simp] theorem modChk_rules (b : Block) (n : Chk) (f : ChkSt → ChkSt) : (modChk b n f).rules = b.rules := rfl
@[simp] theorem modChk_jobs (b : Block) (n : Chk) (f : ChkSt → ChkSt) : (modChk b n f).jobs = b.jobs := rfl
@[simp] theorem modChk_line (b : Block) (n : Chk) (f : ChkSt → ChkSt) : (modChk b n f).line = b.line := rfl
@[simp] theorem modChk_chain (b : Block) (n : Chk) (f : ChkSt → ChkSt) : (modChk b n f).chain = b.chain := rfl
@[simp] theorem modChk_fabTags (b : Block) (n : Chk) (f : ChkSt → ChkSt) : (modChk b n f).fabTags = b.fabTags := rfl
@[simp] theorem modChk_fabTx (b : Block) (n : Chk) (f : ChkSt → ChkSt) : (modChk b n f).fabTx = b.fabTx := rfl
@[simp] theorem modChk_fabLoop (b : Block) (n : Chk) (f : ChkSt → ChkSt) : (modChk b n f).fabLoop = b.fabLoop := rfl
@[simp] theorem modChk_posts (b : Block) (n : Chk) (f : ChkSt → ChkSt) : (modChk b n f).posts = b.posts := rfl
@[simp] theorem modChk_inbuf (b : Block) (n : Chk) (f : ChkSt → ChkSt) : (modChk b n f).inbuf = b.inbuf := rfl
@[simp] theorem modChk_launch (b : Block) (n : Chk) (f : ChkSt → ChkSt) : (modChk b n f).launch = b.launch := rfl
@[simp] theorem modChk_launchRead (b : Block) (n : Chk) (f : ChkSt → ChkSt) : (modChk b n f).launchRead = b.launchRead := rfl
@[simp] theorem modChk_notices (b : Block) (n : Chk) (f : ChkSt → ChkSt) : (modChk b n f).notices = b.notices := rfl
@[simp] theorem modChk_noticeOut (b : Block) (n : Chk) (f : ChkSt → ChkSt) : (modChk b n f).noticeOut = b.noticeOut := rfl
@[simp] theorem modChk_recNext (b : Block) (n : Chk) (f : ChkSt → ChkSt) : (modChk b n f).recNext = b.recNext := rfl
@[simp] theorem modChk_engFault (b : Block) (n : Chk) (f : ChkSt → ChkSt) : (modChk b n f).engFault = b.engFault := rfl
@[simp] theorem modChk_rst (b : Block) (n : Chk) (f : ChkSt → ChkSt) : (modChk b n f).rst = b.rst := rfl
@[simp] theorem modChk_steward (b : Block) (n : Chk) (f : ChkSt → ChkSt) : (modChk b n f).steward = b.steward := rfl
@[simp] theorem modChk_power (b : Block) (n : Chk) (f : ChkSt → ChkSt) : (modChk b n f).power = b.power := rfl
@[simp] theorem modChk_cp (b : Block) (n : Chk) (f : ChkSt → ChkSt) : (modChk b n f).cp = b.cp := rfl
@[simp] theorem modChk_cpQ (b : Block) (n : Chk) (f : ChkSt → ChkSt) : (modChk b n f).cpQ = b.cpQ := rfl
@[simp] theorem modChk_coins (b : Block) (n : Chk) (f : ChkSt → ChkSt) : (modChk b n f).coins = b.coins := rfl
@[simp] theorem modChk_noticeNew (b : Block) (n : Chk) (f : ChkSt → ChkSt) : (modChk b n f).noticeNew = b.noticeNew := rfl
@[simp] theorem modChk_acts (b : Block) (n : Chk) (f : ChkSt → ChkSt) : (modChk b n f).acts = b.acts := rfl
@[simp] theorem modChk_jtag (b : Block) (n : Chk) (f : ChkSt → ChkSt) : (modChk b n f).jtag = b.jtag := rfl
@[simp] theorem modChk_rlocks (b : Block) (n : Chk) (f : ChkSt → ChkSt) : (modChk b n f).rlocks = b.rlocks := rfl
@[simp] theorem modChk_freeTick (b : Block) (n : Chk) (f : ChkSt → ChkSt) : (modChk b n f).freeTick = b.freeTick := rfl

/-! ### tickFree -/

@[simp] theorem tickFree_beat (b : Block) : (tickFree b).beat = b.beat := rfl
@[simp] theorem tickFree_pins (b : Block) : (tickFree b).pins = b.pins := rfl
@[simp] theorem tickFree_regs (b : Block) : (tickFree b).regs = b.regs := rfl
@[simp] theorem tickFree_ctxs (b : Block) : (tickFree b).ctxs = b.ctxs := rfl
@[simp] theorem tickFree_pegs (b : Block) : (tickFree b).pegs = b.pegs := rfl
@[simp] theorem tickFree_rot (b : Block) : (tickFree b).rot = b.rot := rfl
@[simp] theorem tickFree_lastDispatch (b : Block) : (tickFree b).lastDispatch = b.lastDispatch := rfl
@[simp] theorem tickFree_fetched (b : Block) : (tickFree b).fetched = b.fetched := rfl
@[simp] theorem tickFree_entries (b : Block) : (tickFree b).entries = b.entries := rfl
@[simp] theorem tickFree_sram (b : Block) : (tickFree b).sram = b.sram := rfl
@[simp] theorem tickFree_boot (b : Block) : (tickFree b).boot = b.boot := rfl
@[simp] theorem tickFree_ecc1 (b : Block) : (tickFree b).ecc1 = b.ecc1 := rfl
@[simp] theorem tickFree_ecc2 (b : Block) : (tickFree b).ecc2 = b.ecc2 := rfl
@[simp] theorem tickFree_streams (b : Block) : (tickFree b).streams = b.streams := rfl
@[simp] theorem tickFree_mp (b : Block) : (tickFree b).mp = b.mp := rfl
@[simp] theorem tickFree_tlb (b : Block) : (tickFree b).tlb = b.tlb := rfl
@[simp] theorem tickFree_walks (b : Block) : (tickFree b).walks = b.walks := rfl
@[simp] theorem tickFree_invalBusy (b : Block) : (tickFree b).invalBusy = b.invalBusy := rfl
@[simp] theorem tickFree_invalUntil (b : Block) : (tickFree b).invalUntil = b.invalUntil := rfl
@[simp] theorem tickFree_hotKeys (b : Block) : (tickFree b).hotKeys = b.hotKeys := rfl
@[simp] theorem tickFree_arrays (b : Block) : (tickFree b).arrays = b.arrays := rfl
@[simp] theorem tickFree_groups (b : Block) : (tickFree b).groups = b.groups := rfl
@[simp] theorem tickFree_kiln (b : Block) : (tickFree b).kiln = b.kiln := rfl
@[simp] theorem tickFree_xfers (b : Block) : (tickFree b).xfers = b.xfers := rfl
@[simp] theorem tickFree_grants (b : Block) : (tickFree b).grants = b.grants := rfl
@[simp] theorem tickFree_spillUse (b : Block) : (tickFree b).spillUse = b.spillUse := rfl
@[simp] theorem tickFree_preParked (b : Block) : (tickFree b).preParked = b.preParked := rfl
@[simp] theorem tickFree_spares (b : Block) : (tickFree b).spares = b.spares := rfl
@[simp] theorem tickFree_wheelNext (b : Block) : (tickFree b).wheelNext = b.wheelNext := rfl
@[simp] theorem tickFree_vecNext (b : Block) : (tickFree b).vecNext = b.vecNext := rfl
@[simp] theorem tickFree_rules (b : Block) : (tickFree b).rules = b.rules := rfl
@[simp] theorem tickFree_jobs (b : Block) : (tickFree b).jobs = b.jobs := rfl
@[simp] theorem tickFree_line (b : Block) : (tickFree b).line = b.line := rfl
@[simp] theorem tickFree_chain (b : Block) : (tickFree b).chain = b.chain := rfl
@[simp] theorem tickFree_fabTags (b : Block) : (tickFree b).fabTags = b.fabTags := rfl
@[simp] theorem tickFree_fabTx (b : Block) : (tickFree b).fabTx = b.fabTx := rfl
@[simp] theorem tickFree_fabLoop (b : Block) : (tickFree b).fabLoop = b.fabLoop := rfl
@[simp] theorem tickFree_posts (b : Block) : (tickFree b).posts = b.posts := rfl
@[simp] theorem tickFree_inbuf (b : Block) : (tickFree b).inbuf = b.inbuf := rfl
@[simp] theorem tickFree_chks (b : Block) : (tickFree b).chks = b.chks := rfl
@[simp] theorem tickFree_launch (b : Block) : (tickFree b).launch = b.launch := rfl
@[simp] theorem tickFree_launchRead (b : Block) : (tickFree b).launchRead = b.launchRead := rfl
@[simp] theorem tickFree_notices (b : Block) : (tickFree b).notices = b.notices := rfl
@[simp] theorem tickFree_noticeOut (b : Block) : (tickFree b).noticeOut = b.noticeOut := rfl
@[simp] theorem tickFree_recNext (b : Block) : (tickFree b).recNext = b.recNext := rfl
@[simp] theorem tickFree_engFault (b : Block) : (tickFree b).engFault = b.engFault := rfl
@[simp] theorem tickFree_rst (b : Block) : (tickFree b).rst = b.rst := rfl
@[simp] theorem tickFree_steward (b : Block) : (tickFree b).steward = b.steward := rfl
@[simp] theorem tickFree_power (b : Block) : (tickFree b).power = b.power := rfl
@[simp] theorem tickFree_cp (b : Block) : (tickFree b).cp = b.cp := rfl
@[simp] theorem tickFree_cpQ (b : Block) : (tickFree b).cpQ = b.cpQ := rfl
@[simp] theorem tickFree_coins (b : Block) : (tickFree b).coins = b.coins := rfl
@[simp] theorem tickFree_noticeNew (b : Block) : (tickFree b).noticeNew = b.noticeNew := rfl
@[simp] theorem tickFree_acts (b : Block) : (tickFree b).acts = b.acts := rfl
@[simp] theorem tickFree_jtag (b : Block) : (tickFree b).jtag = b.jtag := rfl
@[simp] theorem tickFree_rlocks (b : Block) : (tickFree b).rlocks = b.rlocks := rfl

/-! ### addEntry -/

@[simp] theorem addEntry_beat (b : Block) (e : Entry) : (addEntry b e).beat = b.beat := rfl
@[simp] theorem addEntry_pins (b : Block) (e : Entry) : (addEntry b e).pins = b.pins := rfl
@[simp] theorem addEntry_regs (b : Block) (e : Entry) : (addEntry b e).regs = b.regs := rfl
@[simp] theorem addEntry_ctxs (b : Block) (e : Entry) : (addEntry b e).ctxs = b.ctxs := rfl
@[simp] theorem addEntry_pegs (b : Block) (e : Entry) : (addEntry b e).pegs = b.pegs := rfl
@[simp] theorem addEntry_rot (b : Block) (e : Entry) : (addEntry b e).rot = b.rot := rfl
@[simp] theorem addEntry_lastDispatch (b : Block) (e : Entry) : (addEntry b e).lastDispatch = b.lastDispatch := rfl
@[simp] theorem addEntry_fetched (b : Block) (e : Entry) : (addEntry b e).fetched = b.fetched := rfl
@[simp] theorem addEntry_sram (b : Block) (e : Entry) : (addEntry b e).sram = b.sram := rfl
@[simp] theorem addEntry_boot (b : Block) (e : Entry) : (addEntry b e).boot = b.boot := rfl
@[simp] theorem addEntry_ecc1 (b : Block) (e : Entry) : (addEntry b e).ecc1 = b.ecc1 := rfl
@[simp] theorem addEntry_ecc2 (b : Block) (e : Entry) : (addEntry b e).ecc2 = b.ecc2 := rfl
@[simp] theorem addEntry_streams (b : Block) (e : Entry) : (addEntry b e).streams = b.streams := rfl
@[simp] theorem addEntry_mp (b : Block) (e : Entry) : (addEntry b e).mp = b.mp := rfl
@[simp] theorem addEntry_tlb (b : Block) (e : Entry) : (addEntry b e).tlb = b.tlb := rfl
@[simp] theorem addEntry_walks (b : Block) (e : Entry) : (addEntry b e).walks = b.walks := rfl
@[simp] theorem addEntry_invalBusy (b : Block) (e : Entry) : (addEntry b e).invalBusy = b.invalBusy := rfl
@[simp] theorem addEntry_invalUntil (b : Block) (e : Entry) : (addEntry b e).invalUntil = b.invalUntil := rfl
@[simp] theorem addEntry_hotKeys (b : Block) (e : Entry) : (addEntry b e).hotKeys = b.hotKeys := rfl
@[simp] theorem addEntry_arrays (b : Block) (e : Entry) : (addEntry b e).arrays = b.arrays := rfl
@[simp] theorem addEntry_groups (b : Block) (e : Entry) : (addEntry b e).groups = b.groups := rfl
@[simp] theorem addEntry_kiln (b : Block) (e : Entry) : (addEntry b e).kiln = b.kiln := rfl
@[simp] theorem addEntry_xfers (b : Block) (e : Entry) : (addEntry b e).xfers = b.xfers := rfl
@[simp] theorem addEntry_grants (b : Block) (e : Entry) : (addEntry b e).grants = b.grants := rfl
@[simp] theorem addEntry_spillUse (b : Block) (e : Entry) : (addEntry b e).spillUse = b.spillUse := rfl
@[simp] theorem addEntry_preParked (b : Block) (e : Entry) : (addEntry b e).preParked = b.preParked := rfl
@[simp] theorem addEntry_spares (b : Block) (e : Entry) : (addEntry b e).spares = b.spares := rfl
@[simp] theorem addEntry_wheelNext (b : Block) (e : Entry) : (addEntry b e).wheelNext = b.wheelNext := rfl
@[simp] theorem addEntry_vecNext (b : Block) (e : Entry) : (addEntry b e).vecNext = b.vecNext := rfl
@[simp] theorem addEntry_rules (b : Block) (e : Entry) : (addEntry b e).rules = b.rules := rfl
@[simp] theorem addEntry_jobs (b : Block) (e : Entry) : (addEntry b e).jobs = b.jobs := rfl
@[simp] theorem addEntry_line (b : Block) (e : Entry) : (addEntry b e).line = b.line := rfl
@[simp] theorem addEntry_chain (b : Block) (e : Entry) : (addEntry b e).chain = b.chain := rfl
@[simp] theorem addEntry_fabTags (b : Block) (e : Entry) : (addEntry b e).fabTags = b.fabTags := rfl
@[simp] theorem addEntry_fabTx (b : Block) (e : Entry) : (addEntry b e).fabTx = b.fabTx := rfl
@[simp] theorem addEntry_fabLoop (b : Block) (e : Entry) : (addEntry b e).fabLoop = b.fabLoop := rfl
@[simp] theorem addEntry_posts (b : Block) (e : Entry) : (addEntry b e).posts = b.posts := rfl
@[simp] theorem addEntry_inbuf (b : Block) (e : Entry) : (addEntry b e).inbuf = b.inbuf := rfl
@[simp] theorem addEntry_chks (b : Block) (e : Entry) : (addEntry b e).chks = b.chks := rfl
@[simp] theorem addEntry_launch (b : Block) (e : Entry) : (addEntry b e).launch = b.launch := rfl
@[simp] theorem addEntry_launchRead (b : Block) (e : Entry) : (addEntry b e).launchRead = b.launchRead := rfl
@[simp] theorem addEntry_notices (b : Block) (e : Entry) : (addEntry b e).notices = b.notices := rfl
@[simp] theorem addEntry_noticeOut (b : Block) (e : Entry) : (addEntry b e).noticeOut = b.noticeOut := rfl
@[simp] theorem addEntry_recNext (b : Block) (e : Entry) : (addEntry b e).recNext = b.recNext := rfl
@[simp] theorem addEntry_engFault (b : Block) (e : Entry) : (addEntry b e).engFault = b.engFault := rfl
@[simp] theorem addEntry_rst (b : Block) (e : Entry) : (addEntry b e).rst = b.rst := rfl
@[simp] theorem addEntry_steward (b : Block) (e : Entry) : (addEntry b e).steward = b.steward := rfl
@[simp] theorem addEntry_power (b : Block) (e : Entry) : (addEntry b e).power = b.power := rfl
@[simp] theorem addEntry_cp (b : Block) (e : Entry) : (addEntry b e).cp = b.cp := rfl
@[simp] theorem addEntry_cpQ (b : Block) (e : Entry) : (addEntry b e).cpQ = b.cpQ := rfl
@[simp] theorem addEntry_coins (b : Block) (e : Entry) : (addEntry b e).coins = b.coins := rfl
@[simp] theorem addEntry_noticeNew (b : Block) (e : Entry) : (addEntry b e).noticeNew = b.noticeNew := rfl
@[simp] theorem addEntry_acts (b : Block) (e : Entry) : (addEntry b e).acts = b.acts := rfl
@[simp] theorem addEntry_jtag (b : Block) (e : Entry) : (addEntry b e).jtag = b.jtag := rfl
@[simp] theorem addEntry_rlocks (b : Block) (e : Entry) : (addEntry b e).rlocks = b.rlocks := rfl
@[simp] theorem addEntry_freeTick (b : Block) (e : Entry) : (addEntry b e).freeTick = b.freeTick := rfl

/-! ### modEntry -/

@[simp] theorem modEntry_beat (b : Block) (i : Nat) (f : Entry → Entry) : (modEntry b i f).beat = b.beat := rfl
@[simp] theorem modEntry_pins (b : Block) (i : Nat) (f : Entry → Entry) : (modEntry b i f).pins = b.pins := rfl
@[simp] theorem modEntry_regs (b : Block) (i : Nat) (f : Entry → Entry) : (modEntry b i f).regs = b.regs := rfl
@[simp] theorem modEntry_ctxs (b : Block) (i : Nat) (f : Entry → Entry) : (modEntry b i f).ctxs = b.ctxs := rfl
@[simp] theorem modEntry_pegs (b : Block) (i : Nat) (f : Entry → Entry) : (modEntry b i f).pegs = b.pegs := rfl
@[simp] theorem modEntry_rot (b : Block) (i : Nat) (f : Entry → Entry) : (modEntry b i f).rot = b.rot := rfl
@[simp] theorem modEntry_lastDispatch (b : Block) (i : Nat) (f : Entry → Entry) : (modEntry b i f).lastDispatch = b.lastDispatch := rfl
@[simp] theorem modEntry_fetched (b : Block) (i : Nat) (f : Entry → Entry) : (modEntry b i f).fetched = b.fetched := rfl
@[simp] theorem modEntry_sram (b : Block) (i : Nat) (f : Entry → Entry) : (modEntry b i f).sram = b.sram := rfl
@[simp] theorem modEntry_boot (b : Block) (i : Nat) (f : Entry → Entry) : (modEntry b i f).boot = b.boot := rfl
@[simp] theorem modEntry_ecc1 (b : Block) (i : Nat) (f : Entry → Entry) : (modEntry b i f).ecc1 = b.ecc1 := rfl
@[simp] theorem modEntry_ecc2 (b : Block) (i : Nat) (f : Entry → Entry) : (modEntry b i f).ecc2 = b.ecc2 := rfl
@[simp] theorem modEntry_streams (b : Block) (i : Nat) (f : Entry → Entry) : (modEntry b i f).streams = b.streams := rfl
@[simp] theorem modEntry_mp (b : Block) (i : Nat) (f : Entry → Entry) : (modEntry b i f).mp = b.mp := rfl
@[simp] theorem modEntry_tlb (b : Block) (i : Nat) (f : Entry → Entry) : (modEntry b i f).tlb = b.tlb := rfl
@[simp] theorem modEntry_walks (b : Block) (i : Nat) (f : Entry → Entry) : (modEntry b i f).walks = b.walks := rfl
@[simp] theorem modEntry_invalBusy (b : Block) (i : Nat) (f : Entry → Entry) : (modEntry b i f).invalBusy = b.invalBusy := rfl
@[simp] theorem modEntry_invalUntil (b : Block) (i : Nat) (f : Entry → Entry) : (modEntry b i f).invalUntil = b.invalUntil := rfl
@[simp] theorem modEntry_hotKeys (b : Block) (i : Nat) (f : Entry → Entry) : (modEntry b i f).hotKeys = b.hotKeys := rfl
@[simp] theorem modEntry_arrays (b : Block) (i : Nat) (f : Entry → Entry) : (modEntry b i f).arrays = b.arrays := rfl
@[simp] theorem modEntry_groups (b : Block) (i : Nat) (f : Entry → Entry) : (modEntry b i f).groups = b.groups := rfl
@[simp] theorem modEntry_kiln (b : Block) (i : Nat) (f : Entry → Entry) : (modEntry b i f).kiln = b.kiln := rfl
@[simp] theorem modEntry_xfers (b : Block) (i : Nat) (f : Entry → Entry) : (modEntry b i f).xfers = b.xfers := rfl
@[simp] theorem modEntry_grants (b : Block) (i : Nat) (f : Entry → Entry) : (modEntry b i f).grants = b.grants := rfl
@[simp] theorem modEntry_spillUse (b : Block) (i : Nat) (f : Entry → Entry) : (modEntry b i f).spillUse = b.spillUse := rfl
@[simp] theorem modEntry_preParked (b : Block) (i : Nat) (f : Entry → Entry) : (modEntry b i f).preParked = b.preParked := rfl
@[simp] theorem modEntry_spares (b : Block) (i : Nat) (f : Entry → Entry) : (modEntry b i f).spares = b.spares := rfl
@[simp] theorem modEntry_wheelNext (b : Block) (i : Nat) (f : Entry → Entry) : (modEntry b i f).wheelNext = b.wheelNext := rfl
@[simp] theorem modEntry_vecNext (b : Block) (i : Nat) (f : Entry → Entry) : (modEntry b i f).vecNext = b.vecNext := rfl
@[simp] theorem modEntry_rules (b : Block) (i : Nat) (f : Entry → Entry) : (modEntry b i f).rules = b.rules := rfl
@[simp] theorem modEntry_jobs (b : Block) (i : Nat) (f : Entry → Entry) : (modEntry b i f).jobs = b.jobs := rfl
@[simp] theorem modEntry_line (b : Block) (i : Nat) (f : Entry → Entry) : (modEntry b i f).line = b.line := rfl
@[simp] theorem modEntry_chain (b : Block) (i : Nat) (f : Entry → Entry) : (modEntry b i f).chain = b.chain := rfl
@[simp] theorem modEntry_fabTags (b : Block) (i : Nat) (f : Entry → Entry) : (modEntry b i f).fabTags = b.fabTags := rfl
@[simp] theorem modEntry_fabTx (b : Block) (i : Nat) (f : Entry → Entry) : (modEntry b i f).fabTx = b.fabTx := rfl
@[simp] theorem modEntry_fabLoop (b : Block) (i : Nat) (f : Entry → Entry) : (modEntry b i f).fabLoop = b.fabLoop := rfl
@[simp] theorem modEntry_posts (b : Block) (i : Nat) (f : Entry → Entry) : (modEntry b i f).posts = b.posts := rfl
@[simp] theorem modEntry_inbuf (b : Block) (i : Nat) (f : Entry → Entry) : (modEntry b i f).inbuf = b.inbuf := rfl
@[simp] theorem modEntry_chks (b : Block) (i : Nat) (f : Entry → Entry) : (modEntry b i f).chks = b.chks := rfl
@[simp] theorem modEntry_launch (b : Block) (i : Nat) (f : Entry → Entry) : (modEntry b i f).launch = b.launch := rfl
@[simp] theorem modEntry_launchRead (b : Block) (i : Nat) (f : Entry → Entry) : (modEntry b i f).launchRead = b.launchRead := rfl
@[simp] theorem modEntry_notices (b : Block) (i : Nat) (f : Entry → Entry) : (modEntry b i f).notices = b.notices := rfl
@[simp] theorem modEntry_noticeOut (b : Block) (i : Nat) (f : Entry → Entry) : (modEntry b i f).noticeOut = b.noticeOut := rfl
@[simp] theorem modEntry_recNext (b : Block) (i : Nat) (f : Entry → Entry) : (modEntry b i f).recNext = b.recNext := rfl
@[simp] theorem modEntry_engFault (b : Block) (i : Nat) (f : Entry → Entry) : (modEntry b i f).engFault = b.engFault := rfl
@[simp] theorem modEntry_rst (b : Block) (i : Nat) (f : Entry → Entry) : (modEntry b i f).rst = b.rst := rfl
@[simp] theorem modEntry_steward (b : Block) (i : Nat) (f : Entry → Entry) : (modEntry b i f).steward = b.steward := rfl
@[simp] theorem modEntry_power (b : Block) (i : Nat) (f : Entry → Entry) : (modEntry b i f).power = b.power := rfl
@[simp] theorem modEntry_cp (b : Block) (i : Nat) (f : Entry → Entry) : (modEntry b i f).cp = b.cp := rfl
@[simp] theorem modEntry_cpQ (b : Block) (i : Nat) (f : Entry → Entry) : (modEntry b i f).cpQ = b.cpQ := rfl
@[simp] theorem modEntry_coins (b : Block) (i : Nat) (f : Entry → Entry) : (modEntry b i f).coins = b.coins := rfl
@[simp] theorem modEntry_noticeNew (b : Block) (i : Nat) (f : Entry → Entry) : (modEntry b i f).noticeNew = b.noticeNew := rfl
@[simp] theorem modEntry_acts (b : Block) (i : Nat) (f : Entry → Entry) : (modEntry b i f).acts = b.acts := rfl
@[simp] theorem modEntry_jtag (b : Block) (i : Nat) (f : Entry → Entry) : (modEntry b i f).jtag = b.jtag := rfl
@[simp] theorem modEntry_rlocks (b : Block) (i : Nat) (f : Entry → Entry) : (modEntry b i f).rlocks = b.rlocks := rfl
@[simp] theorem modEntry_freeTick (b : Block) (i : Nat) (f : Entry → Entry) : (modEntry b i f).freeTick = b.freeTick := rfl

/-! ### dropEntry -/

@[simp] theorem dropEntry_beat (b : Block) (i : Nat) : (dropEntry b i).beat = b.beat := rfl
@[simp] theorem dropEntry_pins (b : Block) (i : Nat) : (dropEntry b i).pins = b.pins := rfl
@[simp] theorem dropEntry_regs (b : Block) (i : Nat) : (dropEntry b i).regs = b.regs := rfl
@[simp] theorem dropEntry_ctxs (b : Block) (i : Nat) : (dropEntry b i).ctxs = b.ctxs := rfl
@[simp] theorem dropEntry_pegs (b : Block) (i : Nat) : (dropEntry b i).pegs = b.pegs := rfl
@[simp] theorem dropEntry_rot (b : Block) (i : Nat) : (dropEntry b i).rot = b.rot := rfl
@[simp] theorem dropEntry_lastDispatch (b : Block) (i : Nat) : (dropEntry b i).lastDispatch = b.lastDispatch := rfl
@[simp] theorem dropEntry_fetched (b : Block) (i : Nat) : (dropEntry b i).fetched = b.fetched := rfl
@[simp] theorem dropEntry_sram (b : Block) (i : Nat) : (dropEntry b i).sram = b.sram := rfl
@[simp] theorem dropEntry_boot (b : Block) (i : Nat) : (dropEntry b i).boot = b.boot := rfl
@[simp] theorem dropEntry_ecc1 (b : Block) (i : Nat) : (dropEntry b i).ecc1 = b.ecc1 := rfl
@[simp] theorem dropEntry_ecc2 (b : Block) (i : Nat) : (dropEntry b i).ecc2 = b.ecc2 := rfl
@[simp] theorem dropEntry_streams (b : Block) (i : Nat) : (dropEntry b i).streams = b.streams := rfl
@[simp] theorem dropEntry_mp (b : Block) (i : Nat) : (dropEntry b i).mp = b.mp := rfl
@[simp] theorem dropEntry_tlb (b : Block) (i : Nat) : (dropEntry b i).tlb = b.tlb := rfl
@[simp] theorem dropEntry_walks (b : Block) (i : Nat) : (dropEntry b i).walks = b.walks := rfl
@[simp] theorem dropEntry_invalBusy (b : Block) (i : Nat) : (dropEntry b i).invalBusy = b.invalBusy := rfl
@[simp] theorem dropEntry_invalUntil (b : Block) (i : Nat) : (dropEntry b i).invalUntil = b.invalUntil := rfl
@[simp] theorem dropEntry_hotKeys (b : Block) (i : Nat) : (dropEntry b i).hotKeys = b.hotKeys := rfl
@[simp] theorem dropEntry_arrays (b : Block) (i : Nat) : (dropEntry b i).arrays = b.arrays := rfl
@[simp] theorem dropEntry_groups (b : Block) (i : Nat) : (dropEntry b i).groups = b.groups := rfl
@[simp] theorem dropEntry_kiln (b : Block) (i : Nat) : (dropEntry b i).kiln = b.kiln := rfl
@[simp] theorem dropEntry_xfers (b : Block) (i : Nat) : (dropEntry b i).xfers = b.xfers := rfl
@[simp] theorem dropEntry_grants (b : Block) (i : Nat) : (dropEntry b i).grants = b.grants := rfl
@[simp] theorem dropEntry_spillUse (b : Block) (i : Nat) : (dropEntry b i).spillUse = b.spillUse := rfl
@[simp] theorem dropEntry_preParked (b : Block) (i : Nat) : (dropEntry b i).preParked = b.preParked := rfl
@[simp] theorem dropEntry_spares (b : Block) (i : Nat) : (dropEntry b i).spares = b.spares := rfl
@[simp] theorem dropEntry_wheelNext (b : Block) (i : Nat) : (dropEntry b i).wheelNext = b.wheelNext := rfl
@[simp] theorem dropEntry_vecNext (b : Block) (i : Nat) : (dropEntry b i).vecNext = b.vecNext := rfl
@[simp] theorem dropEntry_rules (b : Block) (i : Nat) : (dropEntry b i).rules = b.rules := rfl
@[simp] theorem dropEntry_jobs (b : Block) (i : Nat) : (dropEntry b i).jobs = b.jobs := rfl
@[simp] theorem dropEntry_line (b : Block) (i : Nat) : (dropEntry b i).line = b.line := rfl
@[simp] theorem dropEntry_chain (b : Block) (i : Nat) : (dropEntry b i).chain = b.chain := rfl
@[simp] theorem dropEntry_fabTags (b : Block) (i : Nat) : (dropEntry b i).fabTags = b.fabTags := rfl
@[simp] theorem dropEntry_fabTx (b : Block) (i : Nat) : (dropEntry b i).fabTx = b.fabTx := rfl
@[simp] theorem dropEntry_fabLoop (b : Block) (i : Nat) : (dropEntry b i).fabLoop = b.fabLoop := rfl
@[simp] theorem dropEntry_posts (b : Block) (i : Nat) : (dropEntry b i).posts = b.posts := rfl
@[simp] theorem dropEntry_inbuf (b : Block) (i : Nat) : (dropEntry b i).inbuf = b.inbuf := rfl
@[simp] theorem dropEntry_chks (b : Block) (i : Nat) : (dropEntry b i).chks = b.chks := rfl
@[simp] theorem dropEntry_launch (b : Block) (i : Nat) : (dropEntry b i).launch = b.launch := rfl
@[simp] theorem dropEntry_launchRead (b : Block) (i : Nat) : (dropEntry b i).launchRead = b.launchRead := rfl
@[simp] theorem dropEntry_notices (b : Block) (i : Nat) : (dropEntry b i).notices = b.notices := rfl
@[simp] theorem dropEntry_noticeOut (b : Block) (i : Nat) : (dropEntry b i).noticeOut = b.noticeOut := rfl
@[simp] theorem dropEntry_recNext (b : Block) (i : Nat) : (dropEntry b i).recNext = b.recNext := rfl
@[simp] theorem dropEntry_engFault (b : Block) (i : Nat) : (dropEntry b i).engFault = b.engFault := rfl
@[simp] theorem dropEntry_rst (b : Block) (i : Nat) : (dropEntry b i).rst = b.rst := rfl
@[simp] theorem dropEntry_steward (b : Block) (i : Nat) : (dropEntry b i).steward = b.steward := rfl
@[simp] theorem dropEntry_power (b : Block) (i : Nat) : (dropEntry b i).power = b.power := rfl
@[simp] theorem dropEntry_cp (b : Block) (i : Nat) : (dropEntry b i).cp = b.cp := rfl
@[simp] theorem dropEntry_cpQ (b : Block) (i : Nat) : (dropEntry b i).cpQ = b.cpQ := rfl
@[simp] theorem dropEntry_coins (b : Block) (i : Nat) : (dropEntry b i).coins = b.coins := rfl
@[simp] theorem dropEntry_noticeNew (b : Block) (i : Nat) : (dropEntry b i).noticeNew = b.noticeNew := rfl
@[simp] theorem dropEntry_acts (b : Block) (i : Nat) : (dropEntry b i).acts = b.acts := rfl
@[simp] theorem dropEntry_jtag (b : Block) (i : Nat) : (dropEntry b i).jtag = b.jtag := rfl
@[simp] theorem dropEntry_rlocks (b : Block) (i : Nat) : (dropEntry b i).rlocks = b.rlocks := rfl
@[simp] theorem dropEntry_freeTick (b : Block) (i : Nat) : (dropEntry b i).freeTick = b.freeTick := rfl

end Sys2Proof.Machine
end

