-- ==== Sys2Proof/Laws/Regs.lean ====
section
/-! SUPPORT. The register file: every register has its own address, a write of a register or a field reads back, and leaves every other
register as it was. -/

namespace Sys2Proof.Laws

open Sys2Proof Sys2Proof.Machine

theorem ofAddr_fabPeer (n : Fin 4096) : Reg.ofAddr (Reg.fabPeer n).addr = some (.fabPeer n) := by
  have hq : (0x0A8000 + 8 * n.val) / 0x10000 = 0xA := by omega
  have hr : (0x0A8000 + 8 * n.val) % 0x10000 = 0x8000 + 8 * n.val := by omega
  have h1 : idx? 16 8 (0x8000 + 8 * n.val - 0x0100) = none := by
    unfold idx?
    rw [if_neg]
    simp only [Bool.and_eq_true, decide_eq_true_eq, not_and]
    omega
  have h2 : idx? 4096 8 (0x8000 + 8 * n.val - 0x8000) = some n := by
    unfold idx?
    rw [if_pos]
    · have hv : (0x8000 + 8 * n.val - 0x8000) / 8 = n.val := by omega
      rw [hv]
      exact congrArg some (Fin.ext (Nat.mod_eq_of_lt n.isLt))
    · simp only [Bool.and_eq_true, beq_iff_eq, decide_eq_true_eq]
      omega
  unfold Reg.ofAddr Reg.addr
  rw [hq, hr]
  simp only [regsPageA]
  split
  all_goals first
    | omega
    | (rw [if_pos (by omega), if_pos (by omega), h1, h2]; rfl)

/-- The address table finds each register at its own address. -/
theorem ofAddr_addr (r : Reg) : Reg.ofAddr r.addr = some r := by
  cases r
  case engFaultRec n w => revert n w; decide +kernel
  case engCtxFault c w => revert c w; decide +kernel
  case schStrand c s => revert c s; decide +kernel
  case schWin c k => revert c k; decide +kernel
  case fabPeer n => exact ofAddr_fabPeer n
  all_goals first
    | rfl
    | (rename_i k; revert k; decide +kernel)

theorem addr_inj {r r' : Reg} (h : r.addr = r'.addr) : r = r' :=
  Option.some.inj ((ofAddr_addr r).symm.trans ((congrArg Reg.ofAddr h).trans (ofAddr_addr r')))

theorem addr_ne {r r' : Reg} (h : r' ≠ r) : r'.addr ≠ r.addr := fun e => h (addr_inj e)

@[simp] theorem rawReg_setRaw (b : Block) (r : Reg) (v : W64) : rawReg (setRaw b r v) r = v := spGet_spPut_self _ _ _ _

theorem rawReg_setRaw_ne (b : Block) {r r' : Reg} (v : W64) (h : r' ≠ r) : rawReg (setRaw b r v) r' = rawReg b r' := by
  unfold rawReg setRaw
  by_cases hv : v = r.resetVal
  · simp only [spPut, hv, if_true]
    exact spGet_spDel_ne _ _ (addr_ne h)
  · simp only [spPut, hv, if_false]
    exact spGet_spIns_ne _ _ _ (addr_ne h)

theorem getFld_setRaw_ne (b : Block) {r r' : Reg} (v : W64) (lo wid : Nat) (h : r' ≠ r) :
    getFld (setRaw b r v) r' lo wid = getFld b r' lo wid := by
  simp only [getFld, rawReg_setRaw_ne b v h]

theorem rawReg_setFld_ne (b : Block) {r r' : Reg} (lo wid v : Nat) (h : r' ≠ r) : rawReg (setFld b r lo wid v) r' = rawReg b r' :=
  rawReg_setRaw_ne b _ h

theorem getFld_setFld_ne (b : Block) {r r' : Reg} (lo wid v lo' wid' : Nat) (h : r' ≠ r) :
    getFld (setFld b r lo wid v) r' lo' wid' = getFld b r' lo' wid' := by
  simp only [getFld, rawReg_setFld_ne b lo wid v h]

/-- Bit `i` of a word after `insertBits`. -/
theorem insertBits_getLsbD (w : W64) (lo wid v i : Nat) (hi : i < 64) :
    (insertBits w lo wid v).getLsbD i = if lo ≤ i ∧ i < lo + wid then v.testBit (i - lo) else w.getLsbD i := by
  have hm : ∀ j, (2 ^ wid - 1 : Nat).testBit j = decide (j < wid) := fun j => by simp [Nat.testBit_two_pow_sub_one]
  simp only [insertBits, BitVec.getLsbD_or, BitVec.getLsbD_and, BitVec.getLsbD_not, BitVec.getLsbD_ofNat, hi, decide_true,
    Bool.true_and, Nat.testBit_shiftLeft, hm]
  by_cases h1 : lo ≤ i
  · by_cases h2 : i < lo + wid
    · have : i - lo < wid := by omega
      simp [h1, h2, this]
    · have : ¬ i - lo < wid := by omega
      simp [h1, h2, this]
  · simp [h1]

/-- Bit `i` of a field. -/
theorem fld_testBit (w : W64) (lo wid i : Nat) : ((w.toNat >>> lo) % 2 ^ wid).testBit i = (decide (i < wid) && w.getLsbD (lo + i)) := by
  rw [Nat.testBit_mod_two_pow, Nat.testBit_shiftRight]
  rfl

/-- A field reads as what was written into it. -/
theorem fld_insertBits (w : W64) {lo wid : Nat} (v : Nat) (h : lo + wid ≤ 64) :
    ((insertBits w lo wid v).toNat >>> lo) % 2 ^ wid = v % 2 ^ wid := by
  apply Nat.eq_of_testBit_eq
  intro i
  rw [fld_testBit, Nat.testBit_mod_two_pow]
  by_cases hi : i < wid
  · rw [insertBits_getLsbD _ _ _ _ _ (by omega), if_pos ⟨by omega, by omega⟩]
    simp [hi]
  · simp [hi]

/-- A field that shares no bit with the written one is unchanged. -/
theorem fld_insertBits_apart (w : W64) {lo wid lo' wid' : Nat} (v : Nat) (h : lo' + wid' ≤ 64) (hd : lo' + wid' ≤ lo ∨ lo + wid ≤ lo') :
    ((insertBits w lo wid v).toNat >>> lo') % 2 ^ wid' = (w.toNat >>> lo') % 2 ^ wid' := by
  apply Nat.eq_of_testBit_eq
  intro i
  rw [fld_testBit, fld_testBit]
  by_cases hi : i < wid'
  · rw [insertBits_getLsbD _ _ _ _ _ (by omega), if_neg (by omega)]
  · simp [hi]

theorem getFld_setFld (b : Block) (r : Reg) {lo wid : Nat} (v : Nat) (h : lo + wid ≤ 64) :
    getFld (setFld b r lo wid v) r lo wid = v % 2 ^ wid := by
  simp only [getFld, setFld, rawReg_setRaw]
  exact fld_insertBits _ v h

theorem getFld_setFld_apart (b : Block) (r : Reg) {lo wid lo' wid' : Nat} (v : Nat) (h : lo' + wid' ≤ 64)
    (hd : lo' + wid' ≤ lo ∨ lo + wid ≤ lo') : getFld (setFld b r lo wid v) r lo' wid' = getFld b r lo' wid' := by
  simp only [getFld, setFld, rawReg_setRaw]
  exact fld_insertBits_apart _ v h hd

theorem getFld_lt (b : Block) (r : Reg) (lo wid : Nat) : getFld b r lo wid < 2 ^ wid := Nat.mod_lt _ (Nat.two_pow_pos wid)

/-- A read register value depends on the stored registers alone. -/
theorem rawReg_congr {b b' : Block} (h : b.regs = b'.regs) (r : Reg) : rawReg b r = rawReg b' r := by simp only [rawReg, h]

theorem getFld_congr {b b' : Block} (h : b.regs = b'.regs) (r : Reg) (lo wid : Nat) : getFld b r lo wid = getFld b' r lo wid := by
  simp only [getFld, rawReg_congr h]

/-- What hardware adds or sets stands in the register as a field written; the beat's coincidences are kept beside it (R9). -/
@[simp] theorem rawReg_bumpFld (b : Block) (r r' : Reg) (lo wid n : Nat) :
    rawReg (bumpFld b r lo wid n) r' = rawReg (setFld b r lo wid (min (2 ^ wid - 1) (getFld b r lo wid + n))) r' := rfl

@[simp] theorem rawReg_hwSet (b : Block) (r r' : Reg) (lo : Nat) : rawReg (hwSet b r lo) r' = rawReg (setFld b r lo 1 1) r' := rfl

theorem getFld_bumpFld (b : Block) (r : Reg) {lo wid : Nat} (n : Nat) (h : lo + wid ≤ 64) :
    getFld (bumpFld b r lo wid n) r lo wid = min (2 ^ wid - 1) (getFld b r lo wid + n) := by
  show getFld (setFld b r lo wid (min (2 ^ wid - 1) (getFld b r lo wid + n))) r lo wid = _
  rw [getFld_setFld _ _ _ h, Nat.mod_eq_of_lt]
  have := Nat.two_pow_pos wid
  omega

theorem getFld_hwSet (b : Block) (r : Reg) {lo : Nat} (h : lo + 1 ≤ 64) : getFld (hwSet b r lo) r lo 1 = 1 := by
  show getFld (setFld b r lo 1 1) r lo 1 = 1
  rw [getFld_setFld _ _ _ h]
  rfl

theorem getFld_wrapFld (b : Block) (r : Reg) {lo wid : Nat} (n : Nat) (h : lo + wid ≤ 64) :
    getFld (wrapFld b r lo wid n) r lo wid = (getFld b r lo wid + n) % 2 ^ wid := by
  unfold wrapFld
  rw [getFld_setFld _ _ _ h, Nat.mod_mod]

end Sys2Proof.Laws
end

