-- ==== Sys2Proof/Laws/Ops.lean ====
section
/-! SUPPORT. What each shared operation can do, said once: how a command reaches the block, notices, raising a code, pegs, memory with ECC,
and the parts of the block. -/

namespace Sys2Proof.Laws

open Sys2Proof Sys2Proof.Machine

/-! ### How a command reaches the block -/

theorem onBlk_eq (s : State) (f : Block → Block) : s.onBlk f = .next { s with blk := { f s.blk with pins := s.blk.pins } } := rfl

theorem onLive_live {s : State} (f : Block → Block) (h : live s.blk = true) :
    s.onLive f = .next { s with blk := { f s.blk with pins := s.blk.pins } } := by
  simp only [State.onLive, State.onBlk, State.on, h, if_true]

theorem onLive_dead {s : State} (f : Block → Block) (h : live s.blk = false) : s.onLive f = .next s := by
  simp only [State.onLive, State.onBlk, State.on, h, Bool.false_eq_true, if_false]

theorem onWrite_taken {s : State} {r : Reg} (f : Block → Block) (h : cpOpen s.blk = true) (hp : pageUp s.blk r.addr = true) :
    s.onWrite r f = .next { s with blk := { respond (f s.blk) 0#64 0 with pins := s.blk.pins } } := by
  simp only [State.onWrite, State.onBlk, State.on, h, hp, Bool.not_true, Bool.false_eq_true, if_false]

theorem onWrite_down {s : State} {r : Reg} (f : Block → Block) (h : cpOpen s.blk = true) (hp : pageUp s.blk r.addr = false) :
    s.onWrite r f = .next { s with blk := respond s.blk 0#64 2 } := by
  simp only [State.onWrite, State.onBlk, State.on, h, hp, Bool.not_true, Bool.not_false, Bool.false_eq_true, if_false, if_true]
  rfl

theorem onWrite_shut {s : State} {r : Reg} (f : Block → Block) (h : cpOpen s.blk = false) : s.onWrite r f = .next s := by
  simp only [State.onWrite, State.onBlk, State.on, h, Bool.not_false, if_true]

/-! ### Parts of the block -/

theorem get_at {α : Type} {n : Nat} (v : Vector α n) (i : Fin n) : v.get i = v[i.val] := rfl

@[simp] theorem getCtx_modCtx (b : Block) (c : Ctx) (f : CtxSt → CtxSt) : getCtx (modCtx b c f) c = f (getCtx b c) := by
  simp [getCtx, modCtx, get_at]

theorem getCtx_modCtx_ne (b : Block) {c d : Ctx} (f : CtxSt → CtxSt) (h : d ≠ c) : getCtx (modCtx b c f) d = getCtx b d := by
  have : c.val ≠ d.val := fun e => h (Fin.ext e.symm)
  simp [getCtx, modCtx, get_at, this]

@[simp] theorem getStrand_modStrand (b : Block) (c : Ctx) (s : Strand) (f : StrandSt → StrandSt) :
    getStrand (modStrand b c s f) c s = f (getStrand b c s) := by
  simp [getStrand, modStrand, get_at]

theorem getStrand_modStrand_ne (b : Block) {c d : Ctx} {s t : Strand} (f : StrandSt → StrandSt) (h : d ≠ c ∨ t ≠ s) :
    getStrand (modStrand b c s f) d t = getStrand b d t := by
  unfold getStrand modStrand
  by_cases hd : d = c
  · subst hd
    have ht : s.val ≠ t.val := fun e => (h.resolve_left (fun x => x rfl)) (Fin.ext e.symm)
    simp [get_at, ht]
  · rw [getCtx_modCtx_ne _ _ hd]

@[simp] theorem getPeg_setPeg (b : Block) (p : Peg) (x : PegSt) : getPeg (setPeg b p x) p = x := by
  simp [getPeg, setPeg, get_at]

theorem getPeg_setPeg_ne (b : Block) {p q : Peg} (x : PegSt) (h : q ≠ p) : getPeg (setPeg b p x) q = getPeg b q := by
  have : p.val ≠ q.val := fun e => h (Fin.ext e.symm)
  simp [getPeg, setPeg, get_at, this]

@[simp] theorem getArr_modArr (b : Block) (n : Arr) (f : ArraySt → ArraySt) : getArr (modArr b n f) n = f (getArr b n) := by
  simp [getArr, modArr, get_at]

theorem getArr_modArr_ne (b : Block) {n m : Arr} (f : ArraySt → ArraySt) (h : m ≠ n) : getArr (modArr b n f) m = getArr b m := by
  have : n.val ≠ m.val := fun e => h (Fin.ext e.symm)
  simp [getArr, modArr, get_at, this]

@[simp] theorem getGrp_modGrp (b : Block) (g : Grp) (f : GroupSt → GroupSt) : getGrp (modGrp b g f) g = f (getGrp b g) := by
  simp [getGrp, modGrp, get_at]

theorem getGrp_modGrp_ne (b : Block) {g h : Grp} (f : GroupSt → GroupSt) (hn : h ≠ g) : getGrp (modGrp b g f) h = getGrp b h := by
  have : g.val ≠ h.val := fun e => hn (Fin.ext e.symm)
  simp [getGrp, modGrp, get_at, this]

@[simp] theorem getChk_modChk (b : Block) (n : Chk) (f : ChkSt → ChkSt) : getChk (modChk b n f) n = f (getChk b n) := by
  simp [getChk, modChk, get_at]

@[simp] theorem getSlot_setSlot (b : Block) (c : Ctx) (s : Strand) (q : Fin 32) (v : W64) : getSlot (setSlot b c s q v) c s q = v := by
  simp [getSlot, setSlot, get_at]

theorem getSlot_setSlot_ne (b : Block) (c : Ctx) (s : Strand) {q r : Fin 32} (v : W64) (h : r ≠ q) :
    getSlot (setSlot b c s q v) c s r = getSlot b c s r := by
  have : q.val ≠ r.val := fun e => h (Fin.ext e.symm)
  simp [getSlot, setSlot, get_at, this]

/-! ### Notices and codes -/

/-- A response touches the responses of the control port alone (R369). -/
theorem respond_frame (b : Block) (v : W64) (e : Nat) : ∃ r q, respond b v e = { b with cp := r, cpQ := q } := ⟨_, _, rfl⟩

/-- What a notice may touch: registers with the counts of this beat, and the notice queue. -/
structure NoticeOut where
  regs : List (Nat × W64)
  coins : List Coin
  notices : List W64
  new : Nat

/-- `b` with those parts replaced. -/
def NoticeOut.on (n : NoticeOut) (b : Block) : Block :=
  { b with regs := n.regs, coins := n.coins, notices := n.notices, noticeNew := n.new }

/-- The parts of `b` itself. -/
def NoticeOut.of (b : Block) : NoticeOut := ⟨b.regs, b.coins, b.notices, b.noticeNew⟩

/-- A notice touches the queue or the drop count alone (R372). -/
theorem notify_frame (b : Block) (k : Nat) (c : Option Ctx) (d e : Nat) (j : Bool) : ∃ n : NoticeOut, notify b k c d e j = n.on b := by
  unfold notify
  dsimp only
  split
  · exact ⟨⟨b.regs, b.coins, _, _⟩, rfl⟩
  · exact ⟨⟨_, _, _, b.noticeNew⟩, rfl⟩

theorem putRec_frame (b : Block) (at_ : Fin 4 → Reg) (ws : List W64) : ∃ r, putRec b at_ ws = { b with regs := r } := by
  unfold putRec
  generalize allFin 4 = l
  induction l generalizing b with
  | nil => exact ⟨b.regs, rfl⟩
  | cons x l ih =>
    obtain ⟨r, h⟩ := ih (setRaw b (at_ x) (ws.getD x.val 0#64))
    exact ⟨r, by rw [List.foldl_cons, h]; rfl⟩

/-- A record touches the ring, its pointer and the notices alone (R323). -/
theorem ringRecord_frame (b : Block) (code : Nat) (ws : List W64) (c : Option Ctx) (ev : Bool) :
    ∃ (n : NoticeOut) (k : Nat), ringRecord b code ws c ev = { n.on b with recNext := k } := by
  unfold ringRecord
  split
  · dsimp only
    split
    · obtain ⟨n, h⟩ := notify_frame (bumpFld b .engFaultPtr 32 16 1) 1 c (ptrWR (bumpFld b .engFaultPtr 32 16 1)) code false
      exact ⟨n, b.recNext, by rw [h]; rfl⟩
    · exact ⟨NoticeOut.of (bumpFld b .engFaultPtr 32 16 1), b.recNext, rfl⟩
  · obtain ⟨r, h⟩ := putRec_frame b (fun w => .engFaultRec (Fin.ofNat 64 b.recNext) w) ws
    dsimp only
    rw [h]
    generalize hd : setFld { ({ b with regs := r } : Block) with recNext := b.recNext + 1 } .engFaultPtr 0 16 ((b.recNext + 1) % 65536) = d
    have hd' : ∃ r, d = { ({ b with regs := r } : Block) with recNext := b.recNext + 1 } := ⟨_, hd.symm⟩
    obtain ⟨r', rfl⟩ := hd'
    clear hd
    split
    · obtain ⟨n, h'⟩ := notify_frame ({ b with regs := r', recNext := b.recNext + 1 } : Block) 1 c (ptrWR { b with regs := r', recNext := b.recNext + 1 }) code false
      exact ⟨n, b.recNext + 1, h'⟩
    · exact ⟨⟨r', b.coins, b.notices, b.noticeNew⟩, b.recNext + 1, rfl⟩

theorem enterFaulted_frame (b : Block) (c : Ctx) (ws : List W64) : ∃ r x, enterFaulted b c ws = { b with regs := r, ctxs := x } := by
  unfold enterFaulted
  obtain ⟨r, h⟩ := putRec_frame b (fun w => .engCtxFault c w) ws
  rw [h]
  exact ⟨r, _, rfl⟩

/-- Raising a code touches registers, context states, notices, the record count and the engine fault alone (R319 to R323). -/
theorem raise_frame (b : Block) (code : Code) (t : Site) :
    ∃ (n : NoticeOut) (x : Vector CtxSt 16) (k : Nat) (e : Option Nat),
      raise b code t = { n.on b with ctxs := x, recNext := k, engFault := e } := by
  unfold raise
  generalize hb : bumpFld b (.engEventCnt (Fin.ofNat 26 code.num)) 0 32 1 = d
  have hd : ∃ r k, d = { b with regs := r, coins := k } := ⟨_, _, hb.symm⟩
  obtain ⟨r0, k0, rfl⟩ := hd
  clear hb
  dsimp only
  split
  · split
    · obtain ⟨n, k, h⟩ := ringRecord_frame { b with regs := r0, coins := k0 } code.num
        (recordWords { b with regs := r0, coins := k0 } code.num 0 t b.recNext) t.ctx true
      exact ⟨n, b.ctxs, k, b.engFault, h⟩
    · exact ⟨⟨r0, k0, b.notices, b.noticeNew⟩, b.ctxs, b.recNext, b.engFault, rfl⟩
  · generalize (if code = .arrayRetired then none else t.ctx) = o
    cases o with
    | some c =>
      dsimp only
      split
      · obtain ⟨r1, x, h1⟩ := enterFaulted_frame { b with regs := r0, coins := k0 } c
          (recordWords { b with regs := r0, coins := k0 } code.num 1 t b.recNext)
        rw [h1]
        obtain ⟨n, k, h⟩ := ringRecord_frame ({ b with regs := r1, coins := k0, ctxs := x } : Block) code.num
          (recordWords { b with regs := r0, coins := k0 } code.num 1 t b.recNext) (some c) false
        exact ⟨n, x, k, b.engFault, h⟩
      · exact ⟨⟨r0, k0, b.notices, b.noticeNew⟩, b.ctxs, b.recNext, b.engFault, rfl⟩
    | none =>
      dsimp only
      have hf : ∀ (l : List Ctx) (d : Block), (∃ r x, d = { b with regs := r, coins := k0, ctxs := x }) → ∃ r x, l.foldl (fun b c =>
          if activeCtx b c then
            enterFaulted b c (recordWords b code.num 2 { t with ctx := some c, gen := (getCtx b c).gen } b.recNext)
          else b) d = { b with regs := r, coins := k0, ctxs := x } := by
        intro l
        induction l with
        | nil => intro d h; exact h
        | cons c l ih =>
          rintro d ⟨r, x, rfl⟩
          apply ih
          show ∃ r' x', (if activeCtx _ c then enterFaulted _ c _ else _) = _
          split
          · obtain ⟨r', x', h'⟩ := enterFaulted_frame ({ b with regs := r, coins := k0, ctxs := x } : Block) c
              (recordWords { b with regs := r, coins := k0, ctxs := x } code.num 2 { t with ctx := some c, gen := (getCtx { b with regs := r, coins := k0, ctxs := x } c).gen } b.recNext)
            exact ⟨r', x', h'⟩
          · exact ⟨r, x, rfl⟩
      obtain ⟨r1, x1, h1⟩ := hf (allFin 16) { b with regs := r0, coins := k0 } ⟨r0, b.ctxs, rfl⟩
      rw [h1]
      obtain ⟨n, k, h⟩ := ringRecord_frame ({ b with regs := r1, coins := k0, ctxs := x1, engFault := some code.num } : Block) code.num
        (recordWords ({ b with regs := r1, coins := k0, ctxs := x1 } : Block) code.num 2 { t with ctx := none } b.recNext) none false
      exact ⟨n, x1, k, some code.num, h⟩

/-- A post touches the pegs and, above the limit, what raising a code touches (R237). -/
theorem pegAdd_frame (b : Block) (p : Peg) (r : Role) (n : Nat) :
    ∃ (m : NoticeOut) (g : Vector PegSt 256) (x : Vector CtxSt 16) (k : Nat) (e : Option Nat),
      pegAdd b p r n = { m.on b with pegs := g, ctxs := x, recNext := k, engFault := e } := by
  unfold pegAdd
  cases r <;> dsimp only
  all_goals
    split
    · obtain ⟨m, x, k, e, h⟩ := raise_frame _ _ _
      exact ⟨m, _, x, k, e, h⟩
    · exact ⟨NoticeOut.of b, _, b.ctxs, b.recNext, b.engFault, rfl⟩

/-! ### Memory with ECC -/

/-- Without recorded errors a read meets none; it is only counted with its region (R340, R352). -/
theorem eccRead_clean (b : Block) (lo n : Nat) (scrub : Bool) (h1 : b.ecc1 = []) (h2 : b.ecc2 = []) :
    eccRead b lo n scrub = (countSram b lo n, false) := by
  obtain ⟨⟩ := b
  cases h1
  cases h2
  rfl

theorem sramBytes_length (b : Block) (a n : Nat) : (sramBytes b a n).length = n := by simp [sramBytes, memBytes]

end Sys2Proof.Laws
end

