-- ==== Sys2Proof/Laws/Memory.lean ====
section
/-! SUPPORT. SRAM writes with ECC: every one keeps the canonical form, and a write leaves the bytes outside its range alone. -/

namespace Sys2Proof.Laws

open Sys2Proof Sys2Proof.Machine

theorem foldl_sram {β : Type} (f : Block → β → Block) (hf : ∀ b x, (f b x).sram = b.sram) (l : List β) :
    ∀ b, (l.foldl f b).sram = b.sram := by
  induction l with
  | nil => intro b; rfl
  | cons x r ih => intro b; rw [List.foldl_cons, ih, hf]

@[simp] theorem eccLog_sram (b : Block) (w : Nat) (u s : Bool) : (eccLog b w u s).sram = b.sram := by
  rw [eccLog, hwSet_sram, setRaw_sram]

@[simp] theorem eccRead_sram (b : Block) (lo n : Nat) (scrub : Bool) : (eccRead b lo n scrub).1.sram = b.sram := by
  unfold eccRead
  dsimp only
  rw [foldl_sram _ (fun b x => by rw [eccLog_sram, bumpFld_sram]), foldl_sram _ (fun b x => by rw [eccLog_sram, bumpFld_sram])]
  rfl

@[simp] theorem freshEcc_sram (b : Block) (lo n : Nat) : (freshEcc b lo n).sram = b.sram := rfl

theorem sramWrite_wf (b : Block) (a : Nat) (bs : List Byte) (h : Memory.wf b.sram = true) : Memory.wf (sramWrite b a bs).1.sram = true := by
  unfold sramWrite
  dsimp only
  refine foldl_wf _ ?_ _ _ (by rw [eccRead_sram, freshEcc_sram]; exact h)
  intro m i hm
  split
  · exact hm
  · exact memPut_wf _ _ _ hm

/-- A write of SRAM leaves every byte outside its range alone. -/
theorem sramWrite_out (b : Block) (a : Nat) (bs : List Byte) (x : Nat) (h : x < a ∨ a + bs.length ≤ x) :
    memGet (sramWrite b a bs).1.sram x = memGet b.sram x := by
  unfold sramWrite
  dsimp only
  have key : ∀ (l : List Nat) (p : Nat → Bool) (m : Mem), (∀ i ∈ l, i < bs.length) →
      memGet (l.foldl (fun m i => if p (a + i) then m else memPut m (a + i) (bs.getD i 0)) m) x = memGet m x := by
    intro l p
    induction l with
    | nil => intro m _; rfl
    | cons i l ih =>
      intro m hl
      have hi := hl i (List.mem_cons_self ..)
      rw [List.foldl_cons, ih _ (fun j hj => hl j (List.mem_cons_of_mem _ hj))]
      split
      · rfl
      · exact memGet_memPut_ne _ _ (by omega)
  rw [key _ (fun k => (eccRead (freshEcc b a bs.length) a bs.length false).1.ecc2.contains (k / 8)) _ (fun i hi => List.mem_range.mp hi),
    eccRead_sram, freshEcc_sram]

@[simp] theorem eccTouch_sram (b : Block) (l : List Nat) : (eccTouch b l).1.sram = b.sram := by
  unfold eccTouch
  split
  · rfl
  · generalize (l.map (· / 8)).eraseDups = ws
    have key : ∀ (ws : List Nat) (p : Block × Bool), (ws.foldl (fun (p : Block × Bool) w =>
        let (b, bad) := eccRead p.1 (8 * w) 8 false
        (b, p.2 || bad)) p).1.sram = p.1.sram := by
      intro ws
      induction ws with
      | nil => intro p; rfl
      | cons w ws ih =>
        intro p
        rw [List.foldl_cons, ih]
        exact eccRead_sram _ _ _ _
    exact key ws (b, false)

theorem scatter_wf (b : Block) (l : List (ByteRef × Byte)) (h : Memory.wf b.sram = true) : Memory.wf (scatter b l).1.sram = true := by
  unfold scatter
  dsimp only
  refine foldl_wf _ ?_ _ _ (by rw [eccTouch_sram]; exact h)
  intro m p hm
  split
  · exact hm
  · exact putRef_wf _ _ _ hm

theorem deliverFills_wf (b : Block) (fs : List (Nat × Nat × Nat)) (h : Memory.wf b.sram = true) :
    Memory.wf (deliverFills b fs).sram = true :=
  foldl_wf _ (fun m _ hm => setBits_wf m _ _ _ hm) _ _ h

/-- The boot SRAM keeps the form under MGT_BOOT_DATA (R359). -/
theorem writeBootData_wf (b : Block) (v : W64) (h : Memory.wf b.boot = true) : Memory.wf (writeBootData b v).boot = true := by
  unfold writeBootData
  dsimp only
  split
  · exact h
  · exact memPutBytes_wf _ _ _ h

theorem reset_wf : Memory.wf State.reset.blk.sram = true ∧ Memory.wf State.reset.blk.boot = true := by decide

end Sys2Proof.Laws
end

