-- ==== Sys2Proof/Laws/Units.lean ====
section
/-! SUPPORT. What the shared operations around an instruction's end can do: progress, posts and remote tags, the end of a context, completion
and failure of an entry. Each touches a fixed set of fields; everything else of the block stays. -/

namespace Sys2Proof.Laws

open Sys2Proof Sys2Proof.Machine

/-! ### Fields that posts, codes and the end of a context may touch -/

/-- From `b` to `d` nothing but pegs, registers with the counts of this beat, contexts, notices, the record count, the engine fault, waiting
posts, remote tags and packets has changed. -/
def OnlyLinks (b d : Block) : Prop :=
  d = { b with
    pegs := d.pegs, regs := d.regs, coins := d.coins, ctxs := d.ctxs, notices := d.notices, noticeNew := d.noticeNew, recNext := d.recNext
    engFault := d.engFault, posts := d.posts, fabTags := d.fabTags, fabTx := d.fabTx, fabLoop := d.fabLoop }

theorem OnlyLinks.refl (b : Block) : OnlyLinks b b := rfl

theorem OnlyLinks.trans {b d e : Block} (h1 : OnlyLinks b d) (h2 : OnlyLinks d e) : OnlyLinks b e :=
  Eq.trans h2 (by rw [h1])

theorem OnlyLinks.after {b d e : Block} (h2 : OnlyLinks d e) (h1 : OnlyLinks b d) : OnlyLinks b e := h1.trans h2

theorem OnlyLinks.sram {b d : Block} (h : OnlyLinks b d) : d.sram = b.sram := by rw [h]
theorem OnlyLinks.boot {b d : Block} (h : OnlyLinks b d) : d.boot = b.boot := by rw [h]
theorem OnlyLinks.pins {b d : Block} (h : OnlyLinks b d) : d.pins = b.pins := by rw [h]
theorem OnlyLinks.entries {b d : Block} (h : OnlyLinks b d) : d.entries = b.entries := by rw [h]
theorem OnlyLinks.arrays {b d : Block} (h : OnlyLinks b d) : d.arrays = b.arrays := by rw [h]
theorem OnlyLinks.groups {b d : Block} (h : OnlyLinks b d) : d.groups = b.groups := by rw [h]
theorem OnlyLinks.kiln {b d : Block} (h : OnlyLinks b d) : d.kiln = b.kiln := by rw [h]
theorem OnlyLinks.streams {b d : Block} (h : OnlyLinks b d) : d.streams = b.streams := by rw [h]
theorem OnlyLinks.mp {b d : Block} (h : OnlyLinks b d) : d.mp = b.mp := by rw [h]
theorem OnlyLinks.chain {b d : Block} (h : OnlyLinks b d) : d.chain = b.chain := by rw [h]

theorem OnlyLinks.foldl {β : Type} (f : Block → β → Block) (hf : ∀ b x, OnlyLinks b (f b x)) (l : List β) : ∀ b, OnlyLinks b (l.foldl f b) := by
  induction l with
  | nil => exact OnlyLinks.refl
  | cons x r ih => exact fun b => (hf b x).trans (ih _)

/-! ### The operations -/

theorem setFld_links (b : Block) (r : Reg) (lo wid v : Nat) : OnlyLinks b (setFld b r lo wid v) := rfl

theorem modCtx_links (b : Block) (c : Ctx) (f : CtxSt → CtxSt) : OnlyLinks b (modCtx b c f) := rfl

theorem notify_links (b : Block) (k : Nat) (c : Option Ctx) (d e : Nat) (j : Bool) : OnlyLinks b (notify b k c d e j) := by
  obtain ⟨n, h⟩ := notify_frame b k c d e j
  rw [h]
  rfl

theorem raise_links (b : Block) (code : Code) (t : Site) : OnlyLinks b (raise b code t) := by
  obtain ⟨n, x, k, e, h⟩ := raise_frame b code t
  rw [h]
  rfl

theorem pegAdd_links (b : Block) (p : Peg) (r : Role) (n : Nat) : OnlyLinks b (pegAdd b p r n) := by
  obtain ⟨m, g, x, k, e, h⟩ := pegAdd_frame b p r n
  rw [h]
  rfl

theorem pegTake_links (b : Block) (p : Peg) (r : Role) (n : Nat) : OnlyLinks b (pegTake b p r n) := by
  cases r <;> rfl

/-- Progress is noted in the context and its register (R325). -/
theorem progress_links (b : Block) (c : Ctx) : OnlyLinks b (progress b c) := rfl

/-- A request goes to the loopback or to a lane (R291, R294). -/
theorem sendRequest_links (b : Block) (hdr : BitVec 512) (data : List Byte) : OnlyLinks b (sendRequest b hdr data) := by
  unfold sendRequest
  split <;> rfl

/-- A request that takes a remote tag charges the regulator, holds the tag and enters the queue (R294). -/
theorem sendTagged_links {b d : Block} {c : Ctx} {gen : BitVec 16} {peer : Nat} {kind : FabKind} {pk beats arg mask : Nat} {data : List Byte}
    (h : sendTagged b c gen peer kind pk beats arg mask data = some d) : OnlyLinks b d := by
  unfold sendTagged at h
  split at h
  · rename_i t d' ht hd
    unfold chargeRemote at hd
    generalize (if data.isEmpty = true then 64 else data.length) = n at hd
    by_cases hn : n ≤ (getCtx b c).regRemote
    · rw [if_pos hn] at hd
      cases hd
      cases h
      exact (sendRequest_links _ _ _).after rfl
    · rw [if_neg hn] at hd
      cases hd
  · cases h

theorem sendPost_links {b d : Block} {c : Ctx} {gen : BitVec 16} {p : Peg} {r : Role} {n e : Nat} (h : sendPost b c gen p r n e = some d) :
    OnlyLinks b d := by
  unfold sendPost at h
  obtain ⟨d', h', rfl⟩ := Option.map_eq_some_iff.mp h
  exact (sendTagged_links h').trans (modCtx_links _ _ _)

/-- Waiting posts that go out touch links alone (R238). -/
theorem flushPosts_links (b : Block) : OnlyLinks b (flushPosts b) := by
  unfold flushPosts
  refine OnlyLinks.foldl _ (fun d q => ?_) _ _
  split
  · rename_i d' hd
    exact (sendPost_links hd).trans rfl
  · exact OnlyLinks.refl _

/-- A post changes pegs, or what a code touches, or goes out or waits as a message (R236 to R238). -/
theorem strandPost_links (b : Block) (c : Ctx) (s : Strand) (gen : BitVec 16) (p : Peg) (n : Nat) : OnlyLinks b (strandPost b c s gen p n) := by
  unfold strandPost
  split
  · exact OnlyLinks.refl _
  · split
    · exact (flushPosts_links _).after rfl
    · exact pegAdd_links _ _ _ _

theorem syncPost_links (b : Block) (c : Ctx) (s : Strand) (gen : BitVec 16) (w : BitVec 128) : OnlyLinks b (syncPost b c s gen w) := by
  unfold syncPost
  split
  · exact strandPost_links _ _ _ _ _ _
  · exact OnlyLinks.refl _

theorem syncPost_none (b : Block) (c : Ctx) (s : Strand) (gen : BitVec 16) {w : BitVec 128} (h : wordPen w = false) : syncPost b c s gen w = b := by
  simp [syncPost, h]

/-- A context that has ended is DONE and a notice says so (R231, R276). -/
theorem ctxDone_links (b : Block) (c : Ctx) : OnlyLinks b (ctxDone b c) := by
  unfold ctxDone
  dsimp only
  split
  · exact (modCtx_links b c _).trans (notify_links _ _ _ _ _ _)
  · exact OnlyLinks.refl _

/-- Completion takes the entry off the scoreboard, and touches nothing else but links (R22). -/
theorem completeEntry_cases (b : Block) (i : Nat) :
    completeEntry b i = b ∨ ∃ d, OnlyLinks b d ∧ OnlyLinks (dropEntry d i) (completeEntry b i) := by
  unfold completeEntry
  split
  · exact .inl rfl
  · exact .inr ⟨_, syncPost_links _ _ _ _ _, (progress_links _ _).trans (ctxDone_links _ _)⟩

/-- Completion of an entry that posts nothing: it is gone from the scoreboard, every other entry stays (R20, R22). -/
theorem completeEntry_entries {b : Block} {i : Nat} {e : Entry} (he : findEntry b i = some e) (hp : wordPen e.word = false) :
    (completeEntry b i).entries = b.entries.filter (fun x => x.id != i) := by
  unfold completeEntry
  rw [he]
  simp only [syncPost_none b e.ctx e.strand e.gen hp]
  exact ((progress_links _ _).trans (ctxDone_links _ _)).entries

/-- An entry that fails stays, marked, and its context meets the code (R257, R319). -/
theorem failEntry_links (b : Block) (e : Entry) (code : Code) (t : Site) :
    OnlyLinks (modEntry b e.id (fun x => { x with phase := 255 })) (failEntry b e code t) := raise_links _ _ _

/-- The end of an instruction in the issue stage touches links alone (R22). -/
theorem finishIssue_links (b : Block) (e : Entry) : OnlyLinks b (finishIssue b e) :=
  (syncPost_links _ _ _ _ _).trans ((progress_links _ _).trans (ctxDone_links _ _))

/-- The counts that dispatch takes (R236, R254). -/
theorem takeWaits_links (b : Block) (c : Ctx) (s : Strand) (w : Nat) : OnlyLinks b (takeWaits b c s w) := by
  unfold takeWaits
  generalize opWaits w = l
  induction l generalizing b with
  | nil => exact OnlyLinks.refl _
  | cons p l ih =>
    rw [List.foldl_cons]
    refine OnlyLinks.trans ?_ (ih _)
    split
    · exact pegTake_links _ _ _ _
    · exact OnlyLinks.refl _

/-- A refused instruction raises its code and nothing else (R255, R256). -/
theorem refuse_links (b : Block) (c : Ctx) (s : Strand) (w : Nat) (x : Bad) : OnlyLinks b (refuse b c s w x) := raise_links _ _ _

/-! ### Fetch (R252) -/

/-- From `b` to `d` nothing but what the strands have fetched ahead and the counts of SRAM accesses has changed. -/
def OnlyFetched (b d : Block) : Prop := d = { b with fetched := d.fetched, acts := d.acts }

theorem OnlyFetched.refl (b : Block) : OnlyFetched b b := rfl

theorem OnlyFetched.trans {b d e : Block} (h1 : OnlyFetched b d) (h2 : OnlyFetched d e) : OnlyFetched b e := Eq.trans h2 (by rw [h1])

theorem OnlyFetched.clean {b d : Block} (h : OnlyFetched b d) (h1 : b.ecc1 = []) (h2 : b.ecc2 = []) : d.ecc1 = [] ∧ d.ecc2 = [] := by
  rw [h]
  exact ⟨h1, h2⟩

/-- A fetch of an error-free store is counted, and that is all. -/
theorem fetchMeets_fetched (b : Block) (c : Ctx) (s : Strand) (p : Nat) (h1 : b.ecc1 = []) (h2 : b.ecc2 = []) :
    OnlyFetched b (fetchMeets b c s p) := by
  unfold fetchMeets
  split
  · exact OnlyFetched.refl _
  · rw [eccRead_clean _ _ _ _ h1 h2]
    rfl

theorem fetchNext_fetched {b : Block} {x : Block × Bool} (c : Ctx) (s : Strand) (p : Nat) (h1 : b.ecc1 = []) (h2 : b.ecc2 = [])
    (h : OnlyFetched b x.1) : OnlyFetched b (fetchNext x c s p).1 := by
  unfold fetchNext
  split
  · exact h
  · split
    · exact h
    · obtain ⟨k1, k2⟩ := h.clean h1 h2
      exact (h.trans (fetchMeets_fetched x.1 c s p k1 k2)).trans rfl

/-- Fetching ahead from an error-free store touches the instructions fetched ahead alone, and is counted (R252). -/
theorem prefetch_fetched (b : Block) (c : Ctx) (s : Strand) (h1 : b.ecc1 = []) (h2 : b.ecc2 = []) : OnlyFetched b (prefetch b c s) := by
  unfold prefetch
  dsimp only
  generalize (getStrand b c s).pos = p
  have key : ∀ (l : List Nat) (x : Block × Bool), OnlyFetched b x.1 →
      OnlyFetched b (l.foldl (fun (x : Block × Bool) i => fetchNext x c s (p + i)) x).1 := by
    intro l
    induction l with
    | nil => exact fun x h => h
    | cons i l ih => exact fun x h => ih _ (fetchNext_fetched c s (p + i) h1 h2 h)
  exact key _ _ rfl

end Sys2Proof.Laws
end

