-- ==== Sys2Proof/WellFormed.lean ====
section
/-! DEFINITION. Well-formed commands: what the ports of 16 can deliver. The meanings do not rest on it: every command runs, and one that no
port could deliver meets the rule for what it is not (a packet of another kind, a tag that is not held). -/

namespace Sys2Proof

/-- Payload of whole 256-byte beats, at most `most` of them (R292, R374). -/
def beatsOk (most : Nat) (data : List Byte) : Bool := decide (data.length % 256 = 0) && decide (data.length ≤ 256 * most)

/-- Read tags, short tags and the tag of launch reads (R375). -/
def readTagOk (t : BitVec 13) : Bool := decide (t.toNat < 0x1000) || (decide (0x1800 ≤ t.toNat) && decide (t.toNat ≤ 0x1840))

/-- Write tags and short tags (R375). -/
def writeTagOk (t : BitVec 13) : Bool := decide (0x1000 ≤ t.toNat) && decide (t.toNat < 0x1840)

/-- A packet header of kind `k`, or of a kind that R293 reserves, which any receive command may bring; one whose BEATS differ from its transfers
is dropped (R383) but arrives. -/
def packetOk (k : Nat) (hdr : BitVec 512) : Bool :=
  decide (bitsOf hdr.toNat 3 0 = k) || decide (bitsOf hdr.toNat 3 0 = 0) || decide (11 ≤ bitsOf hdr.toNat 3 0)

/-- A frame header whose LEN is its payload's length (R280, R379). -/
def frameOk (hdr : BitVec 192) (n : Nat) : Bool :=
  decide (bitsOf hdr.toNat 89 77 = n) && decide (1 ≤ n) && decide (n ≤ 4096)

/-- Whether a port can deliver the command. -/
def Instr.wf : Instr → Bool
  | .translationWalkDone i ptes err => decide (i < 16) && decide (ptes.length ≤ 3) && (err || !ptes.isEmpty)
  | .mpReadResponse tag _ data => readTagOk tag && beatsOk 16 data && !data.isEmpty
  | .mpWriteCompletion tag _ => writeTagOk tag
  | .tagTimeout tag => decide (tag.toNat ≤ 0x1850)
  | .launchEntry ent img _ => (ent.isEmpty || beatsOk 1 ent) && img.all (fun d => beatsOk 16 d && !d.isEmpty)
  | .startUpEnd _ _ found => found.all (fun q => decide (q.1 < 10 * 0x1000000))
  | .chainFrameArrival hdr data => frameOk hdr data.length
  | .chainCreditReturn cnt => decide (1 ≤ cnt.toNat) && decide (cnt.toNat ≤ 1023)
  | .fabRxWrite hdr data => packetOk 1 hdr && beatsOk 16 data
  | .fabRxWack hdr => packetOk 2 hdr
  | .fabRxOffer hdr => packetOk 3 hdr
  | .fabRxGrant hdr => packetOk 4 hdr
  | .fabRxCdata hdr data => packetOk 5 hdr && beatsOk 16 data
  | .fabRxCdone hdr => packetOk 6 hdr
  | .fabRxPost hdr => packetOk 7 hdr
  | .fabRxPack hdr => packetOk 8 hdr
  | .fabRxRevoke hdr => packetOk 9 hdr
  | .fabRxRack hdr => packetOk 10 hdr
  | .xltInvalPage _ va => decide (va.toNat % 2 ^ 21 = 0)
  | .nop _ _ | .setq _ _ | .addq _ _ | .jump _ _ | .loop _ _ | .event _ _ | .yield _ _ | .yieldExpiry _ _ | .halt _ _
  | .pwait _ _ | .ppost _ _ | .mark _ _ | .fence _ _ | .load _ _ | .store _ _ | .copy _ _ | .fill _ _ | .short _ _
  | .pass _ _ | .passStart _ | .inputCycle _ _ | .rowRead _ | .passComplete _ | .gang _ _ | .wall _ _ | .swap _ _
  | .rampStep _ | .arrayClockGate _ | .preemptStop _ _ | .gopen _ _ | .gpark _ _ | .gresume _ _ | .gclose _ _ | .gmerge _ _
  | .gmergeReoffer _ | .kilnTransferDone _ | .kilnMergeComplete _ | .peerTimeout _ | .glzcfg _ _ | .glzcfgLoad _
  | .glazeCompareResult _ | .glazeRowOut _ | .wheelService _ | .vop _ _ | .norm _ _ | .rulecfgBegin _ _ | .rulecfgAbort _ _
  | .rulecfgCheck _ _ | .update _ _ | .precond _ _ | .sequencerJobStart | .rulePassEntry _ | .line _ _ | .lineStripRestart
  | .chsend _ _ | .chrecv _ _ | .chkseed _ _ | .chkcmp _ _ | .ckpt _ _ | .restore _ _ | .instructionComplete _
  | .streamRequestIssue _ | .chainFrameSend | .chainFrameRepair | .chainHoldLimit | .chainLinkReset _
  | .fabRetryResend _ | .fabTagTimeout _ | .grantTimeout _ | .noticeSend | .stewardHeartbeat | .swdtLost | .scrubPatrol
  | .coneWindowEnd | .vwarnAssert | .vwarnSettleExpiry | .thermWarnAssert | .thermWarnClear | .thermTripAssert
  | .thermSettleExpiry | .rstColdNAssert | .rstColdNRelease _ _ | .rstEngNAssert | .rstEngNRelease | .engAbsentChange _
  | .bootVerifyDone | .engineResetReady _ | .engResetContext _ | .engResetEngine | .fenceComplete _
  | .fenceLimitExpiry _ | .schCtlPreempt _ | .preemptRest _ | .schCtlResume _ | .resumeEntry _ | .strResume _
  | .xltInvalContext _ | .xltInvalAll | .xltRootWrite _ _ | .strSplitWrite _ _ | .strPortmapWrite _ _ | .schCqTailWrite _
  | .schCqConfigWrite _ _ | .schPegCfgWrite _ _ | .schPegWrite _ _ | .schWinWrite _ _ _ | .schFixedWrite _
  | .schLogSizeWrite _ _ | .fabPeerWrite _ _ | .chnCfgWrite _ | .chkFeed _ _ | .chkRegisterWrite _ _ _ | .engFaultPtrWrite _
  | .mgtRetireRequest _ | .mgtPwrReqP0 | .mgtPwrReqP1 | .mgtPwrReqP2 | .mgtPwrReqP3 | .p1Entry | .powerDown
  | .mgtClkCfgWrite _ | .mgtConeLimitsWrite _ | .mgtBootPtrWrite _ | .mgtBootDataWrite _ | .mgtBootGo _ | .dbgRespGo _
  | .dbgVerifyDone | .dbgStewardHalt _ | .dbgStewardStep | .dbgMemDataRead | .readClearCounter _ | .dbgacc _ | .idcode
  | .samplePreload _ | .bypass _ | .registerWrite _ _ _ | .vwarnNRelease | .thermTripNRelease | .powerRemoval
  | .arrAbftCtlWrite _ _ => true

end Sys2Proof
end

