-- ==== Sys2Proof/Tests/Slice0.lean ====
section
/-! SUPPORT. Tests: ill-formed commands are refused by the checks, states and operands that meet the hypotheses of every statement, and small
tests of behaviour with results taken from the rules. -/

namespace Sys2Proof.Tests

open Sys2Proof Sys2Proof.Machine

set_option Elab.async false

/-! ### States -/

/-- The engine out of cold reset. -/
def on : Block := { Block.reset with pins := { Pins.reset with rstCold := true } }

/-- `b` with nothing waiting. -/
def st (b : Block) : State := ⟨b, []⟩

/-- The block that a command leaves. -/
def after (i : Instr) (b : Block) : Block := match exec i (st b) with | .next t => t.blk | _ => Block.reset

/-- Whether a command answers a next state. -/
def nexts (i : Instr) (b : Block) : Bool := match exec i (st b) with | .next _ => true | _ => false

/-- A running engine whose arrays A0 to A3 are usable, with its steward. -/
def up : Block :=
  let b := setFld (setFld (setFld on .engConfig 0 4 15) .engConfig 8 3 4) .engStatus 0 1 1
  { setFld b .mgtBootStatus 0 4 7 with steward := { on.steward with running := true } }

def word128 (l : List (Nat × Nat)) : BitVec 128 := BitVec.ofNat 128 (l.foldl (fun a p => a + p.2 * 2 ^ p.1) 0)
def hdr512 (l : List (Nat × Nat)) : BitVec 512 := BitVec.ofNat 512 (l.foldl (fun a p => a + p.2 * 2 ^ p.1) 0)

/-! ### WellFormed: one ill-formed command for each check, and its well-formed neighbour -/

theorem test_wf_payload : Instr.wf (.mpReadResponse 0x0FFF#13 0#2 (List.replicate 255 0#8)) = false
    ∧ Instr.wf (.mpReadResponse 0x0FFF#13 0#2 []) = false ∧ Instr.wf (.mpReadResponse 0x0FFF#13 0#2 (List.replicate 256 0#8)) = true
    ∧ beatsOk 16 (List.replicate (17 * 256) 0#8) = false := by decide +kernel

theorem test_wf_tags : Instr.wf (.mpReadResponse 0x1000#13 0#2 (List.replicate 256 0#8)) = false
    ∧ Instr.wf (.mpReadResponse 0x183F#13 0#2 (List.replicate 256 0#8)) = true ∧ Instr.wf (.mpWriteCompletion 0x0FFF#13 0#2) = false
    ∧ Instr.wf (.mpWriteCompletion 0x1000#13 0#2) = true ∧ Instr.wf (.mpWriteCompletion 0x1840#13 0#2) = false
    ∧ Instr.wf (.mpReadResponse 0x1840#13 0#2 (List.replicate 256 0#8)) = true ∧ Instr.wf (.tagTimeout 0x1840#13) = true
    ∧ Instr.wf (.tagTimeout 0x1850#13) = true ∧ Instr.wf (.tagTimeout 0x1851#13) = false := by decide +kernel

theorem test_wf_packets : Instr.wf (.fabRxWack (hdr512 [(0, 4)])) = false ∧ Instr.wf (.fabRxWack (hdr512 [(0, 2)])) = true
    ∧ Instr.wf (.fabRxWack (hdr512 [(0, 11)])) = true ∧ Instr.wf (.fabRxCdata (hdr512 [(0, 4)]) []) = false
    ∧ Instr.wf (.fabRxCdata (hdr512 [(0, 5), (110, 1)]) [0#8]) = false
    ∧ Instr.wf (.fabRxCdata (hdr512 [(0, 5), (110, 1)]) (List.replicate 256 0#8)) = true ∧ Instr.wf (.fabRxOffer (hdr512 [(0, 2)])) = false
    ∧ Instr.wf (.fabRxGrant (hdr512 [(0, 3)])) = false ∧ Instr.wf (.fabRxCdone (hdr512 [(0, 5)])) = false ∧ Instr.wf (.fabRxPost (hdr512 [(0, 8)])) = false
    ∧ Instr.wf (.fabRxPack (hdr512 [(0, 7)])) = false ∧ Instr.wf (.fabRxRevoke (hdr512 [(0, 10)])) = false ∧ Instr.wf (.fabRxRack (hdr512 [(0, 9)])) = false
    ∧ Instr.wf (.fabRxWrite (hdr512 [(0, 2)]) []) = false ∧ Instr.wf (.fabRxWrite (hdr512 [(0, 1)]) [0#8]) = false := by decide +kernel

theorem test_wf_frames : Instr.wf (.chainFrameArrival 0#192 []) = false ∧ Instr.wf (.chainFrameArrival 0#192 [0#8]) = false
    ∧ Instr.wf (.chainFrameArrival (BitVec.ofNat 192 (2 ^ 77)) [0#8]) = true ∧ Instr.wf (.chainCreditReturn 0#11) = false
    ∧ Instr.wf (.chainCreditReturn 1023#11) = true ∧ Instr.wf (.chainCreditReturn 1024#11) = false := by decide +kernel

theorem test_wf_walks_words : Instr.wf (.translationWalkDone 16 [0#64] false) = false ∧ Instr.wf (.translationWalkDone 15 [0#64, 0#64, 0#64, 0#64] false) = false
    ∧ Instr.wf (.translationWalkDone 15 [] false) = false ∧ Instr.wf (.translationWalkDone 15 [] true) = true
    ∧ Instr.wf (.startUpEnd 0#4 false [(10 * 0x1000000, true)]) = false ∧ Instr.wf (.startUpEnd 0#4 false [(5, true)]) = true
    ∧ Instr.wf (.xltInvalPage 0 1#49) = false ∧ Instr.wf (.xltInvalPage 0 (BitVec.ofNat 49 (2 ^ 21))) = true := by decide +kernel

/-! ### Hypotheses of the statements: the machine, resets, supply, power -/

theorem test_hyp_beat : (st on).pending = [] ∧ live on = true ∧ live Block.reset = false := by decide +kernel

theorem test_hyp_quiet : QuietBeat on := ⟨by decide +kernel, rfl, rfl, fun c f h => by
  have : ∀ c, (getCtx on c).fence = none := by decide +kernel
  rw [this c] at h; cases h⟩

theorem test_hyp_pins : pinEvent .scrubPatrol = false ∧ ∃ t, exec .scrubPatrol (st up) = .next t := ⟨rfl, _, rfl⟩

theorem test_hyp_dead : live Block.reset = false ∧ reachesDead .scrubPatrol = false := by decide +kernel

theorem test_hyp_cold_invariant : coldHeld State.reset ∧ State.reset.blk.pins.rstCold = false ∧ ∃ t, step State.reset = .next t :=
  ⟨fun _ => rfl, rfl, _, rfl⟩

theorem test_hyp_cold_edges : on.pins.rstCold = true ∧ Block.reset.pins.rstCold = false ∧ Block.reset.pins.absent = false := by decide +kernel

theorem test_hyp_straps : (∀ en ix, Instr.scrubPatrol ≠ .rstColdNRelease en ix) ∧ ∃ t, exec .scrubPatrol (st up) = .next t :=
  ⟨(nofun), _, rfl⟩

/-- The supply warning asserted, released at beat 3, and settled. -/
def vLow : Block := { on with pins := { on.pins with vwarn := false } }
def vSettled : Block :=
  { setFld (setFld on .mgtVwarn 25 1 1) .mgtVwarn 0 24 7 with beat := 10, power := { on.power with vClearAt := some 3 } }

theorem test_hyp_vwarn : live on = true ∧ on.pins.vwarn = true ∧ live vLow = true ∧ vLow.pins.vwarn = false
    ∧ live vSettled = true ∧ vSettled.power.vClearAt = some 3 ∧ frozenV vSettled = true ∧ stoppedT vSettled = false
    ∧ getFld vSettled .mgtVwarn 0 24 ≤ vSettled.beat - 3 := by decide +kernel

def tWarm : Block := { on with pins := { on.pins with thermWarn := false } }
def tLow : Block := { on with pins := { on.pins with thermTrip := false } }
def tSettled : Block := { setFld (after .thermTripAssert on) .mgtTherm 0 24 7 with beat := 10, power := { on.power with tClearAt := some 3 } }

theorem test_hyp_therm : on.pins.thermWarn = true ∧ live tWarm = true ∧ tWarm.pins.thermWarn = false ∧ on.pins.thermTrip = true
    ∧ live tLow = true ∧ tLow.pins.thermTrip = false ∧ live tSettled = true ∧ tSettled.power.tClearAt = some 3 ∧ stoppedT tSettled = true
    ∧ getFld tSettled .mgtTherm 0 24 ≤ tSettled.beat - 3 := by decide +kernel

def engLow : Block := { up with pins := { up.pins with rstEng := false }, rst := .computeReset }

theorem test_hyp_engine_reset : live up = true ∧ up.pins.rstEng = true ∧ up.rst = .idle ∧ 7 ≤ getFld up .mgtBootStatus 0 4
    ∧ (∀ c, (getCtx up c).state = .free ∨ (getCtx up c).state = .quarantine) ∧ live engLow = true ∧ engLow.pins.rstEng = false ∧ engLow.rst = .computeReset := by decide +kernel

theorem test_hyp_absent : on.pins.absent ≠ true ∧ bypassed on = false
    ∧ bypassed { on with pins := { on.pins with absent := true } } = true := by decide +kernel

/-- Power states other than P0, and requests for them. -/
def inP (n : Nat) (b : Block) : Block := setFld (setFld b .mgtPwr 0 2 n) .mgtPwr 2 2 n
def asksP (n : Nat) (b : Block) : Block := setFld (setFld b .mgtPwr 0 2 n) .mgtPwr 4 1 (if 2 ≤ n then 1 else 0)

theorem test_hyp_power_requests : portTakes (st up) .mgtPwr = true ∧ getFld up .mgtPwr 2 2 ≠ 2
    ∧ portTakes (st (inP 1 up)) .mgtPwr = true ∧ getFld (inP 1 up) .mgtPwr 2 2 = 1
    ∧ portTakes (st (inP 2 up)) .mgtPwr = true ∧ getFld (inP 2 up) .mgtPwr 2 2 = 2 ∧ (inP 2 up).steward.p2Exit = false := by decide +kernel

def p3Off : Block := { inP 3 up with pins := { up.pins with pwrOffOk := true } }

theorem test_hyp_power_states : live (asksP 1 up) = true ∧ getFld (asksP 1 up) .mgtPwr 0 2 = 1 ∧ getFld (asksP 1 up) .mgtPwr 2 2 = 0
    ∧ unitsIdle (asksP 1 up) = true
    ∧ (∀ n ∈ ([2, 3] : List Nat), live (asksP n up) = true ∧ getFld (asksP n up) .mgtPwr 4 1 = 1 ∧ engineAtRest (asksP n up) = true
        ∧ frozenV (asksP n up) = false ∧ stewardOn (asksP n up) = true ∧ getFld (asksP n up) .mgtPwr 0 2 = n ∧ up.notices.length < 32)
    ∧ getFld p3Off .mgtPwr 2 2 = 3 ∧ p3Off.pins.pwrOffOk = true ∧ p3Off.pins.powered = true := by decide +kernel

/-! ### Start-up, steward, debug, test port -/

def phase (n : Nat) (b : Block) : Block := setFld b .mgtBootStatus 0 4 n

theorem test_hyp_boot : portTakes (st (phase 1 on)) .mgtBootPtr = true ∧ portTakes (st (phase 1 on)) .mgtBootData = true
    ∧ portTakes (st (phase 1 on)) .mgtBootCtl = true ∧ bootOpen (phase 1 on) = true ∧ bootOpen (phase 7 on) = false
    ∧ getFld (phase 1 on) .mgtBootPtr 0 14 < 0x2000 ∧ bootOpen (setFld (phase 8 on) .mgtBootStatus 4 4 4) = true
    ∧ bootOpen (setFld (phase 8 on) .mgtBootStatus 4 4 5) = false := by decide +kernel

theorem test_hyp_start : live (phase 2 on) = true ∧ getFld (phase 2 on) .mgtBootStatus 0 4 = 2 ∧ dbgHalted (phase 2 on) = false
    ∧ (phase 2 on).pins.rstEng = true ∧ (phase 2 on).rst = .idle ∧ (phase 2 on).steward.p2Exit = false ∧ live (phase 5 on) = true ∧ getFld (phase 5 on) .mgtBootStatus 0 4 = 5 ∧ dbgHalted (phase 5 on) = false
    ∧ frozenV (phase 5 on) = false ∧ (phase 5 on).pins.rstEng = true
    ∧ (let b := { up with rst := .steward }
       live b = true ∧ b.rst = .steward ∧ dbgHalted b = false ∧ frozenV b = false ∧ getFld b .engStatus 2 1 = 0)
    ∧ (let b := { inP 2 up with steward := { up.steward with p2Exit := true } }
       live b = true ∧ getFld b .mgtPwr 2 2 = 2 ∧ b.steward.p2Exit = true ∧ b.rst ≠ .steward ∧ getFld b .mgtBootStatus 0 4 ≠ 8 ∧ dbgHalted b = false
        ∧ frozenV b = false ∧ getFld b .engStatus 2 1 = 0 ∧ b.steward.dead = 0) := by decide +kernel

/-- Word 7 of A1's staging is uncorrectable in the SRAM test: it is counted, and A1 is to be retired (R363). -/
theorem test_march : (let b := setFld (setFld (phase 5 on) .engConfig 4 4 15) .mgtBootCtl 1 2 1
      getFld (marchLog b [(0x1000007, true)]) .mgtEcc 32 16 = 1 ∧ marchRetire b [(0x1000007, true)] = 2 ∧ marchRetire b [(4 * 0x1000000 + 7, true)] = 0) := by decide +kernel

def late : Block := { setFld up .mgtConeLimits 30 1 0 with beat := 20000000 }

theorem test_hyp_steward : live late = true ∧ stewardOn late = true ∧ late.steward.beatAt + 350000 ≤ late.beat
    ∧ late.steward.patrolAt + 64 ≤ late.beat ∧ late.ecc1 = [] ∧ late.ecc2 = [] ∧ getFld late .mgtPwr 2 2 ≠ 2 ∧ getFld late .mgtSwdt 24 1 = 0
    ∧ getFld late .mgtSwdt 0 24 ≤ late.beat - late.steward.beatAt ∧ late.notices.length < 32 ∧ late.power.coneAt + 350 ≤ late.beat
    ∧ getFld late .mgtConeLimits 30 1 = 0 := by decide +kernel

theorem test_hyp_limits : portTakes (st up) .mgtClkCfg = true ∧ locked up .mgtClkCfg = false ∧ portTakes (st up) .mgtConeLimits = true
    ∧ locked up .mgtConeLimits = false := by decide +kernel

/-- A challenge is VALID; its response is being verified; the debug unit is unlocked. -/
def challenged : Block := setFld up .dbgChalStatus 0 3 4
def verifying : Block := setFld up .dbgChalStatus 0 3 6
def unlocked : Block := setFld up .dbgChalStatus 0 3 1

theorem test_hyp_debug : portTakes (st challenged) .dbgRespGo = true ∧ getFld challenged .dbgChalStatus 0 3 = 4
    ∧ live verifying = true ∧ dbgHalted verifying = false ∧ inP2 verifying = false ∧ getFld verifying .dbgChalStatus 1 1 = 1
    ∧ cpOpen unlocked = true ∧ getFld unlocked .mgtPwr 2 2 ≠ 2 ∧ getFld unlocked .dbgChalStatus 0 1 = 1 := by decide +kernel

theorem test_hyp_test_port : up.pins.powered = true ∧ up.pins.trst = true ∧ ({ up.pins with trst := false } : Pins).powered = true ∧ live up = true ∧ up.rst ≠ .computeReset ∧ getFld up .mgtPwr 2 2 ≠ 2
    ∧ getFld up .dbgChalStatus 0 1 = 0
    ∧ (let dr : BitVec 96 := BitVec.ofNat 96 (Reg.addr .dbgMemAddr)
       dr.toNat % 2 ^ 24 / 0x10000 = 0x0E ∧ dr.toNat % 8 = 0 ∧ (Reg.ofAddr (dr.toNat % 2 ^ 24)).any Reg.openDbg = false
        ∧ dr.toNat % 2 ^ 24 = Reg.addr .dbgMemAddr ∧ Reg.addr .dbgMemAddr / 0x10000 = 0x0E ∧ dr.getLsbD 88 = false) := by decide +kernel

/-! ### The control port and the register map -/

theorem test_hyp_register_write : cpOpen up = true ∧ pageUp up (Reg.addr .engFaultCtl) = true ∧ dbgLocked up (Reg.addr .engFaultCtl) = false
    ∧ (Reg.arrOf .engFaultCtl).any (fun n => !usable up n) = false ∧ (writeSpecial up 1#64 .engFaultCtl).isNone = true
    ∧ (∃ f ∈ Reg.fields .mgtBootMinver, f.acc = .RWL) ∧ (writeSpecial up 1#64 .mgtBootMinver).isNone = true
    ∧ (coinOf { up with coins := [⟨Reg.addr .schStatus, 0, 1, 0, 1⟩] } .schStatus 0).isSome = true ∧ pageUp up (Reg.addr .mgtBootMinver) = true := by decide +kernel

theorem test_hyp_port_errors : cpOpen up = true ∧ pageUp up 0x0F0000 = false ∧ dbgLocked up (Reg.addr .dbgMemAddr) = true
    ∧ pageUp up (Reg.addr .dbgMemAddr) = true ∧ (0xFE#8 ≠ 0xFF#8) ∧ (0x000101#24).toNat % 8 ≠ 0 := by decide +kernel

theorem test_hyp_register_read : cpOpen up = true ∧ pageUp up (Reg.addr .engNotice) = true ∧ dbgLocked up (Reg.addr .engNotice) = false
    ∧ Reg.arrOf .engNotice = none ∧ Reg.engNotice ≠ Reg.dbgMemData ∧ (∀ f ∈ Reg.fields .schStatus, (63 : Nat) < f.lo ∨ f.lo + f.wid ≤ 63) := by decide +kernel

/-- A1 retired, A3 not in ARRAY_MAP. -/
def lessArrays : Block := setFld (setFld up .engConfig 0 4 7) .mgtRetire 0 4 2

theorem test_hyp_array_registers : cpOpen lessArrays = true ∧ pageUp lessArrays (Reg.addr (.arrStatus 1)) = true
    ∧ Reg.arrOf (.arrStatus 1) = some 1 ∧ usable lessArrays 1 = false ∧ Reg.arrOf (.arrRamp 3) = some 3 ∧ usable lessArrays 3 = false
    ∧ portTakes (st lessArrays) (.arrAbftCtl 2) = true ∧ usable lessArrays 2 = true := by decide +kernel

theorem test_hyp_retire_ptr : portTakes (st up) .mgtRetire = true ∧ portTakes (st up) .engFaultPtr = true
    ∧ (ptrWR up + 65536 - 0) % 65536 ≤ 64 ∧ ¬ (ptrWR up + 65536 - 1) % 65536 ≤ 64 := by decide +kernel

/-! ### Contexts -/

def inState (x : CtxState) (b : Block) : Block := modCtx b 0 (fun y => { y with state := x })

theorem test_hyp_resets : portTakes (st up) .engReset = true
    ∧ (∀ x ∈ ([.running, .done, .preempting, .preempted, .faulted] : List CtxState), resettable (getCtx (inState x up) 0).state = true)
    ∧ (∀ x ∈ ([.free, .fencing, .quarantine] : List CtxState), resettable (getCtx (inState x up) 0).state = false) := by decide +kernel

/-- A fence since beat 0 with nothing outstanding, long past its limit. -/
def fencing : Block := { modCtx up 0 (fun y => { y with state := .fencing, fence := some ⟨0, [], 0#16⟩ }) with beat := 2 ^ 33 }

theorem test_hyp_fences : live fencing = true ∧ fencing.rst = .idle ∧ (getCtx fencing 0).state = .fencing ∧ fencePending fencing 0 = false
    ∧ (getCtx fencing 0).fence = some ⟨0, [], 0#16⟩ ∧ max 1 (getFld fencing .engFenceLimit 0 32) ≤ fencing.beat - 0 := by decide +kernel

/-- A pre-empted context with a strand that goes on. -/
def preempted : Block := modStrand (inState .preempted up) 0 1 (fun x => { x with started := true })

theorem test_hyp_preemption : portTakes (st up) .schCtl = true ∧ (getCtx (inState .running up) 0).state = .running
    ∧ (getCtx preempted 0).state = .preempted ∧ (getStrand preempted 0 1).started = true ∧ (getStrand preempted 0 1).halted = false
    ∧ live (inState .preempting up) = true ∧ (getCtx (inState .preempting up) 0).state = .preempting ∧ ctxRests (inState .preempting up) 0 = true
    ∧ up.notices.length < 32 := by decide +kernel

theorem test_hyp_scheduling : portTakes (st up) (.schPegCfg 3) = true ∧ portTakes (st up) (.schPeg 3) = true ∧ portTakes (st up) (.schWin 0 0) = true
    ∧ portTakes (st up) (.schLogSize 0) = true ∧ portTakes (st up) .schFixed = true ∧ portTakes (st up) .schCqTail = true
    ∧ portTakes (st up) .schCqSize = true ∧ restFree up (pegOwner up 3) = true := by decide +kernel

/-- The command queue runs: enabled, of 64 entries, and one entry waits. -/
def queued : Block := setFld (setFld up .schCqSize 0 4 6) .schCqTail 0 32 1
/-- A launch of strands 0 and 2 of C5 at position 9. -/
def entry5 : Vector W64 8 := ⟨#[0x00000055#64, 0#64, 0#64, 0x0000000000000009#64, 0x0000000000000009#64, 0#64, 0#64, 0#64], rfl⟩
/-- The same with a reserved bit. -/
def entryBad : Vector W64 8 := ⟨#[0x00000455#64, 0#64, 0#64, 0x0000000000000009#64, 0x0000000000000009#64, 0#64, 0#64, 0#64], rfl⟩

/-- A launch of strand 0 of C1 with an image of 3 units of 64 bytes at 0x40000FC0 for position 2. -/
def entryImg : Vector W64 8 :=
  ⟨#[BitVec.ofNat 64 (1 + 1 * 2 ^ 4 + 1 * 2 ^ 8), 0x40000FC0#64, BitVec.ofNat 64 (2 + 3 * 2 ^ 32), 2#64, 0#64, 0#64, 0#64, 0#64], rfl⟩

/-- The launch of entry 0 of the queue with words `w`, of whose image `k` units are copied. -/
def launching (w : Option (Vector W64 8)) (k : Nat) : Block := { setRaw (setFld queued (.strSplit 1) 0 7 64) (.schWin 1 0) (BitVec.ofNat 64 (0x1000 * 2 ^ 32)) with launch := some ⟨0, w, k⟩ }
def readOut : LaunchRead := ⟨0x1000, 64, 1, 0, 0, 0, false⟩

theorem test_hyp_launch : live queued = true ∧ queueRuns queued = true ∧ queued.launch = none ∧ queued.launchRead = none
    ∧ queueGoes (launching (some entry5) 0) = true ∧ (launching (some entry5) 0).launchRead = none
    ∧ (parseLaunch entry5).img = false ∧ (getCtx queued (parseLaunch entry5).ctx).state = .free
    ∧ (parseLaunch entryBad).img = false ∧ (getCtx queued (parseLaunch entryBad).ctx).state = .free
    ∧ launchReason queued (parseLaunch entry5) = 0 ∧ launchReason queued (parseLaunch entryBad) = 3
    ∧ (let b := launching (some entryImg) 0
       let l := parseLaunch entryImg
       l.img = true ∧ l.len = 3 ∧ l.src = 0x40000FC0 ∧ launchReason b l = 0 ∧ frozenV b = false ∧ sharesZero b l.ctx = false ∧ queueGoes b = true
        ∧ 256 ≤ (getCtx b l.ctx).regRead) := by decide +kernel

theorem test_hyp_launch_answers : (let b := after (.launchEntry [] [] false) queued
      b.launch = some ⟨0, none, 0⟩ ∧ b.launchRead.any (fun q => !q.zombie) = true)
    ∧ (let b := after (.launchEntry [] [] false) (launching (some entryImg) 0)
       b.launch = some ⟨0, some entryImg, 0⟩ ∧ b.launchRead.any (fun q => !q.zombie) = true)
    ∧ (after (.launchEntry [] [] false) (launching (some entry5) 0)).launch = none := by decide +kernel

theorem test_hyp_launch_reads : (let b := { launching none 0 with launchRead := some readOut, beat := 2 ^ 33 }
      live b = true ∧ b.launchRead = some readOut ∧ readOut.zombie = false ∧ b.launch = some ⟨0, none, 0⟩ ∧ b.ecc1 = [] ∧ b.ecc2 = []
       ∧ max 1 (getFld b .engTagTimeout 0 32) ≤ b.beat - readOut.issued)
    ∧ launchReason (launching (some entryBad) 0) (parseLaunch entryBad) = 3 ∧ queueGoes (launching (some entryImg) 3) = true := by decide +kernel

theorem test_hyp_translation : portTakes (st up) (.xltRoot 0) = true ∧ portTakes (st up) .xltInval = true ∧ xltBusy up = false
    ∧ xltBusy { up with invalUntil := 1 } = true := by decide +kernel

theorem test_hyp_streams : portTakes (st up) (.strSplit 0) = true ∧ portTakes (st up) .strPortmapCfg = true ∧ portTakes (st up) .strResume = true
    ∧ portTakes (st up) (.fabPeer 7) = true ∧ portTakes (st up) .chnCfg = true ∧ chnTake up = false ∧ up.chain.ring = []
    ∧ (0x0000000000400040#64).toNat % 4 ≤ 1 ∧ 1 ≤ (0x0000000000400040#64).toNat / 2 ^ 6 % 2 ^ 10
    ∧ (0x0000000000400040#64).toNat / 2 ^ 6 % 2 ^ 10 + (0x0000000000400040#64).toNat / 2 ^ 16 % 2 ^ 10 ≤ 1024 := by decide +kernel

theorem test_hyp_check_registers : portTakes (st up) (.chkFeed 0) = true ∧ portTakes (st up) (.chkCtl 0) = true ∧ chkWritable up 0 = true
    ∧ chkWritable (inState .running up) 0 = false := by decide +kernel

def noticed : Block := { up with notices := [7#64, 8#64] }

theorem test_hyp_notices : noticed.notices = 7#64 :: [8#64] ∧ noticed.pins.rstCold = true ∧ noticed.pins.powered = true := by decide +kernel

/-! ### Dispatch -/

/-- The conditions of `Dispatches`, as a test. -/
def dispatchesB (b : Block) (c : Ctx) (q : Strand) (w : BitVec 128) : Bool :=
  live b && issueOn b && strandLive b c q && decide (fetch b c q = .word w) && staticOk q w.toNat && decide (pick b = some (4 * c.val + q.val))
    && decide (b.ecc1 = []) && decide (b.ecc2 = []) && decide (opBad b c q w.toNat = [])

theorem dispatches_of_test {b : Block} {c : Ctx} {q : Strand} {w : BitVec 128} (h : dispatchesB b c q w = true) : Dispatches b c q w := by
  simp only [dispatchesB, Bool.and_eq_true, decide_eq_true_eq] at h
  obtain ⟨⟨⟨⟨⟨⟨⟨⟨h1, h2⟩, h3⟩, h4⟩, h5⟩, h6⟩, h7⟩, h8⟩, h9⟩ := h
  exact ⟨h1, h2, h3, h4, h5, h6, h7, h8, h9⟩

/-- Every window of C0 with 512 KiB from 0; C0 RUNNING, its strand 0 started at position 0 with `v` in slot 0; `m` in the command store. -/
def issueBlk (m : List (Nat × Nat × Nat)) (v : Nat) : Block :=
  let b := (allFin 7).foldl (fun b k => setRaw b (.schWin 0 (Fin.ofNat 8 k.val)) (BitVec.ofNat 64 (0x2000 * 2 ^ 32))) up
  let b := { b with sram := m.foldl (fun s p => memPutBytes s (cmdBase + p.1) (leBytes p.2.1 p.2.2)) [] }
  let b := modCtx b 0 (fun x => { x with state := .running, gen := 3#16 })
  modStrand b 0 0 (fun x => { x with started := true, slots := x.slots.set 0 (BitVec.ofNat 64 v) })

/-- A vector of 16 FP32 numbers at 0x10000, descriptor 1 (R201). -/
def desc1 : List (Nat × Nat × Nat) :=
  [(128, 8, 0x10000 + 1 * 2 ^ 57), (144, 8, 4 + 16 * 2 ^ 40), (184, 8, 16 * 2 ^ 25)]
/-- A 16 by 4 matrix of type 0x01, descriptor 2, and a 16 by 1 matrix of FP32, descriptor 3. -/
def desc23 : List (Nat × Nat × Nat) :=
  [(256, 8, 0x10000 + 1 * 2 ^ 49 + 2 * 2 ^ 57), (272, 8, 2 + 16 * 2 ^ 40), (280, 8, 32 + 4 * 2 ^ 40), (312, 8, 16 * 2 ^ 25), (320, 8, 4 * 2 ^ 25), (352, 8, 8),
   (384, 8, 0x20000 + 2 * 2 ^ 57), (400, 8, 4 + 16 * 2 ^ 40), (408, 8, 64 + 1 * 2 ^ 40), (440, 8, 16 * 2 ^ 25), (448, 8, 1 * 2 ^ 25), (480, 8, 8)]

/-- A block that dispatches `w` as the first word of strand 0 of C0. -/
def withWord (w : BitVec 128) (v : Nat) (f : Block → Block) : Block := f (issueBlk ((0, 16, w.toNat) :: desc1 ++ desc23 ++ [(512, 8, 3 * 2 ^ 30)]) v)

/-- Groups G0 and G1 of strand 0 of C0, open, with the given segments. -/
def opened (tally expect : Nat) (b : Block) : Block :=
  (allFin 2).foldl (fun b g => modGrp b (Fin.ofNat 64 g.val) (fun x => { x with state := .open_, tally := tally, expect := expect })) b

/-- A program of its own on every array, of both kinds. -/
def programmed (b : Block) : Block :=
  (allFin 4).foldl (fun b n => modArr b n (fun a => { a with
    latest := [⟨0, false, 5, List.replicate 8 0#64, 0#64, 0, true⟩, ⟨0, true, 6, List.replicate 8 0#64, 0#64, 0, true⟩] })) b

structure Row where
  ins : Instr
  op : Nat
  act : Option Nat
  u : EUnit
  w : BitVec 128
  v : Nat
  f : Block → Block

def Row.blk (r : Row) : Block := withWord r.w r.v r.f

/-- One dispatch of every instruction that enters a unit. -/
def rows1 : List Row :=
  [⟨.load 0 0, 0x10, none, .load, word128 [(0, 0x10), (32, 1), (47, 4)], 0, id⟩, ⟨.store 0 0, 0x11, none, .store, word128 [(0, 0x11), (32, 1), (47, 4)], 0, id⟩,
   ⟨.copy 0 0, 0x12, none, .load, word128 [(0, 0x12), (32, 1), (47, 1)], 0, id⟩, ⟨.fill 0 0, 0x13, none, .store, word128 [(0, 0x13), (32, 1)], 0, id⟩,
   ⟨.short 0 0, 0x14, none, .short, word128 [(0, 0x14)], 0, id⟩,
   ⟨.pass 0 0, 0x20, none, .array, word128 [(0, 0x20), (34, 1), (47, 1), (55, 1), (81, 4)], 0, programmed⟩,
   ⟨.gang 0 0, 0x21, none, .array, word128 [(0, 0x21), (34, 1), (47, 1), (55, 1), (81, 4), (110, 3)], 0, programmed⟩,
   ⟨.wall 0 0, 0x22, none, .array, word128 [(0, 0x22), (34, 2)], 0, id⟩,
   ⟨.swap 0 0, 0x23, none, .array, word128 [(0, 0x23)], 0, fun b => setFld b .schFixed 0 1 1⟩]

def rows2 : List Row :=
  [⟨.gopen 0 0, 0x28, none, .kiln, word128 [(0, 0x28), (38, 1)], 0, id⟩, ⟨.gpark 0 0, 0x29, none, .kiln, word128 [(0, 0x29)], 0, opened 0 1⟩,
   ⟨.gresume 0 0, 0x2A, none, .kiln, word128 [(0, 0x2A)], 0, opened 0 1⟩,
   ⟨.glzcfg 0 0, 0x30, none, .array, word128 [(0, 0x30), (34, 8)], 0, id⟩,
   ⟨.vop 0 0, 0x38, none, .vec, word128 [(0, 0x38)], 2 ^ 32, id⟩, ⟨.norm 0 0, 0x39, none, .vec, word128 [(0, 0x39)], 8, id⟩,
   ⟨.rulecfgBegin 0 0, 0x3A, some 0, .vec, word128 [(0, 0x3A)], 0, id⟩, ⟨.rulecfgAbort 0 0, 0x3A, some 1, .vec, word128 [(0, 0x3A), (32, 1)], 0, id⟩,
   ⟨.rulecfgCheck 0 0, 0x3A, some 2, .vec, word128 [(0, 0x3A), (32, 2)], 0, id⟩]

def rows3 : List Row :=
  [⟨.update 0 0, 0x3B, none, .vec, word128 [(0, 0x3B)], 0, id⟩, ⟨.precond 0 0, 0x3C, none, .vec, word128 [(0, 0x3C)], 0, id⟩,
   ⟨.line 0 0, 0x40, none, .line, word128 [(0, 0x40), (32, 2), (47, 3)], 0, id⟩,
   ⟨.chsend 0 0, 0x48, none, .chain, word128 [(0, 0x48), (32, 1), (47, 0x1000), (95, 1)], 0, fun b => setRaw b .chnCfg 0x10040#64⟩,
   ⟨.chrecv 0 0, 0x49, none, .chain, word128 [(0, 0x49), (32, 1)], 0, fun b => setRaw b .chnCfg 0x10040#64⟩,
   ⟨.chkseed 0 0, 0x50, none, .chk 0, word128 [(0, 0x50)], 0, id⟩, ⟨.chkcmp 0 0, 0x51, none, .chk 0, word128 [(0, 0x51)], 0, id⟩,
   ⟨.ckpt 0 0, 0x58, none, .store, word128 [(0, 0x58)], 0, id⟩, ⟨.restore 0 0, 0x59, none, .load, word128 [(0, 0x59)], 0, id⟩]

/-- The instruction of the row dispatches, is its word's, and enters its unit's queue. -/
def Row.ok (r : Row) : Bool :=
  dispatchesB r.blk 0 0 r.w && wOpc r.w.toNat == r.op && (r.act.all (fun a => r.w.toNat / 2 ^ 32 % 4 == a))
    && decide ((after r.ins r.blk).entries.map (·.eunit) = [r.u]) && (getStrand (after r.ins r.blk) 0 0).pos == 1
    && (getCtx (after r.ins r.blk) 0).state == .running

theorem test_dispatch_units_1 : rows1.all Row.ok = true := by decide +kernel
theorem test_dispatch_units_2 : rows2.all Row.ok = true := by decide +kernel
theorem test_dispatch_units_3 : rows3.all Row.ok = true := by decide +kernel

/-- GCLOSE and GMERGE with their contributions complete, and short of one. -/
def gcloseW : BitVec 128 := word128 [(0, 0x2B)]
def gmergeW : BitVec 128 := word128 [(0, 0x2C), (38, 1)]

theorem test_dispatch_closes : (let b := withWord gcloseW 0 (fun b => programmed (opened 0 0 b))
      dispatchesB b 0 0 gcloseW && decide ((getGrp b 0).localCnt + (getGrp b 0).remoteCnt = (getGrp b 0).expect)) = true
    ∧ (let b := withWord gcloseW 0 (fun b => programmed (opened 1 1 b))
       dispatchesB b 0 0 gcloseW && decide ((getGrp b 0).localCnt + (getGrp b 0).remoteCnt ≠ (getGrp b 0).expect)
        && decide ((getGrp (after (.gclose 0 0) b) 0).state = .waiting)) = true
    ∧ dispatchesB (withWord gmergeW 0 (opened 0 0)) 0 0 gmergeW = true ∧ dispatchesB (withWord gmergeW 0 (opened 1 1)) 0 0 gmergeW = true := by decide +kernel

/-- SETQ of bits 11:4 of slot 0, and of all of it. -/
def setqW : BitVec 128 := word128 [(0, 0x01), (37, 1), (38, 4), (44, 7), (64, 0xAB)]
def setqAll : BitVec 128 := word128 [(0, 0x01), (64, 0x123456789)]
def addqW : BitVec 128 := word128 [(0, 0x02), (37, 1), (42, 0), (47, 1), (64, 2 ^ 64 - 1)]

theorem test_setq : (dispatchesB (withWord setqW 0xFFFF id) 0 0 setqW && dispatchesB (withWord setqAll 0xFFFF id) 0 0 setqAll) = true
    ∧ getSlot (after (.setq 0 0) (withWord setqW 0xFFFF id)) 0 0 0 = 0xFABF#64
    ∧ getSlot (after (.setq 0 0) (withWord setqAll 0xFFFF id)) 0 0 0 = 0x123456789#64 := by decide +kernel

theorem test_addq_wraps : dispatchesB (withWord addqW 5 id) 0 0 addqW = true ∧ getSlot (after (.addq 0 0) (withWord addqW 5 id)) 0 0 0 = 4#64 := by decide +kernel

theorem test_hyp_static : wOpc (word128 [(0, 1), (37, 1), (38, 60), (44, 4)]).toNat = 0x01 ∧ (word128 [(0, 1), (37, 1), (38, 60), (44, 4)]).getLsbD 37 = true
    ∧ (63 : Nat) < (word128 [(0, 1), (37, 1), (38, 60), (44, 4)]).toNat / 2 ^ 38 % 2 ^ 6 + (word128 [(0, 1), (37, 1), (38, 60), (44, 4)]).toNat / 2 ^ 44 % 2 ^ 6
    ∧ staticOk 0 (word128 [(0, 1), (37, 1), (38, 60), (44, 3)]).toNat = true
    ∧ (word128 [(0, 1), (63, 1)]).toNat / 2 ^ 50 % 2 ^ 14 ≠ 0 ∧ (word128 [(0, 2), (48, 1)]).toNat / 2 ^ 48 % 2 ^ 16 ≠ 0
    ∧ (word128 [(0, 3), (57, 1)]).toNat / 2 ^ 57 ≠ 0 ∧ (word128 [(0, 4), (55, 1)]).toNat / 2 ^ 55 ≠ 0 ∧ (word128 [(0, 5), (54, 1)]).toNat / 2 ^ 54 ≠ 0 := by
  decide +kernel

/-- JUMP to 77 if slot 0 is negative; LOOP to 77 on slot 0. -/
def jumpW : BitVec 128 := word128 [(0, 0x03), (32, 77), (50, 3)]
def loopW : BitVec 128 := word128 [(0, 0x04), (32, 77)]

theorem test_jump : (dispatchesB (withWord jumpW (2 ^ 63) id) 0 0 jumpW && dispatchesB (withWord jumpW 1 id) 0 0 jumpW) = true
    ∧ (getStrand (after (.jump 0 0) (withWord jumpW (2 ^ 63) id)) 0 0).pos = 77
    ∧ (getStrand (after (.jump 0 0) (withWord jumpW 1 id)) 0 0).pos = 1 := by decide +kernel

theorem test_loop : (dispatchesB (withWord loopW 1 id) 0 0 loopW && dispatchesB (withWord loopW 0 id) 0 0 loopW) = true
    ∧ (getStrand (after (.loop 0 0) (withWord loopW 1 id)) 0 0).pos = 1 ∧ getSlot (after (.loop 0 0) (withWord loopW 0 id)) 0 0 0 = 0xFFFFFFFFFFFFFFFF#64
    ∧ (getStrand (after (.loop 0 0) (withWord loopW 0 id)) 0 0).pos = 77 := by decide +kernel

def eventW : BitVec 128 := word128 [(0, 0x05), (32, 0xBEEF), (53, 1)]

theorem test_event : dispatchesB (withWord eventW 0x77 id) 0 0 eventW = true ∧ (withWord eventW 0x77 id).notices.length < 32
    ∧ eventW.getLsbD 53 = true ∧ (readReg (after (.event 0 0) (withWord eventW 0x77 id)) (.schEvent 0)) = 0x00000001_0000BEEF#64
    ∧ (readReg (after (.event 0 0) (withWord eventW 0x77 id)) (.schEventData 0)) = 0x77#64 := by decide +kernel

/-- Peg pair P3 of C0 with producer strand 0 and consumer strand 1, and its counts. -/
def pegged (full empty : Nat) (b : Block) : Block :=
  setPeg (setRaw b (.schPegCfg 3) (BitVec.ofNat 64 (0 + 0 * 2 ^ 4 + 1 * 2 ^ 8 + 2 ^ 24))) 3 ⟨BitVec.ofNat 16 full, BitVec.ofNat 16 empty⟩

/-- NOP, YIELD, HALT, PWAIT, MARK and FENCE with what each needs. -/
def strandRows : List (Nat × BitVec 128) :=
  [(0x00, word128 []), (0x06, word128 [(0, 0x06), (32, 9)]), (0x07, word128 [(0, 0x07)]), (0x08, word128 [(0, 0x08), (32, 3), (40, 2)]),
   (0x0A, word128 [(0, 0x0A)]), (0x0B, word128 [(0, 0x0B)])]

theorem test_hyp_strand_instructions :
    strandRows.all (fun p => let b := withWord p.2 0 (pegged 0 2)
      dispatchesB b 0 0 p.2 && wOpc p.2.toNat == p.1) = true := by decide +kernel

def pwaitW : BitVec 128 := word128 [(0, 0x08), (32, 3), (40, 2)]
def ppostW : BitVec 128 := word128 [(0, 0x09), (32, 3), (40, 2)]

theorem test_pwait_takes : bitAt pwaitW.toNat 13 = false ∧ pegRole (withWord pwaitW 0 (pegged 0 2)) (wPeg pwaitW.toNat) 0 0 = some .producer
    ∧ getPeg (after (.pwait 0 0) (withWord pwaitW 0 (pegged 7 2))) 3 = ⟨7#16, 0#16⟩
    ∧ getPeg (after (.pwait 0 0) (withWord pwaitW 0 (pegged 0 1))) 3 = ⟨0#16, 1#16⟩
    ∧ (getStrand (after (.pwait 0 0) (withWord pwaitW 0 (pegged 0 1))) 0 0).pos = 0 := by decide +kernel

theorem test_ppost_counts : (dispatchesB (withWord ppostW 0 (pegged 5 0)) 0 0 ppostW && dispatchesB (withWord ppostW 0 (pegged 65534 0)) 0 0 ppostW) = true
    ∧ pegRole (withWord ppostW 0 (pegged 5 0)) (wPeg ppostW.toNat) 0 0 = some .producer
    ∧ postRemote (withWord ppostW 0 (pegged 5 0)) (wPeg ppostW.toNat) .producer = false ∧ bitAt ppostW.toNat 12 = false ∧ bitAt ppostW.toNat 13 = false
    ∧ getPeg (after (.ppost 0 0) (withWord ppostW 0 (pegged 5 0))) 3 = ⟨7#16, 0#16⟩
    ∧ (getCtx (after (.ppost 0 0) (withWord ppostW 0 (pegged 65534 0))) 0).state = .faulted := by decide +kernel

def yielded : Block := modStrand (inState .running up) 0 0 (fun x => { x with started := true, yielded := true, yieldUntil := 1 })

theorem test_hyp_yield_expiry : live yielded = true ∧ (getStrand yielded 0 0).yielded = true ∧ (getStrand yielded 0 0).yieldUntil < arrNow yielded + 2 := by decide +kernel

/-- An opcode that is not assigned stops the context, whatever command takes the issue opportunity. -/
theorem test_illegal_instruction : (getCtx (after (.nop 0 0) (withWord (word128 [(0, 0x0F)]) 0 id)) 0).state = .faulted
    ∧ getFld (after (.nop 0 0) (withWord (word128 [(0, 0x0F)]) 0 id)) (.engCtxFault 0 0) 0 8 = 0x0D := by decide +kernel

/-! ### Instructions in their units -/

/-- C0 RUNNING. -/
def run0 : Block := inState .running up

/-- Entry `i` of strand 0 of C0. -/
def ent (i : Nat) (w : BitVec 128) (u : EUnit) (ns : List Arr) (started : Bool) (phase : Nat) : Entry :=
  { id := i, ctx := 0, gen := 0#16, strand := 0, pos := 0, word := w, eunit := u, arrays := ns, started := started, mark := false, tokens := []
    reads := [0#64, 0#64, 0#64, 0#64, 0#64, 0#64], descs := [List.replicate 8 0#64], prog := List.replicate 8 0#64, progNo := 3, seed := 0#64, walk := 0
    slotOut := none, phase := phase, aux := 0, left := 1 }

def withEnt (e : Entry) : Block := { run0 with entries := [e], lastDispatch := 9 }

def worksB (b : Block) (i : Nat) (e : Entry) : Bool := live b && decide (findEntry b i = some e) && !wordPen e.word

theorem works_of_test {b : Block} {i : Nat} {e : Entry} (h : worksB b i e = true) : Works b i e := by
  simp only [worksB, Bool.and_eq_true, decide_eq_true_eq, Bool.not_eq_true'] at h
  exact ⟨h.1.1, h.1.2, h.2⟩

def wallE : Entry := ent 1 (word128 [(0, 0x22), (34, 2)]) .array [0] false 0
def swapE : Entry := ent 1 (word128 [(0, 0x23)]) .array [0] false 0
def seedE : Entry := ent 1 (word128 [(0, 0x50), (34, 1)]) (.chk 0) [] false 0
def cmpE : Entry := ent 1 (word128 [(0, 0x51), (39, 1)]) (.chk 0) [] false 0
def loadE : Entry := ent 1 (word128 [(0, 0x10)]) .load [] true 1
def passDone : Entry := ent 1 (word128 [(0, 0x20)]) .array [0] true 1

/-- Position 0 of A0 with bank 0 as given. -/
def bank0 (s : BankState) (g : Option Grp) (b : Block) : Block :=
  modPos b 0 0 (fun p => { p with b0 := { p.b0 with state := s, grp := g } })

theorem test_hyp_wall_swap : worksB (withEnt wallE) 1 wallE = true ∧ wOpc wallE.word.toNat = 0x22 ∧ arrAt wallE.word.toNat 33 32 = 0 ∧ wallE.phase = 0
    ∧ arrHead (withEnt wallE) 0 = some wallE ∧ earlierDone (withEnt wallE) 0 wallE = true ∧ anyTileHeld (withEnt wallE) 0 = false ∧ liveResume (withEnt wallE) 0 = []
    ∧ liveResume (bank0 .held none (withEnt wallE)) 0 = [] ∧ liveResume (withEnt swapE) 0 = []
    ∧ anyTileHeld (bank0 .held none (withEnt wallE)) 0 = true ∧ arrHead (bank0 .held none (withEnt wallE)) 0 = some wallE
    ∧ worksB (withEnt swapE) 1 swapE = true ∧ wOpc swapE.word.toNat = 0x23 ∧ arrAt swapE.word.toNat 33 32 = 0 ∧ swapE.phase = 0
    ∧ arrHead (withEnt swapE) 0 = some swapE ∧ earlierDone (withEnt swapE) 0 swapE = true := by decide +kernel

theorem test_wall : (getArr (after (.instructionComplete 1) (withEnt wallE)) 0).wall = 2
    ∧ (getCtx (after (.instructionComplete 1) (bank0 .held none (withEnt wallE))) 0).state = .faulted
    ∧ getFld (after (.instructionComplete 1) (bank0 .held none (withEnt wallE))) (.engCtxFault 0 0) 0 8 = 0x0E := by decide +kernel

theorem test_swap : getFld (after (.instructionComplete 1) (withEnt swapE)) .schFixed 5 1 = 1
    ∧ (after (.instructionComplete 1) (withEnt swapE)).entries = [] := by decide +kernel

theorem test_hyp_checks : worksB (withEnt seedE) 1 seedE = true ∧ wOpc seedE.word.toNat = 0x50 ∧ chkIx seedE.word.toNat = 0 ∧ seedE.eunit = .chk 0 ∧ seedE.phase = 0
    ∧ queueHead (withEnt seedE) (.chk 0) = some seedE ∧ chkBusy (withEnt seedE) 0 = false ∧ feedsDone (withEnt seedE) seedE 0 = true
    ∧ worksB (withEnt cmpE) 1 cmpE = true ∧ wOpc cmpE.word.toNat = 0x51 ∧ chkIx cmpE.word.toNat = 0 ∧ cmpE.eunit = .chk 0 ∧ cmpE.phase = 0
    ∧ queueHead (withEnt cmpE) (.chk 0) = some cmpE ∧ chkBusy (withEnt cmpE) 0 = false ∧ feedsDone (withEnt cmpE) cmpE 0 = true
    ∧ cmpE.word.getLsbD 39 = true := by decide +kernel

theorem test_chkcmp : (after (.instructionComplete 1) (withEnt cmpE)).entries = []
    ∧ (getCtx (after (.instructionComplete 1) (setRaw (withEnt cmpE) (.chkValue 0) 9#64)) 0).state = .faulted
    ∧ getFld (after (.instructionComplete 1) (setRaw (withEnt cmpE) (.chkValue 0) 9#64)) (.engCtxFault 0 0) 0 8 = 0x04 := by decide +kernel

theorem test_hyp_complete : worksB (withEnt loadE) 1 loadE = true ∧ loadE.phase = 1 ∧ entryStreamsDone (withEnt loadE) 1 = true
    ∧ worksB (withEnt passDone) 1 passDone = true ∧ passDone.phase = 1 ∧ entryStreamsDone (withEnt passDone) 1 = true
    ∧ wOpc passDone.word.toNat = 0x20 ∧ (after (.passComplete 1) (withEnt passDone)).entries = [] := by decide +kernel

/-! ### Arrays -/

def unitsRunB (b : Block) : Bool := live b && !frozenV b && !stoppedT b && awake b

theorem unitsRun_of_test {b : Block} (h : unitsRunB b = true) : UnitsRun b := by
  simp only [unitsRunB, Bool.and_eq_true, Bool.not_eq_true'] at h
  exact ⟨h.1.1.1, h.1.1.2, h.1.2, h.2⟩

def gateA0 (g : Gate) (b : Block) : Block := modArr b 0 (fun a => { a with gate := g })

theorem test_hyp_ramps : unitsRunB run0 = true ∧ (getArr (gateA0 .running run0) 0).gate = .running ∧ arrIdle (gateA0 .running run0) 0 = true
    ∧ getFld run0 (.arrRamp 0) 16 16 ≤ arrNow { gateA0 .running run0 with beat := 100000 } - (getArr (gateA0 .running run0) 0).idleSince := by decide +kernel

/-- Level 0 to 64 in 16 steps: the first step reaches 4, and 16 steps complete the ramp (R67). -/
theorem test_ramp_step : (let b := modArr (gateA0 .ramping run0) 0 (fun a => { a with adv := ⟨0, 64, 0, 16, 0, 0⟩ })
      (getArr (after (.rampStep 0) b) 0).adv.level = 4 ∧ (getArr (after (.rampStep 0) b) 0).gate = .ramping)
    ∧ (let b := modArr (gateA0 .ramping run0) 0 (fun a => { a with adv := ⟨0, 64, 15, 16, 60, 0⟩ })
      (getArr (after (.rampStep 0) b) 0).adv.level = 64 ∧ (getArr (after (.rampStep 0) b) 0).gate = .running) := by decide +kernel

/-- A DRAIN pass of type 0x01 with K = 4 and M = N = 1 on A0. -/
def passE : Entry := ent 1 (word128 [(0, 0x20), (34, 1), (47, 1), (55, 1), (81, 4)]) .array [0] false 0
def passB : Block := withEnt passE
def passRuns : Block := after (.passStart 0) passB

theorem test_hyp_pass_start : unitsRunB passB = true ∧ usable passB 0 = true ∧ (getArr passB 0).replays = [] ∧ liveResume passB 0 = []
    ∧ arrHead passB 0 = some passE ∧ wOpc passE.word.toNat = 0x20 ∧ pArr passE.word.toNat = 0 ∧ pGrpEn passE.word.toNat = false
    ∧ typeIsComplex (pTA passE.word.toNat) = false ∧ (getPos passB 0 0).run = none ∧ (getPos passB 0 0).b0.state = .empty
    ∧ (getPos passB 0 0).b1.state = .empty := by decide +kernel

theorem test_pass_start : (getPos passRuns 0 0).run.map (fun r => (r.m, r.n, r.k, r.kpos, r.bank)) = some (1, 1, 4, 0, 0)
    ∧ (getPos passRuns 0 0).b0.state = .filling := by decide +kernel

def passRun : PassRun := ((getPos passRuns 0 0).run).getD
  ⟨0, 0, 0#16, none, 0, 0, 0, 0, 0, 0, 0#64, 0#64, 0, 0, 0, 0, 0, 0, 0, 0, 0, false, false, 0, 0, [], [], [], [], false, false, false, false, none⟩

theorem test_hyp_input_cycle : live passRuns = true ∧ (getPos passRuns 0 0).run = some passRun ∧ arrRuns passRuns 0 = true ∧ passRun.gang = false
    ∧ splitSteps passRun.ta = 1 ∧ passRun.split = 0 ∧ passRun.ended = false ∧ passRun.kpos + rowsPerCycle passRun.ta passRun.tb < passRun.k
    ∧ preemptHolds passRuns passRun = false ∧ passRuns.ecc1 = [] ∧ passRuns.ecc2 = [] ∧ arrRuns run0 0 = false := by decide +kernel

/-- The tile of an ungrouped pass on its way to the drain. -/
def readOf (kind : ReadKind) : TileRead :=
  { tid := 7, kind := kind, entry := 1, ctx := 0, gen := 0#16, grp := none, sag := 0, bank := some 0, h := 512, w := 512, m := 2, n := 1, next := 0, checked := false
    prog := List.replicate 8 0#64, seed := 0#64, walk := 0, data := [], dataIm := [], complex := false, integer := false, thenPark := false, xfer := 0, run := none }

def rowsReady : Block := modArr (gateA0 .running (bank0 .reading none (withEnt passDone))) 0 (fun a => { a with reads := [readOf .drain] })

theorem test_hyp_row_read : live rowsReady = true ∧ arrRuns rowsReady 0 = true ∧ nextRead rowsReady 0 = some (readOf .drain)
    ∧ (readOf .drain).kind = .drain ∧ (readOf .drain).checked = false ∧ (readOf .drain).complex = false ∧ (readOf .drain).bank = some 0
    ∧ (readOf .drain).next + 1 < (readOf .drain).m := by decide +kernel

theorem test_row_read : ((getArr (after (.rowRead 0) rowsReady) 0).rows.map (fun r => (r.tid, r.row, r.vals.length))) = [(7, 0, 512)] := by decide +kernel

/-- C0 PREEMPTING with the tile of G2 in bank 0, held, or filled by a grouped pass at a stopping point. -/
def heldTile : Block := modGrp (bank0 .held (some 2) (gateA0 .running (inState .preempting up))) 2 (fun x => { x with state := .resident, ctx := 0, loc := .bank 0 0 })
def groupedRun : PassRun := { passRun with grp := some 2, kpos := 0 }
def stopping : Block := modPos (bank0 .filling (some 2) heldTile) 0 0 (fun p => { p with run := some groupedRun })

theorem test_hyp_preempt_stop : live heldTile = true ∧ arrAwake heldTile 0 = true ∧ preemptHolds stopping groupedRun = true ∧ (getPos heldTile 0 0).run = none ∧ heldOf heldTile 0 0 = some (0, 2)
    ∧ live stopping = true ∧ arrRuns stopping 0 = true ∧ (getPos stopping 0 0).run = some groupedRun ∧ (getCtx stopping groupedRun.ctx).state = .preempting
    ∧ groupedRun.grp ≠ none ∧ groupedRun.replay = false ∧ stopPoint stopping groupedRun = true := by decide +kernel

theorem test_preempt_stop : (getArr (after (.preemptStop 0 0) heldTile) 0).reads.map (·.kind) = [.park]
    ∧ (getArr (after (.preemptStop 0 0) stopping) 0).reads.map (·.kind) = [.preempt] ∧ (getPos (after (.preemptStop 0 0) stopping) 0 0).run = none := by decide +kernel

def glzE : Entry := ent 1 (word128 [(0, 0x30)]) .array [0] false 0

theorem test_hyp_glzcfg : arrHead (withEnt glzE) 0 = some glzE ∧ liveResume (withEnt glzE) 0 = [] ∧ worksB (withEnt glzE) glzE.id glzE = true ∧ wOpc glzE.word.toNat = 0x30
    ∧ ((getArr (withEnt glzE) 0).slots.filter (fun x => decide (x.ctx = glzE.ctx) && x.close == glzE.word.getLsbD 50)).length < 2
    ∧ (getArr (after (.glzcfgLoad 0) (withEnt glzE)) 0).slots = [⟨0, false, 3⟩] := by decide +kernel

/-! ### Kiln -/

def grpIs (g : Grp) (f : GroupSt → GroupSt) (b : Block) : Block := modGrp b g f

/-- A GCLOSE of G0 that has waited since beat 0. -/
def closeE : Entry := ent 1 (word128 [(0, 0x2B), (40, 1)]) .kiln [] true 0
def waitingG : Block := { grpIs 0 (fun x => { x with state := .waiting, ctx := 0, close := some 1, waitFrom := 0 }) (withEnt closeE) with beat := 2 ^ 33 }

theorem test_hyp_peer_timeout : live waitingG = true ∧ (getGrp waitingG 0).state = .waiting
    ∧ getFld waitingG .fabPeerTimeout 0 32 ≤ waitingG.beat - (getGrp waitingG 0).waitFrom ∧ (getGrp waitingG 0).close = some 1
    ∧ findEntry waitingG 1 = some closeE ∧ closeE.phase ≠ 255 ∧ faultable waitingG closeE.ctx = true := by decide +kernel

def recOf (i : Nat) (role : KRole) (n : Nat) : KRec := ⟨i, 0, 0, role, 3, [(i, 0)], [(0, { Cell.zero with total := 0x3F800000#64 })], [], n, false⟩
def xferOf (k : XKind) : Xfer := ⟨4, k, 0, 0, 0, 2, 5, 0, 0, 0, true, 0, 0⟩

/-- A stream of owner `o` with the bytes `l` still to move. -/
def streamOf (i : Nat) (o : Owner) (write : Bool) (l : List Seg) : Stream :=
  Stream.plain i o 0 0#16 write 0 l 64 none

/-- The spill of G0 from record 2 to unit 5 is written. -/
def spillDone : Block :=
  { grpIs 0 (fun x => { x with state := .parked, ctx := 0, loc := .kiln 2, shape := 3 }) run0 with
    kiln := [recOf 2 .tile 0], xfers := [xferOf .spill], streams := [streamOf 6 (.xfer 4) true []], spillUse := [(0, 5, 0)] }

theorem test_hyp_spill : live spillDone = true ∧ findXfer spillDone 4 = some (xferOf .spill) ∧ (xferOf .spill).kind = .spill ∧ (xferOf .spill).entry = 0
    ∧ xferMoved spillDone 4 = true
    ∧ (getGrp spillDone 0).state ≠ .waiting
    ∧ (getGrp (grpIs 0 (fun x => { x with state := .waiting, expect := 1, localCnt := 1 }) spillDone) 0).state = .waiting
    ∧ xferMoved (grpIs 0 (fun x => { x with state := .waiting, expect := 1, localCnt := 1 }) spillDone) 4 = true
    ∧ (getGrp (after (.kilnTransferDone 4) (grpIs 0 (fun x => { x with state := .waiting, expect := 1, localCnt := 1 }) spillDone)) 0).state = .draining
    ∧ (getGrp (after (.kilnTransferDone 4) spillDone) 0).state = .spilled := by decide +kernel

/-- G0 merges the tile of rank 0 in its reserve into M. -/
def merging0 : Block :=
  { grpIs 0 (fun x => { x with state := .waiting, ctx := 0, shape := 3, nremote := 1, expect := 1, merging := some 0, mRec := some 2, resRec := some 3, mHas := true }) run0 with
    kiln := [recOf 2 .m 0, recOf 3 .reserve 4] }

theorem test_hyp_merge : live merging0 = true ∧ frozenV merging0 = false ∧ merging0.ecc1 = [] ∧ merging0.ecc2 = [] ∧ (getGrp merging0 0).merging = some 0
    ∧ (getGrp merging0 0).mRec = some (recOf 2 .m 0).id ∧ findRec merging0 2 = some (recOf 2 .m 0) ∧ mergeSource merging0 0 0 = some (recOf 3 .reserve 4)
    ∧ (recOf 3 .reserve 4).id ≠ (recOf 2 .m 0).id ∧ (getGrp merging0 0).kind ≠ 2 ∧ (getGrp merging0 0).mode ≠ 2 ∧ (getGrp merging0 0).lapsed = false
    ∧ ¬ (2 ^ 22 < (getGrp merging0 0).nadd + ((recOf 3 .reserve 4).nadd + 1))
    ∧ 2 ^ 22 < (getGrp (grpIs 0 (fun x => { x with nadd := 2 ^ 22 }) merging0) 0).nadd + ((recOf 3 .reserve 4).nadd + 1) := by decide +kernel

/-- GMERGE of G0 into rank 0 of G1. -/
def mergeE : Entry := ent 1 (word128 [(0, 0x2C), (38, 1)]) .kiln [] true 2
def reoffer : Block :=
  { grpIs 0 (fun x => { x with state := .parked, ctx := 0, loc := .kiln 7, shape := 3 })
      (grpIs 1 (fun x => { x with state := .open_, ctx := 0, shape := 3, nremote := 1, expect := 1, mRec := some 2 }) (withEnt mergeE)) with kiln := [recOf 7 .tile 0] }

theorem test_hyp_reoffer : live reoffer = true ∧ frozenV reoffer = false
    ∧ reoffer.entries.find? (fun e => wOpc e.word.toNat == 0x2C && decide (kGrp e.word.toNat = 0) && e.phase == 2 && e.started) = some mergeE
    ∧ (1 : Grp).val = mergeE.word.toNat / 2 ^ 38 % 2 ^ 6 ∧ 0 = mergeE.word.toNat / 2 ^ 44 % 2 ^ 12 ∧ offerAnswer reoffer 1 0 none = .grantReserve
    ∧ (getGrp reoffer 1).mRec = some 2 ∧ bankOf reoffer 0 = none
    ∧ (after (.gmergeReoffer 0) reoffer).xfers.map (fun x => (x.kind, x.grp, x.target, x.rec_)) = [(.gmerge, 0, 1, 2)] := by decide +kernel

/-- The tile of G0 parked by a pre-emption comes back to A0; the second entry was made in another wall mode. -/
def resuming (w : Nat) : Block :=
  modArr (grpIs 0 (fun x => { x with state := .parked, ctx := 0, loc := .kiln 7 }) { run0 with kiln := [recOf 7 .tile 0] }) 0 (fun a => { a with resume := [⟨0, 0, 0, w⟩] })

theorem test_hyp_resume : live (resuming 0) = true ∧ arrAwake (resuming 0) 0 = true ∧ liveResume (resuming 0) 0 = ⟨0, 0, 0, 0⟩ :: []
    ∧ moving (resuming 0) 0 = false ∧ loadBusy (resuming 0) 0 = false ∧ arrAwake (resuming 2) 0 = true ∧ live (resuming 2) = true
    ∧ moving (resuming 2) 0 = false ∧ loadBusy (resuming 2) 0 = false
    ∧ (getArr (resuming 0) 0).wall = 0 ∧ (getGrp (resuming 0) 0).state = .parked ∧ (getPos (resuming 0) 0 0).run = none
    ∧ (getPos (resuming 0) 0 0).b0.state = .empty ∧ (getPos (resuming 0) 0 0).b1.state = .empty
    ∧ liveResume (resuming 2) 0 = ⟨0, 0, 0, 2⟩ :: [] ∧ (2 : Nat) ≠ (getArr (resuming 2) 0).wall ∧ faultable (resuming 2) 0 = true
    ∧ ((getPos (after (.resumeEntry 0) (resuming 0)) 0 0).bank 0).state = .loading ∧ (getCtx (after (.resumeEntry 0) (resuming 2)) 0).state = .faulted := by decide +kernel

/-! ### Drains, sequencer, line -/

/-- The tile of the pass of passRun in the drain of A0, to be compared; its sums as given. -/
def tileD (sum : W64) : DTile :=
  { tid := 7, src := { readOf .drain with m := 1, checked := true, run := some passRun }, rowsIn := 1, rowsOut := 0, colSum := [sum], rowSum := [sum], checkDone := false, nan := 0
    pos := 0, negc := 0, folded := false, red := [] }
def comparing (sum : W64) : Block := modArr (withEnt passDone) 0 (fun a => { a with tiles := [tileD sum] })

theorem test_hyp_compare : unitsRunB (comparing 0#64) = true ∧ usable (comparing 0#64) 0 = true
    ∧ (getArr (comparing 0#64) 0).tiles.find? (fun d => !d.checkDone && !(getArr (comparing 0#64) 0).reads.any (fun t => t.tid == d.tid)) = some (tileD 0#64)
    ∧ (tileD 0#64).src.run = some passRun ∧ passRun.replay = false ∧ (tileD 0#64).src.kind = .drain
    ∧ mismatch (comparing 0#64) 0 (tileD 0#64) passRun = none
    ∧ unitsRunB (comparing 0x3F800000#64) = true ∧ mismatch (comparing 0x3F800000#64) 0 (tileD 0x3F800000#64) passRun = some (0, 0) := by decide +kernel

theorem test_compare : ((getArr (after (.glazeCompareResult 0) (comparing 0#64)) 0).tiles.map (·.checkDone)) = [true]
    ∧ getFld (after (.glazeCompareResult 0) (comparing 0x3F800000#64)) (.arrAbftFirst 0) 0 32 = 1
    ∧ (getArr (after (.glazeCompareResult 0) (comparing 0x3F800000#64)) 0).replays.length = 1 := by decide +kernel

/-- A tile of one column and two rows for the memory, wheel 0, whose first row waits at stage 9 with `credit`. -/
def rowOut (credit : Nat) : Block :=
  modArr (withEnt passDone) 0 (fun a => { a with
    tiles := [{ tileD 0#64 with checkDone := true, src := { readOf .drain with w := 1, h := 2, prog := List.replicate 8 0#64 } }], rows := [⟨7, 0, [0#64], []⟩], credit := ⟨#[credit, 0], rfl⟩ })

def rowOutTile : DTile := ((getArr (rowOut 4) 0).tiles.head?).getD (tileD 0#64)

theorem test_hyp_row_out : unitsRunB (rowOut 4) = true ∧ (rowOut 4).ecc1 = [] ∧ (rowOut 4).ecc2 = [] ∧ (getArr (rowOut 4) 0).rows = ⟨7, 0, [0#64], []⟩ :: []
    ∧ (getArr (rowOut 4) 0).tiles.find? (fun d => d.tid == 7) = some rowOutTile ∧ rowOutTile.src.kind ≠ .peer
    ∧ usable (rowOut 4) 0 = true ∧ rowMay (rowOut 4) 0 rowOutTile = true ∧ rowOutTile.rowsOut + 1 ≠ readRows rowOutTile.src
    ∧ live (rowOut 0) = true ∧ drainWaits (rowOut 0) 0 0 = true ∧ wheelUsers (rowOut 0) 0 = [0] := by decide +kernel

/-- A LOAD's block of two bytes through wheel 1, which wait for it. -/
def turnS : Stream := { streamOf 6 (.entry 1) false [] with turned := true, turnNo := 3, wheel := some 1, wq := [(.mem 5, 8#8), (.mem 6, 9#8)] }
def turning : Block := { withEnt loadE with streams := [turnS] }

theorem test_hyp_turn : live turning = true ∧ turning.ecc1 = [] ∧ turning.ecc2 = [] ∧ findStream turning 6 = some turnS ∧ turnS.turned = true ∧ turnS.write = false
    ∧ turnS.wheel = some 1 ∧ wheelUsers turning 1 = [4 + turnS.turnNo] ∧ turnS.wq.map (·.1) = (List.range 2).map (fun i => .mem (5 + i)) := by decide +kernel

theorem test_wheel : (getArr (after (.wheelService 0) (rowOut 0)) 0).credit = ⟨#[1024, 0], rfl⟩
    ∧ memGet (after (.wheelService 1) turning).sram 6 = 9#8 := by decide +kernel

def jobOf (k : JobKind) (running : Bool) (ps : List Prod) : Job := ⟨4, 0, 0#16, 16, k, running, 0, 0, 0, 0, false, [], ps, 1#64, 0#32⟩

/-- The layer end of a RULE 0 header at index 16 is handed over. -/
def layerEnd : Block := { run0 with jobs := [jobOf .layerEnd false []] }

theorem test_hyp_layer_end : unitsRunB layerEnd = true ∧ layerEnd.ecc1 = [] ∧ layerEnd.ecc2 = [] ∧ jobRunning layerEnd = none
    ∧ entryStreamsDone layerEnd (jobOf .layerEnd false []).entry = true ∧ layerEnd.jobs.find? (fun j => jobRuns layerEnd j.ctx) = some (jobOf .layerEnd false []) ∧ hRule layerEnd 16 < 2
    ∧ hHold layerEnd 16 = false ∧ hF layerEnd 16 6 62 62 = 0 ∧ hStep (after .sequencerJobStart layerEnd) 16 = 1 := by decide +kernel

def prodOf : Prod := ⟨0, 1, 2, true, false, false, [(0, 0, 0, 1), (0, 1, 0, 1)]⟩
def rulePassB : Block := { run0 with jobs := [jobOf (.pair 0) true [prodOf]] }

theorem test_hyp_rule_pass : unitsRunB rulePassB = true ∧ jobRunning rulePassB = some (jobOf (.pair 0) true [prodOf]) ∧ 2 ≤ prodOf.tiles.length
    ∧ (ruleArrays rulePassB 1#64).contains 0 = true ∧ fixedEn rulePassB 0 = false ∧ jobRuns rulePassB 0 = true ∧ jobStreamsDone rulePassB 4 = true
    ∧ (getArr rulePassB 0).wall = 0 ∧ (getArr rulePassB 0).replays = [] ∧ tokenBlocked rulePassB 0 (jobWindow rulePassB (jobOf (.pair 0) true [prodOf]) 0) = false
    ∧ (getPos rulePassB 0 0).run = none ∧ (getPos rulePassB 0 0).b0.state = .empty ∧ (getPos rulePassB 0 0).b1.state = .empty := by decide +kernel

/-- A LINE over one vector of the matrix of desc23 whose weight stream met a page fault and goes on. -/
def lineE : Entry := { ent 1 (word128 [(0, 0x40), (32, 2), (47, 3)]) .line [] true 2 with descs := [List.replicate 16 0#64] }
def lineRun : LineRun := { entry := 1, ctx := 0, v := 1, strip := 0, step := 2, leaf := [], tot := [], epi := none, taken := 2, out := [], waitFault := true }
def lineB : Block := { withEnt lineE with line := some lineRun, streams := [streamOf 6 (.entry 1) false []] }

theorem test_hyp_line : live lineB = true ∧ frozenV lineB = false ∧ lineB.line = some lineRun ∧ lineRun.waitFault = true ∧ findEntry lineB 1 = some lineE
    ∧ (∀ x ∈ lineB.streams, x.halted = none ∧ streamOut lineB x.id = 0)
    ∧ (after .lineStripRestart lineB).line.map (fun l => (l.step, l.waitFault)) = some (0, false) := by decide +kernel

/-! ### Streams, translation, M-ports -/

/-- A remote WRITE of C0 reads two bytes of page 0x40000000, with translation on, and its cache entry. -/
def segs2 : List Seg := [⟨0x40000010, .mem 5⟩, ⟨0x40000011, .mem 6⟩]
def readS : Stream := streamOf 6 (.inbound 0#512) false segs2
def tlb1 : TlbEnt := ⟨0, 0x40000000 / 0x200000, false, 0x80200000, true⟩
def reading (hit : Bool) : Block := { setFld (setFld run0 (.strSplit 0) 0 7 64) (.xltRoot 0) 0 1 1 with streams := [readS], tlb := if hit then [tlb1] else [] }

theorem test_hyp_stream_issue : live (reading true) = true ∧ findStream (reading true) 6 = some readS ∧ readS.halted = none
    ∧ readS.todo = ⟨0x40000010, .mem 5⟩ :: [⟨0x40000011, .mem 6⟩] ∧ readS.feed = none ∧ frozenV (reading true) = false ∧ readS.peer = none ∧ readS.write = false
    ∧ sharesZero (reading true) 0 = false ∧ getFld (reading true) (.xltRoot 0) 0 1 = 1 ∧ (0x40000010 : Nat) < 2 ^ 49 ∧ (reading true).line = none
    ∧ (reading true).tlb.find? (fun h => tlbHit h 0 (0x40000010 / 256 * 256)) = some tlb1 ∧ freeTag (reading true) readS = some 0
    ∧ 256 * (unitsOf (takeReq (0x40000010 / 256) readS.todo).1).length ≤ (getCtx (reading true) 0).regRead
    ∧ (reading false).tlb.find? (fun h => tlbHit h 0 (0x40000010 / 256 * 256)) = none ∧ (reading false).walks = []
    ∧ lowestFree 16 ((reading false).walks.map (·.idx)) = some 0 ∧ 256 ≤ (getCtx (reading false) 0).regRead := by decide +kernel

theorem test_hyp_stream_owner : ∀ e, readS.owner ≠ .entry e := nofun

theorem test_stream_issue : (after (.streamRequestIssue 6) (reading true)).mp.map (fun r => (r.tag, r.pa, r.beats)) = [(0, 0x80200000, 1)]
    ∧ (after (.streamRequestIssue 6) (reading false)).walks.map (fun w => (w.idx, w.va)) = [(0, 0x40000000)] := by decide +kernel

/-- A walk for C0 at `lvl`, for its stream's page or for a page of a LOAD. -/
def walkOf (lvl : Nat) : Walk :=
  { idx := 3, ctx := 0, gen := 0#16, va := 0x40000000, write := true, stream := 6, issued := 0, lvl := lvl, pa := 0x1000, port := 0, key := 0, stale := false, denied := false }
def walking (lvl : Nat) : Block := { withEnt loadE with walks := [walkOf lvl], streams := [{ readS with owner := .entry 1 }], beat := 2 ^ 33 }

theorem test_hyp_walk : live (walking 1) = true ∧ (walking 1).walks.find? (fun w => w.idx == 3) = some (walkOf 1) ∧ (walkOf 1).gen = (getCtx (walking 1) 0).gen
    ∧ (walkOf 1).stale = false ∧ (walkOf 1).denied = false
    ∧ ([0x80200007#64, 0x80000007#64, 0x1005#64] : List W64).all (fun p => p.getLsbD 0 && p.toNat / 2 ^ 3 % 2 ^ 9 == 0 && p.toNat / 2 ^ 48 % 2 ^ 8 == 0 && p.getLsbD 2) = true
    ∧ (0x80200007#64).getLsbD 1 = true ∧ (0x80200007#64).toNat / 2 ^ 12 % 2 ^ 9 = 0 ∧ (0x80000007#64).toNat / 2 ^ 12 % 2 ^ 18 = 0 ∧ (0x1005#64).getLsbD 1 = false
    ∧ 256 ≤ (getCtx (walking 3) 0).regRead ∧ (0#64).getLsbD 0 = false ∧ (findStream (walking 2) 6).map (·.todo) = some segs2
    ∧ 0x1841 ≤ (0x1844#13).toNat ∧ (0x1844#13).toNat - 0x1841 = (walkOf 2).idx ∧ max 1 (getFld (walking 2) .engTagTimeout 0 32) ≤ (walking 2).beat - (walkOf 2).issued := by
  decide +kernel

theorem test_walk : (after (.translationWalkDone 3 [0x1005#64, 0x2005#64, 0x80200007#64] false) (walking 3)).tlb = [tlb1]
    ∧ (after (.translationWalkDone 3 [0x80000007#64] false) (walking 2)).tlb = [⟨0, 1, true, 0x80000000, true⟩]
    ∧ (after (.translationWalkDone 3 [0x1005#64] false) (walking 3)).walks.map (fun w => (w.lvl, w.pa)) = [(2, 0x1008)]
    ∧ (after (.translationWalkDone 3 [0#64] false) (walking 2)).streams.map (·.halted) = [some 0x40000010] := by decide +kernel

def mpOf (write : Bool) (segs : List Seg) : MpReq :=
  { tag := if write then 0x1000 else 9, stream := 6, ctx := 0, gen := 0#16, write := write, pa := 0, va := 0x40000000, beats := 1, segs := segs, data := [], issued := 0
    port := 0, key := 0, zombie := false, redo := false, turned := false }
def readR : MpReq := mpOf false ((List.range 2).map (fun i => ⟨0x40000000 + i, .mem (5 + i)⟩))
def mpReading : Block := { run0 with streams := [{ readS with todo := [] }], mp := [readR], beat := 2 ^ 33 }
def mpWriting : Block := { run0 with streams := [{ streamOf 6 .log true [] with todo := [] }], mp := [mpOf true []] }

theorem test_hyp_responses : live mpReading = true ∧ mpReading.jobs = [] ∧ mpReading.ecc1 = [] ∧ mpReading.ecc2 = []
    ∧ mpReading.mp.find? (fun r => r.tag == (9#13).toNat && !r.write) = some readR ∧ readR.zombie = false ∧ readR.redo = false
    ∧ readR.gen = (getCtx mpReading readR.ctx).gen ∧ (findStream mpReading readR.stream).map (fun x => (x.feed, x.fed, x.later)) = some (none, [], []) ∧ (9#13) ≠ 0x1840#13
    ∧ readR.segs = (List.range 2).map (fun i => ⟨readR.va + i, .mem (5 + i)⟩)
    ∧ live mpWriting = true ∧ mpWriting.jobs = [] ∧ mpWriting.mp.find? (fun r => r.tag == (0x1000#13).toNat && r.write) = some (mpOf true [])
    ∧ (mpOf true []).zombie = false ∧ (findStream mpWriting 6).isSome = true
    ∧ (9#13).toNat < 0x1840 ∧ mpReading.mp.find? (fun r => r.tag == (9#13).toNat) = some readR
    ∧ max 1 (getFld mpReading .engTagTimeout 0 32) ≤ mpReading.beat - readR.issued := by decide +kernel

theorem test_read_response : (let b := after (.mpReadResponse 9#13 0#2 (0xAB#8 :: 0xCD#8 :: List.replicate 254 0#8)) mpReading
    b.mp = [] ∧ memGet b.sram 5 = 0xAB#8 ∧ memGet b.sram 6 = 0xCD#8 ∧ memGet b.sram 7 = 0#8)
    ∧ (after (.mpWriteCompletion 0x1000#13 0#2) mpWriting).mp = [] := by decide +kernel

/-- A response to a turned block waits for its wheel. -/
theorem test_turned_response : (let b := after (.mpReadResponse 9#13 0#2 (0xAB#8 :: 0xCD#8 :: List.replicate 254 0#8)) { turning with mp := [{ readR with turned := true }] }
    b.sram = [] ∧ b.streams.map (fun x => x.wq.length) = [4]) := by decide +kernel

/-- A LOAD whose request has no answer halts its context. -/
def mpStuck : Block := { withEnt { loadE with phase := 0 } with streams := [{ readS with owner := .entry 1 }], mp := [readR], beat := 2 ^ 33 }

theorem test_tag_timeout : (getCtx (after (.tagTimeout 9#13) mpStuck) 0).state = .faulted ∧ (after (.tagTimeout 9#13) mpStuck).mp = [] := by decide +kernel

/-! ### Chain -/

/-- A frame of one byte: SEQ 5, CHAIN_ID 0, FIDX 0 of 1, HOPS 2, with its CRC-32C. -/
def hdr1 : BitVec 192 := BitVec.ofNat 192 (5 + 1 * 2 ^ 58 + 2 * 2 ^ 69 + 1 * 2 ^ 77 + frameCrc 5 0 0 [0x31#8] * 2 ^ 128)
def bypassing : Block := { on with pins := { on.pins with absent := true } }
def taking : Block := setRaw run0 .chnCfg 0x10040#64

theorem test_hyp_frames : bypassed bypassing = true ∧ bypassed run0 = false ∧ chnTake run0 = false ∧ chnTake taking = true ∧ bypassed taking = false
    ∧ (frameOf taking hdr1 [0x31#8]).good = true ∧ (frameOf taking hdr1 [0x30#8]).good = false ∧ (frameOf taking hdr1 [0x31#8]).fidx = 0
    ∧ taking.chain.cut = false := by decide +kernel

/-- The tile of hdr1 has arrived up to its frame 0; a second frame 0 < FIDX of it that comes again is a duplicate. -/
def arriving : Block := (fun b => { b with chain := { b.chain with tiles := b.chain.tiles.map (fun t => { t with last := 1 }) } }) (after (.chainFrameArrival hdr1 [0x31#8]) taking)
def hdrDup : BitVec 192 := BitVec.ofNat 192 (6 + 1 * 2 ^ 48 + 2 * 2 ^ 58 + 2 * 2 ^ 69 + 1 * 2 ^ 77)

theorem test_hyp_duplicate : bypassed arriving = false ∧ chnTake arriving = true ∧ (frameOf arriving hdrDup [0x31#8]).fidx = 1 ∧ (curTile arriving).map (·.last) = some 1
    ∧ getFld (after (.chainFrameArrival hdrDup [0x31#8]) arriving) .chnCount 48 16 = 1 := by decide +kernel

/-- A CHSEND whose image of 64 bytes is ready to go. -/
def sendE : Entry := { ent 1 (word128 [(0, 0x48), (95, 1)]) .chain [] true 3 with
  descs := [[BitVec.ofNat 64 (0x10000 + 1 * 2 ^ 57), 0#64, BitVec.ofNat 64 (4 + 16 * 2 ^ 40), 0#64, 0#64, 0#64, 0#64, BitVec.ofNat 64 (16 * 2 ^ 25), 0#64, 0#64, 0#64, 0#64, 0#64, 0#64, 0#64, 0#64]] }
def sending : Block := { withEnt sendE with chain := { run0.chain with credits := 2 } }

theorem test_hyp_own_send : live sending = true ∧ sending.pins.absent = false ∧ sending.chain.credits ≠ 0 ∧ sendingEntry sending = some sendE ∧ nextForward sending = none
    ∧ sending.chain.fwdTile = false ∧ sending.ecc1 = [] ∧ sending.ecc2 = []
    ∧ (after .chainFrameSend sending).chain.out.map (fun f => (f.fidx, f.nfr, f.len, f.hops)) = some (0, 1, 64, 1) := by decide +kernel

theorem test_link_reset : (after (.chainCreditReturn 5#11) bypassing).chain.creditsOut = 5 ∧ (after (.chainLinkReset true) bypassing).chain.lrstUp = 8
    ∧ (after (.chainLinkReset true) sending).chain.credits = 0 ∧ (after (.chainLinkReset false) taking).chain.creditsOut = 1 := by decide +kernel

theorem test_frames : (after (.chainFrameArrival hdr1 [0x31#8]) taking).chain.ring.map (fun f => (f.hops, f.fwd, f.good)) = [(1, true, true)]
    ∧ (after (.chainFrameArrival hdr1 [0x30#8]) run0).chain.ring.map (fun f => (f.hops, f.good)) = [(2, false)]
    ∧ getFld (after (.chainFrameArrival hdr1 [0x30#8]) run0) .chnCount 32 16 = 1 := by decide +kernel

def frameIn : Block := (fun b => { b with chain := { b.chain with credits := 1 } }) (after (.chainFrameArrival hdr1 [0x31#8]) taking)

theorem test_hyp_frame_send : live frameIn = true ∧ frameIn.pins.absent = false ∧ frameIn.chain.credits ≠ 0 ∧ frameIn.chain.ownTile = false
    ∧ (nextForward frameIn).map (·.seq) = some 5#32 ∧ (0x3FF#11) ≠ 0#11 ∧ (after .chainFrameSend frameIn).chain.credits = 0
    ∧ (after (.chainCreditReturn 0x3FF#11) frameIn).chain.credits = 1024 := by decide +kernel

/-- A CHRECV re-reads frame 0 of the tile that arrived broken. -/
def recvE : Entry := { ent 1 (word128 [(0, 0x49)]) .chain [] true 4 with descs := [List.replicate 16 0#64] }
def repairing : Block := (fun b => { b with entries := [recvE], lastDispatch := 9 }) (after (.chainFrameArrival hdr1 [0x30#8]) taking)
def brokenTile : ChTile := (oldestTile repairing).getD ⟨0, 0, 0, 0, 0, 0, 0, false, false, false, false⟩

theorem test_hyp_repair : live repairing = true ∧ repairing.entries.find? (fun e => wOpc e.word.toNat == 0x49 && e.phase == 4) = some recvE
    ∧ oldestTile repairing = some brokenTile ∧ entryStreamsDone repairing 1 = true ∧ brokenTile.dropped = false
    ∧ (repairing.chain.ring.any (fun f => f.tile == brokenTile.id && f.fidx == refetchIx repairing brokenTile && !f.good)) = true := by decide +kernel

def holding : Block := { run0 with beat := 2 ^ 33, chain := { run0.chain with holdFrom := some 0 } }

theorem test_hyp_hold : live holding = true ∧ holding.chain.holdFrom = some 0 ∧ max 1 (getFld holding .chnHoldLimit 0 32) ≤ portNow holding - 0 := by decide +kernel

/-! ### Fabric -/

/-- Peer entry 7: valid, C0, of chip 0, engine 1, context 2 under generation 3; it is entry 9 there. -/
def peered : Block := setRaw run0 (.fabPeer 7) (BitVec.ofNat 64 (1 + 1 * 2 ^ 21 + 2 * 2 ^ 24 + 3 * 2 ^ 28 + 9 * 2 ^ 44))

/-- Header of a packet of kind `k` that arrives through entry 7, of `beats` beats, with ARG `arg`. -/
def rxHdr (k beats arg : Nat) : BitVec 512 := hdr512 [(0, k), (24, 1), (27, 2), (32, 3), (88, 7), (100, 20), (110, beats), (128, arg)]

def rxMeetsB (b : Block) (h : BitVec 512) (k len : Nat) : Bool := live b && pkKind h.toNat == k && len == hdrBytes h && answerRoom b

theorem rxMeets_of_test {b : Block} {h : BitVec 512} {k len : Nat} (t : rxMeetsB b h k len = true) : RxMeets b h k len := by
  simp only [rxMeetsB, Bool.and_eq_true, beq_iff_eq] at t
  exact ⟨t.1.1.1, t.1.1.2, t.1.2, t.2⟩

theorem test_hyp_rx_write : rxMeetsB peered (rxHdr 1 1 0x40000000) 1 (List.replicate 256 (7#8)).length = true ∧ rxTest peered (rxHdr 1 1 0x40000000).toNat = none
    ∧ inHeld peered (pkDstCtx (rxHdr 1 1 0x40000000).toNat) + 256 ≤ inQuota peered ∧ inAll peered + 256 ≤ 262144
    ∧ inSegs (rxHdr 1 1 0x40000000).toNat [7#8] ≠ [] := by decide +kernel

/-- G5 waits for the tile of rank 0 in its reserve. -/
def offered : Block := { grpIs 5 (fun x => { x with state := .waiting, ctx := 0, shape := 3, nremote := 1, expect := 1, mRec := some 2 }) peered with kiln := [{ recOf 2 .m 0 with grp := 5 }] }

theorem test_hyp_rx_offer : rxMeetsB offered (rxHdr 3 0 5) 3 0 = true ∧ rxTest offered (rxHdr 3 0 5).toNat = none ∧ pkArg (rxHdr 3 0 5).toNat % 2 ^ 6 = 5
    ∧ pkArg (rxHdr 3 0 5).toNat / 2 ^ 6 % 2 ^ 12 = 0 ∧ offerAnswer offered 5 0 (some (BitVec.ofNat 16 (pkArg (rxHdr 3 0 5).toNat / 2 ^ 18))) = .grantReserve
    ∧ (getGrp offered 5).mRec = some 2 ∧ lowestFree 1024 (offered.grants.map (·.slot)) = some 0
    ∧ (after (.fabRxOffer (rxHdr 3 0 5)) offered).grants.map (fun x => (x.slot, x.grp, x.peer, x.tag)) = [(0, 5, 7, 20)] := by decide +kernel

def granted : Block := after (.fabRxOffer (rxHdr 3 0 5)) offered

theorem test_hyp_rx_cdata : (let d := List.replicate 1024 (0#8)
      rxMeetsB granted (rxHdr 5 4 (127 * 2 ^ 10)) 5 d.length && decide (rxTest granted (rxHdr 5 4 (127 * 2 ^ 10)).toNat = none)
        && decide (d.length = 8 * wallW (getGrp granted 5).shape)) = true
    ∧ granted.grants.find? (fun y => y.slot == pkArg (rxHdr 5 4 (127 * 2 ^ 10)).toNat % 2 ^ 10) = granted.grants.head?
    ∧ granted.grants.map (fun x => (x.peer, x.tag, x.grp, x.rows)) = [(7, 20, 5, [])] ∧ pkBack (rxHdr 5 4 (127 * 2 ^ 10)).toNat = 7
    ∧ pkTag (rxHdr 5 4 (127 * 2 ^ 10)).toNat = 20 ∧ (getGrp granted 5).kind ≠ 1 ∧ pkArg (rxHdr 5 4 (127 * 2 ^ 10)).toNat / 2 ^ 10 % 2 ^ 10 = 127
    ∧ (127 : Nat) < wallH (getGrp granted 5).shape := by decide +kernel

/-- Pair P3 of C0: producer remote through entry 7, consumer strand 0; pair P4 the other way round. -/
def remotePegs : Block := setRaw (setRaw peered (.schPegCfg 3) (BitVec.ofNat 64 (4 * 2 ^ 4 + 7 * 2 ^ 12 + 2 ^ 24))) (.schPegCfg 4) (BitVec.ofNat 64 (4 * 2 ^ 8 + 7 * 2 ^ 12 + 2 ^ 24))

theorem test_hyp_rx_post : rxMeetsB remotePegs (rxHdr 7 0 (3 + 6 * 2 ^ 9)) 7 0 = true ∧ rxTest remotePegs (rxHdr 7 0 (3 + 6 * 2 ^ 9)).toNat = none
    ∧ (3 : Peg).val = pkArg (rxHdr 7 0 (3 + 6 * 2 ^ 9)).toNat % 2 ^ 8 ∧ (pkArg (rxHdr 7 0 (3 + 6 * 2 ^ 9)).toNat).testBit 8 = false ∧ pegEn remotePegs 3 = true
    ∧ pegProd remotePegs 3 = 4 ∧ pegPeer remotePegs 3 = pkBack (rxHdr 7 0 (3 + 6 * 2 ^ 9)).toNat ∧ activeCtx remotePegs (pegOwner remotePegs 3) = true
    ∧ getPeg (after (.fabRxPost (rxHdr 7 0 (3 + 6 * 2 ^ 9))) remotePegs) 3 = ⟨6#16, 0#16⟩
    ∧ (4 : Peg).val = pkArg (rxHdr 7 0 (4 + 2 ^ 8 + 6 * 2 ^ 9)).toNat % 2 ^ 8 ∧ (pkArg (rxHdr 7 0 (4 + 2 ^ 8 + 6 * 2 ^ 9)).toNat).testBit 8 = true
    ∧ pegEn remotePegs 4 = true ∧ pegCons remotePegs 4 = 4 ∧ pegPeer remotePegs 4 = 7
    ∧ getPeg (after (.fabRxPost (rxHdr 7 0 (4 + 2 ^ 8 + 6 * 2 ^ 9))) remotePegs) 4 = ⟨0#16, 6#16⟩ := by decide +kernel

/-- An entry that names another generation turns requests away (R293). -/
theorem test_hyp_rx_turned_away : rxMeetsB peered (rxHdr 1 1 0 ||| hdr512 [(32, 4)]) 1 (List.replicate 256 (7#8)).length = true
    ∧ (rxTest peered (rxHdr 1 1 0 ||| hdr512 [(32, 4)]).toNat).isSome = true := by decide +kernel

theorem test_hyp_rx_revoke : rxMeetsB peered (rxHdr 9 0 0) 9 0 = true ∧ rxEntryTest peered (rxHdr 9 0 0).toNat = none
    ∧ getFld (after (.fabRxRevoke (rxHdr 9 0 0)) peered) (.fabPeer 7) 56 1 = 1 := by decide +kernel

/-- Remote tag 20 of C0, taken for `k`; an answer of kind `a` names it. -/
def tagOf (k : FabKind) : FabTag := ⟨20, k, 0, 0#16, 7, ⟨0#512, [], 0⟩, 0, none, false, false⟩
def tagged (k : FabKind) : Block := { peered with fabTags := [tagOf k], beat := 2 ^ 33 }
def ansOf (a st : Nat) : BitVec 512 := hdr512 [(0, a), (4, st), (100, 20)]

def rxAnswersB (b : Block) (h : BitVec 512) (a : Nat) (x : FabTag) : Bool :=
  live b && pkKind h.toNat == a && hdrBytes h == 0 && decide (b.fabTags = [x]) && x.tag == pkTag h.toNat && decide (x.ctx = pkDstCtx h.toNat) && x.gen.toNat == pkDstGen h.toNat && !x.zombie

theorem rxAnswers_of_test {b : Block} {h : BitVec 512} {a : Nat} {x : FabTag} (t : rxAnswersB b h a x = true) : RxAnswers b h a x := by
  simp only [rxAnswersB, Bool.and_eq_true, beq_iff_eq, decide_eq_true_eq, Bool.not_eq_true'] at t
  obtain ⟨⟨⟨⟨⟨⟨⟨h1, h2⟩, h0⟩, h3⟩, h4⟩, h5⟩, h6⟩, h7⟩ := t
  exact ⟨h1, h2, h0, by simp [h3], h4, by simp [h3], h5, h6, h7⟩

theorem test_hyp_answers : rxAnswersB (tagged (.write 6 [])) (ansOf 2 0) 2 (tagOf (.write 6 [])) = true ∧ pkStatus (ansOf 2 0).toNat = stOK
    ∧ rxAnswersB (tagged (.write 6 [])) (ansOf 2 1) 2 (tagOf (.write 6 [])) = true ∧ pkStatus (ansOf 2 1).toNat = stRetry ∧ peered.jobs = []
    ∧ rxAnswersB (tagged (.offer 0)) (ansOf 4 0) 4 (tagOf (.offer 0)) = true ∧ (tagOf (.offer 0)).granted = false
    ∧ rxAnswersB (tagged (.post 1)) (ansOf 8 0) 8 (tagOf (.post 1)) = true
    ∧ rxAnswersB (tagged .revoke) (ansOf 10 0) 10 (tagOf .revoke) = true ∧ ((getCtx (tagged .revoke) 0).fence).isNone = true := by decide +kernel

theorem test_hyp_cdone : (let b := { tagged (.offer 0) with entries := [closeE] }
    rxAnswersB b (ansOf 6 0) 6 (tagOf (.offer 0)) && decide (offerEntry b 0 = some closeE)
      && decide ((getGrp (after (.fabRxCdone (ansOf 6 0)) b) 0).state = .free) && (after (.fabRxCdone (ansOf 6 0)) b).fabTags.isEmpty) = true := by decide +kernel

def retrying : Block := { peered with fabTags := [{ tagOf (.post 1) with retryAt := some 0 }] }

theorem test_hyp_fab_timers : live retrying = true
    ∧ retrying.fabTags.find? (fun y => y.tag == (20#10).toNat && !y.zombie) = some { tagOf (.post 1) with retryAt := some 0 } ∧ 0 ≤ retrying.beat
    ∧ 64 ≤ (getCtx retrying 0).regRemote ∧ (after (.fabRetryResend 20#10) retrying).fabLoop.length = 1
    ∧ (after (.fabRetryResend 20#10) { retrying with fabTags := [{ tagOf (.post 1) with retryAt := some 0, pkt := ⟨hdr512 [(64, 1)], [], 0⟩ }] }).fabTx.length = 1
    ∧ live (tagged .revoke) = true ∧ (tagged .revoke).fabTags.find? (fun y => y.tag == (20#10).toNat) = some (tagOf .revoke)
    ∧ getFld (tagged .revoke) .fabPeerTimeout 0 32 ≤ (tagged .revoke).beat - (tagOf .revoke).first
    ∧ (let b := { granted with beat := 2 ^ 33 }
       live b = true ∧ (b.grants.find? (fun y => y.slot == (0#10).toNat)).map (·.last) = some 0 ∧ getFld b .fabPeerTimeout 0 32 ≤ b.beat - 0
        ∧ (after (.grantTimeout 0#10) b).grants = []) := by decide +kernel

/-! ### Behaviour: values from the rules -/

/-- Cold release with three arrays present: grade 3, engine 5, waiting for the image (R1, R2). -/
theorem test_straps : (let b := after (.rstColdNRelease 0x7#4 0x5#3) Block.reset
      getFld b .engConfig 0 4 = 7 ∧ getFld b .engConfig 8 3 = 3 ∧ getFld b .engConfig 12 3 = 5 ∧ getFld b .mgtBootStatus 0 4 = 1 ∧ getFld b .engStatus 2 1 = 0)
    ∧ (let b := after (.rstColdNRelease 0x3#4 0#3) Block.reset
      getFld b .engConfig 8 3 = 0 ∧ getFld b .mgtBootStatus 0 4 = 0 ∧ getFld b .engStatus 2 1 = 1) := by decide +kernel

/-- IDCODE (R389). -/
theorem test_idcode : (after .idcode up).jtag.dr = 0x1D325A4F#96 := by decide +kernel

/-- MGT_CLK_CFG: 4,200 is taken, 4,201 and a second write are not (R346). -/
theorem test_clock : getFld (after (.mgtClkCfgWrite 4200#64) up) .mgtClkCfg 0 13 = 4200 ∧ getFld (after (.mgtClkCfgWrite 4201#64) up) .mgtClkCfg 0 13 = 4200
    ∧ getFld (after (.mgtClkCfgWrite 2400#64) (after (.mgtClkCfgWrite 4000#64) up)) .mgtClkCfg 0 13 = 4000
    ∧ getFld (after (.mgtClkCfgWrite 2399#64) up) .mgtClkCfg 0 13 = 0x1068 := by decide +kernel

/-- The boot SRAM takes eight bytes, lowest first, and PTR moves on (R359). -/
theorem test_boot_data : (let b := after (.mgtBootDataWrite 0x1122334455667788#64) (after (.mgtBootPtrWrite 2#64) (phase 1 on))
    memGet b.boot 16 = 0x88#8 ∧ memGet b.boot 23 = 0x11#8 ∧ getFld b .mgtBootPtr 0 14 = 3) := by decide +kernel

/-- SCH_CTL on a context in another state is rejected; on a RUNNING one it pre-empts (R249). -/
theorem test_preempt : (getCtx (after (.schCtlPreempt 0) run0) 0).state = .preempting ∧ getFld (after (.schCtlPreempt 1) run0) .schStatus 0 1 = 1
    ∧ (getCtx (after (.preemptRest 0) (inState .preempting up)) 0).state = .preempted := by decide +kernel

/-- A context reset takes a DONE context to FENCING under its next generation, and leaves a FREE one (R326). -/
theorem test_context_reset : (getCtx (after (.engResetContext 0) (inState .done up)) 0).state = .fencing
    ∧ (getCtx (after (.engResetContext 0) (inState .done up)) 0).gen = 1#16 ∧ (getCtx (after (.engResetContext 1) up) 1).state = .free
    ∧ (getCtx (after (.fenceComplete 0) fencing) 0).state = .free := by decide +kernel

/-- The launch of strands 0 and 2 of C5 at 9; the entry with a reserved bit is rejected with reason 3; an image is read up to its 4 KiB boundary and
lands at its position; a second test finds the context gone (R276). -/
theorem test_launch : (let b := after (.launchEntry [] [] false) (launching (some entry5) 0)
      (getCtx b 5).state = .running ∧ ((getStrand b 5 2).pos, (getStrand b 5 2).started) = (9, true) ∧ (getStrand b 5 1).started = false)
    ∧ (let b := after (.launchEntry [] [] false) (launching (some entryBad) 0)
      getFld b .schCqStatus 1 3 = 3 ∧ getFld b .schCqHead 0 32 = 1) := by decide +kernel

/-- A response that comes with LAUNCH_ENTRY: the entry's words start the strands, an image byte lands, a failure is reason 4 (R276). -/
theorem test_launch_answers : (let b := after (.launchEntry ((entry5.toList.flatMap (fun w => leBytes 8 w.toNat)) ++ List.replicate 192 0#8) [] false) queued
      (getCtx b 5).state = .running ∧ (getStrand b 5 2).pos = 9 ∧ getFld b .schCqHead 0 32 = 1)
    ∧ (after (.launchEntry [] [List.replicate 192 0#8 ++ List.replicate 64 7#8] false) (launching (some entryImg) 0)).launch.map (·.copied) = some 1
    ∧ getFld (after (.launchEntry [] [] true) queued) .schCqStatus 1 3 = 4 := by decide +kernel

theorem test_launch_image : (after (.launchEntry [] [] false) (launching (some entryImg) 0)).launchRead.map (fun q => (q.src, q.len)) = some (0x40000FC0, 64)
    ∧ (after (.launchEntry [] [] false) (launching (some entryImg) 1)).launchRead.map (fun q => (q.src, q.len)) = some (0x40001000, 128)
    ∧ (let b := after (.mpReadResponse 0x1840#13 0#2 (List.replicate 192 0#8 ++ List.replicate 64 7#8)) { launching (some entryImg) 0 with launchRead := some ⟨0x40000FC0, 64, 1, 0, 0, 0, false⟩ }
       memGet b.sram (cmdBase + 128) = 7#8 ∧ b.launch.map (·.copied) = some 1)
    ∧ getFld (after (.launchEntry [] [] false) (modCtx (launching (some entryImg) 3) 1 (fun x => { x with state := .faulted }))) .schCqStatus 1 3 = 1 := by decide +kernel

/-- A windows write on a FREE context is taken, on a RUNNING one rejected (R400). -/
theorem test_window : getFld (after (.schWinWrite 0 0 0x0000001000000002#64) up) (.schWin 0 0) 32 21 = 16
    ∧ getFld (after (.schWinWrite 0 0 0x0000001000000002#64) run0) .schStatus 0 1 = 1 := by decide +kernel

/-- CRC-32C of the nine bytes "123456789" is E3069283, CRC-64/XZ 995DC9BBDF1939FA (R304). -/
theorem test_crc : crcFold 0 0 [0x31, 0x32, 0x33, 0x34, 0x35, 0x36, 0x37, 0x38, 0x39] = 0xE3069283
    ∧ crcFold 1 0 [0x31, 0x32, 0x33, 0x34, 0x35, 0x36, 0x37, 0x38, 0x39] = 0x995DC9BBDF1939FA := by decide +kernel

/-- The feed register folds one byte into CHK0 (R310). -/
theorem test_feed : getFld (after (.chkFeed 0 0x31#64) up) (.chkValue 0) 0 32 = crcFold 0 0 [0x31] ∧ getFld (after (.chkFeed 0 0x31#64) run0) (.chkStatus 0) 8 1 = 1 := by
  decide +kernel

/-- A write with other byte enables has no effect but FORMAT (R370). -/
theorem test_format : (after (.registerWrite 0x000100#24 0xFE#8 0#64) up).cp = ⟨0#6, 0#64, 1#2⟩ ∧ (after (.registerWrite 0x0F0000#24 0xFF#8 0#64) up).cp = ⟨0#6, 0#64, 2#2⟩
    ∧ (after (.registerWrite (BitVec.ofNat 24 (Reg.addr .dbgMemAddr)) 0xFF#8 0#64) up).cp = ⟨0#6, 0#64, 3#2⟩ := by decide +kernel

/-- A retired array's ARR_STATUS reads STATE 1, every other register of it and of a disabled one 0 (R3, R342). -/
theorem test_retired : readReg lessArrays (.arrStatus 1) = 1#64 ∧ readReg lessArrays (.arrStatus 3) = 0#64 ∧ readReg lessArrays (.arrRamp 1) = 0#64 := by decide +kernel

/-- The watch on the heartbeat: LOST and a notice of kind 9 (R324). -/
theorem test_swdt : getFld (after .swdtLost late) .mgtSwdt 24 1 = 1 ∧ (after .swdtLost late).notices.map (fun n => n.toNat % 16) = [9] := by decide +kernel

/-- An input cycle of the started pass moves on by one row of a 16-bit type (R62). -/
theorem test_input_cycle : (getPos (after (.inputCycle 0 0) passRuns) 0 0).run.map (·.kpos) = some 1 := by decide +kernel

/-- FP32: 1 + 2^-24 rounds to even, 1 + 3 * 2^-24 up; 3 * 5; the sum of opposite numbers is +0 (R31 to R34). -/
theorem test_fp32 : f32add 0x3F800000#32 0x33800000#32 = 0x3F800000#32 ∧ f32add 0x3F800000#32 0x34400000#32 = 0x3F800002#32
    ∧ f32mul 0x40400000#32 0x40A00000#32 = 0x41700000#32 ∧ f32add 0x3F800000#32 0xBF800000#32 = 0x00000000#32 := by decide +kernel

end Sys2Proof.Tests
end

/-! SUPPORT. The instructions that the issue stage runs itself: what the end of an instruction leaves alone, the block they run on, and the
statements of SETQ, ADDQ, JUMP, LOOP and EVENT (R261 to R263). -/

namespace Sys2Proof.Proofs.IssueStage

open Sys2Proof Sys2Proof.Machine Sys2Proof.Laws

/-! ### What reports, posts and notices leave alone -/

/-- Registers that codes, notices and progress write (R319, R323, R325, R372). -/
def reportReg : Reg → Bool
  | .engEventCnt _ | .engFaultRec _ _ | .engFaultPtr | .engCtxFault _ _ | .engNotice | .mgtProgress => true
  | _ => false

/-- Every strand, and every register that is no report, is the same in both blocks. -/
structure Kept (b d : Block) : Prop where
  strands : ∀ c, (getCtx d c).strands = (getCtx b c).strands
  regs : ∀ r, reportReg r = false → rawReg d r = rawReg b r

/-- `Kept`, and no notice has been queued. -/
structure Quiet (b d : Block) : Prop extends Kept b d where
  notices : d.notices = b.notices

theorem Kept.refl (b : Block) : Kept b b := ⟨fun _ => rfl, fun _ _ => rfl⟩

theorem Kept.trans {b d e : Block} (h : Kept b d) (k : Kept d e) : Kept b e :=
  ⟨fun c => (k.strands c).trans (h.strands c), fun r hr => (k.regs r hr).trans (h.regs r hr)⟩

theorem Kept.getStrand {b d : Block} (h : Kept b d) (c : Ctx) (s : Strand) : getStrand d c s = getStrand b c s := by
  simp only [Machine.getStrand, h.strands]

theorem Kept.getSlot {b d : Block} (h : Kept b d) (c : Ctx) (s : Strand) (k : Fin 32) : getSlot d c s k = getSlot b c s k := by
  simp only [Machine.getSlot, h.getStrand]

theorem Kept.getFld {b d : Block} (h : Kept b d) {r : Reg} (hr : reportReg r = false) (lo wid : Nat) : getFld d r lo wid = getFld b r lo wid := by
  simp only [Machine.getFld, h.regs r hr]

theorem Quiet.refl (b : Block) : Quiet b b := ⟨Kept.refl b, rfl⟩

theorem Quiet.trans {b d e : Block} (h : Quiet b d) (k : Quiet d e) : Quiet b e := ⟨h.toKept.trans k.toKept, k.notices.trans h.notices⟩

/-- Where contexts, registers and notices stand, nothing of these has changed. -/
theorem Quiet.of_parts {b d : Block} (hc : d.ctxs = b.ctxs) (hr : d.regs = b.regs) (hn : d.notices = b.notices) : Quiet b d :=
  ⟨⟨fun c => by simp only [getCtx, hc], fun r _ => rawReg_congr hr r⟩, hn⟩

theorem Quiet.foldl {β : Type} (f : Block → β → Block) (hf : ∀ b x, Quiet b (f b x)) (l : List β) : ∀ b, Quiet b (l.foldl f b) := by
  induction l with
  | nil => exact Quiet.refl
  | cons x l ih => exact fun b => (hf b x).trans (ih _)

theorem setRaw_quiet (b : Block) {r : Reg} (v : W64) (hr : reportReg r = true) : Quiet b (setRaw b r v) :=
  ⟨⟨fun _ => rfl, fun r' h' => rawReg_setRaw_ne b v (by rintro rfl; simp [hr] at h')⟩, rfl⟩

theorem setFld_quiet (b : Block) {r : Reg} (lo wid v : Nat) (hr : reportReg r = true) : Quiet b (setFld b r lo wid v) := setRaw_quiet b _ hr

theorem bumpFld_quiet (b : Block) {r : Reg} (lo wid n : Nat) (hr : reportReg r = true) : Quiet b (bumpFld b r lo wid n) :=
  (setFld_quiet b lo wid _ hr).trans (.of_parts rfl rfl rfl)

theorem putRec_quiet (b : Block) (at_ : Fin 4 → Reg) (ws : List W64) (h : ∀ i, reportReg (at_ i) = true) : Quiet b (putRec b at_ ws) :=
  Quiet.foldl _ (fun b i => setRaw_quiet b _ (h i)) _ b

theorem modCtx_quiet (b : Block) (c : Ctx) {f : CtxSt → CtxSt} (hf : ∀ x, (f x).strands = x.strands := by intro x; rfl) :
    Quiet b (modCtx b c f) := by
  refine ⟨⟨fun d => ?_, fun _ _ => rfl⟩, rfl⟩
  by_cases hd : d = c
  · rw [hd, getCtx_modCtx, hf]
  · rw [getCtx_modCtx_ne b f hd]

theorem enterFaulted_quiet (b : Block) (c : Ctx) (ws : List W64) : Quiet b (enterFaulted b c ws) :=
  (putRec_quiet b _ ws (fun _ => rfl)).trans (modCtx_quiet _ c)

theorem progress_quiet (b : Block) (c : Ctx) : Quiet b (progress b c) :=
  (modCtx_quiet b c (f := fun x => { x with progressed := true, stall := 0 })).trans (setFld_quiet _ _ _ _ rfl)

theorem sendRequest_quiet (b : Block) (hdr : BitVec 512) (data : List Byte) : Quiet b (sendRequest b hdr data) := by
  unfold sendRequest
  split <;> exact .of_parts rfl rfl rfl

theorem chargeRemote_quiet {b d : Block} {c : Ctx} {n : Nat} (h : chargeRemote b c n = some d) : Quiet b d := by
  unfold chargeRemote at h
  split at h
  · cases h
    exact modCtx_quiet b c
  · cases h

theorem sendTagged_quiet {b d : Block} {c : Ctx} {gen : BitVec 16} {peer : Nat} {kind : FabKind} {pk beats arg mask : Nat} {data : List Byte}
    (h : sendTagged b c gen peer kind pk beats arg mask data = some d) : Quiet b d := by
  unfold sendTagged at h
  split at h
  · rename_i hd
    cases h
    refine (chargeRemote_quiet hd).trans (Quiet.trans ?_ (sendRequest_quiet _ _ _))
    exact .of_parts rfl rfl rfl
  · cases h

theorem sendPost_quiet {b d : Block} {c : Ctx} {gen : BitVec 16} {p : Peg} {r : Role} {n e : Nat} (h : sendPost b c gen p r n e = some d) :
    Quiet b d := by
  unfold sendPost at h
  obtain ⟨d', h', rfl⟩ := Option.map_eq_some_iff.mp h
  exact (sendTagged_quiet h').trans (modCtx_quiet _ c)

theorem flushPosts_quiet (b : Block) : Quiet b (flushPosts b) := by
  unfold flushPosts
  refine Quiet.foldl _ (fun d q => ?_) _ _
  split
  · rename_i hd
    exact ((sendPost_quiet hd).trans (modCtx_quiet _ q.ctx (f := fun x => { x with unacked := x.unacked - 1 }))).trans (.of_parts rfl rfl rfl)
  · exact Quiet.refl _

/-! ### Notices -/

/-- Where a notice enters those of its beat: before the first of a higher KIND (R372). -/
theorem noticeIns_split (n : W64) (l : List W64) :
    ∃ a z, l = a ++ z ∧ noticeIns n l = a ++ n :: z ∧ ∀ x ∈ z.head?, n.toNat % 16 < x.toNat % 16 := by
  induction l with
  | nil => exact ⟨[], [], rfl, rfl, by simp⟩
  | cons x r ih =>
    unfold noticeIns
    split
    · rename_i hlt
      exact ⟨[], x :: r, rfl, rfl, by simpa using hlt⟩
    · obtain ⟨a, z, hr, hi, hz⟩ := ih
      exact ⟨x :: a, z, by rw [hr]; rfl, by rw [hi]; rfl, hz⟩

/-- A queue with room takes the notice (R372). -/
theorem notify_added {b : Block} (k : Nat) (c : Option Ctx) (d e : Nat) (j : Bool) (h : b.notices.length < 32) :
    noticeAdded b (notify b k c d e j) (noticeWord b k c d e j) := by
  obtain ⟨a, z, hl, hi, hz⟩ := noticeIns_split (noticeWord b k c d e j) (b.notices.drop (b.notices.length - b.noticeNew))
  refine ⟨b.notices.take (b.notices.length - b.noticeNew) ++ a, z, ?_, ?_, ?_, hz⟩
  · rw [List.append_assoc, ← hl, List.take_append_drop]
  · simp only [notify, h, if_true, hi, List.append_assoc]
  · rw [List.length_append, List.length_take]
    omega

theorem noticeAdded_mem {b d : Block} {n : W64} (h : noticeAdded b d n) : n ∈ d.notices := by
  obtain ⟨a, z, -, hd, -⟩ := h
  simp [hd]

theorem noticeAdded_mem_old {b d : Block} {n x : W64} (h : noticeAdded b d n) (hx : x ∈ b.notices) : x ∈ d.notices := by
  obtain ⟨a, z, hb, hd, -⟩ := h
  rw [hb, List.mem_append] at hx
  rw [hd, List.mem_append, List.mem_cons]
  exact hx.imp id .inr

theorem noticeAdded_length {b d : Block} {n : W64} (h : noticeAdded b d n) : d.notices.length = b.notices.length + 1 := by
  obtain ⟨a, z, hb, hd, -⟩ := h
  simp only [hb, hd, List.length_append, List.length_cons]
  omega

theorem notify_kept (b : Block) (k : Nat) (c : Option Ctx) (d e : Nat) (j : Bool) : Kept b (notify b k c d e j) := by
  unfold notify
  dsimp only
  split
  · exact ⟨fun _ => rfl, fun _ _ => rfl⟩
  · refine Kept.trans ?_ (bumpFld_quiet _ 0 16 1 rfl).toKept
    exact ⟨fun _ => rfl, fun _ _ => rfl⟩

/-- KIND, VALID and CTX of a notice's word (R372). -/
theorem noticeWord_low (b : Block) {k : Nat} (c : Ctx) (d e : Nat) (j : Bool) (hk : k < 16) :
    (noticeWord b k (some c) d e j).toNat % 2 ^ 9 = k + 16 + 32 * c.val := by
  have hc := c.isLt
  simp only [noticeWord, BitVec.toNat_ofNat]
  cases j <;> simp only [Bool.false_eq_true, if_false, if_true] <;> omega

/-- DATA of a notice's word (R372). -/
theorem noticeWord_data (b : Block) {k : Nat} (c : Ctx) (d e : Nat) (j : Bool) (hk : k < 16) :
    (noticeWord b k (some c) d e j).toNat / 2 ^ 16 % 2 ^ 16 = d % 2 ^ 16 := by
  have hc := c.isLt
  simp only [noticeWord, BitVec.toNat_ofNat]
  cases j <;> simp only [Bool.false_eq_true, if_false, if_true] <;> omega

/-! ### Codes and posts queue at most one notice -/

/-- From `b` to `d` at most one notice has been queued, and strands and registers are kept but for reports. -/
def OneNotice (b d : Block) : Prop := ∃ m, Quiet b m ∧ (d = m ∨ ∃ k c x e j, d = notify m k c x e j)

theorem Quiet.oneNotice {b d : Block} (h : Quiet b d) : OneNotice b d := ⟨d, h, .inl rfl⟩

theorem notify_oneNotice (b : Block) (k : Nat) (c : Option Ctx) (d e : Nat) (j : Bool) : OneNotice b (notify b k c d e j) :=
  ⟨b, Quiet.refl b, .inr ⟨k, c, d, e, j, rfl⟩⟩

theorem OneNotice.after {b d e : Block} (k : OneNotice d e) (h : Quiet b d) : OneNotice b e :=
  let ⟨m, hm, he⟩ := k
  ⟨m, h.trans hm, he⟩

theorem OneNotice.kept {b d : Block} (h : OneNotice b d) : Kept b d := by
  obtain ⟨m, hm, rfl | ⟨k, c, x, e, j, rfl⟩⟩ := h
  · exact hm.toKept
  · exact hm.toKept.trans (notify_kept _ _ _ _ _ _)

/-- A notice that waits in a queue with room goes on waiting. -/
theorem OneNotice.mem {b d : Block} {n : W64} (h : OneNotice b d) (hl : b.notices.length < 32) (hn : n ∈ b.notices) : n ∈ d.notices := by
  obtain ⟨m, hm, rfl | ⟨k, c, x, e, j, rfl⟩⟩ := h
  · rwa [hm.notices]
  · rw [← hm.notices] at hl hn
    exact noticeAdded_mem_old (notify_added k c x e j hl) hn

theorem ringRecord_oneNotice (b : Block) (code : Nat) (ws : List W64) (c : Option Ctx) (ev : Bool) : OneNotice b (ringRecord b code ws c ev) := by
  unfold ringRecord
  split <;> dsimp only
  · have hq : Quiet b (bumpFld b .engFaultPtr 32 16 1) := bumpFld_quiet b _ _ _ rfl
    split
    · exact (notify_oneNotice _ _ _ _ _ _).after hq
    · exact hq.oneNotice
  · generalize hd : putRec b (fun w => .engFaultRec (Fin.ofNat 64 b.recNext) w) ws = d
    have hq : Quiet b d := hd ▸ putRec_quiet b _ ws (fun _ => rfl)
    have hp : Quiet b (setFld { d with recNext := d.recNext + 1 } .engFaultPtr 0 16 ((d.recNext + 1) % 65536)) :=
      (hq.trans (.of_parts rfl rfl rfl : Quiet d { d with recNext := d.recNext + 1 })).trans (setFld_quiet _ _ _ _ rfl)
    split
    · exact (notify_oneNotice _ _ _ _ _ _).after hp
    · exact hp.oneNotice

theorem raise_oneNotice (b : Block) (code : Code) (t : Site) : OneNotice b (raise b code t) := by
  unfold raise
  generalize hd : bumpFld b (.engEventCnt (Fin.ofNat 26 code.num)) 0 32 1 = d
  have hq : Quiet b d := hd ▸ bumpFld_quiet b 0 32 1 rfl
  dsimp only
  split
  · split
    · exact (ringRecord_oneNotice _ _ _ _ _).after hq
    · exact hq.oneNotice
  · split
    · split
      · exact (ringRecord_oneNotice _ _ _ _ _).after (hq.trans (enterFaulted_quiet _ _ _))
      · exact hq.oneNotice
    · generalize hx : (allFin 16).foldl _ d = x
      have hs : Quiet d x := by
        subst hx
        refine Quiet.foldl _ (fun y c => ?_) _ d
        split
        · exact enterFaulted_quiet _ _ _
        · exact Quiet.refl _
      exact (ringRecord_oneNotice _ _ _ _ _).after ((hq.trans hs).trans (.of_parts rfl rfl rfl))

theorem pegAdd_oneNotice (b : Block) (p : Peg) (r : Role) (n : Nat) : OneNotice b (pegAdd b p r n) := by
  unfold pegAdd
  cases r <;> dsimp only
  all_goals
    split
    · exact (raise_oneNotice _ _ _).after (.of_parts rfl rfl rfl)
    · exact Quiet.oneNotice (.of_parts rfl rfl rfl)

theorem syncPost_oneNotice (b : Block) (c : Ctx) (s : Strand) (gen : BitVec 16) (w : BitVec 128) : OneNotice b (syncPost b c s gen w) := by
  unfold syncPost strandPost
  split
  · split
    · exact (Quiet.refl b).oneNotice
    · split
      · refine Quiet.oneNotice (Quiet.trans ?_ (flushPosts_quiet _))
        exact (modCtx_quiet b c (f := fun x => { x with unacked := x.unacked + 1 })).trans (.of_parts rfl rfl rfl)
      · exact pegAdd_oneNotice _ _ _ _
  · exact (Quiet.refl b).oneNotice

theorem ctxDone_kept (b : Block) (c : Ctx) : Kept b (ctxDone b c) := by
  unfold ctxDone
  dsimp only
  split
  · exact (modCtx_quiet b c (f := fun x => { x with state := .done })).toKept.trans (notify_kept _ _ _ _ _ _)
  · exact Kept.refl b

/-- The end of an instruction in the issue stage keeps every strand, and every register but reports (R22). -/
theorem finishIssue_kept (b : Block) (e : Entry) : Kept b (finishIssue b e) :=
  ((syncPost_oneNotice _ _ _ _ _).kept.trans (progress_quiet _ _).toKept).trans (ctxDone_kept _ _)

/-- A strand that goes on (R233). -/
def GoesOn (b : Block) (c : Ctx) (s : Strand) : Prop := (getStrand b c s).started = true ∧ (getStrand b c s).halted = false

theorem Kept.goesOn {b d : Block} {c : Ctx} {s : Strand} (h : Kept b d) (g : GoesOn b c s) : GoesOn d c s := by
  unfold GoesOn
  rwa [h.getStrand]

/-- A context with a strand that goes on does not end (R231, R276). -/
theorem ctxDone_goesOn {b : Block} {c : Ctx} {s : Strand} (h : GoesOn b c s) : ctxDone b c = b := by
  obtain ⟨hs, hh⟩ := h
  have hall : (allFin 4).all (fun s => !((getCtx b c).strands.get s).started || ((getCtx b c).strands.get s).halted) = false := by
    rw [List.all_eq_false]
    exact ⟨s, List.mem_finRange s, by simpa [getStrand] using And.intro hs hh⟩
  simp only [ctxDone, hall, Bool.and_false, Bool.false_and, Bool.false_eq_true, if_false]

/-- An instruction whose strand goes on ends with its post and its progress (R22). -/
theorem finishIssue_goesOn {b : Block} {e : Entry} {s : Strand} (h : GoesOn b e.ctx s) :
    finishIssue b e = progress (syncPost b e.ctx e.strand e.gen e.word) e.ctx :=
  ctxDone_goesOn (((syncPost_oneNotice _ _ _ _ _).kept.trans (progress_quiet _ _).toKept).goesOn h)

/-! ### Units, slots and positions -/

theorem sameUnits_refl (b : Block) : sameUnits b b := ⟨rfl, rfl, rfl, rfl, rfl, rfl, rfl, rfl, rfl, rfl, rfl, rfl⟩

theorem sameUnits_trans {b d e : Block} (h : sameUnits b d) (k : sameUnits d e) : sameUnits b e := by
  simp only [sameUnits] at *
  simp [h, k]

theorem sameUnits_of_links {b d : Block} (h : OnlyLinks b d) : sameUnits b d := by
  rw [h]
  exact sameUnits_refl b

theorem getSlot_modStrand {f : StrandSt → StrandSt} (hf : ∀ x, (f x).slots = x.slots) (b : Block) (c c' : Ctx) (s s' : Strand) (k : Fin 32) :
    getSlot (modStrand b c s f) c' s' k = getSlot b c' s' k := by
  unfold getSlot
  by_cases h : c' = c ∧ s' = s
  · obtain ⟨rfl, rfl⟩ := h
    rw [getStrand_modStrand, hf]
  · rw [getStrand_modStrand_ne b f (not_and_or.mp h)]

@[simp] theorem getSlot_setPos (b : Block) (c c' : Ctx) (s s' : Strand) (p : Nat) (k : Fin 32) :
    getSlot (setPos b c s p) c' s' k = getSlot b c' s' k :=
  getSlot_modStrand (by intro x; rfl) b c c' s s' k

@[simp] theorem getStrand_setPos (b : Block) (c : Ctx) (s : Strand) (p : Nat) : getStrand (setPos b c s p) c s = { getStrand b c s with pos := p } :=
  getStrand_modStrand b c s _

@[simp] theorem getStrand_setSlot_pos (b : Block) (c : Ctx) (s : Strand) (k : Fin 32) (v : W64) :
    (getStrand (setSlot b c s k v) c s).pos = (getStrand b c s).pos := by
  simp only [setSlot, getStrand_modStrand]

/-- A write of a slot changes that slot alone (R257). -/
theorem setSlot_onlySlot (b : Block) (c : Ctx) (s : Strand) (k : Fin 32) (v : W64) : onlySlot c s k b (setSlot b c s k v) := by
  intro c' s' k' h
  by_cases hs : c' = c ∧ s' = s
  · obtain ⟨rfl, rfl⟩ := hs
    exact getSlot_setSlot_ne b c' s' v (by rintro rfl; exact h rfl)
  · unfold getSlot setSlot
    rw [getStrand_modStrand_ne b _ (not_and_or.mp hs)]

theorem setSlot_links (b : Block) (c : Ctx) (s : Strand) (k : Fin 32) (v : W64) : OnlyLinks b (setSlot b c s k v) := rfl

/-! ### The block that a dispatched instruction runs on -/

/-- `m` is `b` after the dispatch of the word at the position of strand `s`, before its effect: the position has moved on, and beside it only the
rotation, the number of the dispatch, pegs, and what the fetch touches have changed (R19, R234, R254). -/
def Issued (b : Block) (c : Ctx) (s : Strand) (m : Block) : Prop :=
  m = { setPos b c s ((getStrand b c s).pos + 1) with
    lastDispatch := m.lastDispatch, rot := m.rot, pegs := m.pegs, fetched := m.fetched, acts := m.acts }

section
variable {b m : Block} {c : Ctx} {s : Strand} (h : Issued b c s m)
include h

theorem Issued.getStrand : getStrand m c s = { getStrand b c s with pos := (getStrand b c s).pos + 1 } := by
  rw [h]
  exact getStrand_setPos b c s _

theorem Issued.getSlot (c' : Ctx) (s' : Strand) (k : Fin 32) : getSlot m c' s' k = getSlot b c' s' k := by
  rw [h]
  exact getSlot_setPos b c c' s s' _ k

theorem Issued.getFld (r : Reg) (lo wid : Nat) : getFld m r lo wid = getFld b r lo wid := by
  rw [h]
  rfl

theorem Issued.notices : m.notices = b.notices := by
  rw [h]
  rfl

theorem Issued.noticeNew : m.noticeNew = b.noticeNew := by
  rw [h]
  rfl

theorem Issued.pins : m.pins = b.pins := by
  rw [h]
  rfl

theorem Issued.units : sameUnits b m := by
  rw [h]
  exact sameUnits_refl b

end

theorem pegTake_pegs (b : Block) (p : Peg) (r : Role) (n : Nat) : ∃ g, pegTake b p r n = { b with pegs := g } := by
  cases r <;> exact ⟨_, rfl⟩

/-- The counts that dispatch takes are those of pegs (R236, R254). -/
theorem takeWaits_pegs (b : Block) (c : Ctx) (s : Strand) (w : Nat) : ∃ g, takeWaits b c s w = { b with pegs := g } := by
  unfold takeWaits
  generalize opWaits w = l
  induction l generalizing b with
  | nil => exact ⟨b.pegs, rfl⟩
  | cons p l ih =>
    rw [List.foldl_cons]
    split
    · rename_i r _
      obtain ⟨g, hg⟩ := pegTake_pegs b p.1 r p.2
      rw [hg]
      exact ih _
    · exact ih b

/-- Opcodes of the instructions that the issue stage runs itself and whose word alone says so: those below 0x10 but PPOST (R21, R259). -/
def issueOpc (w : Nat) : Prop := wOpc w < 0x10 ∧ wOpc w ≠ 0x09

theorem opUnit_issue {w : Nat} (h : issueOpc w) (b : Block) (c : Ctx) (s : Strand) : opUnit b c s w = .issue := by
  obtain ⟨hl, h9⟩ := h
  unfold opUnit
  split
  rotate_right
  · rfl
  all_goals omega

theorem storeReads_issue {w : Nat} (h : issueOpc w) (b : Block) : storeReads b w = [] := by
  obtain ⟨hl, h9⟩ := h
  unfold storeReads
  split
  rotate_right
  · rfl
  all_goals omega

/-- The dispatch of an instruction of the issue stage moves its strand on, runs it and ends it (R19, R254). -/
theorem dispatch_issue {w : BitVec 128} (h : issueOpc w.toNat) (b : Block) (c : Ctx) (s : Strand) :
    ∃ m e, Issued b c s m ∧ e.ctx = c ∧ e.word = w ∧ dispatch b c s w = finishIssue (runIssue m e c s w.toNat) e := by
  obtain ⟨g, hg⟩ := takeWaits_pegs { (fresh b).2 with rot := 4 * c.val + s.val } c s w.toNat
  have hu : (mkEntry (fresh b).2 c s (fresh b).1 w).eunit = .issue := opUnit_issue h _ c s
  refine ⟨setPos (takeWaits { (fresh b).2 with rot := 4 * c.val + s.val } c s w.toNat) c s ((getStrand b c s).pos + 1),
    mkEntry (fresh b).2 c s (fresh b).1 w, ?_, rfl, rfl, ?_⟩
  · rw [hg]
    rfl
  · unfold dispatch
    dsimp only
    rw [hu]
    rfl

/-- State checks do not read what a fetch touches. -/
theorem opBad_of_fetched {b d : Block} (h : OnlyFetched b d) (c : Ctx) (s : Strand) (w : Nat) : opBad d c s w = opBad b c s w := by
  rw [h]
  rfl

/-- Where a word dispatches and is its command's, the opportunity dispatches it and fetches ahead (R234, R252, R256). -/
theorem issue_dispatches {b : Block} {c : Ctx} {s : Strand} {w : BitVec 128} {op : Nat → Bool} (h : Dispatches b c s w) (hop : op w.toNat = true)
    (hi : issueOpc w.toNat) : ∃ d, OnlyFetched b d ∧ issue op b c s = prefetch (dispatch d c s w) c s := by
  have hf := fetchMeets_fetched b c s (getStrand b c s).pos h.ecc1 h.ecc2
  refine ⟨_, hf, ?_⟩
  have hbad : opBad (fetchMeets b c s (getStrand b c s).pos) c s w.toNat = [] := (opBad_of_fetched hf c s _).trans h.checks
  simp [issue, h.issues, h.strand, h.fetched, h.static, hop, h.picked, storeReads_issue hi, storeRead, hbad]

theorem Issued.of_fetched {b d m : Block} {c : Ctx} {s : Strand} (h : Issued d c s m) (hd : OnlyFetched b d) : Issued b c s m :=
  Eq.trans h (by rw [hd]; rfl)

theorem kept_of_fetched {b d : Block} (h : OnlyFetched b d) : Kept b d := by
  rw [h]
  exact ⟨fun _ => rfl, fun _ _ => rfl⟩

theorem sameUnits_of_fetched {b d : Block} (h : OnlyFetched b d) : sameUnits b d := by
  rw [h]
  exact sameUnits_refl b

theorem pins_of_fetched {b d : Block} (h : OnlyFetched b d) : d.pins = b.pins := by rw [h]

theorem notices_of_fetched {b d : Block} (h : OnlyFetched b d) : d.notices = b.notices := by rw [h]

theorem Issued.clean {b m r : Block} {c : Ctx} {s : Strand} (h : Issued b c s m) (hr : OnlyLinks m r) (h1 : b.ecc1 = []) (h2 : b.ecc2 = []) :
    r.ecc1 = [] ∧ r.ecc2 = [] := by
  rw [hr, h]
  exact ⟨h1, h2⟩

/-- A command of a running engine that leaves the pins leaves the block as its effect gives it (R368). -/
theorem onLive_pins {s : State} {f : Block → Block} (h : live s.blk = true) (hp : (f s.blk).pins = s.blk.pins) :
    s.onLive f = .next { s with blk := f s.blk } := by
  rw [onLive_live f h, ← hp]

/-- What a dispatch of the issue stage leaves behind: it ran on `m`, and `t` keeps what `run m` holds in strands and registers but reports; no unit
is touched, and the notices are those of the end of the instruction, of entry `e`. -/
structure Ran (s t : State) (c : Ctx) (q : Strand) (w : BitVec 128) (run : Block → Block) (m : Block) (e : Entry) : Prop where
  issued : Issued s.blk c q m
  kept : Kept (run m) t.blk
  units : sameUnits s.blk t.blk
  ctx : e.ctx = c
  word : e.word = w
  notices : t.blk.notices = (finishIssue (run m) e).notices

/-- An instruction whose effect `run` touches links alone runs at its dispatch (R19, R254). -/
theorem onLive_issue_ran {s : State} {c : Ctx} {q : Strand} {w : BitVec 128} {op : Nat → Bool} {run : Block → Block} (h : Dispatches s.blk c q w)
    (hop : op w.toNat = true) (hi : issueOpc w.toNat) (hrun : ∀ m e, runIssue m e c q w.toNat = run m) (hl : ∀ m, OnlyLinks m (run m)) :
    ∃ t m e, s.onLive (fun b => issue op b c q) = .next t ∧ Ran s t c q w run m e := by
  obtain ⟨d, hd, hr⟩ := issue_dispatches h hop hi
  obtain ⟨m, e, hm', hc, hw, he⟩ := dispatch_issue hi d c q
  have hm := hm'.of_fetched hd
  have hfin := (hl m).trans (finishIssue_links (run m) e)
  obtain ⟨h1, h2⟩ := hm.clean hfin h.ecc1 h.ecc2
  have hp := prefetch_fetched (finishIssue (run m) e) c q h1 h2
  have hx : issue op s.blk c q = prefetch (finishIssue (run m) e) c q := by rw [hr, he, hrun]
  refine ⟨_, m, e, onLive_pins h.live ?_, hm, ?_, ?_, hc, hw, ?_⟩ <;> simp only [hx]
  · exact (pins_of_fetched hp).trans (hfin.pins.trans hm.pins)
  · exact (finishIssue_kept (run m) e).trans (kept_of_fetched hp)
  · exact sameUnits_trans hm.units (sameUnits_trans (sameUnits_of_links hfin) (sameUnits_of_fetched hp))
  · exact notices_of_fetched hp

/-! ### Fields of a word, and the static checks -/

theorem bitsOf_eq (w hi lo : Nat) : bitsOf w hi lo = w / 2 ^ lo % 2 ^ (hi + 1 - lo) := by rw [bitsOf, Nat.shiftRight_eq_div_pow]

theorem bitAt_toNat (w : BitVec 128) (i : Nat) : bitAt w.toNat i = w.getLsbD i := by
  rw [BitVec.getLsbD, Nat.testBit_eq_decide_div_mod_eq, bitAt, Nat.shiftRight_eq_div_pow]
  rfl

theorem zeroAbove_eq_false {w k : Nat} (h : w / 2 ^ k ≠ 0) : zeroAbove w k = false := by
  rw [zeroAbove, Nat.shiftRight_eq_div_pow, beq_eq_false_iff_ne]
  exact h

/-- A word that fails the operand checks fails the static check (R256). -/
theorem staticOk_operands (s : Strand) {w : Nat} (h : operandsOk w = false) : staticOk s w = false := by
  rw [staticOk, h, Bool.and_false]

/-- The immediate of SETQ and ADDQ is the high half of the word (R261). -/
theorem ofNat_bitsOf_high (w : BitVec 128) : BitVec.ofNat 64 (bitsOf w.toNat 127 64) = (w >>> 64).setWidth 64 := by
  apply BitVec.eq_of_toNat_eq
  simp [bitsOf, Nat.shiftRight_eq_div_pow]

theorem setqValue_getLsbD (w : BitVec 128) (old : W64) {i : Nat} (hi : i < 64) :
    (setqValue w.toNat old).getLsbD i =
      if w.getLsbD 37 = false then w.getLsbD (64 + i)
      else if w.toNat / 2 ^ 38 % 2 ^ 6 ≤ i ∧ i ≤ w.toNat / 2 ^ 38 % 2 ^ 6 + w.toNat / 2 ^ 44 % 2 ^ 6 then
        w.getLsbD (64 + (i - w.toNat / 2 ^ 38 % 2 ^ 6))
      else old.getLsbD i := by
  have hlo : bitsOf w.toNat 43 38 = w.toNat / 2 ^ 38 % 2 ^ 6 := bitsOf_eq _ _ _
  have hwm : bitsOf w.toNat 49 44 = w.toNat / 2 ^ 44 % 2 ^ 6 := bitsOf_eq _ _ _
  have himm : ∀ j < 64, (bitsOf w.toNat 127 64).testBit j = w.getLsbD (64 + j) := fun j hj => by
    rw [bitsOf, Nat.testBit_mod_two_pow, Nat.testBit_shiftRight, BitVec.getLsbD]
    simp [hj]
  simp only [setqValue, bitAt_toNat, hlo, hwm]
  generalize w.toNat / 2 ^ 38 % 2 ^ 6 = lo
  generalize w.toNat / 2 ^ 44 % 2 ^ 6 = wm
  cases w.getLsbD 37 with
  | false =>
    simp only [Bool.false_eq_true, if_false, if_true]
    rw [BitVec.getLsbD_ofNat, himm i hi, decide_eq_true hi, Bool.true_and]
  | true =>
    simp only [if_true, Bool.true_eq_false, if_false]
    rw [insertBits_getLsbD _ _ _ _ _ hi]
    by_cases h : lo ≤ i ∧ i ≤ lo + wm
    · rw [if_pos h, if_pos (by omega), Nat.testBit_mod_two_pow, himm _ (by omega)]
      rw [decide_eq_true (by omega), Bool.true_and]
    · rw [if_neg h, if_neg (by omega)]

/-! ### SETQ, ADDQ, JUMP and LOOP -/

/-- An instruction whose effect is a write of a slot writes it, moves its strand on and does no more (R261). -/
theorem slot_write_ran {s : State} {c : Ctx} {q : Strand} {w : BitVec 128} {op : Nat → Bool} {k : Fin 32} {f : Block → W64}
    (h : Dispatches s.blk c q w) (hop : op w.toNat = true) (hi : issueOpc w.toNat)
    (hrun : ∀ m e, runIssue m e c q w.toNat = setSlot m c q k (f m)) (hf : ∀ m, Issued s.blk c q m → f m = f s.blk) :
    ∃ t, s.onLive (fun b => issue op b c q) = .next t ∧ getSlot t.blk c q k = f s.blk ∧ onlySlot c q k s.blk t.blk
      ∧ (getStrand t.blk c q).pos = (getStrand s.blk c q).pos + 1 ∧ sameUnits s.blk t.blk := by
  obtain ⟨t, m, e, ht, hran⟩ := onLive_issue_ran h hop hi hrun (fun m => setSlot_links m c q k (f m))
  refine ⟨t, ht, ?_, fun c' q' k' hn => ?_, ?_, hran.units⟩
  · rw [hran.kept.getSlot, getSlot_setSlot, hf m hran.issued]
  · rw [hran.kept.getSlot, setSlot_onlySlot _ _ _ _ _ c' q' k' hn, hran.issued.getSlot]
  · rw [hran.kept.getStrand, getStrand_setSlot_pos, hran.issued.getStrand]

/-- Settles O47: SETQ and ADDQ are writes of one slot, and the static checks refuse the words that R261 and R256 do. -/
theorem setqAndAddq : Obligations.SetqAndAddq := by
  unfold Obligations.SetqAndAddq
  refine ⟨fun s c q w h ho => ?_, fun s c q w h ho => ?_, fun q w ho h37 hend => ?_, fun q w hres => ?_⟩
  · obtain ⟨t, ht, hv, hrest⟩ := slot_write_ran (op := fun w => wOpc w == 0x01) (k := slotAt w.toNat 36 32)
      (f := fun b => setqValue w.toNat (getSlot b c q (slotAt w.toNat 36 32))) h (by simp [ho]) ⟨by omega, by omega⟩
      (fun m e => by simp only [runIssue, ho]) (fun m hm => by simp only [hm.getSlot])
    exact ⟨t, ht, fun i hi => by rw [hv, setqValue_getLsbD w _ hi], hrest⟩
  · obtain ⟨t, ht, hv, hrest⟩ := slot_write_ran (op := fun w => wOpc w == 0x02) (k := slotAt w.toNat 36 32)
      (f := fun b => addqValue w.toNat (getSlot b c q (slotAt w.toNat 41 37)) (getSlot b c q (slotAt w.toNat 46 42))) h (by simp [ho])
      ⟨by omega, by omega⟩ (fun m e => by simp only [runIssue, ho]) (fun m hm => by simp only [hm.getSlot])
    exact ⟨t, ht, by rw [hv, addqValue, ofNat_bitsOf_high, bitAt_toNat], hrest⟩
  · have hbit : bitsOf w.toNat 37 37 = 1 := by
      rw [← bitAt_toNat] at h37
      exact beq_iff_eq.mp h37
    have hsum : ¬ bitsOf w.toNat 43 38 + bitsOf w.toNat 49 44 ≤ 63 := by
      rw [bitsOf_eq, bitsOf_eq]
      exact Nat.not_le.mpr hend
    exact staticOk_operands q (by simp [operandsOk, ho, hbit, hsum])
  · refine staticOk_operands q ?_
    obtain ⟨ho, hr⟩ | ⟨ho, hr⟩ := hres
    · have hne : bitsOf w.toNat 63 50 ≠ 0 := by rwa [bitsOf_eq]
      simp [operandsOk, ho, hne]
    · have hne : bitsOf w.toNat 63 48 ≠ 0 := by rwa [bitsOf_eq]
      simp [operandsOk, ho, hne]

theorem runIssue_jump (b : Block) (e : Entry) (c : Ctx) (s : Strand) {w : Nat} (h : wOpc w = 0x03) :
    runIssue b e c s w = if jumpTaken w (getSlot b c s (slotAt w 56 52)) then setPos b c s (bitsOf w 49 32) else b := by
  simp only [runIssue, h]

theorem runIssue_loop (b : Block) (e : Entry) (c : Ctx) (s : Strand) {w : Nat} (h : wOpc w = 0x04) :
    runIssue b e c s w = if getSlot b c s (slotAt w 54 50) - 1#64 = 0#64 then setSlot b c s (slotAt w 54 50) (getSlot b c s (slotAt w 54 50) - 1#64)
      else setPos (setSlot b c s (slotAt w 54 50) (getSlot b c s (slotAt w 54 50) - 1#64)) c s (bitsOf w 49 32) := by
  simp only [runIssue, h]

/-- The four conditions of JUMP (R262). -/
theorem jumpTaken_iff (w : Nat) (v : W64) :
    jumpTaken w v = true ↔ w / 2 ^ 50 % 4 = 0 ∨ (w / 2 ^ 50 % 4 = 1 ∧ v = 0#64) ∨ (w / 2 ^ 50 % 4 = 2 ∧ v ≠ 0#64)
      ∨ (w / 2 ^ 50 % 4 = 3 ∧ v.getLsbD 63 = true) := by
  have hc : bitsOf w 51 50 = w / 2 ^ 50 % 4 := bitsOf_eq _ _ _
  have hlt : w / 2 ^ 50 % 4 < 4 := Nat.mod_lt _ (by omega)
  unfold jumpTaken
  rw [hc]
  generalize w / 2 ^ 50 % 4 = cond at hlt
  obtain rfl | rfl | rfl | rfl : cond = 0 ∨ cond = 1 ∨ cond = 2 ∨ cond = 3 := by omega
  · simp
  · simp
  · simp
  · simp [BitVec.msb_eq_getLsbD_last]

/-- Settles O48: a branch is a write of the position, for LOOP after the write of its counter. -/
theorem jumpAndLoop : Obligations.JumpAndLoop := by
  unfold Obligations.JumpAndLoop
  refine ⟨fun s c q w h ho => ?_, fun s c q w h ho => ?_, fun q w hres => ?_⟩
  · obtain ⟨t, m, e, ht, hran⟩ := onLive_issue_ran (op := fun w => wOpc w == 0x03) h (by simp [ho]) ⟨by omega, by omega⟩
      (fun m e => runIssue_jump m e c q ho) (fun m => by split <;> rfl)
    have hcond := jumpTaken_iff w.toNat (getSlot s.blk c q (slotAt w.toNat 56 52))
    have hk := hran.kept
    rw [hran.issued.getSlot] at hk
    refine ⟨t, ht, ⟨fun htaken => ?_, fun hnot => ?_⟩, fun c' q' k' => ?_, hran.units⟩
    · rw [if_pos (hcond.mpr htaken)] at hk
      rw [hk.getStrand, getStrand_setPos, bitsOf_eq]
    · rw [if_neg (fun hj => hnot (hcond.mp hj))] at hk
      rw [hk.getStrand, hran.issued.getStrand]
    · rw [hk.getSlot, ← hran.issued.getSlot c' q' k']
      split
      · rw [getSlot_setPos]
      · rfl
  · obtain ⟨t, m, e, ht, hran⟩ := onLive_issue_ran (op := fun w => wOpc w == 0x04) h (by simp [ho]) ⟨by omega, by omega⟩
      (fun m e => runIssue_loop m e c q ho) (fun m => by split <;> rfl)
    have hk := hran.kept
    rw [hran.issued.getSlot] at hk
    have hslot : ∀ c' q' k', getSlot t.blk c' q' k' = getSlot (setSlot m c q (slotAt w.toNat 54 50)
        (getSlot s.blk c q (slotAt w.toNat 54 50) - 1#64)) c' q' k' := fun c' q' k' => by
      rw [hk.getSlot]
      split
      · rfl
      · rw [getSlot_setPos]
    refine ⟨t, ht, ⟨by rw [hslot, getSlot_setSlot], fun c' q' k' hn => ?_, ?_⟩, hran.units⟩
    · rw [hslot, setSlot_onlySlot _ _ _ _ _ c' q' k' hn, hran.issued.getSlot]
    · rw [hk.getStrand]
      by_cases hz : getSlot s.blk c q (slotAt w.toNat 54 50) - 1#64 = 0#64
      · rw [if_pos hz, if_neg (not_not.mpr hz), getStrand_setSlot_pos, hran.issued.getStrand]
      · rw [if_neg hz, if_pos hz, getStrand_setPos, bitsOf_eq]
  · refine staticOk_operands q ?_
    rcases hres with ⟨ho, hr⟩ | ⟨ho, hr⟩ <;> simp only [operandsOk, ho, zeroAbove_eq_false hr]

/-! ### EVENT -/

/-- Whether a notice has joined the queue depends on the queue before and after, and on what the beat has queued. -/
theorem noticeAdded_congr {b b' d d' : Block} {n : W64} (h : noticeAdded b d n) (hb : b.notices = b'.notices) (hn : b.noticeNew = b'.noticeNew)
    (hd : d.notices = d'.notices) : noticeAdded b' d' n := by
  unfold noticeAdded at *
  rwa [hb, hn, hd] at h

theorem getFld_bumpFld_apart (b : Block) (r : Reg) {lo wid lo' wid' : Nat} (n : Nat) (h : lo' + wid' ≤ 64)
    (hd : lo' + wid' ≤ lo ∨ lo + wid ≤ lo') : getFld (bumpFld b r lo wid n) r lo' wid' = getFld b r lo' wid' :=
  getFld_setFld_apart b r (min (2 ^ wid - 1) (getFld b r lo wid + n)) h hd

/-- The registers that EVENT writes (R263, R277). -/
def eventRegs (b : Block) (c : Ctx) (s : Strand) (w : Nat) : Block :=
  let d := setFld (setFld b (.schEvent c) 0 16 (bitsOf w 47 32)) (.schEvent c) 16 2 s.val
  bumpFld (setRaw d (.schEventData c) (getSlot b c s (slotAt w 52 48))) (.schEvent c) 32 16 1

/-- EVENT writes its registers, and with NOTIFY then sends a notice of kind 2 (R263). -/
theorem runEvent_eq (b : Block) (c : Ctx) (s : Strand) (w : Nat) :
    runEvent b c s w = if bitAt w 53 then notify (eventRegs b c s w) 2 (some c) (bitsOf w 47 32) 0 false else eventRegs b c s w := rfl

theorem runEvent_kept (b : Block) (c : Ctx) (s : Strand) (w : Nat) : Kept (eventRegs b c s w) (runEvent b c s w) := by
  rw [runEvent_eq]
  split
  · exact notify_kept _ _ _ _ _ _
  · exact Kept.refl _

theorem setRaw_links (b : Block) (r : Reg) (v : W64) : OnlyLinks b (setRaw b r v) := rfl

theorem bumpFld_links (b : Block) (r : Reg) (lo wid n : Nat) : OnlyLinks b (bumpFld b r lo wid n) := rfl

theorem eventRegs_links (b : Block) (c : Ctx) (s : Strand) (w : Nat) : OnlyLinks b (eventRegs b c s w) := by
  unfold eventRegs
  exact (((setFld_links _ _ _ _ _).trans (setFld_links _ _ _ _ _)).trans (setRaw_links _ _ _)).trans (bumpFld_links _ _ _ _ _)

theorem runEvent_links (b : Block) (c : Ctx) (s : Strand) (w : Nat) : OnlyLinks b (runEvent b c s w) := by
  rw [runEvent_eq]
  split
  · exact (eventRegs_links b c s w).trans (notify_links _ _ _ _ _ _)
  · exact eventRegs_links b c s w

section
variable (b : Block) (c : Ctx) (s : Strand) (w : Nat)

theorem eventRegs_value : getFld (eventRegs b c s w) (.schEvent c) 0 16 = w / 2 ^ 32 % 2 ^ 16 := by
  unfold eventRegs
  rw [getFld_bumpFld_apart _ _ _ (by omega) (by omega), getFld_setRaw_ne _ _ _ _ (by simp), getFld_setFld_apart _ _ _ (by omega) (by omega),
    getFld_setFld _ _ _ (by omega), bitsOf_eq, Nat.mod_mod]

theorem eventRegs_strand : getFld (eventRegs b c s w) (.schEvent c) 16 2 = s.val := by
  unfold eventRegs
  rw [getFld_bumpFld_apart _ _ _ (by omega) (by omega), getFld_setRaw_ne _ _ _ _ (by simp), getFld_setFld _ _ _ (by omega)]
  exact Nat.mod_eq_of_lt s.isLt

theorem eventRegs_count : getFld (eventRegs b c s w) (.schEvent c) 32 16 = min (2 ^ 16 - 1) (getFld b (.schEvent c) 32 16 + 1) := by
  unfold eventRegs
  rw [getFld_bumpFld _ _ _ (by omega), getFld_setRaw_ne _ _ _ _ (by simp), getFld_setFld_apart _ _ _ (by omega) (by omega),
    getFld_setFld_apart _ _ _ (by omega) (by omega)]

theorem eventRegs_data : rawReg (eventRegs b c s w) (.schEventData c) = getSlot b c s (slotAt w 52 48) := by
  unfold eventRegs
  rw [rawReg_bumpFld, rawReg_setFld_ne _ _ _ _ (by simp), rawReg_setRaw]

theorem eventRegs_getStrand (c' : Ctx) (s' : Strand) : getStrand (eventRegs b c s w) c' s' = getStrand b c' s' := by
  simp only [getStrand, getCtx, eventRegs, bumpFld_ctxs, setRaw_ctxs, setFld_ctxs]

theorem eventRegs_getSlot (c' : Ctx) (s' : Strand) (k : Fin 32) : getSlot (eventRegs b c s w) c' s' k = getSlot b c' s' k := by
  simp only [getSlot, eventRegs_getStrand]

theorem eventRegs_notices : (eventRegs b c s w).notices = b.notices := by
  simp only [eventRegs, bumpFld_notices, setRaw_notices, setFld_notices]

theorem eventRegs_noticeNew : (eventRegs b c s w).noticeNew = b.noticeNew := by
  simp only [eventRegs, bumpFld_noticeNew, setRaw_noticeNew, setFld_noticeNew]

end

/-- With NOTIFY and room in the queue the notice of EVENT joins the queue (R263, R372). -/
theorem runEvent_notice {b : Block} (c : Ctx) (s : Strand) {w : Nat} (hbit : bitAt w 53 = true) (hl : b.notices.length < 32) :
    ∃ n, noticeAdded b (runEvent b c s w) n ∧ n.toNat % 2 ^ 9 = 2 + 16 + 32 * c.val ∧ n.toNat / 2 ^ 16 % 2 ^ 16 = w / 2 ^ 32 % 2 ^ 16 := by
  refine ⟨noticeWord (eventRegs b c s w) 2 (some c) (bitsOf w 47 32) 0 false, ?_, noticeWord_low _ c _ _ _ (by omega), ?_⟩
  · rw [runEvent_eq, if_pos hbit]
    have hroom : (eventRegs b c s w).notices.length < 32 := by rwa [eventRegs_notices]
    exact noticeAdded_congr (notify_added _ _ _ _ _ hroom) (eventRegs_notices b c s w) (eventRegs_noticeNew b c s w) rfl
  · rw [noticeWord_data _ c _ _ _ (by omega), bitsOf_eq, Nat.mod_mod]

/-- A strand that dispatches goes on (R233). -/
theorem goesOn_of_dispatches {b : Block} {c : Ctx} {q : Strand} {w : BitVec 128} (h : Dispatches b c q w) : GoesOn b c q := by
  have hs := h.strand
  simp only [strandLive, Bool.and_eq_true, Bool.not_eq_true'] at hs
  obtain ⟨⟨⟨-, hstarted⟩, hhalted⟩, -⟩ := hs
  exact ⟨hstarted, hhalted⟩

/-- Settles O49: the event registers stand as EVENT writes them; the notice joins the queue, and stays there when the post of the sync field raises
a code, which queues at most one notice more. -/
theorem eventReportsToTheHost : Obligations.EventReportsToTheHost := by
  unfold Obligations.EventReportsToTheHost
  refine ⟨fun s c q w h ho => ?_, fun q w ho hr => staticOk_operands q ?_⟩
  · obtain ⟨t, m, e, ht, hran⟩ := onLive_issue_ran (op := fun w => wOpc w == 0x05) (run := fun m => runEvent m c q w.toNat) h (by simp [ho])
      ⟨by omega, by omega⟩ (fun m e => by simp only [runIssue, ho]) (fun m => runEvent_links m c q w.toNat)
    have hm := hran.issued
    have hk : Kept (eventRegs m c q w.toNat) t.blk := (runEvent_kept m c q w.toNat).trans hran.kept
    have hgo : GoesOn (runEvent m c q w.toNat) e.ctx q := by
      obtain ⟨hs, hh⟩ := goesOn_of_dispatches h
      rw [hran.ctx]
      exact (runEvent_kept m c q w.toNat).goesOn (by rw [GoesOn, eventRegs_getStrand, hm.getStrand]; exact ⟨hs, hh⟩)
    have hend : t.blk.notices = (syncPost (runEvent m c q w.toNat) e.ctx e.strand e.gen e.word).notices := by
      rw [hran.notices, finishIssue_goesOn hgo, (progress_quiet _ _).notices]
    refine ⟨t, ht, ?_, ?_, ?_, ?_, fun hnot hlen hpen => ?_, fun hnot hlen => ?_, ?_, fun c' q' k' => ?_, hran.units⟩
    · rw [hk.getFld rfl, eventRegs_value]
    · rw [hk.getFld rfl, eventRegs_strand]
    · rw [hk.getFld rfl, eventRegs_count, hm.getFld]
    · rw [hk.regs _ rfl, eventRegs_data, hm.getSlot]
    · obtain ⟨n, hadd, hn⟩ := runEvent_notice c q (w := w.toNat) (by rwa [bitAt_toNat]) (hm.notices ▸ hlen)
      rw [syncPost_none _ _ _ _ (by rwa [hran.word, wordPen, bitAt_toNat])] at hend
      exact ⟨n, noticeAdded_congr hadd hm.notices hm.noticeNew hend.symm, hn⟩
    · obtain ⟨n, hadd, hn⟩ := runEvent_notice c q (w := w.toNat) (by rwa [bitAt_toNat]) (by rw [hm.notices]; omega)
      have hroom : (runEvent m c q w.toNat).notices.length < 32 := by
        rw [noticeAdded_length hadd, hm.notices]
        omega
      exact ⟨n, hend ▸ (syncPost_oneNotice _ _ _ _ _).mem hroom (noticeAdded_mem hadd), hn⟩
    · rw [hk.getStrand, eventRegs_getStrand, hm.getStrand]
    · rw [hk.getSlot, eventRegs_getSlot, hm.getSlot]
  · simp only [operandsOk, ho, zeroAbove_eq_false hr]

end Sys2Proof.Proofs.IssueStage

/-! SUPPORT. ENG_RESET: what the start of a fence leaves alone, what an engine reset does to memory and to READY, and the statement of R326. -/

namespace Sys2Proof.Proofs.EngReset

open Sys2Proof Sys2Proof.Machine Sys2Proof.Laws Sys2Proof.Proofs.IssueStage

/-! ### What a fence keeps -/

/-- From `b` to `d` memory, the phase of the engine reset and ENG_STATUS stand, and a context in FENCING stays there under its generation. -/
structure FencesKept (b d : Block) : Prop where
  sram : d.sram = b.sram
  rst : d.rst = b.rst
  status : rawReg d .engStatus = rawReg b .engStatus
  fencing : ∀ c, (getCtx b c).state = .fencing → (getCtx d c).state = .fencing ∧ (getCtx d c).gen = (getCtx b c).gen

theorem FencesKept.refl (b : Block) : FencesKept b b := ⟨rfl, rfl, rfl, fun _ h => ⟨h, rfl⟩⟩

theorem FencesKept.trans {b d e : Block} (h : FencesKept b d) (k : FencesKept d e) : FencesKept b e where
  sram := k.sram.trans h.sram
  rst := k.rst.trans h.rst
  status := k.status.trans h.status
  fencing c hc := by
    obtain ⟨hs, hg⟩ := h.fencing c hc
    obtain ⟨ks, kg⟩ := k.fencing c hs
    exact ⟨ks, kg.trans hg⟩

theorem FencesKept.foldl {β : Type} {f : Block → β → Block} (hf : ∀ b x, FencesKept b (f b x)) (l : List β) (b : Block) :
    FencesKept b (l.foldl f b) :=
  l.foldlRecOn f (motive := FencesKept b) (FencesKept.refl b) (fun _ h x _ => h.trans (hf _ x))

/-- Where contexts stand, the kept fields are all there is to show. -/
theorem FencesKept.of_ctxs {b d : Block} (hc : d.ctxs = b.ctxs) (hm : d.sram = b.sram) (hr : d.rst = b.rst)
    (hs : rawReg d .engStatus = rawReg b .engStatus) : FencesKept b d :=
  have hget : ∀ c, getCtx d c = getCtx b c := fun c => by simp only [getCtx, hc]
  ⟨hm, hr, hs, fun c h => by rw [hget]; exact ⟨h, rfl⟩⟩

/-- What touches neither contexts, registers nor memory keeps every fence. -/
theorem FencesKept.of_parts {b d : Block} (hc : d.ctxs = b.ctxs) (hg : d.regs = b.regs) (hm : d.sram = b.sram) (hr : d.rst = b.rst) :
    FencesKept b d :=
  .of_ctxs hc hm hr (rawReg_congr hg _)

theorem setRaw_fences (b : Block) {r : Reg} (v : W64) (h : r ≠ .engStatus) : FencesKept b (setRaw b r v) :=
  .of_ctxs rfl rfl rfl (rawReg_setRaw_ne b v h.symm)

theorem bumpFld_fences (b : Block) {r : Reg} (lo wid n : Nat) (h : r ≠ .engStatus) : FencesKept b (bumpFld b r lo wid n) :=
  .of_ctxs rfl rfl rfl (rawReg_setRaw_ne b _ h.symm)

theorem hwSet_fences (b : Block) {r : Reg} (lo : Nat) (h : r ≠ .engStatus) : FencesKept b (hwSet b r lo) :=
  .of_ctxs rfl rfl rfl (rawReg_setRaw_ne b _ h.symm)

/-- A context changes; where it is in FENCING it stays so. -/
theorem modCtx_fences (b : Block) (c : Ctx) {f : CtxSt → CtxSt}
    (hf : (getCtx b c).state = .fencing → (f (getCtx b c)).state = .fencing ∧ (f (getCtx b c)).gen = (getCtx b c).gen) :
    FencesKept b (modCtx b c f) := by
  refine ⟨rfl, rfl, rfl, fun d hd => ?_⟩
  by_cases hc : d = c
  · subst hc
    rw [getCtx_modCtx]
    exact hf hd
  · rw [getCtx_modCtx_ne b f hc]
    exact ⟨hd, rfl⟩

/-! ### Codes and ECC -/

theorem ringRecord_fences (b : Block) (code : Nat) (ws : List W64) (c : Option Ctx) (ev : Bool) : FencesKept b (ringRecord b code ws c ev) := by
  have hs := (ringRecord_oneNotice b code ws c ev).kept.regs .engStatus rfl
  obtain ⟨n, k, h⟩ := ringRecord_frame b code ws c ev
  rw [h] at hs ⊢
  exact .of_ctxs rfl rfl rfl hs

/-- A code stops only a context that is not in FENCING (R319). -/
theorem enterFaulted_fences (b : Block) (c : Ctx) (ws : List W64) (h : (getCtx b c).state ≠ .fencing) : FencesKept b (enterFaulted b c ws) := by
  have hput : FencesKept b (putRec b (fun w => .engCtxFault c w) ws) := FencesKept.foldl (fun b i => setRaw_fences b _ (by simp)) _ b
  refine hput.trans (modCtx_fences _ c (fun hc => absurd hc ?_))
  obtain ⟨r, hr⟩ := putRec_frame b (fun w => .engCtxFault c w) ws
  rwa [hr]

theorem not_fencing_of_faultable {b : Block} {c : Ctx} (h : faultable b c = true) : (getCtx b c).state ≠ .fencing := by
  intro hc
  simp [faultable, hc] at h

theorem not_fencing_of_activeCtx {b : Block} {c : Ctx} (h : activeCtx b c = true) : (getCtx b c).state ≠ .fencing := by
  intro hc
  simp [activeCtx, hc] at h

/-- Raising a code takes no context out of FENCING (R319 to R321). -/
theorem raise_fences (b : Block) (code : Code) (t : Site) : FencesKept b (raise b code t) := by
  unfold raise
  have hcount := bumpFld_fences b (r := .engEventCnt (Fin.ofNat 26 code.num)) 0 32 1 (by simp)
  refine hcount.trans ?_
  generalize bumpFld b (.engEventCnt (Fin.ofNat 26 code.num)) 0 32 1 = d
  dsimp only
  split
  · split
    · exact ringRecord_fences _ _ _ _ _
    · exact FencesKept.refl d
  · split
    · split
      · rename_i hf
        exact (enterFaulted_fences _ _ _ (not_fencing_of_faultable hf)).trans (ringRecord_fences _ _ _ _ _)
      · exact FencesKept.refl d
    · generalize hx : (allFin 16).foldl _ d = x
      have hstop : FencesKept d x := by
        subst hx
        refine FencesKept.foldl (fun e c => ?_) _ d
        split
        · rename_i ha
          exact enterFaulted_fences _ _ _ (not_fencing_of_activeCtx ha)
        · exact FencesKept.refl e
      have hmark : FencesKept x { x with engFault := some code.num } := .of_parts rfl rfl rfl rfl
      exact (hstop.trans hmark).trans (ringRecord_fences _ _ _ _ _)

theorem eccLog_fences (b : Block) (w : Nat) (u s : Bool) : FencesKept b (eccLog b w u s) :=
  (setRaw_fences b _ (by simp)).trans (hwSet_fences _ 63 (by simp))

theorem eccRead_fences (b : Block) (lo n : Nat) (scrub : Bool) : FencesKept b (eccRead b lo n scrub).1 := by
  have hone : ∀ (lo wid : Nat) (u : Bool) (d : Block) (w : Nat), FencesKept d (eccLog (bumpFld d .mgtEcc lo wid 1) w u scrub) :=
    fun lo wid u d w => (bumpFld_fences d lo wid 1 (by simp)).trans (eccLog_fences _ w u scrub)
  unfold eccRead
  dsimp only
  refine FencesKept.trans ?_ (FencesKept.foldl (hone 32 16 true) _ _)
  refine FencesKept.trans ?_ (FencesKept.foldl (hone 0 32 false) _ _)
  exact .of_parts rfl rfl rfl rfl

/-! ### The chain unit -/

theorem modChain_fences (b : Block) (f : ChainSt → ChainSt) : FencesKept b (modChain b f) := .of_parts rfl rfl rfl rfl

theorem slotWrite_fences (b : Block) (f : Frame) : FencesKept b (slotWrite b f) := .of_parts rfl rfl rfl rfl

/-- A frame that moves to the keep area may raise a code of its read; its slot's bytes are the frame's, no byte of memory (R282, R287). -/
theorem keepFrame_fences (b : Block) (f : Frame) : FencesKept b (keepFrame b f) := by
  have hread : FencesKept b (slotRead b f).1 := eccRead_fences b _ _ _
  unfold keepFrame
  generalize slotRead b f = p at hread
  obtain ⟨d, bad⟩ := p
  dsimp only at hread ⊢
  have htick : FencesKept d (tickFree d) := .of_parts rfl rfl rfl rfl
  refine FencesKept.trans (FencesKept.trans ?_ (modChain_fences _ _)) (slotWrite_fences _ _)
  split
  · exact (hread.trans htick).trans (raise_fences _ _ _)
  · exact hread

theorem cutTile_fences (b : Block) (t : ChTile) : FencesKept b (cutTile b t) := by
  unfold cutTile
  dsimp only
  split
  · exact FencesKept.refl b
  · split
    · exact ((FencesKept.foldl keepFrame_fences _ b).trans (modChain_fences _ _)).trans (modChain_fences _ _)
    · exact (modChain_fences b _).trans (modChain_fences _ _)

theorem freeSlots_fences (b : Block) : FencesKept b (freeSlots b) := .of_parts rfl rfl rfl rfl

theorem holdUpdate_fences (b : Block) : FencesKept b (holdUpdate b) := .of_parts rfl rfl rfl rfl

theorem chainSettle_fences (b : Block) : FencesKept b (chainSettle b) := by
  have hcut : FencesKept b (if b.chain.cut then b.chain.tiles.foldl cutTile b else b) := by
    split
    · exact FencesKept.foldl cutTile_fences _ b
    · exact FencesKept.refl b
  exact (hcut.trans (freeSlots_fences _)).trans (holdUpdate_fences _)

theorem cutClear_fences (b : Block) : FencesKept b (cutClear b) := by
  unfold cutClear
  split
  · exact modChain_fences b _
  · exact FencesKept.refl b

theorem takeTile_fences (b : Block) (i : Nat) : FencesKept b (takeTile b i) :=
  (((modChain_fences b _).trans (modChain_fences _ _)).trans (chainSettle_fences _)).trans (cutClear_fences _)

theorem fenceChain_fences (b : Block) (c : Ctx) : FencesKept b (fenceChain b c) := by
  unfold fenceChain
  dsimp only
  generalize hd : (if b.entries.any (fun e => decide (e.ctx = c) && e.started && wOpc e.word.toNat == 0x48) = true then
    modChain b (fun x => { x with ownTile := false }) else b) = d
  have hown : FencesKept b d := by
    rw [← hd]
    split
    · exact modChain_fences b _
    · exact FencesKept.refl b
  split
  · split
    · exact hown.trans (takeTile_fences d _)
    · exact hown
  · exact hown

/-! ### The start of a fence -/

theorem fenceArray_fences (b : Block) (c : Ctx) (n : Arr) : FencesKept b (fenceArray b c n) := .of_parts rfl rfl rfl rfl

theorem freeGroup_fences (b : Block) (g : Grp) : FencesKept b (freeGroup b g) := .of_parts rfl rfl rfl rfl

theorem chkRelease_fences (b : Block) (n : Chk) : FencesKept b (chkRelease b n) := .of_parts rfl rfl rfl rfl

theorem fenceKiln_fences (b : Block) (c : Ctx) : FencesKept b (fenceKiln b c) := by
  unfold fenceKiln
  dsimp only
  generalize hd : (allFin 64).foldl _ b = d
  have hgroups : FencesKept b d := by
    subst hd
    refine FencesKept.foldl (fun e g => ?_) _ b
    split
    · exact freeGroup_fences e g
    · exact FencesKept.refl e
  exact hgroups.trans (.of_parts rfl rfl rfl rfl)

/-- Discarding a context's work touches neither memory nor ENG_STATUS, and ends no fence (R327). -/
theorem fenceWork_fences (b : Block) (c : Ctx) : FencesKept b (fenceWork b c) := by
  unfold fenceWork
  dsimp only
  have hunits := (fenceChain_fences b c).trans (FencesKept.foldl (fun d n => fenceArray_fences d c n) (allFin 4) _)
  have hkiln := hunits.trans (fenceKiln_fences _ c)
  generalize fenceKiln _ c = d at hkiln
  generalize hx : (allFin 4).foldl _ d = x
  have hchks : FencesKept d x := by
    subst hx
    refine FencesKept.foldl (fun e n => ?_) _ d
    split
    · exact chkRelease_fences e n
    · exact FencesKept.refl e
  exact (hkiln.trans hchks).trans (.of_parts rfl rfl rfl rfl)

/-- No instruction of the context is left (R327). -/
theorem fenceWork_entries (b : Block) (c : Ctx) : ∀ e ∈ (fenceWork b c).entries, e.ctx ≠ c := by
  intro e he
  exact of_decide_eq_true (List.mem_filter.mp he).2

theorem chargeRemote_fences {b d : Block} {c : Ctx} {n : Nat} (h : chargeRemote b c n = some d) : FencesKept b d := by
  unfold chargeRemote at h
  split at h
  · cases h
    exact modCtx_fences b c (fun hc => ⟨hc, rfl⟩)
  · cases h

theorem sendRequest_fences (b : Block) (hdr : BitVec 512) (data : List Byte) : FencesKept b (sendRequest b hdr data) := by
  unfold sendRequest
  split
  · exact .of_parts rfl rfl rfl rfl
  · exact .of_parts rfl rfl rfl rfl

theorem sendTagged_fences {b d : Block} {c : Ctx} {gen : BitVec 16} {peer : Nat} {kind : FabKind} {pk beats arg mask : Nat} {data : List Byte}
    (h : sendTagged b c gen peer kind pk beats arg mask data = some d) : FencesKept b d := by
  unfold sendTagged at h
  split at h
  · rename_i t b' ht hb
    cases h
    refine (chargeRemote_fences hb).trans (FencesKept.trans ?_ (sendRequest_fences _ _ _))
    exact .of_parts rfl rfl rfl rfl
  · cases h

theorem sendRevokes_fences (b : Block) (c : Ctx) : FencesKept b (sendRevokes b c) := by
  unfold sendRevokes
  split
  · exact FencesKept.refl b
  · refine FencesKept.foldl (fun d i => ?_) _ b
    split
    · rename_i hd
      exact (sendTagged_fences hd).trans (modCtx_fences _ c (fun hc => ⟨hc, rfl⟩))
    · exact FencesKept.refl d

theorem sendRevokes_links (b : Block) (c : Ctx) : OnlyLinks b (sendRevokes b c) := by
  unfold sendRevokes
  split
  · exact OnlyLinks.refl b
  · refine OnlyLinks.foldl _ (fun d i => ?_) _ b
    split
    · rename_i hd
      exact (sendTagged_links hd).trans (modCtx_links _ c _)
    · exact OnlyLinks.refl d

/-- The block in which a fence of `c` has its new state and generation, and nothing is discarded yet (R327 step 1). -/
def fenceMarked (b : Block) (c : Ctx) : Block :=
  modCtx b c (fun x => { x with state := .fencing, gen := x.gen + 1#16, fence := some ⟨b.beat, revokeList b c, (getCtx b c).gen⟩ })

theorem fenceStart_eq (b : Block) (c : Ctx) : fenceStart b c = sendRevokes (fenceTags (fenceWork (fenceMarked b c) c) c) c := rfl

/-- After the mark, the start of a fence keeps every fence, its own too. -/
theorem fenceStart_after_mark (b : Block) (c : Ctx) : FencesKept (fenceMarked b c) (fenceStart b c) := by
  have htags : ∀ d, FencesKept d (fenceTags d c) := fun d => .of_parts rfl rfl rfl rfl
  rw [fenceStart_eq]
  exact ((fenceWork_fences _ c).trans (htags _)).trans (sendRevokes_fences _ c)

theorem fenceStart_fences {b : Block} {c : Ctx} (h : (getCtx b c).state ≠ .fencing) : FencesKept b (fenceStart b c) :=
  (modCtx_fences b c (fun hc => absurd hc h)).trans (fenceStart_after_mark b c)

/-- The fenced context is in FENCING under its next generation (R327 step 1). -/
theorem fenceStart_fencing (b : Block) (c : Ctx) :
    (getCtx (fenceStart b c) c).state = .fencing ∧ (getCtx (fenceStart b c) c).gen = (getCtx b c).gen + 1#16 := by
  have hmark : getCtx (fenceMarked b c) c
      = { getCtx b c with state := .fencing, gen := (getCtx b c).gen + 1#16, fence := some ⟨b.beat, revokeList b c, (getCtx b c).gen⟩ } :=
    getCtx_modCtx b c _
  have h := (fenceStart_after_mark b c).fencing c (by rw [hmark])
  rwa [hmark] at h

theorem fenceStart_entries (b : Block) (c : Ctx) : ∀ e ∈ (fenceStart b c).entries, e.ctx ≠ c := by
  rw [fenceStart_eq, (sendRevokes_links _ c).entries]
  exact fenceWork_entries _ c

/-! ### A context reset (R326) -/

theorem contextReset_eq (b : Block) (c : Ctx) : contextReset b c = if resettable (getCtx b c).state = true then fenceStart b c else b := by
  unfold contextReset
  generalize (getCtx b c).state = x
  cases x <;> rfl

theorem contextReset_taken {b : Block} {c : Ctx} (h : resettable (getCtx b c).state = true) : contextReset b c = fenceStart b c := by
  rw [contextReset_eq, if_pos h]

theorem contextReset_ignored {b : Block} {c : Ctx} (h : ¬ resettable (getCtx b c).state = true) : contextReset b c = b := by
  rw [contextReset_eq, if_neg h]

theorem contextReset_fences (b : Block) (c : Ctx) : FencesKept b (contextReset b c) := by
  by_cases h : resettable (getCtx b c).state = true
  · rw [contextReset_taken h]
    exact fenceStart_fences (fun hc => by rw [hc] at h; cases h)
  · rw [contextReset_ignored h]
    exact FencesKept.refl b

/-! ### An engine reset (R326, R330) -/

/-- READY is low (R330). -/
def NotReady (b : Block) : Prop := getFld b .engStatus 0 1 = 0

theorem FencesKept.notReady {b d : Block} (h : FencesKept b d) (hb : NotReady b) : NotReady d := by
  unfold NotReady getFld at *
  rwa [h.status]

/-- What an unlisted key reads as and every entry of a key satisfy, a read of the key satisfies. -/
theorem spGet_of_forall {α : Type} {P : α → Prop} {d : α} {a : Nat} (hd : P d) :
    ∀ {l : List (Nat × α)}, (∀ v, (a, v) ∈ l → P v) → P (spGet d l a)
  | [], _ => hd
  | (k, v) :: r, h => by
    unfold spGet
    split
    · rename_i hk
      exact h v (hk ▸ List.mem_cons_self)
    · exact spGet_of_forall hd (fun w hw => h w (List.mem_cons_of_mem _ hw))

/-- READY is the one field of ENG_STATUS outside class K, and its reset value is 0 (R11, R395). -/
theorem resetClasses_engStatus (v : W64) : resetClasses (fun k => decide (k ≠ .K)) .engStatus v = insertBits v 0 1 0 := rfl

/-- The compute reset's return of all but class K takes READY away (R330 step 3). -/
theorem resetRegs_notReady (b : Block) : NotReady (resetRegs (fun k => decide (k ≠ .K)) b) := by
  refine spGet_of_forall (P := fun v : W64 => v.toNat >>> 0 % 2 ^ 1 = 0) (by decide) (fun v hv => ?_)
  obtain ⟨⟨a, w⟩, -, hp⟩ := List.mem_filterMap.mp hv
  split at hp
  · rename_i r hr
    dsimp only at hp hr
    split at hp
    · cases hp
    · obtain ⟨rfl, rfl⟩ := Prod.mk.inj (Option.some.inj hp)
      obtain rfl : Reg.engStatus = r := Option.some.inj ((ofAddr_addr .engStatus).symm.trans hr)
      rw [resetClasses_engStatus]
      exact fld_insertBits w 0 (by decide)
  · cases hp

/-- A reset of every context touches neither memory nor registers. -/
theorem resetCtxs_parts (b : Block) (adv : Bool) (l : List Ctx) :
    (l.foldl (fun d c => resetCtx d adv c) b).sram = b.sram ∧ (l.foldl (fun d c => resetCtx d adv c) b).regs = b.regs :=
  l.foldlRecOn _ (motive := fun d : Block => d.sram = b.sram ∧ d.regs = b.regs) ⟨rfl, rfl⟩ (fun _ h _ _ => h)

theorem samplePins_status (b : Block) : rawReg (samplePins b) .engStatus = rawReg b .engStatus := by
  unfold samplePins
  rw [rawReg_setFld_ne _ _ _ _ (by simp), rawReg_setFld_ne _ _ _ _ (by simp)]

theorem chainEngineReset_fences (b : Block) : FencesKept b (chainEngineReset b) := (modChain_fences b _).trans (chainSettle_fences _)

theorem setInputs_fences (b : Block) : FencesKept b (setInputs b) := by
  have harr : ∀ (d : Block) (n : Arr), FencesKept d (modArr d n (fun a => { a with inp := rampTo d n a.inp (inputLimit d) })) :=
    fun _ _ => .of_parts rfl rfl rfl rfl
  exact FencesKept.foldl harr _ b

/-- The compute reset leaves memory as it is, and READY low (R330). -/
theorem computeReset_keeps (b : Block) (adv : Bool) : (computeReset b adv).sram = b.sram ∧ NotReady (computeReset b adv) := by
  unfold computeReset
  dsimp only
  generalize hc : samplePins (resetRegs (fun k => decide (k ≠ .K)) b) = c
  have hsram : c.sram = b.sram := by rw [← hc]; rfl
  have hready : NotReady c := by
    have h := resetRegs_notReady b
    unfold NotReady getFld at *
    rwa [← hc, samplePins_status]
  generalize hd : hwSet { c with coins := [] } .engStatus 4 = d
  have hdready : NotReady d := by
    rw [← hd]
    exact (getFld_setFld_apart { c with coins := [] } .engStatus 1 (by omega) (by omega)).trans hready
  obtain ⟨hxsram, hxregs⟩ := resetCtxs_parts d adv (allFin 16)
  generalize (allFin 16).foldl (fun c x => resetCtx c adv x) d = x at hxsram hxregs
  have hend : ∀ y, FencesKept y (setInputs (chainEngineReset y)) := fun y => (chainEngineReset_fences y).trans (setInputs_fences _)
  refine ⟨(hend _).sram.trans ?_, (hend _).notReady ?_⟩
  · exact hxsram.trans ((congrArg Block.sram hd).symm.trans hsram)
  · exact (getFld_congr hxregs .engStatus 0 1).trans hdready

theorem resetCtx_regs (b : Block) (adv : Bool) (c : Ctx) : (resetCtx b adv c).regs = b.regs := rfl

/-- From `b` to `d`, where READY is low, an engine reset has begun: it fences, or the compute part is in reset; memory stands (R330). -/
structure ResetBegan (b d : Block) : Prop where
  phase : d.rst = .fencing ∨ d.rst = .computeReset
  ready : NotReady d
  sram : d.sram = b.sram

theorem resetGoesOn_began {b : Block} (hp : b.rst = .fencing) (hr : NotReady b) : ResetBegan b (resetGoesOn b) := by
  unfold resetGoesOn
  split
  · obtain ⟨hsram, hready⟩ := computeReset_keeps b true
    generalize computeReset b true = d at hsram hready
    exact ⟨.inr rfl, hready, hsram⟩
  · exact ⟨.inl hp, hr, rfl⟩

/-- An engine reset takes READY away, then fences what a context reset would (R326, R330). -/
theorem engineResetStart_eq (b : Block) :
    engineResetStart b = resetGoesOn ((allFin 16).foldl contextReset (setFld { b with rst := .fencing } .engStatus 0 1 0)) := rfl

theorem engineResetStart_began (b : Block) : ResetBegan b (engineResetStart b) := by
  rw [engineResetStart_eq]
  have hready : NotReady (setFld { b with rst := .fencing } .engStatus 0 1 0) := getFld_setFld _ .engStatus 0 (by omega)
  generalize hd : setFld { b with rst := .fencing } .engStatus 0 1 0 = d at hready ⊢
  have hfences : FencesKept d ((allFin 16).foldl contextReset d) := FencesKept.foldl contextReset_fences _ d
  have hphase : d.rst = .fencing := by rw [← hd]; rfl
  have hsram : d.sram = b.sram := by rw [← hd]; rfl
  obtain ⟨hp, hr, hs⟩ := resetGoesOn_began (hfences.rst.trans hphase) (hfences.notReady hready)
  exact ⟨hp, hr, hs.trans (hfences.sram.trans hsram)⟩

/-- An engine reset is in progress unless the engine is idle or its last reset failed (logs 86, 87). -/
theorem engineReset_taken {b : Block} (h : b.rst = .idle ∨ b.rst = .failed) : engineReset b = engineResetStart b := by
  unfold engineReset
  obtain h | h := h <;> rw [h]

theorem engineReset_ignored {b : Block} (h : ¬ (b.rst = .idle ∨ b.rst = .failed)) : engineReset b = b := by
  unfold engineReset
  split
  · exact absurd (.inl ‹_›) h
  · exact absurd (.inr ‹_›) h
  · rfl

/-! ### Writes through the control port -/

/-- A register write that the port takes leaves its effect, the response, and the pins as they were (R368, R370). -/
theorem onWrite_portTakes {s : State} {r : Reg} (f : Block → Block) (h : portTakes s r = true) :
    s.onWrite r f = .next { s with blk := { respond (f s.blk) 0#64 0 with pins := s.blk.pins } } := by
  obtain ⟨hopen, hpage⟩ := (Bool.and_eq_true _ _).mp h
  exact onWrite_taken f hopen hpage

/-- A write without effect only answers. -/
theorem onWrite_ignored {s : State} {r : Reg} {f : Block → Block} (h : portTakes s r = true) (hf : f s.blk = s.blk) :
    s.onWrite r f = .next (wrote s s.blk) := by
  rw [onWrite_portTakes f h, hf]
  rfl

/-- A full-width write to the address of a register that is not locked is the write of that register (R8, R370). -/
theorem onBlk_portWrite {s : State} {r : Reg} (v : W64) (h : portTakes s r = true) (h8 : r.addr % 8 = 0) (hl : dbgLocked s.blk r.addr = false) :
    s.onBlk (fun b => portWrite b r.addr 255 v) = s.onWrite r (fun b => writeReg b r v) := by
  rw [onWrite_portTakes _ h, onBlk_eq]
  obtain ⟨hopen, hpage⟩ := (Bool.and_eq_true _ _).mp h
  have herr : cpError s.blk r.addr 255 = 0 := by simp [cpError, h8, hpage, hl]
  simp only [portWrite, hopen, herr, ofAddr_addr, Bool.not_true, Bool.false_eq_true, if_false]

/-- A write of ENG_RESET by its KIND (R326). -/
theorem writeReg_engReset (b : Block) (v : W64) :
    writeReg b .engReset v = if v.toNat / 16 % 4 = 1 then contextReset b (Fin.ofNat 16 (v.toNat % 16))
      else if v.toNat / 16 % 4 = 2 then engineReset b else b := by
  have hkind : bitsOf v.toNat 5 4 = v.toNat / 16 % 4 := bitsOf_eq _ _ _
  have hctx : bitsOf v.toNat 3 0 = v.toNat % 16 := by rw [bitsOf_eq, Nat.pow_zero, Nat.div_one]; rfl
  have hw : writeReg b .engReset v = match bitsOf v.toNat 5 4 with
      | 1 => contextReset b (Fin.ofNat 16 (bitsOf v.toNat 3 0))
      | 2 => engineReset b
      | _ => b := rfl
  rw [hw, hkind, hctx]
  split
  · rw [if_pos ‹_›]
  · rw [if_neg (by omega), if_pos ‹_›]
  · rw [if_neg ‹_›, if_neg ‹_›]

/-! ### The statement -/

theorem exec_engResetContext (c : Ctx) (s : State) : exec (.engResetContext c) s = s.onWrite .engReset (fun b => contextReset b c) := rfl

theorem exec_engResetEngine (s : State) : exec .engResetEngine s = s.onWrite .engReset engineReset := rfl

theorem exec_registerWrite_engReset {s : State} (v : W64) (h : portTakes s .engReset = true) :
    exec (.registerWrite 0x000100#24 0xFF#8 v) s = s.onWrite .engReset (fun b => writeReg b .engReset v) :=
  onBlk_portWrite v h rfl rfl

/-- Settles O34: a context reset is the start of one fence, an engine reset the start of all, and a write of the register is one of the two or neither.
That a failed engine reset is none in progress, and that KIND 2 is taken in a cold start, are the readings of logs 86 and 87. -/
theorem resetWritesAreTakenOrIgnored : Obligations.ResetWritesAreTakenOrIgnored := by
  unfold Obligations.ResetWritesAreTakenOrIgnored
  refine ⟨fun s c h => ?_, fun s h => ?_, fun s v h => ?_⟩
  · rw [exec_engResetContext]
    by_cases htaken : resettable (getCtx s.blk c).state = true
    · rw [onWrite_portTakes _ h, contextReset_taken htaken]
      obtain ⟨hstate, hgen⟩ := fenceStart_fencing s.blk c
      have hentries := fenceStart_entries s.blk c
      have hsram : (fenceStart s.blk c).sram = s.blk.sram := contextReset_taken htaken ▸ (contextReset_fences s.blk c).sram
      generalize fenceStart s.blk c = d at *
      exact ⟨_, rfl, by rw [if_pos htaken]; exact ⟨hstate, hgen, hentries, hsram⟩⟩
    · exact ⟨_, onWrite_ignored h (contextReset_ignored htaken), by rw [if_neg htaken]⟩
  · rw [exec_engResetEngine]
    by_cases htaken : s.blk.rst = .idle ∨ s.blk.rst = .failed
    · rw [onWrite_portTakes _ h, engineReset_taken htaken]
      obtain ⟨hphase, hready, hsram⟩ := engineResetStart_began s.blk
      generalize engineResetStart s.blk = d at *
      exact ⟨_, rfl, by rw [if_pos htaken]; exact ⟨hphase, hready, hsram⟩⟩
    · exact ⟨_, onWrite_ignored h (engineReset_ignored htaken), by rw [if_neg htaken]⟩
  · rw [exec_registerWrite_engReset v h, exec_engResetContext, exec_engResetEngine]
    simp only [writeReg_engReset]
    split
    · rfl
    · split
      · rfl
      · exact onWrite_ignored h rfl

end Sys2Proof.Proofs.EngReset

/-! SUPPORT. What leaves the two memories and the pins alone: one lemma per operation of the model that writes none of them, in the model's order.
An operation that ends in an option of a block has its lemma for the block that it answers. -/

namespace Sys2Proof.Proofs.Store

open Sys2Proof Sys2Proof.Machine Sys2Proof.Laws

/-- The two memories and the pins of a block. -/
def store (b : Block) : Mem × Mem × Pins := (b.sram, b.boot, b.pins)

theorem store_eq (b : Block) : (b.sram, b.boot, b.pins) = store b := rfl

theorem store_ite (p : Prop) [Decidable p] (x y : Block) : store (if p then x else y) = if p then store x else store y := apply_ite ..

theorem store_foldl {β : Type} {f : Block → β → Block} (h : ∀ b x, store (f b x) = store b) (l : List β) (b : Block) :
    store (l.foldl f b) = store b := by
  induction l generalizing b with
  | nil => rfl
  | cons x l ih => exact (ih _).trans (h b x)

theorem store_mk (beat pins regs ctxs pegs rot lastDispatch fetched entries sram boot ecc1 ecc2 streams mp tlb walks invalBusy invalUntil
      hotKeys arrays groups kiln xfers grants spillUse preParked spares wheelNext vecNext rules jobs line chain fabTags fabTx fabLoop posts
      inbuf chks launch launchRead notices noticeOut recNext engFault rst steward power cp cpQ coins noticeNew acts jtag rlocks freeTick) :
    store ⟨beat, pins, regs, ctxs, pegs, rot, lastDispatch, fetched, entries, sram, boot, ecc1, ecc2, streams, mp, tlb, walks, invalBusy,
      invalUntil, hotKeys, arrays, groups, kiln, xfers, grants, spillUse, preParked, spares, wheelNext, vecNext, rules, jobs, line, chain,
      fabTags, fabTx, fabLoop, posts, inbuf, chks, launch, launchRead, notices, noticeOut, recNext, engFault, rst, steward, power, cp, cpQ,
      coins, noticeNew, acts, jtag, rlocks, freeTick⟩ = (sram, boot, pins) := rfl

theorem store_of_ite {p : Prop} [Decidable p] {x y b : Block} (hx : store x = store b) (hy : store y = store b) :
    store (if p then x else y) = store b := by
  rw [store_ite, hx, hy, ite_self]

theorem store_ite_id {p : Prop} [Decidable p] {x b : Block} (h : store x = store b) : store (if p then x else b) = store b :=
  store_of_ite h rfl

theorem store_of_option {o : Option Block} {x b : Block} {f : Block → Block} (hx : store x = store b) (hf : ∀ d, o = some d → store
    (f d) = store b) :
    store (match (generalizing := false) o with | none => x | some d => f d) = store b := by
  cases o with
  | none => exact hx
  | some d => exact hf d rfl

/-! ### Shared operations (the definitions of the model's Ops) -/

theorem store_setRaw (b : Block) (r : Reg) (v : W64) : store (setRaw b r v) = store b := rfl
theorem store_raise (b : Block) (c : Code) (t : Site) : store (raise b c t) = store b := by
  have h := raise_links b c t
  simp only [store, h.sram, h.boot, h.pins]
theorem store_links {b d : Block} (h : OnlyLinks b d) : store d = store b := by
  simp only [store, h.sram, h.boot, h.pins]

theorem store_foldl_fst {β γ : Type} {f : Block × γ → β → Block × γ} (h : ∀ p x, store (f p x).1 = store p.1) (l : List β) (p : Block × γ) :
    store (l.foldl f p).1 = store p.1 := by
  induction l generalizing p with
  | nil => rfl
  | cons x l ih => exact (ih _).trans (h p x)

theorem store_setFld (b : Block) (r : Reg) (lo wid v : Nat) : store (setFld b r lo wid v) = store b := by
  simp only [setFld, store_setRaw]

theorem store_bumpFld (b : Block) (r : Reg) (lo wid n : Nat) : store (bumpFld b r lo wid n) = store b := by
  simp only [bumpFld, store_setFld, ↓store_mk, store_eq]

theorem store_hwSet (b : Block) (r : Reg) (lo : Nat) : store (hwSet b r lo) = store b := by
  simp only [hwSet, store_setFld, ↓store_mk, store_eq]

theorem store_wrapFld (b : Block) (r : Reg) (lo wid n : Nat) : store (wrapFld b r lo wid n) = store b := by
  simp only [wrapFld, store_setFld]

theorem store_modCtx (b : Block) (c : Ctx) (f : CtxSt → CtxSt) : store (modCtx b c f) = store b := by
  simp only [modCtx, ↓store_mk, store_eq]

theorem store_modStrand (b : Block) (c : Ctx) (s : Strand) (f : StrandSt → StrandSt) : store (modStrand b c s f) = store b := by
  simp only [modStrand, store_modCtx, ↓store_mk, store_eq]

theorem store_setPeg (b : Block) (p : Peg) (x : PegSt) : store (setPeg b p x) = store b := by
  simp only [setPeg, ↓store_mk, store_eq]

theorem store_modArr (b : Block) (n : Arr) (f : ArraySt → ArraySt) : store (modArr b n f) = store b := by
  simp only [modArr, ↓store_mk, store_eq]

theorem store_modPos (b : Block) (n : Arr) (g : Sag) (f : PosSt → PosSt) : store (modPos b n g f) = store b := by
  simp only [modPos, store_modArr, ↓store_mk, store_eq]

theorem store_modGrp (b : Block) (g : Grp) (f : GroupSt → GroupSt) : store (modGrp b g f) = store b := by
  simp only [modGrp, ↓store_mk, store_eq]

theorem store_modChk (b : Block) (n : Chk) (f : ChkSt → ChkSt) : store (modChk b n f) = store b := by
  simp only [modChk, ↓store_mk, store_eq]

theorem store_setSlot (b : Block) (c : Ctx) (s : Strand) (q : Fin 32) (v : W64) : store (setSlot b c s q v) = store b := by
  simp only [setSlot, store_modStrand, ↓store_mk, store_eq]

theorem store_tickFree (b : Block) : store (tickFree b) = store b := by
  simp only [tickFree, ↓store_mk, store_eq]

theorem store_notify (b : Block) (kind : Nat) (ctx : Option Ctx) (data code : Nat) (rejected : Bool) :
    store (notify b kind ctx data code rejected) = store b := by
  simp only [notify, store_bumpFld, ↓store_mk, store_eq, ↓store_ite, ite_self]

theorem store_putRec (b : Block) (at_ : Fin 4 → Reg) (ws : List W64) : store (putRec b at_ ws) = store b := by
  exact store_foldl (fun b _ => store_setRaw b _ _) _ _

theorem store_ringRecord (b : Block) (code : Nat) (ws : List W64) (ctx : Option Ctx) (isEvent : Bool) :
    store (ringRecord b code ws ctx isEvent) = store b := by
  simp only [ringRecord, store_bumpFld, store_notify, store_putRec, store_setFld, ↓store_mk, store_eq, ↓store_ite, ite_self]

theorem store_enterFaulted (b : Block) (c : Ctx) (ws : List W64) : store (enterFaulted b c ws) = store b := by
  simp only [enterFaulted, store_modCtx, store_putRec, ↓store_mk, store_eq]

theorem store_eccLog (b : Block) (w : Nat) (uncorr scrub : Bool) : store (eccLog b w uncorr scrub) = store b := by
  rw [eccLog, store_hwSet, store_setRaw]

theorem store_countSram (b : Block) (lo n : Nat) : store (countSram b lo n) = store b := by
  simp only [countSram, ↓store_mk, store_eq, ↓store_ite, ite_self]

theorem store_countMacs (b : Block) (cls n : Nat) : store (countMacs b cls n) = store b := by
  simp only [countMacs, ↓store_mk, store_eq, ↓store_ite, ite_self]

theorem store_countAct (b : Block) (f : Acts → Acts) : store (countAct b f) = store b := by
  simp only [countAct, ↓store_mk, store_eq]

theorem store_eccRead (b : Block) (lo n : Nat) (scrub : Bool) : store (eccRead b lo n scrub).1 = store b := by
  simp only [eccRead, store_countSram, store_eccLog, store_bumpFld, ↓store_mk, store_eq, store_foldl, implies_true]

theorem store_freshEcc (b : Block) (lo n : Nat) : store (freshEcc b lo n) = store b := by
  simp only [freshEcc, ↓store_mk, store_eq]

theorem store_modEntry (b : Block) (e : Nat) (f : Entry → Entry) : store (modEntry b e f) = store b := by
  simp only [modEntry, ↓store_mk, store_eq, ↓store_ite, ite_self]

theorem store_dropEntry (b : Block) (e : Nat) : store (dropEntry b e) = store b := by
  simp only [dropEntry, ↓store_mk, store_eq]

theorem store_progress (b : Block) (c : Ctx) : store (progress b c) = store b := by
  simp only [progress, store_modCtx, store_setFld, ↓store_mk, store_eq]

theorem store_pegTake (b : Block) (p : Peg) (r : Role) (n : Nat) : store (pegTake b p r n) = store b := by
  unfold pegTake
  split <;> simp only [store_setPeg, ↓store_mk, store_eq]

theorem store_pegAdd (b : Block) (p : Peg) (r : Role) (n : Nat) : store (pegAdd b p r n) = store b := by
  unfold pegAdd
  split <;> simp only [store_setPeg, store_raise, ↓store_mk, store_eq, ↓store_ite, ite_self]

theorem store_respond (b : Block) (data : W64) (err : Nat) : store (respond b data err) = store b := by
  simp only [respond, ↓store_mk, store_eq, ↓store_ite, ite_self]

/-! ### Links (the definitions of the model's Links) -/

theorem store_setChkV (b : Block) (n : Chk) (v : Nat) : store (setChkV b n v) = store b := by
  simp only [setChkV, store_setRaw]

theorem store_chkFold (b : Block) (n : Chk) (bs : List Byte) : store (chkFold b n bs) = store b := by
  simp only [chkFold, store_setChkV]

theorem store_hwFold (b : Block) (n : Chk) (bs : List Byte) : store (hwFold b n bs) = store b := by
  simp only [hwFold, store_chkFold, store_modChk, ↓store_mk, store_eq]

theorem store_chkSet (b : Block) (n : Chk) (v : Nat) : store (chkSet b n v) = store b := by
  simp only [chkSet, store_setChkV, store_modChk, ↓store_mk, store_eq]

theorem store_chkHold (b : Block) (n : Chk) (h : Holder) (who : Option (Nat × Nat)) (prefixBytes : List Byte) :
    store (chkHold b n h who prefixBytes) = store b := by
  simp only [chkHold, store_chkSet, store_hwFold, store_modChk, ↓store_mk, store_eq, ↓store_ite, ite_self]

theorem store_chkRelease (b : Block) (n : Chk) : store (chkRelease b n) = store b := by
  simp only [chkRelease, store_modChk, ↓store_mk, store_eq]

theorem store_sendAnswer (b : Block) (hdr : BitVec 512) : store (sendAnswer b hdr) = store b := by
  simp only [sendAnswer, ↓store_mk, store_eq, ↓store_ite, ite_self]

theorem store_sendRequest (b : Block) (hdr : BitVec 512) (data : List Byte) : store (sendRequest b hdr data) = store b := by
  simp only [sendRequest, ↓store_mk, store_eq, ↓store_ite, ite_self]

theorem store_chargeRemote {b d : Block} {c : Ctx} {n : Nat} (h : chargeRemote b c n = some d) : store d = store b := by
  unfold chargeRemote at h
  split at h
  · cases h
    exact store_modCtx _ _ _
  · cases h

theorem store_sendTagged {b d : Block} {c : Ctx} {gen : BitVec 16} {peer : Nat} {kind : FabKind} {pk beats arg mask : Nat} {data : List Byte}
    (h : sendTagged b c gen peer kind pk beats arg mask data = some d) : store d = store b := by
  exact store_links (sendTagged_links h)

theorem store_sendPost {b d : Block} {c : Ctx} {gen : BitVec 16} {p : Peg} {r : Role} {n e : Nat}
    (h : sendPost b c gen p r n e = some d) : store d = store b := by
  exact store_links (sendPost_links h)

theorem store_flushPosts (b : Block) : store (flushPosts b) = store b := by
  exact store_links (flushPosts_links b)

theorem store_strandPost (b : Block) (c : Ctx) (s : Strand) (gen : BitVec 16) (p : Peg) (n : Nat) : store (strandPost b c s gen p n) = store b := by
  exact store_links (strandPost_links ..)

theorem store_syncPost (b : Block) (c : Ctx) (s : Strand) (gen : BitVec 16) (w : BitVec 128) : store (syncPost b c s gen w) = store b := by
  simp only [syncPost, store_strandPost, ↓store_ite, ite_self]

theorem store_ctxDone (b : Block) (c : Ctx) : store (ctxDone b c) = store b := by
  simp only [ctxDone, store_notify, store_modCtx, ↓store_mk, store_eq, ↓store_ite, ite_self]

theorem store_completeEntry (b : Block) (eid : Nat) : store (completeEntry b eid) = store b := by
  unfold completeEntry
  split <;> simp only [store_ctxDone, store_progress, store_dropEntry, store_syncPost, ↓store_mk, store_eq]

theorem store_failEntry (b : Block) (e : Entry) (code : Code) (t : Site) : store (failEntry b e code t) = store b := by
  simp only [failEntry, store_raise, store_modEntry, ↓store_mk, store_eq]

theorem store_eccReads {β : Type} (lo len : β → Nat) (l : List β) (p : Block × Bool) :
    store (l.foldl (fun (p : Block × Bool) q => let (b, bad) := eccRead p.1 (lo q) (len q) false; (b, p.2 || bad)) p).1 = store p.1 := by
  refine store_foldl_fst (fun p q => ?_) l p
  exact store_eccRead p.1 (lo q) (len q) false

/-! ### Operands (the definitions of the model's Operands) -/

theorem store_eccTouch (b : Block) (addrs : List Nat) : store (eccTouch b addrs).1 = store b := by
  unfold eccTouch
  split
  · exact store_countSram _ _ _
  · exact store_eccReads (fun w => 8 * w) (fun _ => 8) _ _

/-! ### Streams (the definitions of the model's Streams) -/

theorem store_fresh (b : Block) : store (fresh b).2 = store b := by
  simp only [fresh, ↓store_mk, store_eq]

theorem store_modStream (b : Block) (i : Nat) (f : Stream → Stream) : store (modStream b i f) = store b := by
  simp only [modStream, ↓store_mk, store_eq, ↓store_ite, ite_self]

theorem store_dropStream (b : Block) (i : Nat) : store (dropStream b i) = store b := by
  simp only [dropStream, ↓store_mk, store_eq]

theorem store_stopStream (b : Block) (x : Stream) : store (stopStream b x) = store b := by
  simp only [stopStream, store_chkRelease, store_modStream, store_modEntry, store_dropStream, ↓store_mk, store_eq, ↓store_ite, ite_self]
  (repeat' split) <;> simp only [store_chkRelease, store_modStream, store_modEntry, store_dropStream, ↓store_mk, store_eq, ↓store_ite, ite_self]

theorem store_answerWrite (b : Block) (hdr : BitVec 512) (status : Nat) : store (answerWrite b hdr status) = store b := by
  simp only [answerWrite, store_sendAnswer]

theorem store_freeInbuf (b : Block) (c : Ctx) (hdr : BitVec 512) : store (freeInbuf b c hdr) = store b := by
  simp only [freeInbuf, ↓store_mk, store_eq]

theorem store_refuseInbound (b : Block) (x : Stream) (hdr : BitVec 512) (va : Nat) (xlate : Bool) :
    store (refuseInbound b x hdr va xlate) = store b := by
  rw [refuseInbound, store_answerWrite, store_freeInbuf, store_dropStream, store_bumpFld, store_hwSet, store_setRaw]

theorem store_streamXlate (b : Block) (x : Stream) (va : Nat) : store (streamXlate b x va) = store b := by
  unfold streamXlate
  split <;> simp only [store_dropStream, store_bumpFld, store_refuseInbound, store_raise, store_stopStream, ↓store_mk, store_eq]

theorem store_streamPage (b : Block) (x : Stream) (va : Nat) : store (streamPage b x va) = store b := by
  unfold streamPage
  split <;> simp only [store_dropStream, store_bumpFld, store_refuseInbound, store_raise, ↓store_mk, store_eq, ↓store_ite, ite_self]

theorem store_openBlock (b : Block) (x : Stream) (ws : List W64) (idx : Nat) (segs : List Seg) (turned : Bool)
    (next : Option (Nat × Nat × Nat × Nat)) : store (openBlock b x ws idx segs turned next) = store b := by
  simp only [openBlock, store_modStream, ↓store_mk, store_eq, ↓store_ite, ite_self]

theorem store_hotRaise (b : Block) (key : Nat) (c : Option Ctx) (gen : BitVec 16) (unit : Nat) : store (hotRaise b key c gen unit) = store b := by
  simp only [hotRaise, store_hwSet, store_setFld, store_bumpFld, store_raise, ↓store_mk, store_eq, ↓store_ite, ite_self]

theorem store_hotCheck (b : Block) (r : MpReq) : store (hotCheck b r) = store b := by
  simp only [hotCheck, store_hotRaise, ↓store_ite, ite_self]

theorem store_keyFreed (b : Block) (key : Nat) : store (keyFreed b key) = store b := by
  simp only [keyFreed, ↓store_mk, store_eq, ↓store_ite, ite_self]

theorem store_tagFreed (b : Block) (r : MpReq) : store (tagFreed b r) = store b := by
  simp only [tagFreed, store_keyFreed, ↓store_mk, store_eq]

theorem store_tlbUse (b : Block) (e : TlbEnt) : store (tlbUse b e) = store b := by
  simp only [tlbUse, ↓store_mk, store_eq]

theorem store_chargeClass (b : Block) (c : Ctx) (write : Bool) (n : Nat) : store (chargeClass b c write n) = store b := by
  simp only [chargeClass, store_modCtx, ↓store_mk, store_eq, ↓store_ite, ite_self]

theorem store_walkRead (b : Block) (w : Walk) : store (walkRead b w) = store b := by
  simp only [walkRead, store_hotRaise, store_chargeClass, ↓store_mk, store_eq]

theorem store_startWalk (b : Block) (x : Stream) (va : Nat) : store (startWalk b x va) = store b := by
  unfold startWalk
  (repeat' split) <;> simp only [store_bumpFld, store_walkRead, ↓store_mk, store_eq, ↓store_ite, ite_self]

theorem store_feedRelease (b : Block) (n : Chk) : store (feedRelease b n) = store b := by
  unfold feedRelease
  split <;> simp only [store_chkRelease, ↓store_mk, store_eq]

theorem store_foldUpTo (b : Block) (x : Stream) (f : Feed) (n : Nat) (bytes : Seg → Byte) (ends : Bool) : store
    (foldUpTo b x f n bytes ends) = store b := by
  simp only [foldUpTo, store_hwFold, store_feedRelease, store_modStream, ↓store_mk, store_eq, ↓store_ite, ite_self]

theorem store_foldWritten (b : Block) (i : Nat) : store (foldWritten b i) = store b := by
  unfold foldWritten
  (repeat' split) <;> simp only [store_foldUpTo, ↓store_mk, store_eq, ↓store_ite, ite_self]

theorem store_sendMp (b : Block) (x : Stream) (req rest : List Seg) (t pa : Nat) : store (sendMp b x req rest t pa) = store b := by
  unfold sendMp
  split <;> simp only [store_eccTouch, store_raise, store_stopStream, store_chargeClass, store_countAct, store_modStream, store_foldWritten,
      store_hotCheck, ↓store_mk, store_eq, ↓store_ite, ite_self]

theorem store_sendRemoteWrite (b : Block) (x : Stream) (peer : Nat) : store (sendRemoteWrite b x peer) = store b := by
  unfold sendRemoteWrite
  split
  · rfl
  · refine store_of_ite (store_streamXlate ..) (store_of_ite ?_ (store_of_ite ?_ (store_of_option ?_ fun d hd => ?_)))
    · exact (store_raise ..).trans ((store_stopStream ..).trans (store_eccTouch ..))
    · exact store_eccTouch ..
    · exact store_eccTouch ..
    · exact (store_foldWritten ..).trans ((store_modStream ..).trans ((store_sendTagged hd).trans (store_eccTouch ..)))

theorem store_sendLocal (b : Block) (x : Stream) : store (sendLocal b x) = store b := by
  simp only [sendLocal, store_streamXlate, store_startWalk, store_tlbUse, store_sendMp, ↓store_mk, store_eq, ↓store_ite, ite_self]
  (repeat' split) <;> simp only [store_streamXlate, store_startWalk, store_tlbUse, store_sendMp, ↓store_mk, store_eq, ↓store_ite, ite_self]

theorem store_takeChannel {b d : Block} {x : Stream} (h : takeChannel b x = some d) : store d = store b := by
  unfold takeChannel at h
  split at h
  · cases h
    rfl
  · split at h
    · cases h
      rfl
    · split at h
      · cases h
        rw [store_modStream, store_chkHold]
      · cases h

theorem store_foldRead (b : Block) (i : Nat) : store (foldRead b i) = store b := by
  unfold foldRead
  (repeat' split) <;> simp only [store_foldUpTo, ↓store_mk, store_eq, ↓store_ite, ite_self]

theorem store_tlbFill (b : Block) (c : Ctx) (va pa : Nat) (big w : Bool) : store (tlbFill b c va pa big w) = store b := by
  simp only [tlbFill, ↓store_mk, store_eq, ↓store_ite, ite_self]

theorem store_walkOver (b : Block) (w : Walk) : store (walkOver b w) = store b := by
  simp only [walkOver, store_keyFreed, ↓store_mk, store_eq]

theorem store_walkReads (b : Block) (w : Walk) (l : List W64) : store (walkReads b w l) = store b := by
  induction l generalizing b w with
  | nil => rfl
  | cons p r ih =>
    unfold walkReads
    split
    · dsimp only
      split <;> simp only [store_streamPage, store_walkOver]
    · dsimp only
      split <;> simp only [store_streamXlate, store_walkOver]
    · split
      · rfl
      · dsimp only
        rw [ih, store_walkRead, store_keyFreed, store_mk, store_eq]
    · dsimp only
      split
      · exact store_walkOver _ _
      · split
        · split <;> simp only [store_streamXlate, store_walkOver]
        · simp only [store_tlbFill, store_walkOver]

theorem store_walkDone (b : Block) (k : Nat) (ptes : List W64) (err : Bool) : store (walkDone b k ptes err) = store b := by
  unfold walkDone
  (repeat' split) <;> simp only [store_walkOver, store_streamXlate, store_walkReads]

theorem store_quarantineEnd (b : Block) (c : Ctx) : store (quarantineEnd b c) = store b := by
  simp only [quarantineEnd, store_notify, store_modCtx, ↓store_mk, store_eq, ↓store_ite, ite_self]

theorem store_requestFailed (b : Block) (r : MpReq) : store (requestFailed b r) = store b := by
  unfold requestFailed
  split <;> simp only [store_streamXlate, ↓store_mk, store_eq]

theorem store_moveAgain (b : Block) (x : Stream) (again : List Seg) : store (moveAgain b x again) = store b := by
  simp only [moveAgain, store_hwFold, store_chkSet, store_modStream, ↓store_mk, store_eq, ↓store_ite, ite_self]
  split <;> simp only [store_hwFold, store_chkSet, store_modStream, ↓store_mk, store_eq, ↓store_ite, ite_self]

theorem store_refetch (b : Block) (x : Stream) (again : List Seg) : store (refetch b x again) = store b := by
  simp only [refetch, store_bumpFld, store_raise, store_moveAgain, ↓store_mk, store_eq, store_foldl, implies_true]

theorem store_hazardScan (b : Block) (x : Stream) (segs : List Seg) : store (hazardScan b x segs) = store b := by
  simp only [hazardScan, store_refetch, ↓store_mk, store_eq, ↓store_ite, ite_self, store_foldl, implies_true]

theorem store_streamEnd (b : Block) (i : Nat) : store (streamEnd b i) = store b := by
  unfold streamEnd
  (repeat' split) <;> simp only [store_dropStream, store_answerWrite, store_freeInbuf, ↓store_mk, store_eq, ↓store_ite, ite_self]

theorem store_writeCompletion (b : Block) (tag : Nat) (err : Nat) : store (writeCompletion b tag err) = store b := by
  simp only [writeCompletion, store_tagFreed, store_quarantineEnd, store_requestFailed, store_streamEnd, store_progress, store_hazardScan,
      ↓store_mk, store_eq, ↓store_ite, ite_self]
  (repeat' split) <;> simp only [store_tagFreed, store_quarantineEnd, store_requestFailed, store_streamEnd, store_progress, store_hazardScan,
      ↓store_mk, store_eq, ↓store_ite, ite_self]

theorem store_tagTimedOut (b : Block) (tag : Nat) : store (tagTimedOut b tag) = store b := by
  unfold tagTimedOut
  (repeat' split) <;> simp only [store_walkDone, store_tagFreed, store_quarantineEnd, store_requestFailed, ↓store_mk, store_eq, ↓store_ite,
      ite_self]

theorem store_strResume (b : Block) (c : Ctx) : store (strResume b c) = store b := by
  simp only [strResume, ↓store_mk, store_eq, ↓store_ite, ite_self]

theorem store_xltInval (b : Block) (sel : TlbEnt → Bool) (req : MpReq → Bool) (wk : Walk → Bool) : store (xltInval b sel req wk) = store b := by
  simp only [xltInval, store_hwSet, ↓store_mk, store_eq, ↓store_ite, ite_self]

theorem store_invalPage (b : Block) (c : Ctx) (va : Nat) : store (invalPage b c va) = store b := by
  simp only [invalPage, store_xltInval, ↓store_ite, ite_self]

theorem store_invalContext (b : Block) (c : Ctx) : store (invalContext b c) = store b := by
  simp only [invalContext, store_xltInval]

theorem store_invalAll (b : Block) : store (invalAll b) = store b := by
  simp only [invalAll, store_xltInval]

/-! ### Glaze (the definitions of the model's Glaze) -/

theorem store_feedStream (b : Block) (t : TileRead) (idx : Nat) (d : Desc) (segs : List Seg) : store (feedStream b t idx d segs) = store b := by
  unfold feedStream
  split <;> simp only [store_modStream, store_fresh, ↓store_mk, store_eq, ↓store_ite, ite_self]

theorem store_readsEcc (b : Block) (l : List (Nat × Nat)) : store (readsEcc b l).1 = store b := by
  unfold readsEcc
  split
  · rfl
  · exact store_eccReads (fun q : Nat × Nat => q.1) (fun q => q.2) _ _

theorem store_modTile (b : Block) (n : Arr) (tid : Nat) (f : DTile → DTile) : store (modTile b n tid f) = store b := by
  simp only [modTile, store_modArr, ↓store_mk, store_eq, ↓store_ite, ite_self]

theorem store_andThen {s : Block × Bool} {f : Block → Block × Bool} (h : ∀ b, store (f b).1 = store b) : store (andThen s f).1 = store s.1 := by
  exact h _

theorem store_onFst {s : Block × Bool} {f : Block → Block} (h : ∀ b, store (f b) = store b) : store (onFst s f).1 = store s.1 := by
  exact h _

theorem store_passWheel (b : Block) (w : Fin 2) (n : Nat) : store (passWheel b w n) = store b := by
  simp only [passWheel, store_countSram, store_freshEcc]

/-! ### Kiln (the definitions of the model's Kiln) -/

theorem store_modRec (b : Block) (id : Nat) (f : KRec → KRec) : store (modRec b id f) = store b := by
  simp only [modRec, ↓store_mk, store_eq, ↓store_ite, ite_self]

theorem store_dropRec (b : Block) (id : Nat) : store (dropRec b id) = store b := by
  simp only [dropRec, ↓store_mk, store_eq]

theorem store_dropRecOpt (b : Block) (o : Option Nat) : store (dropRecOpt b o) = store b := by
  cases o
  · rfl
  · exact store_dropRec _ _

theorem store_addRec (b : Block) (g : Grp) (role : KRole) (places : List (Nat × Nat)) : store (addRec b g role places).2 = store b := by
  simp only [addRec, store_fresh, ↓store_mk, store_eq]

theorem store_recEcc (b : Block) (l : List KRec) : store (recEcc b l).1 = store b := by
  exact store_eccReads (fun q : Nat × Nat => q.1) (fun q => q.2) _ _

theorem store_recFresh (b : Block) (id : Nat) : store (recFresh b id) = store b := by
  unfold recFresh
  split <;> simp only [store_freshEcc, ↓store_mk, store_eq, store_foldl, implies_true]

theorem store_releaseUnits (b : Block) (g : Grp) : store (releaseUnits b g) = store b := by
  simp only [releaseUnits, ↓store_mk, store_eq]

theorem store_modXfer (b : Block) (i : Nat) (f : Xfer → Xfer) : store (modXfer b i f) = store b := by
  simp only [modXfer, ↓store_mk, store_eq, ↓store_ite, ite_self]

theorem store_dropXfer (b : Block) (i : Nat) : store (dropXfer b i) = store b := by
  simp only [dropXfer, ↓store_mk, store_eq]

theorem store_addXfer (b : Block) (kind : XKind) (g : Grp) (entry rec_ unit_ : Nat) (arr : Arr) (sag : Sag) (bank : BankIx) :
    store (addXfer b kind g entry rec_ unit_ arr sag bank).2 = store b := by
  simp only [addXfer, store_fresh, ↓store_mk, store_eq]

theorem store_xferStream (b : Block) (x : Nat) (c : Ctx) (write : Bool) (segs : List Seg) : store (xferStream b x c write segs) = store b := by
  simp only [xferStream, store_fresh, ↓store_mk, store_eq]

theorem store_dropXferStreams (b : Block) (x : Nat) : store (dropXferStreams b x) = store b := by
  simp only [dropXferStreams, ↓store_mk, store_eq]

theorem store_startSpill (b : Block) (r : KRec) (us : List Nat) (entry : Nat) : store (startSpill b r us entry) = store b := by
  simp only [startSpill, store_recEcc, store_raise, store_addXfer, store_xferStream, ↓store_mk, store_eq, ↓store_ite, ite_self]

theorem store_startReturn (b : Block) (kind : XKind) (g : Grp) (entry : Nat) (arr : Arr) (sag : Sag) (bank : BankIx) :
    store (startReturn b kind g entry arr sag bank) = store b := by
  simp only [startReturn, store_addXfer, store_xferStream]

theorem store_takeSlots (b : Block) (shape n : Nat) : store (takeSlots b shape n).1 = store b := by
  unfold takeSlots
  (repeat' split) <;> simp only [store_startSpill, ↓store_mk, store_eq, ↓store_ite, ite_self]

theorem store_freeGroup (b : Block) (g : Grp) : store (freeGroup b g) = store b := by
  simp only [freeGroup, store_modGrp, store_releaseUnits, ↓store_mk, store_eq]

theorem store_poison (b : Block) (g : Grp) : store (poison b g) = store b := by
  simp only [poison, store_modGrp, ↓store_mk, store_eq]

theorem store_addCount (b : Block) (g : Grp) (n : Nat) : store (addCount b g n) = store b := by
  simp only [addCount, store_modGrp, store_raise, ↓store_mk, store_eq, ↓store_ite, ite_self]

theorem store_startMerge (b : Block) (g : Grp) : store (startMerge b g) = store b := by
  simp only [startMerge, store_modGrp, ↓store_mk, store_eq, ↓store_ite, ite_self]

theorem store_countMet (b : Block) (g : Grp) : store (countMet b g) = store b := by
  simp only [countMet, store_modGrp, ↓store_mk, store_eq, ↓store_ite, ite_self]

theorem store_copyLapsed (b : Block) (g : Grp) (lapsed : Bool) : store (copyLapsed b g lapsed) = store b := by
  simp only [copyLapsed, store_modGrp, ↓store_mk, store_eq, ↓store_ite, ite_self]

theorem store_acceptContribution (b : Block) (g : Grp) (rank rec_ nadd : Nat) (lapsed : Bool) :
    store (acceptContribution b g rank rec_ nadd lapsed) = store b := by
  simp only [acceptContribution, store_recFresh, store_modRec, store_modGrp, store_progress, store_copyLapsed, store_addCount, store_countMet,
      store_startMerge, ↓store_mk, store_eq, ↓store_ite, ite_self]

theorem store_mergeComplete (b : Block) (g : Grp) : store (mergeComplete b g) = store b := by
  simp only [mergeComplete, store_startMerge, store_recEcc, store_raise, store_modGrp, store_modRec, store_copyLapsed, store_addCount,
      store_dropRec, ↓store_mk, store_eq, ↓store_ite, ite_self]
  (repeat' split) <;> simp only [store_startMerge, store_recEcc, store_raise, store_modGrp, store_modRec, store_copyLapsed, store_addCount,
      store_dropRec, ↓store_mk, store_eq, ↓store_ite, ite_self]

theorem store_countReject (b : Block) (a : OfferAns) : store (countReject b a) = store b := by
  cases a <;> rfl

theorem store_grantRec (b : Block) (g : Grp) (rank : Nat) (a : OfferAns) : store (grantRec b g rank a).1 = store b := by
  unfold grantRec
  split
  · rfl
  · have h := store_takeSlots b (getGrp b g).shape (tileParts (getGrp b g).kind)
    split <;> rename_i hs <;> rw [hs] at h
    · exact (store_addRec _ _ _ _).trans h
    · exact h
  · rfl

theorem store_takeReserve (b : Block) (g : Grp) : store (takeReserve b g).1 = store b := by
  unfold takeReserve
  dsimp only
  have h := store_takeSlots b (getGrp b g).shape (2 * tileParts (getGrp b g).kind)
  split
  · rename_i hs
    rw [hs] at h
    simpa only [store_modGrp, store_addRec] using h
  · exact h

theorem store_formT (b : Block) (g : Grp) (l : Cells × Cells) : store (formT b g l).1 = store b := by
  unfold formT
  dsimp only
  split
  · simp only [↓store_ite, ite_self, store_addCount, store_modGrp, store_dropRecOpt]
  · rfl

/-! ### Arrays (the definitions of the model's Arrays) -/

theorem store_touchArr (b : Block) (n : Arr) : store (touchArr b n) = store b := by
  simp only [touchArr, store_modArr, ↓store_mk, store_eq]

theorem store_startAdvance (b : Block) (n : Arr) : store (startAdvance b n) = store b := by
  simp only [startAdvance, store_modArr, ↓store_mk, store_eq]

theorem store_rampStep (b : Block) (n : Arr) : store (rampStep b n) = store b := by
  simp only [rampStep, store_modArr, ↓store_mk, store_eq, ↓store_ite, ite_self]

theorem store_modBank (b : Block) (n : Arr) (g : Sag) (t : BankIx) (f : BankSt → BankSt) : store (modBank b n g t f) = store b := by
  simp only [modBank, store_modPos]

theorem store_clearBank (b : Block) (n : Arr) (g : Sag) (t : BankIx) : store (clearBank b n g t) = store b := by
  simp only [clearBank, store_modPos, ↓store_mk, store_eq, ↓store_ite, ite_self]

theorem store_checkPick (b : Block) (n : Arr) (abft : Nat) : store (checkPick b n abft).1 = store b := by
  simp only [checkPick, store_modArr, ↓store_mk, store_eq, ↓store_ite, ite_self]
  (repeat' split) <;> simp only [store_modArr, ↓store_mk, store_eq, ↓store_ite, ite_self]

theorem store_takeBank (b : Block) (n : Arr) (sag : Sag) (t : BankIx) (r : PassRun) (single : Bool) :
    store (takeBank b n sag t r single) = store b := by
  unfold takeBank
  (repeat' split) <;> simp only [store_modPos, store_startAdvance, store_modGrp, store_touchArr, ↓store_mk, store_eq, ↓store_ite, ite_self,
      store_foldl, implies_true]

theorem store_startPass (b : Block) (e : Entry) : store (startPass b e) = store b := by
  unfold startPass
  dsimp only
  split
  · rfl
  · split
    · exact store_failEntry ..
    · split
      · rfl
      · rw [store_foldl, store_modEntry]
        intro b n
        split
        · rw [store_takeBank, store_checkPick]
        · exact store_checkPick ..

theorem store_startReplay (b : Block) (n : Arr) (sag : Sag) (r : PassRun) : store (startReplay b n sag r) = store b := by
  simp only [startReplay, store_modArr, store_modPos, store_touchArr, store_startAdvance, ↓store_mk, store_eq, ↓store_ite, ite_self]

theorem store_passStart (b : Block) (n : Arr) : store (passStart b n) = store b := by
  unfold passStart
  (repeat' split) <;> simp only [store_startReplay, store_startPass, ↓store_mk, store_eq, ↓store_ite, ite_self]

theorem store_partDone (b : Block) (eid : Nat) : store (partDone b eid) = store b := by
  simp only [partDone, store_modEntry, ↓store_mk, store_eq, ↓store_ite, ite_self]

theorem store_mapRun (b : Block) (n : Arr) (sag : Sag) (r : PassRun) (w : Nat) (f0 f1 : Nat → Nat → Cell → Cell) :
    store (mapRun b n sag r w f0 f1) = store b := by
  simp only [mapRun, store_modPos, ↓store_mk, store_eq, ↓store_ite, ite_self]

theorem store_modRun (b : Block) (n : Arr) (sag : Sag) (f : PassRun → PassRun) : store (modRun b n sag f) = store b := by
  simp only [modRun, store_modPos, ↓store_mk, store_eq]

theorem store_segmentEnd (b : Block) (n : Arr) (sag : Sag) : store (segmentEnd b n sag) = store b := by
  unfold segmentEnd
  (repeat' split) <;> simp only [store_modRun, store_countMet, store_addCount, store_modGrp, ↓store_mk, store_eq, ↓store_ite, ite_self]

theorem store_runLeafEnd (b : Block) (n : Arr) (sag : Sag) (w : Nat) : store (runLeafEnd b n sag w) = store b := by
  unfold runLeafEnd
  split <;> simp only [store_mapRun, store_modRun, store_segmentEnd, ↓store_mk, store_eq, ↓store_ite, ite_self]

theorem store_runRow (b : Block) (n : Arr) (sag : Sag) : store (runRow b n sag) = store b := by
  unfold runRow
  split <;> simp only [store_mapRun, store_modRun, store_segmentEnd, store_runLeafEnd, ↓store_mk, store_eq, ↓store_ite, ite_self]

theorem store_subPassEnd (b : Block) (n : Arr) (sag : Sag) : store (subPassEnd b n sag) = store b := by
  simp only [subPassEnd, store_segmentEnd, store_mapRun, store_runLeafEnd, store_modRun, ↓store_mk, store_eq, ↓store_ite, ite_self]
  (repeat' split) <;> simp only [store_segmentEnd, store_mapRun, store_runLeafEnd, store_modRun, ↓store_mk, store_eq, ↓store_ite, ite_self]

theorem store_mkRead (b : Block) (n : Arr) (sag : Sag) (r : PassRun) (kind : ReadKind) (checked thenPark : Bool) :
    store (mkRead b n sag r kind checked thenPark) = store b := by
  simp only [mkRead, store_fresh, store_modArr, ↓store_mk, store_eq]

theorem store_passEnded (b : Block) (n : Arr) (sag : Sag) (r : PassRun) : store (passEnded b n sag r) = store b := by
  simp only [passEnded, store_modPos, store_modBank, store_mkRead, store_partDone, ↓store_mk, store_eq, ↓store_ite, ite_self]

theorem store_abortProblem (b : Block) (n : Arr) (sag : Sag) (r : PassRun) : store (abortProblem b n sag r) = store b := by
  unfold abortProblem
  split <;> simp only [store_modPos, store_clearBank, store_modArr, store_poison, ↓store_mk, store_eq]

theorem store_inputFails (b : Block) (n : Arr) (sag : Sag) (r : PassRun) (report : Bool) : store (inputFails b n sag r report) = store b := by
  simp only [inputFails, store_abortProblem, store_failEntry, store_raise, ↓store_mk, store_eq, ↓store_ite, ite_self]
  (repeat' split) <;> simp only [store_abortProblem, store_failEntry, store_raise, ↓store_mk, store_eq, ↓store_ite, ite_self]

theorem store_inputTake (b : Block) (n : Arr) (sag : Sag) : store (inputTake b n sag) = store b := by
  simp only [inputTake, store_countAct, store_countMacs, store_runRow, store_touchArr, store_subPassEnd, store_passEnded, ↓store_mk, store_eq,
      ↓store_ite, ite_self, store_foldl, implies_true]
  (repeat' split) <;> simp only [store_countAct, store_countMacs, store_runRow, store_touchArr, store_subPassEnd, store_passEnded, ↓store_mk,
      store_eq, ↓store_ite, ite_self, store_foldl, implies_true]

theorem store_inputOne (b : Block) (n : Arr) (sag : Sag) : store (inputOne b n sag) = store b := by
  unfold inputOne
  split <;> simp only [store_eccTouch, store_inputFails, store_inputTake, ↓store_mk, store_eq, ↓store_ite, ite_self]

theorem store_inputGang (b : Block) (sag : Sag) (r : PassRun) (ms : List Arr) : store (inputGang b sag r ms) = store b := by
  unfold inputGang
  dsimp only
  rw [store_foldl, store_eccTouch]
  intro b p
  split
  · rfl
  · split <;> simp only [↓store_ite, ite_self, store_inputFails, store_inputTake, store_eccTouch]

theorem store_inputCycle (b : Block) (n : Arr) (sag : Sag) : store (inputCycle b n sag) = store b := by
  unfold inputCycle
  split <;> simp only [store_inputGang, store_inputOne, ↓store_mk, store_eq, ↓store_ite, ite_self]

theorem store_modRead (b : Block) (n : Arr) (tid : Nat) (f : TileRead → TileRead) : store (modRead b n tid f) = store b := by
  simp only [modRead, store_modArr, ↓store_mk, store_eq, ↓store_ite, ite_self]

theorem store_dropRead (b : Block) (n : Arr) (tid : Nat) : store (dropRead b n tid) = store b := by
  simp only [dropRead, store_modArr, ↓store_mk, store_eq]

theorem store_parkPlace (b : Block) (n : Arr) (t : TileRead) : store (parkPlace b n t) = store b := by
  unfold parkPlace
  split
  · rfl
  · rename_i g _
    dsimp only
    have hs := store_takeSlots b (getGrp b g).shape (tileParts (getGrp b g).kind * if t.kind = .preempt then 2 else 1)
    split <;> rename_i h <;> rw [h] at hs
    · simpa only [store_modRead, store_addXfer, store_addRec] using hs
    · exact hs
    · split
      · simpa only [store_modRead, store_addXfer, store_addRec, ↓store_mk, store_eq] using hs
      · split <;> simpa only [store_failEntry, store_raise, store_modBank, store_dropRead] using hs

theorem store_readOut (b : Block) (n : Arr) (t : TileRead) : store (readOut b n t) = store b := by
  unfold readOut
  (repeat' split) <;> simp only [store_clearBank, store_modGrp, ↓store_mk, store_eq]

theorem store_setReady (b : Block) (i : Nat) : store (setReady b i) = store b := by
  simp only [setReady, store_modXfer, ↓store_mk, store_eq]

theorem store_keepStack (b : Block) (n : Arr) (t : TileRead) : store (keepStack b n t) = store b := by
  unfold keepStack
  split <;> simp only [store_modGrp, ↓store_mk, store_eq]

theorem store_readDone (b : Block) (n : Arr) (t : TileRead) : store (readDone b n t) = store b := by
  simp only [readDone, store_dropRead, store_keepStack, store_readOut, store_setReady, ↓store_ite, ite_self]

theorem store_rowRead (b : Block) (n : Arr) : store (rowRead b n) = store b := by
  unfold rowRead
  split
  · rfl
  · refine store_of_ite rfl (store_of_ite (store_of_ite rfl (store_parkPlace ..)) ?_)
    refine (store_ite_id (store_readDone ..)).trans ((store_modRead ..).trans ((store_ite_id (store_modArr ..)).trans ?_))
    refine Eq.trans (store_of_ite ?_ (store_ite_id (store_modTile ..))) ((store_ite_id (store_modArr ..)).trans ?_)
    · split
      · exact store_modTile ..
      · rfl
    · split
      · exact (store_ite_id (store_modRec ..)).trans (store_touchArr ..)
      · exact store_touchArr ..

theorem store_abftLast (b : Block) (n : Arr) (sag : Sag) (r : PassRun) (k : Nat × Nat) : store (abftLast b n sag r k) = store b := by
  exact store_setRaw _ _ _

theorem store_discardTile (b : Block) (n : Arr) (d : DTile) : store (discardTile b n d) = store b := by
  simp only [discardTile, store_modArr, store_releaseUnits, store_dropXfer, store_dropRec, ↓store_mk, store_eq, ↓store_ite, ite_self]
  split <;> simp only [store_modArr, store_releaseUnits, store_dropXfer, store_dropRec, ↓store_mk, store_eq, ↓store_ite, ite_self]

theorem store_restoreBank (b : Block) (n : Arr) (sag : Sag) (r : PassRun) : store (restoreBank b n sag r) = store b := by
  simp only [restoreBank, store_modPos, ↓store_mk, store_eq, ↓store_ite, ite_self, store_foldl, implies_true]

theorem store_compareFails (b : Block) (n : Arr) (d : DTile) (r : PassRun) (k : Nat × Nat) : store (compareFails b n d r k) = store b := by
  simp only [compareFails, store_abftLast, store_discardTile, store_restoreBank, store_bumpFld, store_modArr, store_raise, store_abortProblem,
      store_failEntry, store_partDone, ↓store_mk, store_eq, ↓store_ite, ite_self]
  (repeat' split) <;> simp only [store_abftLast, store_discardTile, store_restoreBank, store_bumpFld, store_modArr, store_raise,
      store_abortProblem, store_failEntry, store_partDone, ↓store_mk, store_eq, ↓store_ite, ite_self]

theorem store_comparePasses (b : Block) (n : Arr) (d : DTile) (r : PassRun) : store (comparePasses b n d r) = store b := by
  simp only [comparePasses, store_readOut, store_modTile, store_modArr, store_setReady, store_keepStack, store_partDone, store_modBank,
      ↓store_mk, store_eq, ↓store_ite, ite_self]
  split <;> simp only [store_readOut, store_modTile, store_modArr, store_setReady, store_keepStack, store_partDone, store_modBank, ↓store_mk,
      store_eq, ↓store_ite, ite_self]

theorem store_compareResult (b : Block) (n : Arr) : store (compareResult b n) = store b := by
  unfold compareResult
  (repeat' split) <;> simp only [store_compareFails, store_comparePasses, ↓store_mk, store_eq, ↓store_ite, ite_self]

theorem store_drainFails (b : Block) (n : Arr) (d : DTile) : store (drainFails b n d) = store b := by
  simp only [drainFails, store_chkRelease, store_modArr, store_clearBank, store_failEntry, store_raise, ↓store_mk, store_eq, ↓store_ite, ite_self]
  (repeat' split) <;> simp only [store_chkRelease, store_modArr, store_clearBank, store_failEntry, store_raise, ↓store_mk, store_eq, ↓store_ite,
      ite_self]

theorem store_sendCdata {b d : Block} {g : Grp} {row : Nat} {vals : List W64} (h : sendCdata b g row vals = some d) : store d = store b := by
  unfold sendCdata at h
  split at h
  · cases h
  · obtain ⟨d', h', rfl⟩ := Option.map_eq_some_iff.mp h
    rw [store_sendRequest]
    exact store_chargeRemote h'

theorem store_takePort (b : Block) (n : Arr) (d : DTile) : store (takePort b n d) = store b := by
  simp only [takePort, store_modArr, ↓store_mk, store_eq]
  split <;> simp only [store_modArr, ↓store_mk, store_eq]

theorem store_runWall (b : Block) (e : Entry) : store (runWall b e) = store b := by
  simp only [runWall, store_failEntry, store_completeEntry, store_modArr, store_modEntry, ↓store_mk, store_eq, ↓store_ite, ite_self]

theorem store_runSwap (b : Block) (e : Entry) : store (runSwap b e) = store b := by
  simp only [runSwap, store_setFld, store_completeEntry, store_modEntry, ↓store_mk, store_eq, ↓store_ite, ite_self]

theorem store_glzcfgLoad (b : Block) (n : Arr) : store (glzcfgLoad b n) = store b := by
  simp only [glzcfgLoad, store_modArr, store_completeEntry, store_modEntry, ↓store_mk, store_eq, ↓store_ite, ite_self]
  (repeat' split) <;> simp only [store_modArr, store_completeEntry, store_modEntry, ↓store_mk, store_eq, ↓store_ite, ite_self]

theorem store_clockGate (b : Block) (n : Arr) : store (clockGate b n) = store b := by
  simp only [clockGate, store_modArr, ↓store_mk, store_eq, ↓store_ite, ite_self]

theorem store_bankRead (b : Block) (n : Arr) (sag : Sag) (t : BankIx) (g : Grp) (kind : ReadKind) (entry xfer : Nat) (prog : List W64)
    (seed : W64) (walk : Nat) : store (bankRead b n sag t g kind entry xfer prog seed walk) = store b := by
  simp only [bankRead, store_fresh, store_modBank, store_modArr, ↓store_mk, store_eq]

theorem store_preemptStop (b : Block) (n : Arr) (sag : Sag) : store (preemptStop b n sag) = store b := by
  unfold preemptStop
  (repeat' split) <;> simp only [store_modPos, store_mkRead, store_modBank, store_bankRead, store_startAdvance, ↓store_mk, store_eq, ↓store_ite,
      ite_self]

/-! ### Groups (the definitions of the model's Groups) -/

theorem store_kilnFails (b : Block) (e : Nat) (g : Grp) : store (kilnFails b e g) = store b := by
  unfold kilnFails
  split <;> simp only [store_failEntry, store_raise, ↓store_mk, store_eq]

theorem store_phaseOne (b : Block) (e : Nat) : store (phaseOne b e) = store b := by
  simp only [phaseOne, store_modEntry, ↓store_mk, store_eq]

theorem store_startEntry (b : Block) (e : Nat) : store (startEntry b e) = store b := by
  simp only [startEntry, store_modEntry, ↓store_mk, store_eq]

theorem store_runGopen (b : Block) (e : Entry) : store (runGopen b e) = store b := by
  unfold runGopen
  dsimp only
  split
  · simp only [store_completeEntry, store_phaseOne, store_modGrp, ↓store_mk, store_eq]
  · have hs : store (takeReserve (modGrp { b with kiln := b.kiln.filter (fun r => !decide (r.grp = kGrp e.word.toNat)) } (kGrp e.word.toNat)
      (openRecord e))
        (kGrp e.word.toNat)).1 = store b := by simp only [store_takeReserve, store_modGrp, ↓store_mk, store_eq]
    split <;> rename_i h <;> rw [h] at hs
    · simpa only [store_completeEntry, store_phaseOne] using hs
    · simpa only [store_modGrp] using hs
    · exact store_failEntry ..

theorem store_wakeArr (b : Block) (n : Arr) : store (wakeArr b n) = store b := by
  simp only [wakeArr, store_startAdvance, store_touchArr, ↓store_ite, ite_self]

theorem store_runGpark (b : Block) (e : Entry) : store (runGpark b e) = store b := by
  simp only [runGpark, store_completeEntry, store_phaseOne, store_bankRead, store_wakeArr, store_startEntry, store_failEntry, ↓store_mk,
      store_eq, ↓store_ite, ite_self]
  (repeat' split) <;> simp only [store_completeEntry, store_phaseOne, store_bankRead, store_wakeArr, store_startEntry, store_failEntry,
      ↓store_mk, store_eq, ↓store_ite, ite_self]

theorem store_startLoad (b : Block) (g : Grp) (n : Arr) (s : Sag) (t : BankIx) (entry : Nat) : store (startLoad b g n s t entry) = store b := by
  simp only [startLoad, store_wakeArr, store_modPos, store_addXfer, store_setReady, store_startReturn, ↓store_mk, store_eq, ↓store_ite, ite_self]
  split <;> simp only [store_wakeArr, store_modPos, store_addXfer, store_setReady, store_startReturn, ↓store_mk, store_eq, ↓store_ite, ite_self]

theorem store_runGresume (b : Block) (e : Entry) : store (runGresume b e) = store b := by
  simp only [runGresume, store_failEntry, store_completeEntry, store_phaseOne, store_startLoad, store_startEntry, ↓store_mk, store_eq,
      ↓store_ite, ite_self]
  (repeat' split) <;> simp only [store_failEntry, store_completeEntry, store_phaseOne, store_startLoad, store_startEntry, ↓store_mk, store_eq,
      ↓store_ite, ite_self]

theorem store_runResumeEntry (b : Block) (n : Arr) : store (runResumeEntry b n) = store b := by
  unfold runResumeEntry
  (repeat' split) <;> simp only [store_modArr, store_raise, store_startLoad, ↓store_mk, store_eq, ↓store_ite, ite_self]

theorem store_loadDone (b : Block) (x : Xfer) (cells : Cells × Cells) : store (loadDone b x cells) = store b := by
  simp only [loadDone, store_modPos, store_modGrp, store_modArr, store_dropRec, store_releaseUnits, store_countMet, store_dropXferStreams,
      store_dropXfer, store_partDone, ↓store_mk, store_eq, ↓store_ite, ite_self, store_foldl, implies_true]
  (repeat' split) <;> simp only [store_modPos, store_modGrp, store_modArr, store_dropRec, store_releaseUnits, store_countMet,
      store_dropXferStreams, store_dropXfer, store_partDone, ↓store_mk, store_eq, ↓store_ite, ite_self, store_foldl, implies_true]

theorem store_parkDone (b : Block) (x : Xfer) : store (parkDone b x) = store b := by
  unfold parkDone
  (repeat' split) <;> simp only [store_dropXfer, store_recFresh, store_modGrp, store_startSpill, store_releaseUnits, store_countMet,
      store_partDone, ↓store_mk, store_eq, ↓store_ite, ite_self]

theorem store_spillDone (b : Block) (x : Xfer) : store (spillDone b x) = store b := by
  simp only [spillDone, store_dropXferStreams, store_dropXfer, store_dropRec, store_bumpFld, store_modGrp, store_countMet, store_partDone,
      ↓store_mk, store_eq, ↓store_ite, ite_self]

theorem store_kilnRead (b : Block) (n : Arr) (g : Grp) (r : KRec) (kind : ReadKind) (entry xfer : Nat) (prog : List W64)
    (seed : W64) : store (kilnRead b n g r kind entry xfer prog seed) = store b := by
  simp only [kilnRead, store_fresh, store_modArr, ↓store_mk, store_eq]

theorem store_startRows (b : Block) (e : Entry) (kind : ReadKind) : store (startRows b e kind) = store b := by
  simp only [startRows, store_wakeArr, store_bankRead, store_addXfer, store_kilnRead, ↓store_mk, store_eq]
  (repeat' split) <;> simp only [store_wakeArr, store_bankRead, store_addXfer, store_kilnRead, ↓store_mk, store_eq]

theorem store_formClose (b : Block) (e : Entry) : store (formClose b e).1 = store b := by
  simp only [formClose, store_recEcc, store_kilnFails, store_formT, store_modPos, store_modRec, store_startReturn, store_addRec, store_modGrp,
      ↓store_mk, store_eq, ↓store_ite, ite_self]
  (repeat' split) <;> simp only [store_recEcc, store_kilnFails, store_formT, store_modPos, store_modRec, store_startReturn, store_addRec,
      store_modGrp, ↓store_mk, store_eq, ↓store_ite, ite_self]

theorem store_closeStep (b : Block) (e : Entry) : store (closeStep b e) = store b := by
  unfold closeStep
  dsimp only
  have offer (b : Block) : store (match sendTagged b e.ctx e.gen (qPeer e)
      (.offer (kGrp e.word.toNat)) 3 0 (offerArg e (getGrp b (kGrp e.word.toNat))) 0 [] with
      | some b => modEntry b e.id (fun y => { y with phase := 3 })
      | none => modEntry b e.id (fun y => { y with phase := 2 })) = store b := by
    split
    · rename_i h
      exact (store_modEntry _ _ _).trans (store_sendTagged h)
    · exact store_modEntry _ _ _
  have form := store_formClose b e
  split
  · rfl
  · split
    · exact offer b
    · split
      · split <;> rename_i hf <;> rw [hf] at form
        · exact form
        · split
          · exact (offer _).trans form
          · simpa only [store_startRows, store_modEntry] using form
      · rfl

theorem store_offerT (b : Block) (e : Entry) : store (offerT b e) = store b := by
  unfold offerT
  dsimp only
  split
  · exact store_modEntry _ _ _
  iterate 2
    · split <;> rename_i hg <;> have form := store_grantRec b (Fin.ofNat 64 (bitsOf e.word.toNat 43 38)) (bitsOf e.word.toNat 55 44)
        (offerAnswer b (Fin.ofNat 64 (bitsOf e.word.toNat 43 38)) (bitsOf e.word.toNat 55 44) none) <;> rw [hg] at form
      · simpa only [store_modEntry] using form
      · split <;> simpa only [store_bankRead, store_wakeArr, store_modEntry, store_modXfer, store_addXfer, store_setReady] using form
  · rw [store_failEntry, store_countReject]

theorem store_mergeStep (b : Block) (e : Entry) : store (mergeStep b e) = store b := by
  unfold mergeStep
  dsimp only
  have form := store_formClose b e
  split
  · rfl
  · split <;> rename_i hf <;> rw [hf] at form
    · exact form
    · exact (store_offerT _ _).trans form

theorem store_reoffer (b : Block) (g : Grp) : store (reoffer b g) = store b := by
  unfold reoffer
  split <;> simp only [store_offerT, ↓store_mk, store_eq, ↓store_ite, ite_self]

theorem store_gmergeDone (b : Block) (x : Xfer) : store (gmergeDone b x) = store b := by
  simp only [gmergeDone, store_modRec, store_dropXfer, store_acceptContribution, store_partDone, store_freeGroup, ↓store_mk, store_eq,
      ↓store_ite, ite_self]
  (repeat' split) <;> simp only [store_modRec, store_dropXfer, store_acceptContribution, store_partDone, store_freeGroup, ↓store_mk, store_eq,
      ↓store_ite, ite_self]

theorem store_transferDone (b : Block) (i : Nat) : store (transferDone b i) = store b := by
  unfold transferDone
  split
  · rfl
  · rename_i x _
    split
    · split <;> simp only [store_parkDone]
    · split <;> simp only [store_spillDone]
    · split
      · rfl
      · split
        · split
          · rename_i r _
            have hs := store_recEcc b [r]
            split <;> rename_i h <;> rw [h] at hs
            · exact (store_loadDone ..).trans hs
            · simpa only [store_kilnFails, store_dropXfer] using hs
          · exact store_dropXfer ..
        · split <;> simp only [store_loadDone]
    · dsimp only
      split
      · split <;> simp only [store_releaseUnits, store_dropXfer, store_dropRec]
      · split <;> simp only [store_modGrp, store_dropXferStreams, store_dropXfer, store_modRec, store_addRec]
    · split <;> simp only [store_gmergeDone]
    · rfl

theorem store_closeDispatched (b : Block) (e : Entry) : store (closeDispatched b e) = store b := by
  simp only [closeDispatched, store_modGrp, store_startEntry, ↓store_mk, store_eq, ↓store_ite, ite_self]

theorem store_kilnAdvance (b : Block) (e : Entry) : store (kilnAdvance b e) = store b := by
  simp only [kilnAdvance, store_runGopen, store_runGpark, store_runGresume, store_modGrp, store_startEntry, store_closeStep, store_mergeStep,
      ↓store_mk, store_eq, ↓store_ite, ite_self]
  (repeat' split) <;> simp only [store_runGopen, store_runGpark, store_runGresume, store_modGrp, store_startEntry, store_closeStep,
      store_mergeStep, ↓store_mk, store_eq, ↓store_ite, ite_self]

theorem store_peerTimeout (b : Block) (g : Grp) : store (peerTimeout b g) = store b := by
  simp only [peerTimeout, store_failEntry, ↓store_mk, store_eq, ↓store_ite, ite_self]
  (repeat' split) <;> simp only [store_failEntry, ↓store_mk, store_eq, ↓store_ite, ite_self]

/-! ### Vector engine (the definitions of the model's Vector) -/

theorem store_vecReads (b : Block) (l : List (Nat × Nat)) : store (vecReads b l).1 = store b := by
  exact store_eccReads (fun q : Nat × Nat => q.1) (fun q => q.2) _ _

theorem store_countVec (b : Block) (n : Nat) : store (countVec b n) = store b := by
  simp only [countVec, store_countAct, ↓store_mk, store_eq]

theorem store_runNorm (b : Block) (e : Entry) : store (runNorm b e) = store b := by
  simp only [runNorm, store_vecReads, store_failEntry, store_completeEntry, store_tickFree, store_setSlot, store_phaseOne, store_countVec,
      ↓store_ite, ite_self]

/-! ### Update rules (the definitions of the model's Rules) -/

theorem store_modRule (b : Block) (c : Ctx) (h : Nat) (f : RuleSt → RuleSt) : store (modRule b c h f) = store b := by
  simp only [modRule, ↓store_mk, store_eq, ↓store_ite, ite_self]

theorem store_dropRule (b : Block) (c : Ctx) (h : Nat) : store (dropRule b c h) = store b := by
  simp only [dropRule, ↓store_mk, store_eq]

theorem store_modJob (b : Block) (j : Nat) (f : Job → Job) : store (modJob b j f) = store b := by
  simp only [modJob, ↓store_mk, store_eq, ↓store_ite, ite_self]

theorem store_dropJob (b : Block) (j : Nat) : store (dropJob b j) = store b := by
  simp only [dropJob, ↓store_mk, store_eq]

theorem store_addJob (b : Block) (c : Ctx) (gen : BitVec 16) (h : Nat) (kind : JobKind) (entry : Nat) :
    store (addJob b c gen h kind entry) = store b := by
  simp only [addJob, store_fresh, ↓store_mk, store_eq]

theorem store_runCheck (b : Block) (e : Entry) : store (runCheck b e) = store b := by
  simp only [runCheck, store_failEntry, store_completeEntry, store_phaseOne, ↓store_ite, ite_self]

theorem store_addStream (b : Block) (o : Owner) (c : Ctx) (gen : BitVec 16) (write : Bool) (idx quota : Nat) (peer : Option Nat)
    (segs : List Seg) : store (addStream b o c gen write idx quota peer segs) = store b := by
  simp only [addStream, store_fresh, ↓store_mk, store_eq, ↓store_ite, ite_self]

theorem store_addBlockStream (b : Block) (o : Owner) (c : Ctx) (gen : BitVec 16) (write : Bool) (idx : Nat) (d : Desc)
    (segs : List Seg) : store (addBlockStream b o c gen write idx d segs) = store b := by
  simp only [addBlockStream, store_fresh, ↓store_mk, store_eq, ↓store_ite, ite_self]

theorem store_dropJobStreams (b : Block) (j : Nat) : store (dropJobStreams b j) = store b := by
  simp only [dropJobStreams, ↓store_mk, store_eq]

theorem store_jobReads (b : Block) (j : Job) (l : List (Nat × Nat)) : store (jobReads b j l) = store b := by
  simp only [jobReads, store_addStream]

theorem store_jobWrites (b : Block) (j : Job) (l : List (Nat × F32)) : store (jobWrites b j l) = store b := by
  simp only [jobWrites, store_addStream]

theorem store_jobScrReads (b : Block) (j : Job) (r : RuleSt) (l : List (Nat × Nat)) : store (jobScrReads b j r l) = store b := by
  simp only [jobScrReads, store_addStream]

theorem store_jobScrWrites (b : Block) (j : Job) (r : RuleSt) (l : List (Nat × List Byte)) : store (jobScrWrites b j r l) = store b := by
  simp only [jobScrWrites, store_addStream, ↓store_ite, ite_self]

theorem store_jobTurned (b : Block) (j : Job) (r : RuleSt) (l : List (Nat × List Byte)) : store (jobTurned b j r l) = store b := by
  simp only [jobTurned, store_jobScrWrites, store_modStream, ↓store_mk, store_eq, ↓store_ite, ite_self]

theorem store_jobWorking (b : Block) (j : Job) (r : RuleSt) (ws : List (Nat × F32)) : store (jobWorking b j r ws) = store b := by
  simp only [jobWorking, store_tickFree, store_addBlockStream, store_foldl, implies_true]

theorem store_rootFallback (b : Block) (j : Job) (blk : Nat × Nat × Nat) : store (rootFallback b j blk).1 = store b := by
  simp only [rootFallback, store_raise, store_bumpFld, ↓store_mk, store_eq, ↓store_ite, ite_self]
  split <;> simp only [store_raise, store_bumpFld, ↓store_mk, store_eq, ↓store_ite, ite_self]

theorem store_rootStart (b : Block) (j : Job) (r : RuleSt) (blk : Nat × Nat × Nat) : store (rootStart b j r blk).1 = store b := by
  simp only [rootStart, store_rootFallback, ↓store_mk, store_eq, ↓store_ite, ite_self]
  split <;> simp only [store_rootFallback, ↓store_mk, store_eq, ↓store_ite, ite_self]

theorem store_rootCheck (b : Block) (j : Job) (blk : Nat × Nat × Nat) : store (rootCheck b j blk).1 = store b := by
  simp only [rootCheck, store_rootFallback, ↓store_mk, store_eq, ↓store_ite, ite_self]
  (repeat' split) <;> simp only [store_rootFallback, ↓store_mk, store_eq, ↓store_ite, ite_self]

theorem store_jobOpen (b : Block) (j : Job) : store (jobOpen b j) = store b := by
  simp only [jobOpen, store_modJob, store_jobScrReads, store_jobReads, ↓store_mk, store_eq, ↓store_ite, ite_self]
  (repeat' split) <;> simp only [store_modJob, store_jobScrReads, store_jobReads, ↓store_mk, store_eq, ↓store_ite, ite_self]

theorem store_commitHome (b : Block) (j : Job) (r : RuleSt) : store (commitHome b j r) = store b := by
  simp only [commitHome, store_modJob, store_jobWrites, store_jobWorking, ↓store_mk, store_eq]

theorem store_pairAdd (b : Block) (j : Job) (r : RuleSt) (s : Nat) : store (pairAdd b j r s) = store b := by
  simp only [pairAdd, store_modJob, store_jobScrWrites, store_modRule, store_jobWrites, ↓store_mk, store_eq, ↓store_ite, ite_self]

theorem store_underHeader {b : Block} {j : Job} {f : Block → Job → Block} (h : ∀ b, store (f b j) = store b) :
    store (underHeader b j f) = store b := by
  unfold underHeader
  dsimp only
  split
  · rw [store_raise, store_modJob, store_vecReads]
  · rw [h, store_vecReads]

/-! ### Line (the definitions of the model's Line) -/

theorem store_lineStart (b : Block) (e : Entry) : store (lineStart b e) = store b := by
  simp only [lineStart, store_modEntry, store_addBlockStream, store_modStream, ↓store_mk, store_eq, ↓store_ite, ite_self]

theorem store_lineLanes (b : Block) (e : Entry) (l : LineRun) : store (lineLanes b e l) = store b := by
  unfold lineLanes
  split <;> simp only [store_vecReads, store_failEntry, store_countAct, ↓store_mk, store_eq, ↓store_ite, ite_self]

theorem store_lineTurn (b : Block) (e : Entry) : store (lineTurn b e) = store b := by
  unfold lineTurn
  split <;> simp only [↓store_mk, store_eq, ↓store_ite, ite_self]

theorem store_lineOut (b : Block) (e : Entry) (l : LineRun) (od : Desc) (rows : List (Nat × List Seg × List Seg)) (last : Bool) :
    store (lineOut b e l od rows last) = store b := by
  simp only [lineOut, store_tickFree, store_modStream, store_addBlockStream, ↓store_mk, store_eq, ↓store_ite, ite_self]
  (repeat' split) <;> simp only [store_tickFree, store_modStream, store_addBlockStream, ↓store_mk, store_eq, ↓store_ite, ite_self]

theorem store_lineEpilogue (b : Block) (e : Entry) (l : LineRun) : store (lineEpilogue b e l) = store b := by
  unfold lineEpilogue
  split <;> simp only [store_vecReads, store_failEntry, store_lineOut, ↓store_mk, store_eq, ↓store_ite, ite_self, store_foldl, implies_true]

theorem store_lineGo (b : Block) (e : Entry) (l : LineRun) : store (lineGo b e l) = store b := by
  simp only [lineGo, store_lineEpilogue, store_lineLanes, store_lineTurn, store_modEntry, ↓store_mk, store_eq, ↓store_ite, ite_self]
  (repeat' split) <;> simp only [store_lineEpilogue, store_lineLanes, store_lineTurn, store_modEntry, ↓store_mk, store_eq, ↓store_ite, ite_self]

theorem store_lineAdvance (b : Block) (e : Entry) : store (lineAdvance b e) = store b := by
  unfold lineAdvance
  (repeat' split) <;> simp only [store_lineStart, store_lineGo, store_completeEntry, store_bumpFld, store_phaseOne, ↓store_mk, store_eq,
      ↓store_ite, ite_self]

theorem store_lineRestart (b : Block) : store (lineRestart b) = store b := by
  unfold lineRestart
  split <;> simp only [↓store_mk, store_eq, ↓store_ite, ite_self]

/-! ### Chain (the definitions of the model's Chain) -/

theorem store_modChain (b : Block) (f : ChainSt → ChainSt) : store (modChain b f) = store b := by
  simp only [modChain, ↓store_mk, store_eq]

theorem store_freeSlots (b : Block) : store (freeSlots b) = store b := by
  simp only [freeSlots, store_modChain, ↓store_mk, store_eq, ↓store_ite, ite_self]

theorem store_holdUpdate (b : Block) : store (holdUpdate b) = store b := by
  simp only [holdUpdate, store_modChain, ↓store_mk, store_eq, ↓store_ite, ite_self]

theorem store_slotWrite (b : Block) (f : Frame) : store (slotWrite b f) = store b := by
  simp only [slotWrite, store_countSram, store_freshEcc]

theorem store_slotRead (b : Block) (f : Frame) : store (slotRead b f).1 = store b := by
  simp only [slotRead, store_eccRead]

theorem store_modTileC (b : Block) (i : Nat) (f : ChTile → ChTile) : store (modTileC b i f) = store b := by
  simp only [modTileC, store_modChain, ↓store_mk, store_eq, ↓store_ite, ite_self]

theorem store_keepFrame (b : Block) (f : Frame) : store (keepFrame b f) = store b := by
  simp only [keepFrame, store_slotRead, store_raise, store_tickFree, store_slotWrite, store_modChain, ↓store_mk, store_eq, ↓store_ite, ite_self]

theorem store_cutTile (b : Block) (t : ChTile) : store (cutTile b t) = store b := by
  simp only [cutTile, store_modChain, store_modTileC, store_keepFrame, ↓store_mk, store_eq, ↓store_ite, ite_self, store_foldl, implies_true]

theorem store_cutClear (b : Block) : store (cutClear b) = store b := by
  simp only [cutClear, store_modChain, ↓store_mk, store_eq, ↓store_ite, ite_self]

theorem store_chainSettle (b : Block) : store (chainSettle b) = store b := by
  simp only [chainSettle, store_holdUpdate, store_freeSlots, store_cutTile, ↓store_ite, ite_self, store_foldl, implies_true]

theorem store_chainHold (b : Block) : store (chainHold b) = store b := by
  unfold chainHold
  split <;> simp only [store_bumpFld, store_chainSettle, store_modChain, ↓store_mk, store_eq, ↓store_ite, ite_self]

theorem store_ringFrame (b : Block) (f : Frame) : store (ringFrame b f) = store b := by
  simp only [ringFrame, store_slotWrite, store_modChain, ↓store_mk, store_eq]

theorem store_storeFrame (b : Block) (f : Frame) (t : ChTile) : store (storeFrame b f t) = store b := by
  simp only [storeFrame, store_slotWrite, store_modChain, store_ringFrame, ↓store_mk, store_eq, ↓store_ite, ite_self]

theorem store_startTile (b : Block) (f : Frame) (hops : Nat) (broken : Bool) : store (startTile b f hops broken) = store b := by
  simp only [startTile, store_modChain, store_cutTile, store_storeFrame, ↓store_mk, store_eq, ↓store_ite, ite_self]

theorem store_frameArrives (b : Block) (hdr : BitVec 192) (data : List Byte) : store (frameArrives b hdr data) = store b := by
  simp only [frameArrives, store_bumpFld, store_chainSettle, store_ringFrame, store_startTile, store_modChain, store_storeFrame, store_modTileC,
      ↓store_mk, store_eq, ↓store_ite, ite_self]
  (repeat' split) <;> simp only [store_bumpFld, store_chainSettle, store_ringFrame, store_startTile, store_modChain, store_storeFrame,
      store_modTileC, ↓store_mk, store_eq, ↓store_ite, ite_self]

theorem store_chainArrive (b : Block) (hdr : BitVec 192) (data : List Byte) : store (chainArrive b hdr data) = store b := by
  simp only [chainArrive, store_modChain, store_frameArrives, ↓store_mk, store_eq, ↓store_ite, ite_self]

theorem store_countBeats (b : Block) (f : Frame) : store (countBeats b f) = store b := by
  simp only [countBeats, store_countAct, ↓store_mk, store_eq]

theorem store_sendForward (b : Block) (f : Frame) : store (sendForward b f) = store b := by
  simp only [sendForward, store_slotRead, store_tickFree, store_raise, store_countBeats, store_chainSettle, store_modChain, ↓store_mk, store_eq,
      ↓store_ite, ite_self]

theorem store_sendOwn (b : Block) (e : Entry) : store (sendOwn b e) = store b := by
  simp only [sendOwn, store_eccRead, store_failEntry, store_modChain, store_countBeats, store_modEntry, ↓store_mk, store_eq, ↓store_ite, ite_self]

theorem store_chainSend (b : Block) : store (chainSend b) = store b := by
  unfold chainSend
  (repeat' split) <;> simp only [store_sendOwn, store_sendForward, ↓store_mk, store_eq, ↓store_ite, ite_self]

theorem store_chainCredit (b : Block) (n : Nat) : store (chainCredit b n) = store b := by
  simp only [chainCredit, store_modChain, ↓store_mk, store_eq, ↓store_ite, ite_self]

theorem store_driveLrst (b : Block) (downstream : Bool) : store (driveLrst b downstream) = store b := by
  simp only [driveLrst, store_modChain, ↓store_mk, store_eq, ↓store_ite, ite_self]

theorem store_linkReset (b : Block) (downstream : Bool) : store (linkReset b downstream) = store b := by
  simp only [linkReset, store_modChain, ↓store_mk, store_eq, ↓store_ite, ite_self]

theorem store_chainLinkReset (b : Block) (downstream : Bool) : store (chainLinkReset b downstream) = store b := by
  simp only [chainLinkReset, store_driveLrst, store_linkReset, ↓store_ite, ite_self]

theorem store_takeTile (b : Block) (i : Nat) : store (takeTile b i) = store b := by
  simp only [takeTile, store_cutClear, store_chainSettle, store_modTileC, store_modChain, ↓store_mk, store_eq, ↓store_ite, ite_self]

theorem store_chainEngineReset (b : Block) : store (chainEngineReset b) = store b := by
  simp only [chainEngineReset, store_chainSettle, store_modChain, ↓store_mk, store_eq]

theorem store_writeChnCfg (b : Block) (v : W64) : store (writeChnCfg b v) = store b := by
  unfold writeChnCfg
  dsimp only
  rw [store_ite, store_hwSet, store_ite, store_setRaw, store_driveLrst, store_linkReset, store_setRaw, ite_self, ite_self]

/-! ### Fabric (the definitions of the model's Fabric) -/

theorem store_answer (b : Block) (h : Nat) (status arg : Nat) : store (answer b h status arg) = store b := by
  simp only [answer, store_bumpFld, store_sendAnswer, ↓store_ite, ite_self]

theorem store_dropPacket (b : Block) : store (dropPacket b) = store b := by
  simp only [dropPacket, store_bumpFld]

theorem store_rxRequest {b : Block} {kind : Nat} {hdr : BitVec 512} {len : Nat} {needsAnswer : Bool} {f : Block → Nat → Block} (h : ∀ b n,
    store (f b n) = store b) : store (rxRequest b kind hdr len needsAnswer f) = store b := by
  simp only [rxRequest, ↓store_ite, ite_self, store_dropPacket, h]

theorem store_rxWrite (b : Block) (hdr : BitVec 512) (data : List Byte) : store (rxWrite b hdr data) = store b := by
  refine store_rxRequest (fun b h => ?_)
  dsimp only
  split
  · exact store_answer ..
  · simp only [↓store_ite, store_answer, store_addStream, ↓store_mk, store_eq, ite_self]

theorem store_rxOffer (b : Block) (hdr : BitVec 512) : store (rxOffer b hdr) = store b := by
  refine store_rxRequest (fun b h => ?_)
  dsimp only
  split
  · exact store_answer ..
  · split
    · exact store_answer ..
    iterate 3 · rw [store_answer, store_countReject]
    iterate 2
      · have hs := store_grantRec b (Fin.ofNat 64 (bitsOf (pkArg h) 5 0)) (bitsOf (pkArg h) 17 6)
          (offerAnswer b (Fin.ofNat 64 (bitsOf (pkArg h) 5 0)) (bitsOf (pkArg h) 17 6) (some (BitVec.ofNat 16 (bitsOf (pkArg h) 33 18))))
        split <;> rename_i hg _ <;> rw [hg] at hs <;> simpa only [store_answer, ↓store_mk, store_eq] using hs

theorem store_freeGrant (b : Block) (t : Grant) : store (freeGrant b t) = store b := by
  simp only [freeGrant, store_dropRec, store_modRec, ↓store_mk, store_eq]
  (repeat' split) <;> simp only [store_dropRec, store_modRec, ↓store_mk, store_eq]

theorem store_rxCdata (b : Block) (hdr : BitVec 512) (data : List Byte) : store (rxCdata b hdr data) = store b := by
  refine store_rxRequest (fun b h => ?_)
  dsimp only
  split
  · exact store_dropPacket _
  · split
    · exact store_dropPacket _
    · simp only [↓store_ite, store_dropPacket, store_freeGrant, store_sendAnswer, store_acceptContribution, store_modRec, ↓store_mk, store_eq,
        ite_self]

theorem store_grantTimeout (b : Block) (slot : Nat) : store (grantTimeout b slot) = store b := by
  unfold grantTimeout
  split <;> simp only [store_freeGrant, ↓store_mk, store_eq, ↓store_ite, ite_self]

theorem store_rxPost (b : Block) (hdr : BitVec 512) : store (rxPost b hdr) = store b := by
  refine store_rxRequest (fun b h => ?_)
  dsimp only
  split
  · exact store_answer ..
  · simp only [↓store_ite, store_answer, store_progress, store_pegAdd, ite_self]

theorem store_dropTag (b : Block) (t : Nat) : store (dropTag b t) = store b := by
  simp only [dropTag, ↓store_mk, store_eq]

theorem store_lessUnacked (b : Block) (c : Ctx) : store (lessUnacked b c) = store b := by
  simp only [lessUnacked, store_modCtx, ↓store_mk, store_eq]

theorem store_tagFailed (b : Block) (t : FabTag) (code : Code) : store (tagFailed b t code) = store b := by
  simp only [tagFailed, store_dropTag, store_raise, store_stopStream, store_failEntry, store_lessUnacked, ↓store_mk, store_eq]
  (repeat' split) <;> simp only [store_dropTag, store_raise, store_stopStream, store_failEntry, store_lessUnacked, ↓store_mk, store_eq]

theorem store_sendRevokes (b : Block) (c : Ctx) : store (sendRevokes b c) = store b := by
  unfold sendRevokes
  split
  · rfl
  · refine store_foldl (fun b i => ?_) _ _
    split
    · rename_i h
      exact (store_modCtx _ _ _).trans (store_sendTagged h)
    · rfl

theorem store_rxRevoke (b : Block) (hdr : BitVec 512) : store (rxRevoke b hdr) = store b := by
  refine store_rxRequest (fun b h => ?_)
  dsimp only
  split
  · exact store_answer ..
  · rw [store_answer, store_foldl store_freeGrant, store_foldl, store_setFld]
    intro b t
    simp only [↓store_ite, store_quarantineEnd, store_dropTag, store_tagFailed, ite_self]

theorem store_rxAnswer {b : Block} {kind : Nat} {hdr : BitVec 512} {is : FabKind → Bool} {ok : Block → FabTag → Nat → Block} (h : ∀ b t n,
    store (ok b t n) = store b) : store (rxAnswer b kind hdr is ok) = store b := by
  unfold rxAnswer
  refine store_of_ite rfl (store_of_ite (store_of_ite (store_dropPacket _) rfl) (store_of_ite (store_dropPacket _) ?_))
  split
  · rfl
  · refine store_of_ite rfl (store_of_ite ?_ (store_of_ite (h ..) (store_of_ite rfl (store_of_ite ?_ (store_of_ite ?_ (store_of_ite ?_
      (store_of_ite ?_ (store_of_ite ?_ rfl))))))))
    · rw [store_quarantineEnd, store_dropTag]
    · exact store_tagFailed ..
    · rw [store_tagFailed, store_bumpFld]
    · rw [store_tagFailed, store_bumpFld]
    · split
      · split
        · rw [store_streamXlate, store_dropTag]
        · exact store_dropTag ..
      · rfl
    · split
      · split
        · rw [store_streamPage, store_dropTag]
        · exact store_dropTag ..
      · rfl

theorem store_rxWack (b : Block) (hdr : BitVec 512) : store (rxWack b hdr) = store b := by
  refine store_rxAnswer (fun b t _ => ?_)
  split
  · rw [store_streamEnd, store_progress, store_dropTag]
  · rfl

theorem store_rxGrant (b : Block) (hdr : BitVec 512) : store (rxGrant b hdr) = store b := by
  refine store_rxAnswer (fun b t _ => ?_)
  dsimp only
  split
  · split
    · rfl
    · split <;> simp only [store_startRows, ↓store_mk, store_eq]
  · rfl

theorem store_rxCdone (b : Block) (hdr : BitVec 512) : store (rxCdone b hdr) = store b := by
  refine store_rxAnswer (fun b t _ => ?_)
  dsimp only
  split
  · split <;> simp only [store_partDone, store_freeGroup, store_dropTag]
  · rfl

theorem store_rxPack (b : Block) (hdr : BitVec 512) : store (rxPack b hdr) = store b := by
  refine store_rxAnswer (fun b t _ => ?_)
  dsimp only
  split
  · simp only [↓store_ite, store_modEntry, store_lessUnacked, store_dropTag, ite_self]
  · rfl

theorem store_rxRack (b : Block) (hdr : BitVec 512) : store (rxRack b hdr) = store b := by
  refine store_rxAnswer (fun b t _ => ?_)
  rw [store_sendRevokes, store_dropTag]

theorem store_retryResend (b : Block) (tag : Nat) : store (retryResend b tag) = store b := by
  unfold retryResend
  split
  · rfl
  · split
    · rfl
    · split
      · rfl
      · split
        · rfl
        · rename_i h
          rw [store_sendRequest, store_mk, store_eq, store_bumpFld, store_chargeRemote h]

theorem store_fabTagTimedOut (b : Block) (tag : Nat) : store (fabTagTimedOut b tag) = store b := by
  unfold fabTagTimedOut
  split <;> simp only [store_bumpFld, store_quarantineEnd, store_dropTag, store_tagFailed, ↓store_mk, store_eq, ↓store_ite, ite_self]

theorem store_rxPacket (b : Block) (p : FabPkt) : store (rxPacket b p) = store b := by
  unfold rxPacket
  split <;> simp only [store_rxWrite, store_rxWack, store_rxOffer, store_rxGrant, store_rxCdata, store_rxCdone, store_rxPost, store_rxPack,
      store_rxRevoke, store_rxRack, store_dropPacket, ↓store_mk, store_eq]

theorem store_deliverLoop (b : Block) : store (deliverLoop b) = store b := by
  simp only [deliverLoop, store_rxPacket, ↓store_mk, store_eq, store_foldl, implies_true]

theorem store_writePeer (b : Block) (n : Fin 4096) (v : W64) : store (writePeer b n v) = store b := by
  simp only [writePeer, store_hwSet, store_setRaw, ↓store_ite, ite_self]

/-! ### Time (the definitions of the model's Clock) -/

theorem store_tickCtx (b : Block) (c : Ctx) : store (tickCtx b c) = store b := by
  simp only [tickCtx, store_modCtx, ↓store_mk, store_eq, ↓store_ite, ite_self]

theorem store_drainLanes (b : Block) : store (drainLanes b) = store b := by
  simp only [drainLanes, store_countAct, ↓store_mk, store_eq, ↓store_ite, ite_self, store_foldl, implies_true]

theorem store_beatEnd (b : Block) : store (beatEnd b) = store b := by
  simp only [beatEnd, ↓store_mk, store_eq, ↓store_ite, ite_self]

/-! ### Check units (the definitions of the model's Check) -/

theorem store_chkAdvance (b : Block) (e : Entry) : store (chkAdvance b e) = store b := by
  simp only [chkAdvance, store_modEntry, store_completeEntry, store_chkSet, store_setFld, store_setRaw, store_setSlot, store_failEntry,
      store_bumpFld, ↓store_mk, store_eq, ↓store_ite, ite_self]

theorem store_chkReject (b : Block) (n : Chk) : store (chkReject b n) = store b := by
  simp only [chkReject, store_hwSet]

theorem store_chkFeedReg (b : Block) (n : Chk) (v : W64) : store (chkFeedReg b n v) = store b := by
  simp only [chkFeedReg, store_chkReject, store_chkFold, store_modChk, ↓store_mk, store_eq, ↓store_ite, ite_self]

theorem store_chkRegWrite (b : Block) (n : Chk) (r : ChkReg) (v : W64) : store (chkRegWrite b n r v) = store b := by
  unfold chkRegWrite
  (repeat' split) <;> simp only [store_chkReject, store_setRaw, store_setChkV, store_chkSet, ↓store_mk, store_eq, ↓store_ite, ite_self]

/-! ### Checkpoints (the definitions of the model's Ckpt) -/

theorem store_ckptParks (b : Block) (e : Entry) : store (ckptParks b e) = store b := by
  unfold ckptParks
  dsimp only
  rw [store_foldl, store_modEntry]
  intro b g
  split
  · rw [store_bankRead, store_wakeArr]
  · rfl

theorem store_ckptReadBack (b : Block) (e : Entry) : store (ckptReadBack b e) = store b := by
  simp only [ckptReadBack, store_modEntry, store_addStream, ↓store_mk, store_eq, store_foldl, implies_true]

theorem store_dropEntryStreams (b : Block) (e : Nat) : store (dropEntryStreams b e) = store b := by
  simp only [dropEntryStreams, ↓store_mk, store_eq]

theorem store_feedLast (b : Block) (n : Chk) (at_ hi : Nat) : store (feedLast b n at_ hi) = store b := by
  simp only [feedLast, store_modStream, ↓store_mk, store_eq]

theorem store_ckptWrite (b : Block) (e : Entry) : store (ckptWrite b e) = store b := by
  simp only [ckptWrite, store_eccRead, store_recEcc, store_failEntry, store_chkHold, store_chkSet, store_dropEntryStreams, store_feedLast,
      store_addStream, store_tickFree, store_modEntry, ↓store_mk, store_eq, ↓store_ite, ite_self]

theorem store_ckptTrailer (b : Block) (e : Entry) : store (ckptTrailer b e) = store b := by
  simp only [ckptTrailer, store_addStream, store_dropEntryStreams, store_modEntry, ↓store_mk, store_eq]

theorem store_ckptAdvance (b : Block) (e : Entry) : store (ckptAdvance b e) = store b := by
  unfold ckptAdvance
  (repeat' split) <;> simp only [store_ckptParks, store_modEntry, store_ckptReadBack, store_ckptWrite, store_ckptTrailer, store_completeEntry,
      store_chkRelease, store_dropEntryStreams, ↓store_mk, store_eq, ↓store_ite, ite_self]

theorem store_areaRead (b : Block) (e : Entry) (lo hi : Nat) : store (areaRead b e lo hi) = store b := by
  simp only [areaRead, store_addStream, store_dropEntryStreams]

theorem store_restoreStart (b : Block) (e : Entry) : store (restoreStart b e) = store b := by
  simp only [restoreStart, store_modChk, store_areaRead, store_modEntry, ↓store_mk, store_eq]

theorem store_mismatchArea (b : Block) (e : Entry) : store (mismatchArea b e) = store b := by
  simp only [mismatchArea, store_failEntry, store_bumpFld, store_chkRelease, store_dropEntryStreams, ↓store_mk, store_eq]

theorem store_restoreHeader (b : Block) (e : Entry) : store (restoreHeader b e) = store b := by
  simp only [restoreHeader, store_failEntry, store_chkRelease, store_dropEntryStreams, store_mismatchArea, store_chkHold, store_chkSet,
      store_hwFold, store_feedLast, store_areaRead, store_modEntry, ↓store_mk, store_eq, ↓store_ite, ite_self]

theorem store_restoreVerify (b : Block) (e : Entry) : store (restoreVerify b e) = store b := by
  simp only [restoreVerify, store_modEntry, store_chkRelease, store_dropEntryStreams, store_mismatchArea, ↓store_mk, store_eq, ↓store_ite, ite_self]

theorem store_installRecord (b : Block) (e : Entry) (g : Nat) : store (installRecord b e g) = store b := by
  simp only [installRecord, store_modGrp, ↓store_mk, store_eq, ↓store_ite, ite_self]

/-! ### Issue stage (the definitions of the model's Issue) -/

theorem store_fetchMeets (b : Block) (c : Ctx) (s : Strand) (p : Nat) : store (fetchMeets b c s p) = store b := by
  simp only [fetchMeets, store_eccRead, ↓store_ite, ite_self]

theorem store_fetchNext (x : Block × Bool) (c : Ctx) (s : Strand) (p : Nat) : store (fetchNext x c s p).1 = store x.1 := by
  unfold fetchNext
  split
  · rfl
  · split
    · rfl
    · rw [store_mk, store_eq, store_fetchMeets]

theorem store_prefetch (b : Block) (c : Ctx) (s : Strand) : store (prefetch b c s) = store b := by
  exact store_foldl_fst (fun x _ => store_fetchNext x c s _) _ _

theorem store_dropFetched (b : Block) (c : Ctx) (s : Strand) : store (dropFetched b c s) = store b := by
  simp only [dropFetched, ↓store_mk, store_eq]

theorem store_refuse (b : Block) (c : Ctx) (s : Strand) (w : Nat) (x : Bad) : store (refuse b c s w x) = store b := by
  simp only [refuse, store_raise, ↓store_mk, store_eq]

theorem store_storeRead (b : Block) (l : List (Nat × Nat)) : store (storeRead b l).1 = store b := by
  exact store_eccReads (fun q : Nat × Nat => cmdBase + q.1) (fun q => q.2) _ _

theorem store_takeWaits (b : Block) (c : Ctx) (s : Strand) (w : Nat) : store (takeWaits b c s w) = store b := by
  exact store_links (takeWaits_links ..)

theorem store_bareStream (b : Block) (e : Entry) (write : Bool) (idx quota : Nat) (peer : Option Nat) (segs : List Seg) :
    store (bareStream b e write idx quota peer segs) = store b := by
  simp only [bareStream, store_fresh, ↓store_mk, store_eq]

theorem store_addEntry (b : Block) (e : Entry) : store (addEntry b e) = store b := by
  simp only [addEntry, ↓store_mk, store_eq]

theorem store_dispatchTransfer (b : Block) (e : Entry) : store (dispatchTransfer b e) = store b := by
  simp only [dispatchTransfer, store_bareStream, store_addEntry, ↓store_mk, store_eq, ↓store_ite, ite_self]

theorem store_dispatchShort (b : Block) (e : Entry) : store (dispatchShort b e) = store b := by
  simp only [dispatchShort, store_bareStream, store_addEntry, ↓store_mk, store_eq, ↓store_ite, ite_self]

theorem store_dispatchPass (b : Block) (e : Entry) : store (dispatchPass b e) = store b := by
  rw [dispatchPass, store_addEntry]
  refine store_foldl (fun b n => ?_) _ _
  refine store_of_ite ((store_modArr ..).trans ?_) ?_
  · split
    · exact store_modGrp ..
    · rfl
  · split
    · exact store_modGrp ..
    · rfl

theorem store_dispatchGlzcfg (b : Block) (e : Entry) : store (dispatchGlzcfg b e) = store b := by
  simp only [dispatchGlzcfg, store_modArr, store_addEntry, ↓store_mk, store_eq, ↓store_ite, ite_self]

theorem store_dispatchClose (b : Block) (e : Entry) : store (dispatchClose b e) = store b := by
  simp only [dispatchClose, store_closeDispatched, store_addEntry, ↓store_mk, store_eq, ↓store_ite, ite_self]

theorem store_dispatchUnit (b : Block) (e : Entry) : store (dispatchUnit b e) = store b := by
  simp only [dispatchUnit, store_dispatchTransfer, store_dispatchShort, store_dispatchPass, store_modArr, store_addEntry, store_dispatchClose,
      store_dispatchGlzcfg, ↓store_mk, store_eq, ↓store_ite, ite_self]
  split <;> simp only [store_dispatchTransfer, store_dispatchShort, store_dispatchPass, store_modArr, store_addEntry, store_dispatchClose,
      store_dispatchGlzcfg, ↓store_mk, store_eq, ↓store_ite, ite_self]

theorem store_setPos (b : Block) (c : Ctx) (s : Strand) (p : Nat) : store (setPos b c s p) = store b := by
  simp only [setPos, store_modStrand, ↓store_mk, store_eq]

theorem store_runEvent (b : Block) (c : Ctx) (s : Strand) (w : Nat) : store (runEvent b c s w) = store b := by
  simp only [runEvent, store_setFld, store_bumpFld, store_setRaw, store_notify, ↓store_ite, ite_self]

theorem store_writeLog (b : Block) (c : Ctx) (bytes : List Byte) : store (writeLog b c bytes) = store b := by
  simp only [writeLog, store_wrapFld, store_addStream, ↓store_ite, ite_self]

theorem store_runMark (b : Block) (e : Entry) (c : Ctx) (s : Strand) (w : Nat) : store (runMark b e c s w) = store b := by
  simp only [runMark, store_modStrand, store_raise, store_bumpFld, store_writeLog, ↓store_mk, store_eq, ↓store_ite, ite_self]

theorem store_runIssue (b : Block) (e : Entry) (c : Ctx) (s : Strand) (w : Nat) : store (runIssue b e c s w) = store b := by
  unfold runIssue
  (repeat' split) <;> simp only [store_setSlot, store_setPos, store_runEvent, store_modStrand, store_pegAdd, store_runMark, ↓store_mk, store_eq,
      ↓store_ite, ite_self]

theorem store_finishIssue (b : Block) (e : Entry) : store (finishIssue b e) = store b := by
  simp only [finishIssue, store_ctxDone, store_progress, store_syncPost]

theorem store_wakeUnits (b : Block) (u : EUnit) : store (wakeUnits b u) = store b := by
  simp only [wakeUnits, store_setFld, ↓store_mk, store_eq, ↓store_ite, ite_self]

theorem store_dispatch (b : Block) (c : Ctx) (s : Strand) (w : BitVec 128) : store (dispatch b c s w) = store b := by
  simp only [dispatch, store_fresh, store_setPos, store_takeWaits, store_finishIssue, store_runIssue, store_wakeUnits, store_progress,
      store_dispatchUnit, ↓store_mk, store_eq]
  split <;> simp only [store_fresh, store_setPos, store_takeWaits, store_finishIssue, store_runIssue, store_wakeUnits, store_progress,
      store_dispatchUnit, ↓store_mk, store_eq]

theorem store_issue (op : Nat → Bool) (b : Block) (c : Ctx) (s : Strand) : store (issue op b c s) = store b := by
  unfold issue
  refine store_of_ite rfl ?_
  split
  · rw [store_refuse]
    exact store_of_ite (store_fetchMeets ..) rfl
  · refine store_of_ite (store_refuse ..) (store_of_ite (store_prefetch ..) ?_)
    have hr : ∀ l, store (storeRead (fetchMeets b c s (getStrand b c s).pos) l).1 = store b :=
      fun l => (store_storeRead _ l).trans (store_fetchMeets ..)
    dsimp only
    split
    · next d h =>
      rw [store_refuse]
      exact (congrArg (fun q => store q.1) h).symm.trans (hr _)
    · next d h =>
      have hd : store d = store b := (congrArg (fun q => store q.1) h).symm.trans (hr _)
      split
      · exact (store_refuse ..).trans hd
      · rw [store_prefetch, store_dispatch, hd]

theorem store_yieldExpiry (b : Block) (c : Ctx) (s : Strand) : store (yieldExpiry b c s) = store b := by
  simp only [yieldExpiry, store_modStrand, ↓store_mk, store_eq, ↓store_ite, ite_self]

/-! ### Units (the definitions of the model's Units) -/

theorem store_dropStacks (b : Block) (e : Entry) : store (dropStacks b e) = store b := by
  unfold dropStacks
  dsimp only
  split
  · rfl
  · refine store_foldl (fun b n => ?_) _ _
    split
    · simp only [↓store_ite, ite_self, store_modGrp, ↓store_mk, store_eq]
    · rfl

theorem store_finishEntry (b : Block) (e : Entry) : store (finishEntry b e) = store b := by
  simp only [finishEntry, store_completeEntry, store_dropStacks, store_dropEntryStreams, ↓store_ite, ite_self]

theorem store_transferAdvance (b : Block) (e : Entry) : store (transferAdvance b e) = store b := by
  unfold transferAdvance
  dsimp only
  split
  · split
    · rfl
    · split
      · split
        · rename_i h
          rw [store_modEntry, store_sendPost h]
        · rfl
      · rfl
  · split
    · rfl
    · simp only [store_completeEntry, store_dropEntryStreams, ↓store_ite, ite_self, store_setSlot]

theorem store_passComplete (b : Block) (i : Nat) : store (passComplete b i) = store b := by
  unfold passComplete
  split <;> simp only [store_finishEntry, ↓store_mk, store_eq, ↓store_ite, ite_self]

/-! ### Registers as they read (the definitions of the model's Flags) -/

theorem store_readClears (b : Block) (r : Reg) : store (readClears b r) = store b := by
  simp only [readClears, store_setRaw, store_setFld, ↓store_ite, ite_self]

/-! ### Faults and recovery (the definitions of the model's Faults) -/

theorem store_resetRegs (gone : RClass → Bool) (b : Block) : store (resetRegs gone b) = store b := by
  simp only [resetRegs, ↓store_mk, store_eq, ↓store_ite, ite_self]

theorem store_clearReg (b : Block) (r : Reg) : store (clearReg b r) = store b := by
  simp only [clearReg, ↓store_mk, store_eq]

theorem store_resetCtxRegs (b : Block) (c : Ctx) : store (resetCtxRegs b c) = store b := by
  simp only [resetCtxRegs, store_clearReg, store_setPeg, store_modGrp, store_modCtx, ↓store_mk, store_eq, ↓store_ite, ite_self, store_foldl,
      implies_true]

theorem store_fenceArray (b : Block) (c : Ctx) (n : Arr) : store (fenceArray b c n) = store b := by
  simp only [fenceArray, store_modArr, ↓store_mk, store_eq, ↓store_ite, ite_self]

theorem store_fenceChain (b : Block) (c : Ctx) : store (fenceChain b c) = store b := by
  simp only [fenceChain, store_modChain, store_takeTile, ↓store_mk, store_eq, ↓store_ite, ite_self]
  (repeat' split) <;> simp only [store_modChain, store_takeTile, ↓store_mk, store_eq, ↓store_ite, ite_self]

theorem store_fenceKiln (b : Block) (c : Ctx) : store (fenceKiln b c) = store b := by
  simp only [fenceKiln, store_freeGroup, ↓store_mk, store_eq, ↓store_ite, ite_self, store_foldl, implies_true]

theorem store_fenceTags (b : Block) (c : Ctx) : store (fenceTags b c) = store b := by
  simp only [fenceTags, ↓store_mk, store_eq, ↓store_ite, ite_self]

theorem store_fenceWork (b : Block) (c : Ctx) : store (fenceWork b c) = store b := by
  simp only [fenceWork, store_fenceChain, store_fenceArray, store_fenceKiln, store_chkRelease, ↓store_mk, store_eq, ↓store_ite, ite_self,
      store_foldl, implies_true]

theorem store_fenceStart (b : Block) (c : Ctx) : store (fenceStart b c) = store b := by
  simp only [fenceStart, store_modCtx, store_sendRevokes, store_fenceTags, store_fenceWork, ↓store_mk, store_eq]

theorem store_fenceEnd (b : Block) (c : Ctx) : store (fenceEnd b c) = store b := by
  simp only [fenceEnd, store_resetCtxRegs, store_quarantineEnd, store_modCtx, ↓store_mk, store_eq]

theorem store_forceRetire (b : Block) (c : Ctx) : store (forceRetire b c) = store b := by
  unfold forceRetire
  dsimp only
  rw [store_mk, store_eq]
  refine store_foldl (fun b x => ?_) _ _
  split
  · rw [store_bumpFld, store_answerWrite, store_freeInbuf, store_dropStream]
  · exact store_dropStream _ _

theorem store_setInputs (b : Block) : store (setInputs b) = store b := by
  simp only [setInputs, store_modArr, ↓store_mk, store_eq, store_foldl, implies_true]

theorem store_samplePins (b : Block) : store (samplePins b) = store b := by
  simp only [samplePins, store_setFld, ↓store_ite, ite_self]

theorem store_resetCtx (b : Block) (advance : Bool) (c : Ctx) : store (resetCtx b advance c) = store b := by
  simp only [resetCtx, store_modCtx, ↓store_mk, store_eq, ↓store_ite, ite_self]

theorem store_computeReset (b : Block) (advance : Bool) : store (computeReset b advance) = store b := by
  simp only [computeReset, store_samplePins, store_resetRegs, store_hwSet, store_resetCtx, store_setInputs, store_chainEngineReset, ↓store_mk,
      store_eq, store_foldl, implies_true]

theorem store_resetGoesOn (b : Block) : store (resetGoesOn b) = store b := by
  simp only [resetGoesOn, store_computeReset, ↓store_mk, store_eq, ↓store_ite, ite_self]

theorem store_engineResetStart (b : Block) : store (engineResetStart b) = store b := by
  unfold engineResetStart
  dsimp only
  rw [store_resetGoesOn, store_foldl, store_setFld, store_mk, store_eq]
  intro b c
  split
  iterate 3 · rfl
  · exact store_fenceStart _ _

theorem store_contextReset (b : Block) (c : Ctx) : store (contextReset b c) = store b := by
  unfold contextReset
  split <;> simp only [store_fenceStart, ↓store_mk, store_eq]

theorem store_engineReset (b : Block) : store (engineReset b) = store b := by
  unfold engineReset
  split <;> simp only [store_engineResetStart, ↓store_mk, store_eq]

theorem store_fenceComplete (b : Block) (c : Ctx) : store (fenceComplete b c) = store b := by
  simp only [fenceComplete, store_resetGoesOn, store_fenceEnd, ↓store_ite, ite_self]

theorem store_fenceLimit (b : Block) (c : Ctx) : store (fenceLimit b c) = store b := by
  unfold fenceLimit
  split <;> simp only [store_resetGoesOn, store_fenceEnd, store_forceRetire, ↓store_mk, store_eq, ↓store_ite, ite_self]





theorem store_watchCtx (b : Block) (c : Ctx) : store (watchCtx b c) = store b := by
  simp only [watchCtx, store_modCtx, store_setFld, store_raise, ↓store_mk, store_eq, ↓store_ite, ite_self]

theorem store_abortArray (b : Block) (n : Arr) : store (abortArray b n) = store b := by
  unfold abortArray
  simp only [store_modArr]
  rw [store_foldl, store_foldl, store_foldl]
  · intro b g
    split
    · exact store_abortProblem ..
    · rfl
  · refine fun b g => store_foldl (fun b t => ?_) _ _
    split
    · rfl
    · split
      · rw [store_poison, store_clearBank]
      · exact store_clearBank ..
  · intro b k
    simp only [↓store_ite, ite_self, store_chkRelease]

theorem store_retireArray (b : Block) (n : Arr) : store (retireArray b n) = store b := by
  simp only [retireArray, store_abortArray, store_setFld, store_raise, ↓store_ite, ite_self]

theorem store_heartbeat (b : Block) : store (heartbeat b) = store b := by
  simp only [heartbeat, store_wrapFld, store_retireArray, store_watchCtx, ↓store_mk, store_eq, ↓store_ite, ite_self, store_foldl, implies_true]

theorem store_swdtLost (b : Block) : store (swdtLost b) = store b := by
  simp only [swdtLost, store_notify, store_setFld, ↓store_ite, ite_self]

theorem store_scrubPatrol (b : Block) : store (scrubPatrol b) = store b := by
  simp only [scrubPatrol, store_eccRead, ↓store_mk, store_eq, ↓store_ite, ite_self]

theorem store_writeFaultPtr (b : Block) (v : W64) : store (writeFaultPtr b v) = store b := by
  simp only [writeFaultPtr, store_setFld, ↓store_ite, ite_self]

/-! ### Power and start-up (the definitions of the model's Power) -/

theorem store_coneWindow (b : Block) : store (coneWindow b) = store b := by
  unfold coneWindow
  split
  · rfl
  · dsimp only
    rw [store_setInputs, store_tickFree, store_mk, store_eq, store_ite, store_raise, ite_self, store_setRaw, store_ite, store_bumpFld, ite_self]

theorem store_restartArrays (b : Block) : store (restartArrays b) = store b := by
  simp only [restartArrays, store_startAdvance, ↓store_ite, ite_self, store_foldl, implies_true]











theorem store_thermSettle (b : Block) : store (thermSettle b) = store b := by
  unfold thermSettle
  split <;> simp only [store_setFld, store_restartArrays, ↓store_mk, store_eq, ↓store_ite, ite_self]

theorem store_bootReject (b : Block) : store (bootReject b) = store b := by
  simp only [bootReject, store_hwSet]

theorem store_writeBootPtr (b : Block) (v : W64) : store (writeBootPtr b v) = store b := by
  simp only [writeBootPtr, store_setFld, store_bootReject, ↓store_ite, ite_self]

theorem store_writeBootCtl (b : Block) (v : W64) : store (writeBootCtl b v) = store b := by
  simp only [writeBootCtl, store_setFld, ↓store_mk, store_eq, ↓store_ite, ite_self]

theorem store_repair (b : Block) : store (repair b) = store b := by
  simp only [repair, store_setFld, ↓store_mk, store_eq, ↓store_ite, ite_self, store_foldl, implies_true]

theorem store_placeChallenge (b : Block) : store (placeChallenge b) = store b := by
  rw [placeChallenge, store_setFld]
  exact store_foldl (fun b _ => store_setRaw b _ _) _ _

theorem store_writeRespGo (b : Block) (v : W64) : store (writeRespGo b v) = store b := by
  simp only [writeRespGo, store_setFld, ↓store_ite, ite_self]

theorem store_writeResp (b : Block) (k : Fin 12) (v : W64) : store (writeResp b k v) = store b := by
  simp only [writeResp, store_setRaw, ↓store_ite, ite_self]

theorem store_dbgVerified (b : Block) : store (dbgVerified b) = store b := by
  simp only [dbgVerified, store_setFld, store_placeChallenge, store_bumpFld, ↓store_ite, ite_self]

theorem store_writeSteward (b : Block) (v : W64) : store (writeSteward b v) = store b := by
  simp only [writeSteward, store_setFld, ↓store_mk, store_eq, ↓store_ite, ite_self]

theorem store_failStart (b : Block) (reason : Nat) : store (failStart b reason) = store b := by
  simp only [failStart, store_setFld, store_notify, ↓store_mk, store_eq, ↓store_ite, ite_self]

theorem store_heldReset (b : Block) : store (heldReset b) = store b := by
  simp only [heldReset, store_engineResetStart, ↓store_ite, ite_self]

theorem store_firmwareStart (b : Block) : store (firmwareStart b) = store b := by
  unfold firmwareStart
  dsimp only
  rw [store_mk, store_eq, store_setFld, store_setFld, store_setRaw, store_setFld, store_setFld]

theorem store_testRetire (b : Block) (fails : Nat) : store (testRetire b fails) = store b := by
  simp only [testRetire, store_setFld]

theorem store_marchLog (b : Block) (found : List (Nat × Bool)) : store (marchLog b found) = store b := by
  simp only [marchLog, store_eccLog, store_bumpFld, ↓store_ite, ite_self, store_foldl, implies_true]

theorem store_startUpEnd (b : Block) (arrFail : Nat) (unitFail : Bool) (found : List (Nat × Bool)) :
    store (startUpEnd b arrFail unitFail found) = store b := by
  simp only [startUpEnd, store_testRetire, store_marchLog, store_heldReset, store_placeChallenge, store_failStart, store_notify,
      store_firmwareStart, ↓store_ite, ite_self]

theorem store_restartCounters (b : Block) : store (restartCounters b) = store b := by
  simp only [restartCounters, store_hwSet, store_resetRegs, store_modCtx, ↓store_mk, store_eq, store_foldl, implies_true]

theorem store_restartSteward (b : Block) (arrFail : Nat) (told : Bool) : store (restartSteward b arrFail told) = store b := by
  unfold restartSteward
  split <;> simp only [store_firmwareStart, store_testRetire, store_notify, store_failStart, ↓store_mk, store_eq, ↓store_ite, ite_self]

theorem store_p2Restore (b : Block) : store (p2Restore b) = store b := by
  simp only [p2Restore, store_setFld, store_hwSet, store_restartCounters, ↓store_ite, ite_self]

theorem store_stewardReady (b : Block) (arrFail : Nat) : store (stewardReady b arrFail) = store b := by
  simp only [stewardReady, store_restartSteward, store_placeChallenge, store_p2Restore, ↓store_mk, store_eq, ↓store_ite, ite_self]

theorem store_reqP0 (b : Block) : store (reqP0 b) = store b := by
  simp only [reqP0, store_setFld, ↓store_mk, store_eq, ↓store_ite, ite_self]

theorem store_reqP1 (b : Block) : store (reqP1 b) = store b := by
  simp only [reqP1, store_setFld]

theorem store_reqP2 (b : Block) : store (reqP2 b) = store b := by
  simp only [reqP2, store_setFld]

theorem store_reqP3 (b : Block) : store (reqP3 b) = store b := by
  simp only [reqP3, store_setFld]

theorem store_writePwr (b : Block) (v : W64) : store (writePwr b v) = store b := by
  unfold writePwr
  split <;> simp only [store_reqP0, store_reqP1, store_reqP2, store_reqP3, ↓store_mk, store_eq]

theorem store_p1Enter (b : Block) : store (p1Enter b) = store b := by
  simp only [p1Enter, store_modArr, store_setFld, ↓store_mk, store_eq, ↓store_ite, ite_self, store_foldl, implies_true]

theorem store_chainLost (b : Block) : store (chainLost b) = store b := by
  simp only [chainLost, store_driveLrst, ↓store_mk, store_eq, ↓store_ite, ite_self]



theorem store_lockReg (b : Block) (r : Reg) : store (lockReg b r) = store b := by
  simp only [lockReg, ↓store_mk, store_eq]

theorem store_writeClkCfg (b : Block) (v : W64) : store (writeClkCfg b v) = store b := by
  simp only [writeClkCfg, store_lockReg, store_setFld, ↓store_ite, ite_self]

theorem store_writeConeLimits (b : Block) (v : W64) : store (writeConeLimits b v) = store b := by
  simp only [writeConeLimits, store_lockReg, store_setFld, ↓store_ite, ite_self]









/-! ### Ports (the definitions of the model's Ports) -/

theorem store_writePlain (b : Block) (r : Reg) (v : W64) : store (writePlain b r v) = store b := by
  simp only [writePlain, store_setRaw, store_lockReg, ↓store_ite, ite_self, store_foldl, implies_true]

theorem store_ctlReject (b : Block) : store (ctlReject b) = store b := by
  simp only [ctlReject, store_hwSet]

theorem store_writePegCfg (b : Block) (p : Peg) (v : W64) : store (writePegCfg b p v) = store b := by
  simp only [writePegCfg, store_writePlain, store_ctlReject, ↓store_ite, ite_self]

theorem store_writePeg (b : Block) (p : Peg) (v : W64) : store (writePeg b p v) = store b := by
  simp only [writePeg, store_setPeg, store_ctlReject, ↓store_mk, store_eq, ↓store_ite, ite_self]

theorem store_writeWin (b : Block) (c : Ctx) (k : Fin 8) (v : W64) : store (writeWin b c k v) = store b := by
  simp only [writeWin, store_writePlain, store_ctlReject, ↓store_ite, ite_self]

theorem store_writeFixedPart (v : W64) (b : Block) (n : Arr) : store (writeFixedPart v b n) = store b := by
  simp only [writeFixedPart, store_ctlReject, store_setFld, ↓store_ite, ite_self]

theorem store_writeFixed (b : Block) (v : W64) : store (writeFixed b v) = store b := by
  simp only [writeFixed, store_writeFixedPart, store_foldl, implies_true]

theorem store_writeLogSize (b : Block) (c : Ctx) (v : W64) : store (writeLogSize b c v) = store b := by
  simp only [writeLogSize, store_setFld, store_writePlain]

theorem store_writeRoot (b : Block) (c : Ctx) (v : W64) : store (writeRoot b c v) = store b := by
  simp only [writeRoot, store_writePlain, store_hwSet, ↓store_ite, ite_self]

theorem store_writeInval (b : Block) (v : W64) : store (writeInval b v) = store b := by
  unfold writeInval
  split <;> simp only [store_invalPage, store_invalContext, store_invalAll, store_hwSet, ↓store_mk, store_eq]

theorem store_writeSplit (b : Block) (c : Ctx) (v : W64) : store (writeSplit b c v) = store b := by
  simp only [writeSplit, store_writePlain, store_hwSet, ↓store_ite, ite_self]

theorem store_writePortmap (b : Block) (k : Option (Fin 32)) (v : W64) : store (writePortmap b k v) = store b := by
  unfold writePortmap
  (repeat' split) <;> simp only [store_writePlain, ↓store_mk, store_eq, ↓store_ite, ite_self]

theorem store_preempt (b : Block) (c : Ctx) : store (preempt b c) = store b := by
  simp only [preempt, store_modCtx, store_ctlReject, ↓store_mk, store_eq, ↓store_ite, ite_self]

theorem store_preemptRest (b : Block) (c : Ctx) : store (preemptRest b c) = store b := by
  simp only [preemptRest, store_notify, store_modCtx, ↓store_mk, store_eq, ↓store_ite, ite_self]

theorem store_resumeCtx (b : Block) (c : Ctx) : store (resumeCtx b c) = store b := by
  simp only [resumeCtx, store_modArr, store_wakeUnits, store_modCtx, store_countMet, store_ctxDone, store_ctlReject, ↓store_mk, store_eq,
      ↓store_ite, ite_self, store_foldl, implies_true]

theorem store_writeCtl (b : Block) (v : W64) : store (writeCtl b v) = store b := by
  unfold writeCtl
  split <;> simp only [store_preempt, store_resumeCtx, store_ctlReject, ↓store_mk, store_eq]

theorem store_writeTail (b : Block) (v : W64) : store (writeTail b v) = store b := by
  simp only [writeTail, store_setFld, store_ctlReject, ↓store_ite, ite_self]

theorem store_writeCq (b : Block) (size : Bool) (v : W64) : store (writeCq b size v) = store b := by
  simp only [writeCq, store_ctlReject, store_setFld, store_writePlain, ↓store_ite, ite_self]

theorem store_consume (b : Block) (l : Launch) (reason : Nat) (named : Bool) : store (consume b l reason named) = store b := by
  simp only [consume, store_hwSet, store_setFld, store_notify, ↓store_mk, store_eq, ↓store_ite, ite_self]

theorem store_startStrands (b : Block) (l : Launch) : store (startStrands b l) = store b := by
  simp only [startStrands, store_modStrand, store_dropFetched, store_modCtx, ↓store_mk, store_eq, ↓store_ite, ite_self, store_foldl, implies_true]

theorem store_queueRead (b : Block) (src n : Nat) (c : Option Ctx) : store (queueRead b src n c) = store b := by
  simp only [queueRead, store_hotRaise, store_countAct, ↓store_mk, store_eq]

theorem store_launchWith (b : Block) (r : LaunchRun) (w : Vector W64 8) : store (launchWith b r w) = store b := by
  simp only [launchWith, store_queueRead, store_chargeClass, store_consume, store_startStrands, ↓store_mk, store_eq, ↓store_ite, ite_self]
  (repeat' split) <;> simp only [store_queueRead, store_chargeClass, store_consume, store_startStrands, ↓store_mk, store_eq, ↓store_ite, ite_self]

theorem store_launchStep (b : Block) : store (launchStep b) = store b := by
  unfold launchStep
  (repeat' split) <;> simp only [store_queueRead, store_launchWith, ↓store_mk, store_eq, ↓store_ite, ite_self]

theorem store_beforeCoins (b : Block) (r : Reg) : store (beforeCoins b r) = store b := by
  refine store_foldl (fun d f => ?_) _ _
  split
  · simp only [↓store_ite, ite_self, store_setFld]
  · rfl

theorem store_afterRead (b : Block) (r : Reg) : store (afterRead b r) = store b := by
  unfold afterRead
  dsimp only
  rw [store_mk, store_eq, store_foldl, store_readClears]
  intro d f
  split
  · simp only [↓store_ite, ite_self, store_setFld]
  · rfl

theorem store_portRead (b : Block) (a be : Nat) : store (portRead b a be) = store b := by
  unfold portRead
  (repeat' split) <;> simp only [store_respond, store_afterRead, ↓store_mk, store_eq, ↓store_ite, ite_self]

theorem store_noticeSend (b : Block) : store (noticeSend b) = store b := by
  unfold noticeSend
  split <;> simp only [↓store_mk, store_eq, ↓store_ite, ite_self]

theorem store_setJtag (b : Block) (ir : BitVec 8) (f : Jtag → Jtag) : store (setJtag b ir f) = store b := by
  simp only [setJtag, ↓store_mk, store_eq, ↓store_ite, ite_self]

theorem store_bypass (b : Block) (tdi : Bool) : store (bypass b tdi) = store b := by
  simp only [bypass, store_setJtag, ↓store_mk, store_eq]

end Sys2Proof.Proofs.Store

/-! SUPPORT. What writes the memories keeps their canonical form, and the pins: one lemma per operation of the model that reaches a store of bytes, in
the model's order. What writes neither is `Proofs.Store`'s. -/

namespace Sys2Proof.Proofs.Canon

open Sys2Proof Sys2Proof.Machine Sys2Proof.Laws Sys2Proof.Proofs.Store

/-- Where `C` holds both memories are in canonical form; and the pins are `P`. -/
def Good (C : Prop) (P : Pins) (x : Mem × Mem × Pins) : Prop := (C → Memory.wf x.1 = true ∧ Memory.wf x.2.1 = true) ∧ x.2.2 = P

variable {C : Prop} {P : Pins}

theorem good_ite (c : Prop) [Decidable c] (x y : Block) :
    Good C P (store (if c then x else y)) ↔ if c then Good C P (store x) else Good C P (store y) := by
  split <;> rfl

theorem good_foldl {β : Type} {f : Block → β → Block} (h : ∀ b x, Good C P (store b) → Good C P (store (f b x))) {b : Block} (hb :
    Good C P (store b))
    (l : List β) : Good C P (store (l.foldl f b)) := by
  induction l generalizing b with
  | nil => exact hb
  | cons x l ih => exact ih (h b x hb)

theorem good_foldl_fst {β γ : Type} {f : Block × γ → β → Block × γ} (h : ∀ q x, Good C P (store q.1) → Good C P (store (f q x).1)) {q : Block × γ}
    (hq : Good C P (store q.1)) (l : List β) : Good C P (store (l.foldl f q).1) := by
  induction l generalizing q with
  | nil => exact hq
  | cons x l ih => exact ih (h q x hq)

theorem good_sram {b d : Block} (h : Good C P (store b)) (hs : Memory.wf b.sram = true → Memory.wf d.sram = true) (hb : d.boot = b.boot)
    (hp : d.pins = b.pins) :
    Good C P (store d) :=
  ⟨fun hc => ⟨hs (h.1 hc).1, by rw [store, hb]; exact (h.1 hc).2⟩, hp.trans h.2⟩

theorem good_sramWrite {b : Block} (h : Good C P (store b)) (a : Nat) (bs : List Byte) : Good C P (store (sramWrite b a bs).1) := by
  have hs := (store_eccRead (freshEcc b a bs.length) a bs.length false).trans (store_freshEcc ..)
  exact good_sram h (sramWrite_wf b a bs) (congrArg (·.2.1) hs) (congrArg (·.2.2) hs)

theorem good_scatter {b : Block} (h : Good C P (store b)) (l : List (ByteRef × Byte)) : Good C P (store (scatter b l).1) :=
  good_sram h (scatter_wf b l) (congrArg (·.2.1) (store_eccTouch { b with ecc1 := _, ecc2 := _ } _)) (congrArg (·.2.2)
      (store_eccTouch { b with ecc1 := _, ecc2 := _ } _))

theorem good_deliverFills {b : Block} (h : Good C P (store b)) (fs : List (Nat × Nat × Nat)) : Good C P (store (deliverFills b fs)) :=
  good_sram h (deliverFills_wf b fs) rfl rfl

theorem good_of {b d : Block} (h : store d = store b) (hg : Good C P (store b)) : Good C P (store d) := h ▸ hg

theorem good_of_ite {c : Prop} [Decidable c] {x y : Block} (hx : Good C P (store x)) (hy : Good C P (store y)) :
    Good C P (store (if c then x else y)) := by
  split
  · exact hx
  · exact hy

theorem good_of_option {o : Option Block} {x : Block} {f : Block → Block} (hx : Good C P (store x)) (hf : ∀ d, o = some d → Good C P (store
    (f d))) :
    Good C P (store (match (generalizing := false) o with | none => x | some d => f d)) := by
  cases o with
  | none => exact hx
  | some d => exact hf d rfl

/-- A step that is made under a condition. -/
theorem good_when {c : Prop} [Decidable c] {x b : Block} (h : Good C P (store b) → Good C P (store x)) (hb : Good C P (store b)) :
    Good C P (store (if c then x else b)) :=
  good_of_ite (h hb) hb

/-- A step under a condition that writes neither memory. -/
theorem good_when_of {c : Prop} [Decidable c] {x b : Block} (h : store x = store b) (hb : Good C P (store b)) :
    Good C P (store (if c then x else b)) :=
  good_of_ite (good_of h hb) hb

theorem good_andThen {s : Block × Bool} {f : Block → Block × Bool} (h : ∀ b, Good C P (store b) → Good C P (store (f b).1)) (hs :
    Good C P (store s.1)) :
    Good C P (store (andThen s f).1) :=
  h _ hs

theorem good_onFst {s : Block × Bool} {f : Block → Block} (h : ∀ b, Good C P (store b) → Good C P (store (f b))) (hs : Good C P (store s.1)) :
    Good C P (store (onFst s f).1) :=
  h _ hs

theorem good_underHeader {b : Block} {j : Job} {f : Block → Job → Block} (h : ∀ b, Good C P (store b) → Good C P (store (f b j))) (hg :
    Good C P (store b)) :
    Good C P (store (underHeader b j f)) :=
  have hv := good_of (store_vecReads b [(hdrAddr j.hdr, 64)]) hg
  good_of_ite (good_of (store_raise ..) (good_of (store_modJob ..) hv)) (h _ hv)

theorem good_deliverFillsEcc {b : Block} (fs : List (Nat × Nat × Nat)) (hg : Good C P (store b)) : Good C P (store (deliverFillsEcc b fs).1) := by
  unfold deliverFillsEcc
  (repeat' split) <;> simp only [good_deliverFills, store_eccTouch, ↓good_ite, ite_self, ↓store_mk, store_eq, hg, if_true]

theorem good_openTransferBlock {b : Block} (x : Stream) (e : Entry) (ws : List W64) (idx off soff done_ : Nat) (hg :
    Good C P (store b)) : Good C P (store (openTransferBlock b x e ws idx off soff done_)) := by
  simp only [openTransferBlock, store_openBlock, good_deliverFillsEcc, store_raise, store_stopStream, ↓good_ite, ite_self, ↓store_mk, store_eq,
      hg, if_true]
  (repeat' split) <;> simp only [store_openBlock, good_deliverFillsEcc, store_raise, store_stopStream, ↓good_ite, ite_self, ↓store_mk, store_eq,
      hg, if_true]

theorem good_openNext {b : Block} (x : Stream) (e : Entry) (idx off soff done_ : Nat) (hg : Good C P (store b)) :
    Good C P (store (openNext b x e idx off soff done_)) := by
  simp only [openNext, store_eccRead, good_openTransferBlock, store_raise, store_stopStream, ↓good_ite, ite_self, ↓store_mk, store_eq, hg, if_true]
  (repeat' split) <;> simp only [store_eccRead, good_openTransferBlock, store_raise, store_stopStream, ↓good_ite, ite_self, ↓store_mk, store_eq,
      hg, if_true]

theorem good_startTransfer {b : Block} (e : Entry) (hg : Good C P (store b)) : Good C P (store (startTransfer b e)) := by
  refine good_of_ite ?_ (good_foldl (fun b x hb => ?_) ?_ _)
  · simp only [store_failEntry, store_foldl, store_modStream, implies_true, fresh, ↓store_mk, store_eq, store_modEntry, hg]
  · dsimp only
    split
    · rw [store_openBlock]
      exact good_of_ite hb (good_deliverFills hb _)
    iterate 3 exact good_openTransferBlock _ _ _ _ _ _ _ hb
    · exact hb
  · simp only [store_foldl, store_modStream, implies_true, fresh, ↓store_mk, store_eq, store_modEntry, hg]

theorem good_mergeBlocks (k : Nat) {b : Block} (i : Nat) (e : Entry) (hg : Good C P (store b)) : Good C P (store (mergeBlocks k b i e)) := by
  induction k generalizing b with
  | zero => exact hg
  | succ k ih =>
    unfold mergeBlocks
    split
    · split
      · exact good_of_ite (ih (good_openNext _ _ _ _ _ _ hg)) hg
      · exact hg
    · exact hg

theorem good_advanceBlock {b : Block} (x : Stream) (e : Entry) (hg : Good C P (store b)) : Good C P (store (advanceBlock b x e)) := by
  refine good_of_ite (good_mergeBlocks _ _ _ hg) ?_
  split
  · rwa [store_modStream]
  · exact good_openNext _ _ _ _ _ _ hg
  · exact hg

theorem good_streamIssue {b : Block} (i : Nat) (hg : Good C P (store b)) : Good C P (store (streamIssue b i)) := by
  unfold streamIssue
  split
  · exact hg
  · refine good_of_ite hg (good_of_option hg fun d hd => ?_)
    have hd : Good C P (store d) := by
      split at hd
      · split at hd
        · split at hd <;> cases hd
          exact good_of (store_modStream ..) hg
        · split at hd
          · cases hd; exact hg
          · split at hd
            · split at hd <;> cases hd
              exact good_of (store_modEntry ..) hg
            · split at hd <;> cases hd
              exact good_startTransfer _ hg
      · cases hd; exact hg
    extract_lets c
    have hc : Good C P (store c) := by
      unfold c
      split
      · exact good_advanceBlock _ _ hd
      · exact hd
    clear_value c
    split
    · exact hc
    · refine good_of_ite hc (good_of_ite hc (good_of_option hc fun d hk => ?_))
      have hd : Good C P (store d) := good_of (store_takeChannel hk) hc
      split
      · exact hd
      · refine good_of_ite (good_of_ite (good_of (store_foldWritten ..) hd) (good_of (store_foldRead ..) hd)) (good_of_ite hd ?_)
        split
        · exact good_of (store_sendRemoteWrite ..) hd
        · exact good_of (store_sendLocal ..) hd

/-- Bytes that land in the buffer of a stream. -/
theorem good_buffer {b : Block} (hg : Good C P (store b)) (l : List Seg) (at_ : Seg → Nat) (v : Seg → Byte) :
    Good C P (store { b with sram := l.foldl (fun m s => memPut m (at_ s) (v s)) b.sram }) :=
  good_sram hg (foldl_wf _ (fun m _ hm => memPut_wf m _ _ hm) _ _) rfl rfl

theorem good_readResponse {b : Block} (tag err : Nat) (data : List Byte) (hg : Good C P (store b)) :
    Good C P (store (readResponse b tag err data)) := by
  unfold readResponse
  split
  · exact hg
  · next r _ =>
    have h1 : Good C P (store (tagFreed { b with mp := b.mp.filter (fun q => q.tag != tag) } r)) := by
      rwa [store_tagFreed]
    dsimp only
    generalize tagFreed { b with mp := b.mp.filter (fun q => q.tag != tag) } r = c at h1 ⊢
    refine good_of_ite (by rwa [store_quarantineEnd]) (good_of_ite (by rwa [store_requestFailed]) ?_)
    split
    · exact h1
    · next x _ =>
      refine good_of_ite (good_of (store_refetch ..) h1) ?_
      have h2 : ∀ got, Good C P (store (if r.turned = true then (modStream c x.id (fun y => { y with wq := y.wq ++ got }),
          false) else scatter c got).1) := by
        intro got
        split
        · exact good_of (store_modStream ..) h1
        · exact good_scatter h1 _
      refine good_of_ite (good_of (store_raise ..) (good_of (store_stopStream ..) ?_)) (good_of (store_progress ..)
          (good_of (store_foldRead ..) ?_))
      all_goals exact good_of_ite (good_buffer (h2 _) _ _ _) (h2 _)

theorem good_writeLocal {b : Block} (t : TileRead) (ot base wk i : Nat) (o : List (Nat × List Byte) × List (Nat × Byte) × Bool) (hg :
    Good C P (store b)) : Good C P (store (writeLocal b t ot base wk i o).1) := by
  simp only [writeLocal, good_scatter, hg, if_true]

theorem good_redWrite {b : Block} (p : List W64) (off : Nat) (r : List F32) (hg : Good C P (store b)) :
    Good C P (store (redWrite b p off r).1) := by
  simp only [redWrite, good_sramWrite, ↓good_ite, ite_self, hg, if_true]

theorem good_glazeRow {b : Block} (n : Arr) (d : DTile) (row : DRow) (hg : Good C P (store b)) : Good C P (store (glazeRow b n d row).1) := by
  unfold glazeRow
  dsimp only
  refine good_onFst (fun c hc => ?_) (good_andThen (fun c hc => ?_) (good_andThen (fun c hc => ?_) ?_))
  · simp only [↓store_ite, store_tickFree, store_modTile, store_countAct, store_hwFold, store_chkHold, ite_self, hc]
  · split
    · exact good_writeLocal _ _ _ _ _ _ hc
    · exact hc
  · split
    · exact good_when_of (store_feedStream ..) (good_of (store_feedStream ..) hc)
    iterate 2
      refine good_andThen (fun c hc => ?_) (good_writeLocal _ _ _ _ _ _ hc)
      split
      · exact good_writeLocal _ _ _ _ _ _ hc
      · exact hc
    · exact hc
  · have h1 : ∀ x y z, Good C P (store (bumpFld (bumpFld (bumpFld b (.glzNan n) 0 32 x) (.glzInf n) 0 32 y) (.glzInf n) 32 32 z)) := fun x y z => by
      rwa [store_bumpFld, store_bumpFld, store_bumpFld]
    split
    · exact good_redWrite _ _ _ (good_when_of (store_hwSet ..) (h1 _ _ _))
    · exact good_when_of (store_hwSet ..) (h1 _ _ _)

theorem good_glazeTileEnd {b : Block} (n : Arr) (d : DTile) (hg : Good C P (store b)) : Good C P (store (glazeTileEnd b n d).1) := by
  unfold glazeTileEnd
  dsimp only
  refine good_onFst (fun c hc => ?_) ?_
  · simp only [↓store_ite, store_modArr, store_raise, store_chkRelease, store_hwFold, ite_self, hc]
  · split
    · exact good_foldl_fst (fun q x hq => good_andThen (fun c hc => good_redWrite _ _ _ hc) hq) hg _
    · exact hg

theorem good_wheelServe {b : Block} (w : Fin 2) (hg : Good C P (store b)) : Good C P (store (wheelServe b w)) := by
  simp only [wheelServe, store_passWheel, store_modArr, store_modStream, good_scatter, store_raise, store_stopStream, store_progress, ↓good_ite,
      ite_self, ↓store_mk, store_eq, hg, if_true]
  (repeat' split) <;> simp only [store_passWheel, store_modArr, store_modStream, good_scatter, store_raise, store_stopStream, store_progress,
      ↓good_ite, ite_self, ↓store_mk, store_eq, hg, if_true]

theorem good_tileLeft {b : Block} (n : Arr) (d : DTile) (hg : Good C P (store b)) : Good C P (store (tileLeft b n d)) := by
  simp only [tileLeft, good_glazeTileEnd, store_drainFails, store_modGrp, store_partDone, ↓good_ite, ite_self, ↓store_mk, store_eq, hg, if_true]
  (repeat' split) <;> simp only [good_glazeTileEnd, store_drainFails, store_modGrp, store_partDone, ↓good_ite, ite_self, ↓store_mk, store_eq, hg,
      if_true]

/-- The block and the flag that a row of a drain leaves. -/
theorem good_rowOut {b : Block} {n : Arr} {d : DTile} {row : DRow} {q : Block × Bool} {c : Prop} [Decidable c] (hg : Good C P (store b))
    (h : (if d.src.kind = .peer then
        (match d.src.grp with
        | some g => (sendCdata b g row.row row.vals).map (fun b => (modTile b n d.tid (fun x => { x with rowsOut := x.rowsOut + 1 }), false))
        | none => none)
      else if c then some (glazeRow (takePort b n d) n d row) else none) = some q) : Good C P (store q.1) := by
  split at h
  · split at h
    · obtain ⟨d, hd, rfl⟩ := Option.map_eq_some_iff.mp h
      exact good_of (store_modTile ..) (good_of (store_sendCdata hd) hg)
    · cases h
  · split at h
    · cases h
      exact good_glazeRow _ _ _ (good_of (store_takePort ..) hg)
    · cases h

theorem good_rowOutStep {b : Block} (n : Arr) (hg : Good C P (store b)) : Good C P (store (rowOutStep b n)) := by
  unfold rowOutStep
  split
  · exact hg
  · refine good_of_ite hg ?_
    split
    · exact good_of (store_modArr ..) hg
    · next row rest _ _ d _ =>
      have h1 : ∀ (c : Prop) [Decidable c] l, Good C P (store (if c then (b, false) else readsEcc b l).1) := fun c _ l => by
        split
        · exact hg
        · exact good_of (store_readsEcc ..) hg
      dsimp only
      refine good_of_ite (good_of (store_drainFails ..) (h1 _ _)) ?_
      split
      · exact h1 _ _
      · next hq => exact good_of (store_drainFails ..) (good_rowOut (h1 _ _) hq)
      · next hq =>
        have h2 := fun n f => good_of ((store_touchArr _ n).trans (store_modArr _ n f)) (good_rowOut (h1 _ _) hq)
        refine good_of_ite ?_ (h2 _ _)
        split
        · exact good_of_ite (good_of (store_modArr ..) (h2 _ _)) (good_tileLeft _ _ (h2 _ _))
        · exact h2 _ _

theorem good_runVop {b : Block} (e : Entry) (hg : Good C P (store b)) : Good C P (store (runVop b e)) := by
  simp only [runVop, store_vecReads, store_failEntry, good_sramWrite, store_countVec, store_tickFree, store_completeEntry, store_phaseOne,
      ↓good_ite, ite_self, hg, if_true]

theorem good_setH {b : Block} (h w lo wid v : Nat) (hg : Good C P (store b)) : Good C P (store (setH b h w lo wid v)) := by
  simp only [setH, good_sramWrite, hg, if_true]

theorem good_setPhase {b : Block} (h v : Nat) (hg : Good C P (store b)) : Good C P (store (setPhase b h v)) := by
  simp only [setPhase, good_setH, hg, if_true]

theorem good_runBegin {b : Block} (e : Entry) (hg : Good C P (store b)) : Good C P (store (runBegin b e)) := by
  unfold runBegin
  dsimp only
  refine good_of_ite (good_of (store_failEntry ..) hg) (good_of_ite (good_of (store_failEntry ..) hg) ?_)
  split
  · exact good_when_of (store_failEntry ..) hg
  · simp only [store_completeEntry, store_phaseOne, dropRule, ↓store_mk, store_eq]
    have h1 := fun hold : Bool => good_setH (rcHdr e.word.toNat) 0 5 1 0 (good_setH (rcHdr e.word.toNat) 0 4 1 (if hold then 1 else 0) hg)
    exact good_setPhase _ _ (good_setH _ _ _ _ _ (good_setH _ _ _ _ _ (h1 _)))

theorem good_runAbort {b : Block} (e : Entry) (hg : Good C P (store b)) : Good C P (store (runAbort b e)) := by
  simp only [runAbort, good_setPhase, store_dropRule, store_completeEntry, store_phaseOne, ↓good_ite, ite_self, hg, if_true]

theorem good_runRulecfg {b : Block} (e : Entry) (hg : Good C P (store b)) : Good C P (store (runRulecfg b e)) := by
  simp only [runRulecfg, store_vecReads, store_failEntry, good_runBegin, good_runAbort, store_runCheck, ↓good_ite, ite_self, hg, if_true]
  (repeat' split) <;> simp only [store_vecReads, store_failEntry, good_runBegin, good_runAbort, store_runCheck, ↓good_ite, ite_self, hg, if_true]

theorem good_runPrecond {b : Block} (e : Entry) (hg : Good C P (store b)) : Good C P (store (runPrecond b e)) := by
  have hv := fun l => good_of (store_vecReads b l) hg
  have h1 := fun l => good_of (store_phaseOne (vecReads b l).1 e.id) (hv l)
  unfold runPrecond
  dsimp only
  refine good_of_ite (good_of (store_failEntry ..) (hv _)) (good_of_ite (good_of (store_failEntry ..) (hv _)) ?_)
  split
  · exact good_of_ite (hv _) (good_of (store_completeEntry ..) (good_of (store_addJob ..) (good_setH _ _ _ _ _ (h1 _))))
  · exact good_of (store_completeEntry ..) (good_setH _ _ _ _ _ (h1 _))
  · exact good_of (store_completeEntry ..) (h1 _)

theorem good_startUpdate {b : Block} (e : Entry) (hg : Good C P (store b)) : Good C P (store (startUpdate b e)) := by
  unfold startUpdate
  dsimp only
  split
  · refine good_of_ite hg (good_of (store_addStream ..) (good_of (store_modEntry ..) (good_of (store_modRule ..) (good_setH _ _ _ _ _ hg))))
  · exact good_of (store_failEntry ..) hg
  · exact hg

theorem good_computeUpdate {b : Block} (e : Entry) (hg : Good C P (store b)) : Good C P (store (computeUpdate b e)) := by
  have hv := fun l => good_of (store_vecReads b l) hg
  unfold computeUpdate
  dsimp only
  refine good_of_ite (good_of (store_failEntry ..) (hv _)) ?_
  split
  · exact hv _
  · refine good_when_of (store_addJob ..) (good_of (store_modEntry ..) (good_when_of ((store_tickFree _).trans (store_addBlockStream ..)) ?_))
    refine good_of (store_addStream ..) (good_of (store_modRule ..) (good_when (good_setH _ _ _ _ _)
        (good_setH _ _ _ _ _ (good_of (store_countVec ..) ?_))))
    exact hv _

theorem good_finishUpdate {b : Block} (e : Entry) (hg : Good C P (store b)) : Good C P (store (finishUpdate b e)) := by
  simp only [finishUpdate, good_setH, store_freeGroup, store_addJob, good_setPhase, store_completeEntry, store_phaseOne, ↓good_ite, ite_self,
      ↓store_mk, store_eq, hg, if_true]

theorem good_runUpdate {b : Block} (e : Entry) (hg : Good C P (store b)) : Good C P (store (runUpdate b e)) := by
  simp only [runUpdate, store_vecReads, store_failEntry, good_startUpdate, good_computeUpdate, good_finishUpdate, ↓good_ite, ite_self, hg, if_true]

theorem good_vecAdvance {b : Block} (e : Entry) (hg : Good C P (store b)) : Good C P (store (vecAdvance b e)) := by
  simp only [vecAdvance, good_runVop, store_runNorm, good_runRulecfg, good_runUpdate, good_runPrecond, ↓good_ite, ite_self, hg, if_true]
  (repeat' split) <;> simp only [good_runVop, store_runNorm, good_runRulecfg, good_runUpdate, good_runPrecond, ↓good_ite, ite_self, hg, if_true]

theorem good_rulePart {b : Block} (j : Job) (n : Arr) (t : BankIx) (p : Prod) (tile : Nat × Nat × Nat × Nat) (k0 k1 : Nat) (hg :
    Good C P (store b)) :
    Good C P (store (rulePart b j n t p tile k0 k1).1) := by
  unfold rulePart
  extract_lets ma mb mc k off offB fa fb base b1
  have h1 : Good C P (store b1) := good_of (store_freshEcc ..) (good_sram hg (fun h => memPutBytes_wf _ _ _ (memPutBytes_wf _ _ _ h)) rfl rfl)
  clear_value b1
  split
  next c ck hk =>
  have hc : Good C P (store c) := good_of ((congrArg (fun q => store q.1) hk).symm.trans (store_checkPick ..)) h1
  extract_lets run b2 b3 b4
  have h4 : Good C P (store b4) := good_of (store_subPassEnd ..) (good_of (store_foldl (fun b _ => store_runRow b n 0) _ _)
      (good_of (store_takeBank ..) hc))
  clear_value b4
  split
  · exact h4
  · exact good_of (store_modPos ..) h4

theorem good_ruleTile {b : Block} (j : Job) (n : Arr) (t : BankIx) (p : Prod) (tile : Nat × Nat × Nat × Nat) (hg : Good C P (store b)) :
    Good C P (store (ruleTile b j n t p tile).1) := by
  refine good_foldl_fst (fun q x hq => ?_) hg _
  split
  · exact hq
  · exact good_rulePart _ _ _ _ _ _ _ hq

theorem good_openWindow {b : Block} (j : Job) (n : Arr) (hg : Good C P (store b)) : Good C P (store (openWindow b j n)) :=
  good_of (store_tickFree _) (good_of (store_freshEcc ..) (good_sram hg (memPutBytes_wf _ _ _) rfl rfl))

theorem good_finishLayer {b : Block} (j : Job) (hg : Good C P (store b)) : Good C P (store (finishLayer b j)) := by
  have h1 := good_when_of (c := (hF b j.hdr 6 62 62 == 1) = true)
      (store_strandPost b j.ctx (((findRule b j.ctx j.hdr).map (·.strand)).getD 0) j.gen (Fin.ofNat 256 (hF b j.hdr 1 63 56)) 1) hg
  refine good_of (store_dropJob ..) (good_of (store_dropRule ..) (good_setPhase _ _ (good_setH _ _ _ _ _ ?_)))
  exact good_of_ite (good_of (store_bumpFld ..) h1) (good_setH _ _ _ _ _ (good_setH _ _ _ _ _ h1))

theorem good_layerEnd {b : Block} (j : Job) (hg : Good C P (store b)) : Good C P (store (layerEnd b j)) := by
  simp only [layerEnd, store_raise, store_bumpFld, good_finishLayer, store_modJob, store_jobOpen, good_setPhase, ↓good_ite, ite_self, ↓store_mk,
      store_eq, hg, if_true]

theorem good_applyRule2 {b : Block} (j : Job) (r : RuleSt) (due : Bool) (hg : Good C P (store b)) : Good C P (store (applyRule2 b j r due)) := by
  simp only [applyRule2, store_modJob, good_setPhase, store_jobWrites, store_jobWorking, ↓good_ite, ite_self, ↓store_mk, store_eq, hg, if_true]

theorem good_applyRule3 {b : Block} (j : Job) (r : RuleSt) (hg : Good C P (store b)) : Good C P (store (applyRule3 b j r)) := by
  simp only [applyRule3, store_modJob, good_setPhase, store_jobWrites, store_jobWorking, ↓good_ite, ite_self, ↓store_mk, store_eq, hg, if_true]

theorem good_rootsNext {b : Block} (j : Job) (r : RuleSt) (hg : Good C P (store b)) : Good C P (store (rootsNext b j r).1) := by
  unfold rootsNext
  split
  · exact good_of (store_rootStart ..) hg
  · dsimp only
    have h1 := fun h => good_setH h 0 7 1 0 (good_setH h 0 6 1 1 hg)
    split
    · exact good_of (store_jobWrites ..) (h1 _)
    · exact h1 _

theorem good_putJob {q : Block × Job} (r : RuleSt) (hg : Good C P (store q.1)) : Good C P (store (putJob r q)) := by
  have h1 := fun l => good_of ((store_jobScrWrites _ q.2 r l).trans (store_modJob q.1 q.2.id (fun _ => q.2))) hg
  exact good_of_ite (good_of (store_jobTurned ..) (h1 _)) (h1 _)

theorem good_jobStage {b : Block} (j : Job) (hg : Good C P (store b)) : Good C P (store (jobStage b j)) := by
  unfold jobStage
  dsimp only
  split
  · split
    · exact good_putJob _ hg
    · exact good_putJob _ (good_rootsNext _ _ hg)
    · refine good_of_ite (good_of_ite (good_putJob _ (good_rootsNext _ _ hg)) (good_putJob _ hg)) (good_of_ite (good_putJob _ hg) ?_)
      exact good_of (store_commitHome ..) hg
  · split
    · exact good_of (store_pairAdd ..) hg
    · exact hg
  · exact good_putJob _ (good_rootsNext _ _ hg)
  · exact good_putJob _ hg
  · exact good_putJob _ hg
  · split
    · exact good_putJob _ (good_of (store_rootCheck ..) hg)
    · exact hg
  · exact good_applyRule3 _ _ hg
  · exact good_putJob _ hg
  · exact good_applyRule2 _ _ _ hg
  · exact good_finishLayer _ hg
  · exact good_of (store_dropJob ..) hg
  · exact good_putJob _ hg

theorem good_jobAdvanceN (k : Nat) {b : Block} (hg : Good C P (store b)) : Good C P (store (jobAdvanceN k b)) := by
  induction k generalizing b with
  | zero => exact hg
  | succ k ih =>
    unfold jobAdvanceN
    split
    · exact hg
    · exact good_of_ite hg (ih (good_underHeader (fun c hc => good_jobStage _ hc) (good_of (store_dropJobStreams ..) hg)))

theorem good_jobAdvance {b : Block} (hg : Good C P (store b)) : Good C P (store (jobAdvance b)) := good_jobAdvanceN _ hg

theorem good_jobStart {b : Block} (hg : Good C P (store b)) : Good C P (store (jobStart b)) := by
  unfold jobStart
  refine good_of_ite hg ?_
  split
  · exact hg
  · refine good_of_ite hg (good_jobAdvance (good_underHeader (fun c hc => ?_) (good_of (store_modJob ..) hg)))
    split
    · exact good_layerEnd _ hc
    · exact good_of (store_jobOpen ..) hc

theorem good_rulePassEntry {b : Block} (n : Arr) (hg : Good C P (store b)) : Good C P (store (rulePassEntry b n)) := by
  unfold rulePassEntry
  split
  · exact hg
  · split
    · exact hg
    · split
      · exact good_of (store_modJob ..) hg
      · refine good_of_ite hg ?_
        split
        · next j _ _ p _ _ _ tile _ _ _ t _ =>
          have hc := good_ruleTile j n t p tile hg
          have h1 := fun f => good_of (store_touchArr _ n) (good_openWindow j n
            (b := { modPos (ruleTile b j n t p tile).1 n 0 f with sram := b.sram }) ⟨fun h => ⟨(hg.1 h).1, (hc.1 h).2⟩, hc.2⟩)
          dsimp only
          split
          · refine good_of ((store_raise ..).trans (store_raise ..)) ?_
            exact good_of ((store_abftLast ..).trans ((store_bumpFld ..).trans ((store_abftLast ..).trans (store_bumpFld ..)))) (h1 _)
          · exact good_jobAdvance (good_of (store_modJob ..) (h1 _))
        · exact good_of (store_raise ..) hg
        · exact hg

theorem good_startRefetch {b : Block} (e : Entry) (k : Nat) (hg : Good C P (store b)) : Good C P (store (startRefetch b e k)) := by
  simp only [startRefetch, good_deliverFills, store_modEntry, store_addStream, ↓store_mk, store_eq, hg, if_true]

theorem good_copyFrame {b : Block} (e : Entry) (t : ChTile) (data : List Byte) (hg : Good C P (store b)) :
    Good C P (store (copyFrame b e t data)) := by
  simp only [copyFrame, good_sramWrite, store_failEntry, store_takeTile, store_modTileC, store_chainSettle, store_modChain, ↓good_ite, ite_self,
      ↓store_mk, store_eq, hg, if_true]

theorem good_recvStep {b : Block} (e : Entry) (t : ChTile) (hg : Good C P (store b)) : Good C P (store (recvStep b e t)) := by
  simp only [recvStep, store_failEntry, store_takeTile, store_completeEntry, store_modEntry, good_startRefetch, store_slotRead, good_copyFrame,
      ↓good_ite, ite_self, ↓store_mk, store_eq, hg, if_true]
  (repeat' split) <;> simp only [store_failEntry, store_takeTile, store_completeEntry, store_modEntry, good_startRefetch, store_slotRead,
      good_copyFrame, ↓good_ite, ite_self, ↓store_mk, store_eq, hg, if_true]

theorem good_chainRepair {b : Block} (hg : Good C P (store b)) : Good C P (store (chainRepair b)) := by
  unfold chainRepair
  (repeat' split) <;> simp only [store_bumpFld, store_tickFree, store_modEntry, store_modChain, good_copyFrame, ↓good_ite, ite_self, ↓store_mk,
      store_eq, hg, if_true]

theorem good_startSend {b : Block} (e : Entry) (hg : Good C P (store b)) : Good C P (store (startSend b e)) := by
  simp only [startSend, store_modEntry, store_addStream, good_deliverFills, ↓good_ite, ite_self, ↓store_mk, store_eq, hg, if_true]

theorem good_chainAdvance {b : Block} (e : Entry) (hg : Good C P (store b)) : Good C P (store (chainAdvance b e)) := by
  unfold chainAdvance
  (repeat' split) <;> simp only [good_startSend, store_modEntry, store_completeEntry, good_recvStep, ↓good_ite, ite_self, ↓store_mk, store_eq,
      hg, if_true]

theorem good_tick {b : Block} (hg : Good C P (store b)) : Good C P (store (tick b)) := by
  refine good_of_ite hg (good_of (store_beatEnd _) (good_of (store_drainLanes _) (good_jobAdvance ?_)))
  simp only [store_deliverLoop, store_flushPosts, store_foldl, store_sendRevokes, store_tickCtx, implies_true, hg]

theorem good_installState {b : Block} (e : Entry) (hg : Good C P (store b)) : Good C P (store (installState b e)) := by
  refine good_sramWrite (good_foldl (fun b n hb => ?_) (good_foldl (fun b p hb => ?_) (good_foldl (fun b s hb => good_foldl
      (fun b q hb => ?_) hb _) hg _) _) _) _ _
  · exact good_when_of ((store_setRaw ..).trans ((store_chkSet ..).trans (store_setFld ..))) hb
  · exact good_when_of (store_setPeg ..) hb
  · exact good_of (store_setSlot ..) hb

/-- What a part of an installation leaves reads the memories as `b` does. -/
def InstStore (b : Block) : Inst → Prop
  | .ok c | .wait c => store c = store b
  | .full => True

theorem installL_store (b : Block) (e : Entry) (g : Nat) : InstStore b (installL b e g) := by
  unfold installL
  dsimp only
  split
  · exact rfl
  · have hs := store_takeSlots b (recShape b e g) (tileParts (recKind b e g))
    split <;> rename_i h <;> rw [h] at hs
    · show store _ = store b
      simpa only [store_modGrp, store_recFresh, store_modRec, store_addRec] using hs
    · exact hs
    · split
      · trivial
      · split
        · show store _ = store b
          simpa only [store_startSpill, store_modGrp, store_recFresh, store_modRec, store_addRec] using hs
        · trivial

theorem installM_store (b : Block) (e : Entry) (g : Nat) : InstStore b (installM b e g) := by
  unfold installM
  dsimp only
  split
  · exact rfl
  · have hs := store_takeReserve b (Fin.ofNat 64 g)
    split <;> rename_i h <;> rw [h] at hs
    · split
      · exact hs
      · show store _ = store b
        split
        · simpa only [store_recFresh, store_modRec] using hs
        · exact hs
    · exact hs
    · trivial

theorem installArrival_store (b : Block) (e : Entry) (g k : Nat) : InstStore b (installArrival b e g k) := by
  unfold installArrival
  dsimp only
  split
  · exact rfl
  · have hs := store_takeSlots b (recShape b e g) (tileParts (recKind b e g))
    split <;> rename_i h <;> rw [h] at hs
    · show store _ = store b
      simpa only [store_recFresh, store_modRec, store_addRec] using hs
    · exact hs
    · trivial

theorem installPart_store (b : Block) (e : Entry) (i : Nat) : InstStore b (installPart b e i) := by
  unfold installPart
  dsimp only
  split
  · exact rfl
  · split
    · have hl := installL_store (installRecord b e (i / 10)) e (i / 10)
      have hr := store_installRecord b e (i / 10)
      cases h : installL (installRecord b e (i / 10)) e (i / 10) with
      | ok c => rw [h] at hl; exact hl.trans hr
      | wait c => rw [h] at hl; exact (store_modGrp ..).trans (hl.trans hr)
      | full => trivial
    · exact installM_store ..
    · exact installArrival_store ..

theorem good_restoreInstall {b : Block} (e : Entry) (hg : Good C P (store b)) : Good C P (store (restoreInstall b e)) := by
  unfold restoreInstall
  dsimp only
  split
  on_goal 1 => refine good_of (store_modEntry ..) (good_installState _ ?_)
  all_goals
    refine good_of (store_modEntry ..) (good_foldl_fst (fun q i hq => ?_) hg _)
    split
    · exact hq
    · have hi := installPart_store q.1 e i
      split
      · next h => rw [h] at hi; exact good_of hi hq
      · next h => rw [h] at hi; exact good_of hi hq
      · exact good_of (store_failEntry ..) hq

theorem good_restoreAdvance {b : Block} (e : Entry) (hg : Good C P (store b)) : Good C P (store (restoreAdvance b e)) := by
  refine good_of_ite hg (good_of_ite (good_when_of (store_restoreStart ..) hg) (good_of_ite hg ?_))
  split
  · exact good_of (store_restoreHeader ..) hg
  · exact good_of (store_restoreVerify ..) hg
  · exact good_restoreInstall _ hg
  · exact good_of_ite hg (good_of ((store_completeEntry ..).trans (store_modEntry ..)) hg)
  · exact hg

theorem good_entryAdvance {b : Block} (e : Entry) (hg : Good C P (store b)) : Good C P (store (entryAdvance b e)) := by
  unfold entryAdvance
  (repeat' split) <;> simp only [store_finishEntry, good_restoreAdvance, store_transferAdvance, store_ckptAdvance, store_runWall, store_runSwap,
      store_kilnAdvance, good_vecAdvance, store_lineAdvance, good_chainAdvance, store_chkAdvance, ↓good_ite, ite_self, hg, if_true]

theorem good_instructionComplete {b : Block} (i : Nat) (hg : Good C P (store b)) : Good C P (store (instructionComplete b i)) := by
  unfold instructionComplete
  (repeat' split) <;> simp only [good_entryAdvance, hg, if_true]

theorem good_vwarnSettle {b : Block} (hg : Good C P (store b)) : Good C P (store (vwarnSettle b)) := by
  unfold vwarnSettle
  (repeat' split) <;> simp only [store_setFld, good_jobAdvance, store_restartArrays, ↓good_ite, ite_self, ↓store_mk, store_eq, hg, if_true]

theorem good_writeBootData {b : Block} (v : W64) (hg : Good C P (store b)) : Good C P (store (writeBootData b v)) := by
  refine good_of_ite (good_of (store_hwSet ..) hg) (good_of (store_setFld ..) ?_)
  exact ⟨fun h => ⟨(hg.1 h).1, memPutBytes_wf _ _ _ (hg.1 h).2⟩, hg.2⟩

theorem good_bootVerified {b : Block} (hg : Good C P (store b)) : Good C P (store (bootVerified b)) := by
  unfold bootVerified
  refine good_of_ite hg ?_
  split
  · have hr := good_of (store_repair b) hg
    exact good_of (store_setFld ..) ⟨fun h => ⟨rfl, (hr.1 h).2⟩, hr.2⟩
  · exact good_of ((store_heldReset _).trans ((store_placeChallenge _).trans (store_failStart ..))) hg

theorem good_launchResponse {b : Block} (err : Bool) (data : List Byte) (hg : Good C P (store b)) :
    Good C P (store (launchResponse b err data)) := by
  simp only [launchResponse, store_keyFreed, store_consume, good_sramWrite, ↓good_ite, ite_self, ↓store_mk, store_eq, hg, if_true]
  (repeat' split) <;> simp only [store_keyFreed, store_consume, good_sramWrite, ↓good_ite, ite_self, ↓store_mk, store_eq, hg, if_true]

theorem good_launchAnswer {b : Block} (words err : Bool)  (data : List Byte) (hg : Good C P (store b)) :
    Good C P (store (launchAnswer words err b data)) := by
  unfold launchAnswer
  (repeat' split) <;> simp only [good_launchResponse, store_launchStep, ↓good_ite, ite_self, hg, if_true]

theorem good_launchEntry {b : Block} (ent : List Byte) (img : List (List Byte)) (err : Bool) (hg : Good C P (store b)) :
    Good C P (store (launchEntry ent img err b)) := by
  have h0 := good_of (store_launchStep b) hg
  unfold launchEntry
  dsimp only
  refine good_when (good_launchAnswer false true []) (good_foldl (fun b x hb => good_launchAnswer false false x hb) ?_ img)
  exact good_of_ite h0 (good_launchAnswer true false ent h0)

theorem good_some {d c : Block} (hd : some c = some d) (hc : Good C P (store c)) : Good C P (store d) := Option.some.inj hd ▸ hc

theorem good_writeSpecial {b d : Block} {v : W64} {r : Reg} (hd : writeSpecial b v r = some d) (hg : Good C P (store b)) : Good C P (store d) := by
  cases r
  case engReset =>
    cases hd
    split
    · exact good_of (store_contextReset ..) hg
    · exact good_of (store_engineReset ..) hg
    · exact hg
  case arrRamp n =>
    cases hd
    have h1 := good_of (store_writePlain b (.arrRamp n) v) hg
    exact good_of_ite h1 (good_of (store_setFld ..) h1)
  case arrAbftCtl => exact good_some hd (good_of ((store_modArr ..).trans (store_writePlain ..)) hg)
  case klnCfg =>
    cases hd
    have h1 := good_of (store_writePlain b .klnCfg v) hg
    exact good_of_ite h1 (good_of (store_setFld ..) h1)
  case engFaultPtr => exact good_some hd (good_of (store_writeFaultPtr ..) hg)
  case strResume => exact good_some hd (good_of (store_strResume ..) hg)
  case strPortmapCfg => exact good_some hd (good_of (store_writePortmap ..) hg)
  case strPortmap => exact good_some hd (good_of (store_writePortmap ..) hg)
  case strSplit => exact good_some hd (good_of (store_writeSplit ..) hg)
  case schCtl => exact good_some hd (good_of (store_writeCtl ..) hg)
  case schFixed => exact good_some hd (good_of (store_writeFixed ..) hg)
  case schCqBase => exact good_some hd (good_of (store_writeCq ..) hg)
  case schCqSize => exact good_some hd (good_of (store_writeCq ..) hg)
  case schCqTail => exact good_some hd (good_of (store_writeTail ..) hg)
  case schLogSize => exact good_some hd (good_of (store_writeLogSize ..) hg)
  case schPegCfg => exact good_some hd (good_of (store_writePegCfg ..) hg)
  case schPeg => exact good_some hd (good_of (store_writePeg ..) hg)
  case schWin => exact good_some hd (good_of (store_writeWin ..) hg)
  case chnCfg => exact good_some hd (good_of (store_writeChnCfg ..) hg)
  case fabPeer => exact good_some hd (good_of (store_writePeer ..) hg)
  case chkCtl => exact good_some hd (good_of (store_chkRegWrite ..) hg)
  case chkValue => exact good_some hd (good_of (store_chkRegWrite ..) hg)
  case chkExpect => exact good_some hd (good_of (store_chkRegWrite ..) hg)
  case chkFeed => exact good_some hd (good_of (store_chkFeedReg ..) hg)
  case mgtPwr => exact good_some hd (good_of (store_writePwr ..) hg)
  case mgtClkCfg => exact good_some hd (good_of (store_writeClkCfg ..) hg)
  case mgtConeLimits => exact good_some hd (good_of (store_writeConeLimits ..) hg)
  case mgtBootCtl => exact good_some hd (good_of (store_writeBootCtl ..) hg)
  case mgtBootPtr => exact good_some hd (good_of (store_writeBootPtr ..) hg)
  case xltInval => exact good_some hd (good_of (store_writeInval ..) hg)
  case xltRoot => exact good_some hd (good_of (store_writeRoot ..) hg)
  case dbgResp => exact good_some hd (good_of (store_writeResp ..) hg)
  case dbgRespGo => exact good_some hd (good_of (store_writeRespGo ..) hg)
  case dbgSteward => exact good_some hd (good_of (store_writeSteward ..) hg)
  case mgtBootData => exact good_some hd (good_writeBootData _ hg)
  all_goals exact absurd hd (Option.some_ne_none d).symm

theorem good_writeReg {b : Block} (r : Reg) (v : W64) (hg : Good C P (store b)) : Good C P (store (writeReg b r v)) := by
  refine good_of_ite hg ?_
  cases h : writeSpecial b v r with
  | none => exact good_of (store_writePlain ..) hg
  | some d => exact good_writeSpecial h hg

theorem good_portWrite {b : Block} (a be : Nat) (v : W64) (hg : Good C P (store b)) : Good C P (store (portWrite b a be v)) := by
  unfold portWrite
  (repeat' split) <;> simp only [store_respond, good_writeReg, ↓good_ite, ite_self, hg, if_true]

theorem good_dbgAcc {b : Block} (dr : BitVec 96) (hg : Good C P (store b)) : Good C P (store (dbgAcc b dr)) := by
  simp only [dbgAcc, store_setJtag, store_bypass, good_writeReg, store_afterRead, ↓good_ite, ite_self, ↓store_mk, store_eq, hg, if_true]
  (repeat' split) <;> simp only [store_setJtag, store_bypass, good_writeReg, store_afterRead, ↓good_ite, ite_self, ↓store_mk, store_eq, hg, if_true]

end Sys2Proof.Proofs.Canon

/-! SUPPORT. How every command of the table reaches the block: a running engine's event, a register write, an access of the control port, the
test port, what passes the bypass of the chain, a notice, or an event of a pin; and what of it an engine that does not run lets through. Settles
O1, O3, O4, O6, O7, O8 and O9. -/

namespace Sys2Proof.Proofs.Commands

open Sys2Proof Sys2Proof.Machine Sys2Proof.Laws Sys2Proof.Proofs.Store Sys2Proof.Proofs.Canon

/-! ### The pins after an event of a pin -/

theorem pins_of_store {b d : Block} (h : store d = store b) : d.pins = b.pins := congrArg (fun x => x.2.2) h

theorem vwarnAssert_pins (b : Block) : (vwarnAssert b).pins = { b.pins with vwarn := false } := by
  unfold vwarnAssert
  split
  · next h => rw [← show b.pins.vwarn = false by simpa using h]
  · rw [pins_of_store (store_raise ..), pins_of_store (store_setFld ..)]

theorem vwarnRelease_pins (b : Block) : (vwarnRelease b).pins = { b.pins with vwarn := true } := by
  unfold vwarnRelease
  split
  · next h => rw [← show b.pins.vwarn = true by simpa using h]
  · rw [pins_of_store (store_setFld ..)]

theorem thermWarn_pins (b : Block) (low : Bool) : (thermWarn b low).pins = { b.pins with thermWarn := !low } := by
  unfold thermWarn
  split
  · next h => rw [← show b.pins.thermWarn = !low by cases low <;> simpa using h]
  · rw [pins_of_store (store_setInputs ..), pins_of_store (store_setFld ..), pins_of_store (store_ite_id (store_bumpFld ..))]

theorem thermTrip_pins (b : Block) : (thermTrip b).pins = { b.pins with thermTrip := false } := by
  unfold thermTrip
  split
  · next h => rw [← show b.pins.thermTrip = false by simpa using h]
  · rw [pins_of_store (store_setFld ..), pins_of_store (store_bumpFld ..)]

theorem thermRelease_pins (b : Block) : (thermRelease b).pins = { b.pins with thermTrip := true } := by
  unfold thermRelease
  split
  · next h => rw [← show b.pins.thermTrip = true by simpa using h]
  · rw [pins_of_store (store_setFld ..)]

theorem rstEngAssert_pins (b : Block) : (rstEngAssert b).pins = { b.pins with rstEng := false } := by
  unfold rstEngAssert
  split
  · next h => rw [← show b.pins.rstEng = false by simpa using h]
  · dsimp only
    split
    · exact pins_of_store (store_of_ite rfl (store_engineResetStart _))
    · rw [pins_of_store (store_engineResetStart _)]
    · rfl
    · rfl

theorem rstEngRelease_pins (b : Block) : (rstEngRelease b).pins = { b.pins with rstEng := true } := by
  unfold rstEngRelease
  split
  · next h => rw [← show b.pins.rstEng = true by simpa using h]
  · dsimp only
    split
    · rw [pins_of_store (store_computeReset ..)]
    · rfl

theorem chainLost_pins (b : Block) : (chainLost b).pins = b.pins := pins_of_store (store_chainLost b)

theorem powerDown_pins (b : Block) : (powerDown b).pins = b.pins ∨ (powerDown b).pins = { b.pins with pwrOffOk := true } := by
  unfold powerDown
  split
  · exact .inl rfl
  · dsimp only
    split
    · refine .inr ((chainLost_pins _).trans ((pins_of_store (store_notify ..)).trans ?_))
      rw [pins_of_store (store_setFld ..), pins_of_store (store_setFld ..)]
    · exact .inl (by rw [pins_of_store (store_setFld ..), pins_of_store (store_setFld ..)])

theorem powerRemoval_pins (b : Block) : (powerRemoval b).pins = b.pins ∨ (powerRemoval b).pins = { b.pins with powered := false } := by
  unfold powerRemoval
  split
  · exact .inr rfl
  · exact .inl rfl

/-- `b` with the pin ENG_ABSENT at `a`. -/
def absentAs (b : Block) (a : Bool) : Block := { b with pins := { b.pins with absent := a } }

theorem absentChange_eq (b : Block) (a : Bool) : absentChange b a = if b.pins.absent = a then b
    else if bypassed b = bypassed (absentAs b a) then absentAs b a else chainLost (absentAs b a) := by
  simp only [absentChange, beq_iff_eq]
  rfl

theorem absentChange_pins (b : Block) (a : Bool) : (absentChange b a).pins = { b.pins with absent := a } := by
  unfold absentChange
  split
  · next h => rw [← eq_of_beq h]
  · dsimp only
    split
    · rfl
    · rw [chainLost_pins]

theorem coldAssert_pins {b : Block} (h : b.pins.rstCold = true) : (coldAssert b).pins = { b.pins with rstCold := false, pwrOffOk := false } := by
  simp only [coldAssert, h, Bool.not_true, Bool.false_eq_true, if_false]
  split
  · rfl
  · rw [chainLost_pins]; rfl

theorem coldAssert_low {b : Block} (h : b.pins.rstCold = false) : coldAssert b = b := by
  simp only [coldAssert, h, Bool.not_false, if_true]

theorem coldRelease_pins {b : Block} (en : BitVec 4) (ix : BitVec 3) (h : b.pins.rstCold = false) (ha : b.pins.absent = false) :
    (coldRelease b en ix).pins = { b.pins with rstCold := true, powered := true, arrayEn := en, engineIndex := ix } := by
  simp only [coldRelease, h, ha, Bool.or_false, Bool.false_eq_true, if_false]
  rw [chainLost_pins, pins_of_store (store_setInputs ..), pins_of_store (store_samplePins ..)]
  split <;> simp only [pins_of_store (store_setFld ..)] <;> rfl

theorem coldRelease_refused {b : Block} (en : BitVec 4) (ix : BitVec 3)
    (h : b.pins.rstCold = true ∨ b.pins.absent = true) : coldRelease b en ix = b := by
  rw [coldRelease, if_pos]
  simpa only [Bool.or_eq_true] using h

/-! ### What passes an engine that does not run -/

theorem setJtag_only (b : Block) (ir : BitVec 8) (f : Jtag → Jtag) : ∃ j, setJtag b ir f = { b with jtag := j } := by
  unfold setJtag
  split
  · exact ⟨b.jtag, rfl⟩
  · split <;> exact ⟨_, rfl⟩

theorem dbgAcc_dead {b : Block} (dr : BitVec 96) (h : live b = false) : ∃ j, dbgAcc b dr = { b with jtag := j } := by
  rw [dbgAcc, if_pos (by simp only [h, Bool.not_false, Bool.true_or])]
  exact setJtag_only ..

/-- From `b` to `d` nothing but what leaves by the bypass of the chain has changed: a frame, credits, the two link resets. -/
def OnlyPassed (b d : Block) : Prop :=
  ∃ o n u w, d = { b with chain := { b.chain with out := o, creditsOut := n, lrstDown := u, lrstUp := w } }

theorem chainArrive_bypassed {b : Block} (hdr : BitVec 192) (data : List Byte) (h : bypassed b = true) : OnlyPassed b (chainArrive b hdr data) := by
  rw [chainArrive, if_pos h]
  exact ⟨_, _, _, _, rfl⟩

theorem chainCredit_bypassed {b : Block} (n : Nat) (h : bypassed b = true) : OnlyPassed b (chainCredit b n) := by
  unfold chainCredit
  split
  · exact ⟨_, _, _, _, rfl⟩
  · exact ⟨_, _, _, _, rfl⟩

theorem chainLinkReset_bypassed {b : Block} (d : Bool) (h : bypassed b = true) : OnlyPassed b (chainLinkReset b d) := by
  rw [chainLinkReset, if_pos h]
  cases d <;> exact ⟨_, _, _, _, rfl⟩

theorem portWrite_shut {b : Block} (a be : Nat) (v : W64) (h : cpOpen b = false) : portWrite b a be v = b := by
  rw [portWrite, if_pos (by simp only [h, Bool.not_false])]

theorem portRead_shut {b : Block} (a be : Nat) (h : cpOpen b = false) : portRead b a be = b := by
  rw [portRead, if_pos (by simp only [h, Bool.not_false])]

theorem cpOpen_dead {b : Block} (h : live b = false) : cpOpen b = false := by
  simp only [cpOpen, h, Bool.false_and]

theorem live_cold {b : Block} (h : b.pins.rstCold = false) : live b = false := by
  simp only [live, h, Bool.false_and]

theorem bypassed_cold {b : Block} (h : b.pins.rstCold = false) : bypassed b = true := by
  simp only [bypassed, h, Bool.not_false, Bool.true_or]

/-! ### The ways of a command to the block -/

/-- How a command `i` of outcome `o` reaches the block of `s`. -/
inductive Reaches (i : Instr) (s : State) (o : Host.Outcome State Fault Refusal) : Prop
  /-- an event of a running engine -/
  | live (f : Block → Block) (h : o = s.onLive f)
  /-- a register write with a row of its own -/
  | write (r : Reg) (f : Block → Block) (h : o = s.onWrite r f)
  /-- an access of the control port by its address -/
  | port (f : Block → Block) (h : o = s.onBlk f) (shut : ∀ b, cpOpen b = false → f b = b)
  /-- the test port -/
  | test (hr : reachesDead i = true) (f : Block → Block) (h : o = s.onBlk f)
      (dead : ∀ b, Machine.live b = false → ∃ j, f b = { b with jtag := j })
  /-- what the bypass of the chain passes -/
  | pass (hr : reachesDead i = true) (f : Block → Block) (h : o = s.onBlk f) (dead : ∀ b, bypassed b = true → OnlyPassed b (f b))
  /-- a queued notice -/
  | notice (hr : reachesDead i = true) (h : o = s.onBlk noticeSend)
  /-- a pin that moves no strap and not RST_COLD_N -/
  | pin (hr : reachesDead i = true) (hp : pinEvent i = true) (g : Pins → Pins) (f : Block → Block)
      (h : o = s.on (fun b => if Machine.live b then f b else { b with pins := g b.pins }))
      (run : ∀ b, (f b).pins = g b.pins) (keeps : ∀ p, (g p).rstCold = p.rstCold ∧ (g p).arrayEn = p.arrayEn ∧ (g p).engineIndex = p.engineIndex)
  | down (e : i = .powerDown)
  | removal (e : i = .powerRemoval)
  | absent (a : Bool) (e : i = .engAbsentChange a)
  | coldFall (e : i = .rstColdNAssert)
  | coldRise (en : BitVec 4) (ix : BitVec 3) (e : i = .rstColdNRelease en ix)

theorem exec_reaches (i : Instr) (s : State) : Reaches i s (exec i s) := by
  unfold exec
  cases i
  case nop | setq | addq | jump | loop | event | yield | yieldExpiry | halt | pwait | ppost | mark | fence | load | store | copy | fill
    | short | pass | passStart | inputCycle | rowRead | passComplete | gang | wall | swap | rampStep | arrayClockGate | preemptStop | gopen
    | gpark | gresume | gclose | gmerge | gmergeReoffer | kilnTransferDone | kilnMergeComplete | peerTimeout | glzcfg | glzcfgLoad
    | glazeCompareResult | glazeRowOut | wheelService | vop | norm | rulecfgBegin | rulecfgAbort | rulecfgCheck | update | precond
    | sequencerJobStart | rulePassEntry | line | lineStripRestart | chsend | chrecv | chkseed | chkcmp | ckpt | restore
    | instructionComplete | streamRequestIssue | translationWalkDone | mpReadResponse | mpWriteCompletion | tagTimeout | launchEntry
    | chainFrameSend | chainFrameRepair | chainHoldLimit | fabRxWrite | fabRxWack | fabRxOffer | fabRxGrant | fabRxCdata | fabRxCdone
    | fabRxPost | fabRxPack | fabRxRevoke | fabRxRack | fabRetryResend | fabTagTimeout | grantTimeout | stewardHeartbeat | swdtLost
    | scrubPatrol | coneWindowEnd | vwarnSettleExpiry | thermSettleExpiry | bootVerifyDone | startUpEnd | engineResetReady | fenceComplete
    | fenceLimitExpiry | preemptRest | resumeEntry | p1Entry | dbgVerifyDone => exact .live _ rfl
  case engResetContext | engResetEngine => exact .write .engReset _ rfl
  case schCtlPreempt | schCtlResume => exact .write .schCtl _ rfl
  case strResume => exact .write .strResume _ rfl
  case xltInvalPage | xltInvalContext | xltInvalAll => exact .write .xltInval _ rfl
  case xltRootWrite c _ => exact .write (.xltRoot c) _ rfl
  case strSplitWrite c _ => exact .write (.strSplit c) _ rfl
  case strPortmapWrite => exact .write .strPortmapCfg _ rfl
  case schCqTailWrite => exact .write .schCqTail _ rfl
  case schCqConfigWrite => exact .write .schCqSize _ rfl
  case schPegCfgWrite p _ => exact .write (.schPegCfg p) _ rfl
  case schPegWrite p _ => exact .write (.schPeg p) _ rfl
  case schWinWrite c k _ => exact .write (.schWin c k) _ rfl
  case schFixedWrite => exact .write .schFixed _ rfl
  case schLogSizeWrite c _ => exact .write (.schLogSize c) _ rfl
  case fabPeerWrite n _ => exact .write (.fabPeer n) _ rfl
  case chnCfgWrite => exact .write .chnCfg _ rfl
  case chkFeed n _ => exact .write (.chkFeed n) _ rfl
  case chkRegisterWrite n r _ => exact .write (match r with | .ctl => .chkCtl n | .value => .chkValue n | .expect => .chkExpect n) _ rfl
  case engFaultPtrWrite => exact .write .engFaultPtr _ rfl
  case mgtRetireRequest => exact .write .mgtRetire _ rfl
  case mgtPwrReqP0 | mgtPwrReqP1 | mgtPwrReqP2 | mgtPwrReqP3 => exact .write .mgtPwr _ rfl
  case mgtClkCfgWrite => exact .write .mgtClkCfg _ rfl
  case mgtConeLimitsWrite => exact .write .mgtConeLimits _ rfl
  case mgtBootPtrWrite => exact .write .mgtBootPtr _ rfl
  case mgtBootDataWrite => exact .write .mgtBootData _ rfl
  case mgtBootGo => exact .write .mgtBootCtl _ rfl
  case dbgRespGo => exact .write .dbgRespGo _ rfl
  case arrAbftCtlWrite n _ => exact .write (.arrAbftCtl n) _ rfl
  case dbgStewardHalt | dbgStewardStep | registerWrite => exact .port _ rfl (fun _ h => portWrite_shut _ _ _ h)
  case dbgMemDataRead | readClearCounter => exact .port _ rfl (fun _ h => portRead_shut _ _ h)
  case idcode | samplePreload | bypass => exact .test rfl _ rfl (fun _ _ => setJtag_only ..)
  case dbgacc => exact .test rfl _ rfl (fun _ h => dbgAcc_dead _ h)
  case chainFrameArrival => exact .pass rfl _ rfl (fun _ h => chainArrive_bypassed _ _ h)
  case chainCreditReturn => exact .pass rfl _ rfl (fun _ h => chainCredit_bypassed _ h)
  case chainLinkReset => exact .pass rfl _ rfl (fun _ h => chainLinkReset_bypassed _ h)
  case noticeSend => exact .notice rfl rfl
  case vwarnAssert => exact .pin rfl rfl (fun p => { p with vwarn := false }) _ rfl vwarnAssert_pins (fun _ => ⟨rfl, rfl, rfl⟩)
  case vwarnNRelease => exact .pin rfl rfl (fun p => { p with vwarn := true }) _ rfl vwarnRelease_pins (fun _ => ⟨rfl, rfl, rfl⟩)
  case thermWarnAssert => exact .pin rfl rfl (fun p => { p with thermWarn := false }) _ rfl (fun b => thermWarn_pins b true) (fun _ => ⟨rfl, rfl,
      rfl⟩)
  case thermWarnClear => exact .pin rfl rfl (fun p => { p with thermWarn := true }) _ rfl (fun b => thermWarn_pins b false) (fun _ => ⟨rfl, rfl,
      rfl⟩)
  case thermTripAssert => exact .pin rfl rfl (fun p => { p with thermTrip := false }) _ rfl thermTrip_pins (fun _ => ⟨rfl, rfl, rfl⟩)
  case thermTripNRelease => exact .pin rfl rfl (fun p => { p with thermTrip := true }) _ rfl thermRelease_pins (fun _ => ⟨rfl, rfl, rfl⟩)
  case rstEngNAssert => exact .pin rfl rfl (fun p => { p with rstEng := false }) _ rfl rstEngAssert_pins (fun _ => ⟨rfl, rfl, rfl⟩)
  case rstEngNRelease => exact .pin rfl rfl (fun p => { p with rstEng := true }) _ rfl rstEngRelease_pins (fun _ => ⟨rfl, rfl, rfl⟩)
  case powerDown => exact .down rfl
  case powerRemoval => exact .removal rfl
  case engAbsentChange a => exact .absent a rfl
  case rstColdNAssert => exact .coldFall rfl
  case rstColdNRelease en ix => exact .coldRise en ix rfl

/-! ### What every command does -/

/-- Settles O1: by the definition of the step. -/
theorem stepRunsTheFrontCommand : Obligations.StepRunsTheFrontCommand := fun _ _ => rfl

/-- Settles O3 (what a command does where its event does not occur is log 2): each of the ways to the block answers a next state. -/
theorem everyCommandAnswers : Obligations.EveryCommandAnswers := by
  intro i s
  rcases exec_reaches i s with ⟨_, h⟩ | ⟨_, _, h⟩ | ⟨_, h, _⟩ | ⟨_, _, h, _⟩ | ⟨_, _, h, _⟩ | ⟨_, h⟩ | ⟨_, _, _, _, h, _, _⟩ | e | e | ⟨_,
      e⟩ | e | ⟨_, _, e⟩
  iterate 7 exact h ▸ ⟨_, rfl, rfl⟩
  iterate 5 exact e ▸ ⟨_, rfl, rfl⟩

/-- A command that is no event of a pin goes through `onBlk`, which gives the pins back. -/
theorem exec_keeps_pins {i : Instr} {s t : State} (hi : pinEvent i = false) (h : exec i s = .next t) : t.blk.pins = s.blk.pins := by
  have put : ∀ f, exec i s = s.onBlk f → t.blk.pins = s.blk.pins := fun f hf => by
    rw [hf] at h
    cases h; rfl
  rcases exec_reaches i s with ⟨_, h⟩ | ⟨_, _, h⟩ | ⟨_, h, _⟩ | ⟨_, _, h, _⟩ | ⟨_, _, h, _⟩ | ⟨_, h⟩ | ⟨_, hp, _⟩ | e | e | ⟨_, e⟩ | e | ⟨_, _, e⟩
  iterate 6 exact put _ h
  · exact absurd hp (by simp [hi])
  iterate 5 subst e; cases hi

theorem next_blk {s t : State} {f : Block → Block} (h : s.on f = .next t) : t.blk = f s.blk := by
  cases h; rfl

/-- Of the events of pins only the rise of RST_COLD_N samples the straps. -/
theorem exec_keeps_straps {i : Instr} {s t : State} (hi : ∀ en ix, i ≠ .rstColdNRelease en ix) (h : exec i s = .next t) :
    t.blk.pins.arrayEn = s.blk.pins.arrayEn ∧ t.blk.pins.engineIndex = s.blk.pins.engineIndex := by
  have same : t.blk.pins = s.blk.pins → t.blk.pins.arrayEn = s.blk.pins.arrayEn ∧ t.blk.pins.engineIndex = s.blk.pins.engineIndex := fun hp => ⟨congrArg Pins.arrayEn hp, congrArg Pins.engineIndex hp⟩
  cases hp : pinEvent i with
  | false => exact same (exec_keeps_pins hp h)
  | true =>
    rcases exec_reaches i s with ⟨_, hf⟩ | ⟨_, _, hf⟩ | ⟨_, hf, _⟩ | ⟨_, _, hf, _⟩ | ⟨_, _, hf, _⟩ | ⟨_, hf⟩ | ⟨_, _, g, f, hf, run, keeps⟩
      | e | e | ⟨a, e⟩ | e | ⟨en, ix, e⟩
    iterate 6
      rw [hf] at h
      exact same (by cases h; rfl)
    · rw [next_blk (hf ▸ h)]
      split
      · rw [run]; exact (keeps _).2
      · exact (keeps _).2
    · subst e
      rw [next_blk h]
      split
      · rcases powerDown_pins s.blk with h | h <;> rw [h] <;> exact ⟨rfl, rfl⟩
      · exact ⟨rfl, rfl⟩
    · subst e
      rw [next_blk h]
      rcases powerRemoval_pins s.blk with h | h <;> rw [h] <;> exact ⟨rfl, rfl⟩
    · subst e
      rw [next_blk (f := fun b => absentChange b a) h, absentChange_pins]
      exact ⟨rfl, rfl⟩
    · subst e
      rw [next_blk h]
      cases hc : s.blk.pins.rstCold
      · rw [coldAssert_low hc]; exact ⟨rfl, rfl⟩
      · rw [coldAssert_pins hc]; exact ⟨rfl, rfl⟩
    · exact absurd e (hi en ix)

/-- Settles O4: a command that is no event of a pin goes through `onBlk`, and of the others each moves its own pin. -/
theorem pinsMoveOnlyByPinEvents : Obligations.PinsMoveOnlyByPinEvents :=
  ⟨fun _ _ _ hi h => exec_keeps_pins hi h, fun _ _ _ hi h => exec_keeps_straps hi h⟩

/-- Settles O6: a running engine's event, a register write and an access of the control port all ask for an engine that runs. -/
theorem deadEngineIgnoresCommands : Obligations.DeadEngineIgnoresCommands := by
  intro i s hl hr
  rcases exec_reaches i s with ⟨_, h⟩ | ⟨_, _, h⟩ | ⟨_, h, shut⟩ | ⟨hd, _⟩ | ⟨hd, _⟩ | ⟨hd, _⟩ | ⟨hd, _⟩ | e | e | ⟨_, e⟩ | e | ⟨_, _, e⟩
  · rw [h, onLive_dead _ hl]
  · rw [h, onWrite_shut _ (cpOpen_dead hl)]
  · rw [h, onBlk_eq, shut _ (cpOpen_dead hl)]
  iterate 4 exact absurd hd (by simp [hr])
  iterate 5 subst e; cases hr

/-! ### Cold reset (R333) -/

theorem atReset_pins {b : Block} (h : atReset b) (p : Pins) : atReset { b with pins := p } := by
  have e := congrArg (fun d : Block => ({ d with pins := p } : Block)) h
  exact e

theorem atReset_jtag {b : Block} (h : atReset b) (j : Jtag) : atReset { b with jtag := j } := by
  have e := congrArg (fun d : Block => ({ d with jtag := j } : Block)) h
  exact e

theorem atReset_passed {b d : Block} (h : atReset b) (hd : OnlyPassed b d) : atReset d := by
  obtain ⟨o, n, u, w, rfl⟩ := hd
  have e := congrArg (fun d : Block => ({ d with chain := { d.chain with out := o, creditsOut := n, lrstDown := u, lrstUp := w } } : Block)) h
  exact e

theorem atReset_notices {b : Block} (h : atReset b) : b.notices = [] := congrArg Block.notices h

theorem atReset_rawReg {b : Block} (h : atReset b) (r : Reg) : rawReg b r = r.resetVal := by
  rw [rawReg, show b.regs = [] from congrArg Block.regs h]; rfl

/-- The engine is in P0 at reset. -/
theorem atReset_pwrState {b : Block} (h : atReset b) : pwrState b = 0 := by
  rw [pwrState, getFld, atReset_rawReg h]; decide

theorem chainLost_bypassed {b : Block} (h : bypassed b = true) :
    ∃ u w, chainLost b = { b with chain := { ChainSt.reset with tileNo := b.chain.tileNo, lrstDown := u, lrstUp := w } } := by
  rw [chainLost, h]
  exact ⟨_, _, rfl⟩

theorem atReset_lose (b : Block) (p : Pins) : atReset (lose b p) := rfl

theorem coldAssert_atReset {b : Block} (h : b.pins.rstCold = true) : atReset (coldAssert b) := by
  simp only [coldAssert, h, Bool.not_true, Bool.false_eq_true, if_false]
  split
  · exact atReset_lose ..
  · obtain ⟨u, w, e⟩ := chainLost_bypassed (b := lose b { b.pins with rstCold := false, pwrOffOk := false }) (bypassed_cold rfl)
    rw [e]
    exact atReset_passed (atReset_lose b _) ⟨none, 0, u, w, rfl⟩

/-- A command keeps an engine in cold reset at its reset values, and the fall of RST_COLD_N brings it there. -/
theorem exec_coldHeld {i : Instr} {s t : State} (hs : coldHeld s) (h : exec i s = .next t) : coldHeld t := by
  intro hc
  -- no pin moves: RST_COLD_N was low before, and the engine at reset
  have kept : ∀ f, exec i s = s.onBlk f → (s.blk.pins.rstCold = false → atReset s.blk → atReset (f s.blk)) → atReset t.blk := by
    intro f hf ha
    rw [hf, onBlk_eq] at h
    cases h
    exact atReset_pins (ha hc (hs hc)) _
  rcases exec_reaches i s with ⟨f, hf⟩ | ⟨r, f, hf⟩ | ⟨f, hf, shut⟩ | ⟨_, f, hf, dead⟩ | ⟨_, f, hf, dead⟩ | ⟨_, hf⟩ | ⟨_, _, g, f, hf, run, keeps⟩
    | e | e | ⟨a, e⟩ | e | ⟨en, ix, e⟩
  · refine kept _ hf fun hc ha => ?_
    rwa [live_cold hc]
  · refine kept _ hf fun hc ha => ?_
    rwa [cpOpen_dead (live_cold hc)]
  · refine kept _ hf fun hc ha => ?_
    rwa [shut _ (cpOpen_dead (live_cold hc))]
  · refine kept _ hf fun hc ha => ?_
    obtain ⟨j, e⟩ := dead _ (live_cold hc)
    rw [e]
    exact atReset_jtag ha j
  · exact kept _ hf fun hc ha => atReset_passed ha (dead _ (bypassed_cold hc))
  · refine kept _ hf fun hc ha => ?_
    rwa [noticeSend, atReset_notices ha]
  · rw [next_blk (hf ▸ h)] at hc ⊢
    cases hl : live s.blk
    · simp only [hl, Bool.false_eq_true, if_false] at hc ⊢
      exact atReset_pins (hs (by rwa [(keeps _).1] at hc)) _
    · simp only [hl, if_true, run, (keeps _).1] at hc
      exact absurd hl (by rw [live_cold hc]; decide)
  · subst e
    rw [next_blk h] at hc ⊢
    cases hl : live s.blk
    · simp only [hl, Bool.false_eq_true, if_false] at hc ⊢
      exact hs hc
    · have : s.blk.pins.rstCold = false := by
        simp only [hl, if_true] at hc
        rcases powerDown_pins s.blk with h | h <;> rwa [h] at hc
      exact absurd hl (by rw [live_cold this]; decide)
  · subst e
    rw [next_blk h] at hc ⊢
    have hl : s.blk.pins.rstCold = false := by
      rcases powerRemoval_pins s.blk with h | h <;> rwa [h] at hc
    rw [powerRemoval, atReset_pwrState (hs hl)]
    exact hs hl
  · subst e
    rw [next_blk (f := fun b => absentChange b a) h] at hc ⊢
    rw [absentChange_pins] at hc
    rw [absentChange_eq]
    split
    · exact hs hc
    · rw [if_pos ((bypassed_cold hc).trans (bypassed_cold (b := absentAs s.blk a) hc).symm)]
      exact atReset_pins (hs hc) _
  · subst e
    rw [next_blk h]
    cases hl : s.blk.pins.rstCold
    · rw [coldAssert_low hl]; exact hs hl
    · exact coldAssert_atReset hl
  · subst e
    rw [next_blk (f := fun b => coldRelease b en ix) h] at hc ⊢
    by_cases hr : s.blk.pins.rstCold = true ∨ s.blk.pins.absent = true
    · rw [coldRelease_refused en ix hr] at hc ⊢
      exact hs hc
    · simp only [not_or, Bool.not_eq_true] at hr
      rw [coldRelease_pins en ix hr.1 hr.2] at hc
      cases hc

theorem tick_dead {b : Block} (h : live b = false) : tick b = b := by
  rw [tick, if_pos (by simp only [h, Bool.not_false])]

/-- Settles O7: a beat stands still in cold reset, and no command moves anything but what O6 lets through. -/
theorem coldResetHoldsTheEngine : Obligations.ColdResetHoldsTheEngine := by
  intro s t hs h
  unfold step at h
  split at h
  · cases h
    intro hc
    cases hl : s.blk.pins.rstCold
    · rw [tick_dead (live_cold hl)]
      exact hs hl
    · have hp : (tick s.blk).pins = s.blk.pins := (good_tick (C := False) ⟨False.elim, rfl⟩).2
      rw [hp] at hc
      cases hl.symm.trans hc
  · next c rest _ => exact exec_coldHeld (s := { s with pending := rest }) hs h

/-- Settles O8. -/
theorem resetIsColdHeld : Obligations.ResetIsColdHeld :=
  ⟨fun _ => rfl, rfl, fun r => atReset_rawReg (b := State.reset.blk) rfl r, rfl⟩

/-- Settles O9. -/
theorem coldAssertLosesEverything : Obligations.ColdAssertLosesEverything := by
  intro s h
  have ha := coldAssert_atReset h
  have hp := coldAssert_pins h
  refine ⟨_, rfl, hp, ha, atReset_rawReg ha, ?_, ?_, ?_, congrArg Block.entries ha, congrArg Block.streams ha, congrArg Block.mp ha,
    congrArg Block.tlb ha, congrArg Block.kiln ha, bypassed_cold (by rw [hp])⟩
  · intro c
    rw [getCtx, show (coldAssert s.blk).ctxs = Vector.replicate 16 CtxSt.reset from congrArg Block.ctxs ha, get_at, Vector.getElem_replicate]
    exact ⟨rfl, rfl⟩
  · intro g
    rw [getGrp, show (coldAssert s.blk).groups = Vector.replicate 64 GroupSt.reset from congrArg Block.groups ha, get_at, Vector.getElem_replicate]
    rfl
  · intro p
    rw [getPeg, show (coldAssert s.blk).pegs = Vector.replicate 256 ⟨0#16, 0#16⟩ from congrArg Block.pegs ha, get_at, Vector.getElem_replicate]

end Sys2Proof.Proofs.Commands

/-! SUPPORT. Whatever command comes, both memories keep their canonical form. Settles O5. -/

namespace Sys2Proof.Proofs.Canonical

open Sys2Proof Sys2Proof.Machine Sys2Proof.Laws Sys2Proof.Proofs.Store Sys2Proof.Proofs.Canon Sys2Proof.Proofs.Commands

/-- Both memories of a block are in canonical form. -/
def Canonical (b : Block) : Prop := Memory.wf b.sram = true ∧ Memory.wf b.boot = true

theorem canonical_of {b d : Block} (h : store d = store b) (hb : Canonical b) : Canonical d := by
  rw [Canonical, show d.sram = b.sram from congrArg (·.1) h, show d.boot = b.boot from congrArg (·.2.1) h]
  exact hb

theorem canonical_good {b d : Block} (h : Good True b.pins (store b) → Good True b.pins (store d)) (hb : Canonical b) : Canonical d :=
  (h ⟨fun _ => hb, rfl⟩).1 trivial

theorem canonical_ite {c : Prop} [Decidable c] {x y : Block} (hx : Canonical x) (hy : Canonical y) : Canonical (if c then x else y) := by
  split
  · exact hx
  · exact hy

/-- The outcome `o` of a command in the state `s` runs a function on the block that keeps the memories canonical. -/
def Tame (s : State) (o : Host.Outcome State Fault Refusal) : Prop := ∃ f : Block → Block, o = s.on f ∧ ∀ b, Canonical b → Canonical (f b)

theorem tame_blk {s : State} {f : Block → Block} (hf : ∀ b, Canonical b → Canonical (f b)) : Tame s (s.onBlk f) :=
  ⟨_, rfl, fun b hb => canonical_of (d := { f b with pins := b.pins }) (b := { f b with pins := b.pins }) rfl (hf b hb)⟩

/-- An event of a running engine that keeps the form. -/
theorem tame_live {s : State} {f : Block → Block} (hf : ∀ {b}, Good True b.pins (store b) → Good True b.pins (store (f b))) : Tame s (s.onLive f) :=
  tame_blk fun _ hb => canonical_ite (canonical_good hf hb) hb

/-- An event of a running engine that leaves the memories alone. -/
theorem tame_live_of {s : State} {f : Block → Block} (hf : ∀ b, store (f b) = store b) : Tame s (s.onLive f) :=
  tame_live fun {b} => good_of (hf b)

theorem tame_write {s : State} {r : Reg} {f : Block → Block} (hf : ∀ {b}, Good True b.pins (store b) → Good True b.pins (store
    (f b))) : Tame s (s.onWrite r f) :=
  tame_blk fun _ hb => canonical_ite hb (canonical_ite (canonical_of (store_respond ..) hb) (canonical_of (store_respond ..)
      (canonical_good hf hb)))

theorem tame_write_of {s : State} {r : Reg} {f : Block → Block} (hf : ∀ b, store (f b) = store b) : Tame s (s.onWrite r f) :=
  tame_write fun {b} => good_of (hf b)

/-- An event of a pin: the meaning of a running engine, or the pin alone. -/
theorem tame_pin {s : State} {f : Block → Block} {g : Pins → Pins} (hf : ∀ b, Canonical b → Canonical (f b)) :
    Tame s (s.on (fun b => if live b then f b else { b with pins := g b.pins })) :=
  ⟨_, rfl, fun b hb => canonical_ite (hf b hb) hb⟩

theorem canonical_lose (b : Block) (p : Pins) : Canonical (lose b p) := ⟨rfl, rfl⟩

/-! ### Events of pins -/

theorem canonical_vwarnAssert {b : Block} (hb : Canonical b) : Canonical (vwarnAssert b) :=
  canonical_ite hb (canonical_of ((store_raise ..).trans (store_setFld ..)) hb)

theorem canonical_vwarnRelease {b : Block} (hb : Canonical b) : Canonical (vwarnRelease b) :=
  canonical_ite hb (canonical_of (store_setFld ..) hb)

theorem canonical_thermWarn {b : Block} (low : Bool) (hb : Canonical b) : Canonical (thermWarn b low) :=
  canonical_ite hb (canonical_of ((store_setInputs ..).trans ((store_setFld ..).trans (store_ite_id (store_bumpFld ..)))) hb)

theorem canonical_thermTrip {b : Block} (hb : Canonical b) : Canonical (thermTrip b) :=
  canonical_ite hb (canonical_of ((store_setFld ..).trans (store_bumpFld ..)) hb)

theorem canonical_thermRelease {b : Block} (hb : Canonical b) : Canonical (thermRelease b) :=
  canonical_ite hb (canonical_of (store_setFld ..) hb)

theorem canonical_rstEngAssert {b : Block} (hb : Canonical b) : Canonical (rstEngAssert b) := by
  unfold rstEngAssert
  refine canonical_ite hb ?_
  dsimp only
  split
  · exact canonical_ite hb (canonical_of (store_engineResetStart ..) hb)
  · exact canonical_of (store_engineResetStart ..) hb
  · exact hb
  · exact hb

theorem canonical_rstEngRelease {b : Block} (hb : Canonical b) : Canonical (rstEngRelease b) := by
  unfold rstEngRelease
  refine canonical_ite hb ?_
  dsimp only
  split
  · exact canonical_of (store_computeReset ..) hb
  · exact hb

theorem canonical_pins {b : Block} (p : Pins) (hb : Canonical b) : Canonical { b with pins := p } := hb

theorem canonical_powerDown {b : Block} (hb : Canonical b) : Canonical (powerDown b) := by
  have h1 : ∀ w u x y, Canonical (setFld (setFld { b with power := w, steward := u } .mgtPwr 2 2 x) .mgtPwr 4 1 y) := fun w u x y =>
    canonical_of (b := { b with power := w, steward := u }) ((store_setFld ..).trans (store_setFld ..)) hb
  unfold powerDown
  dsimp only
  refine canonical_ite hb (canonical_ite ?_ (h1 _ _ _ _))
  exact canonical_of ((store_chainLost ..).trans (store_notify ..)) (canonical_pins _ (h1 _ _ _ _))

theorem canonical_powerRemoval {b : Block} (hb : Canonical b) : Canonical (powerRemoval b) := canonical_ite ⟨rfl, rfl⟩ hb

theorem canonical_absentChange {b : Block} (a : Bool) (hb : Canonical b) : Canonical (absentChange b a) := by
  rw [absentChange_eq]
  exact canonical_ite hb (canonical_ite hb (canonical_of (store_chainLost ..) hb))

theorem canonical_coldAssert {b : Block} (hb : Canonical b) : Canonical (coldAssert b) :=
  canonical_ite hb (canonical_ite (canonical_lose ..) (canonical_of (store_chainLost ..) (canonical_lose ..)))

theorem canonical_coldRelease {b : Block} (en : BitVec 4) (ix : BitVec 3) (hb : Canonical b) : Canonical (coldRelease b en ix) := by
  have h1 : ∀ p m k g,
      Canonical (setFld (setFld (setFld (setFld (lose b p) .engConfig 0 4 m) .engConfig 4 4 m) .engConfig 8 3 g) .engConfig 12 3 k) :=
    fun p _ _ _ => canonical_of ((store_setFld ..).trans ((store_setFld ..).trans ((store_setFld ..).trans (store_setFld ..)))) (canonical_lose b p)
  refine canonical_ite hb (canonical_of ((store_chainLost ..).trans ((store_setInputs ..).trans (store_samplePins ..))) (canonical_ite ?_ ?_))
  all_goals exact canonical_of (store_setFld ..) (h1 _ _ _ _)

/-! ### Every command -/

theorem exec_tame (i : Instr) (s : State) : Tame s (exec i s) := by
  unfold exec
  cases i
  case nop | setq | addq | jump | loop | event | yield | halt | pwait | ppost | mark | fence | load | store | copy | fill | short | pass
    | gang | wall | swap | gopen | gpark | gresume | gclose | gmerge | glzcfg | vop | norm | rulecfgBegin | rulecfgAbort | rulecfgCheck
    | update | precond | line | chsend | chrecv | chkseed | chkcmp | ckpt | restore => exact tame_live_of fun _ => store_issue ..
  case yieldExpiry => exact tame_live_of fun _ => store_yieldExpiry ..
  case passStart => exact tame_live_of fun _ => store_passStart ..
  case inputCycle => exact tame_live_of fun _ => store_inputCycle ..
  case rowRead => exact tame_live_of fun _ => store_rowRead ..
  case passComplete => exact tame_live_of fun _ => store_passComplete ..
  case rampStep => exact tame_live_of fun _ => store_rampStep ..
  case arrayClockGate => exact tame_live_of fun _ => store_clockGate ..
  case preemptStop => exact tame_live_of fun _ => store_preemptStop ..
  case gmergeReoffer => exact tame_live_of fun _ => store_reoffer ..
  case kilnTransferDone => exact tame_live_of fun _ => store_transferDone ..
  case kilnMergeComplete => exact tame_live_of fun _ => store_mergeComplete ..
  case peerTimeout => exact tame_live_of fun _ => store_peerTimeout ..
  case glzcfgLoad => exact tame_live_of fun _ => store_glzcfgLoad ..
  case glazeCompareResult => exact tame_live_of fun _ => store_compareResult ..
  case glazeRowOut => exact tame_live fun hg => good_rowOutStep _ hg
  case wheelService => exact tame_live fun hg => good_wheelServe _ hg
  case sequencerJobStart => exact tame_live fun hg => good_jobStart hg
  case rulePassEntry => exact tame_live fun hg => good_rulePassEntry _ hg
  case lineStripRestart => exact tame_live_of fun _ => store_lineRestart ..
  case instructionComplete => exact tame_live fun hg => good_instructionComplete _ hg
  case streamRequestIssue => exact tame_live fun hg => good_streamIssue _ hg
  case translationWalkDone => exact tame_live_of fun _ => store_walkDone ..
  case chainFrameArrival => exact tame_blk fun _ => canonical_of (store_chainArrive ..)
  case chainFrameSend => exact tame_live_of fun _ => store_chainSend ..
  case chainCreditReturn => exact tame_blk fun _ => canonical_of (store_chainCredit ..)
  case chainFrameRepair => exact tame_live fun hg => good_chainRepair hg
  case chainHoldLimit => exact tame_live_of fun _ => store_chainHold ..
  case chainLinkReset => exact tame_blk fun _ => canonical_of (store_chainLinkReset ..)
  case fabRxWrite => exact tame_live_of fun _ => store_rxWrite ..
  case fabRxOffer => exact tame_live_of fun _ => store_rxOffer ..
  case fabRxGrant => exact tame_live_of fun _ => store_rxGrant ..
  case fabRxCdata => exact tame_live_of fun _ => store_rxCdata ..
  case fabRxCdone => exact tame_live_of fun _ => store_rxCdone ..
  case fabRxPost => exact tame_live_of fun _ => store_rxPost ..
  case fabRxPack => exact tame_live_of fun _ => store_rxPack ..
  case fabRxRevoke => exact tame_live_of fun _ => store_rxRevoke ..
  case fabRxRack => exact tame_live_of fun _ => store_rxRack ..
  case fabRetryResend => exact tame_live_of fun _ => store_retryResend ..
  case fabTagTimeout => exact tame_live_of fun _ => store_fabTagTimedOut ..
  case grantTimeout => exact tame_live_of fun _ => store_grantTimeout ..
  case noticeSend => exact tame_blk fun _ => canonical_of (store_noticeSend ..)
  case stewardHeartbeat => exact tame_live_of fun _ => store_heartbeat ..
  case swdtLost => exact tame_live_of fun _ => store_swdtLost ..
  case scrubPatrol => exact tame_live_of fun _ => store_scrubPatrol ..
  case coneWindowEnd => exact tame_live_of fun _ => store_coneWindow ..
  case vwarnSettleExpiry => exact tame_live fun hg => good_vwarnSettle hg
  case thermSettleExpiry => exact tame_live_of fun _ => store_thermSettle ..
  case bootVerifyDone => exact tame_live fun hg => good_bootVerified hg
  case startUpEnd => exact tame_live_of fun _ => store_startUpEnd ..
  case engineResetReady => exact tame_live_of fun _ => store_stewardReady ..
  case engResetContext => exact tame_write_of fun _ => store_contextReset ..
  case engResetEngine => exact tame_write_of fun _ => store_engineReset ..
  case fenceComplete => exact tame_live_of fun _ => store_fenceComplete ..
  case fenceLimitExpiry => exact tame_live_of fun _ => store_fenceLimit ..
  case schCtlPreempt => exact tame_write_of fun _ => store_preempt ..
  case preemptRest => exact tame_live_of fun _ => store_preemptRest ..
  case schCtlResume => exact tame_write_of fun _ => store_resumeCtx ..
  case resumeEntry => exact tame_live_of fun _ => store_runResumeEntry ..
  case strResume => exact tame_write_of fun _ => store_strResume ..
  case xltInvalPage => exact tame_write_of fun _ => store_invalPage ..
  case xltInvalContext => exact tame_write_of fun _ => store_invalContext ..
  case xltInvalAll => exact tame_write_of fun _ => store_invalAll ..
  case xltRootWrite => exact tame_write_of fun _ => store_writeRoot ..
  case strSplitWrite => exact tame_write_of fun _ => store_writeSplit ..
  case strPortmapWrite => exact tame_write_of fun _ => store_writePortmap ..
  case schCqTailWrite => exact tame_write_of fun _ => store_writeTail ..
  case schCqConfigWrite => exact tame_write_of fun _ => store_writeCq ..
  case schPegCfgWrite => exact tame_write_of fun _ => store_writePegCfg ..
  case schPegWrite => exact tame_write_of fun _ => store_writePeg ..
  case schWinWrite => exact tame_write_of fun _ => store_writeWin ..
  case schFixedWrite => exact tame_write_of fun _ => store_writeFixed ..
  case schLogSizeWrite => exact tame_write_of fun _ => store_writeLogSize ..
  case fabPeerWrite => exact tame_write_of fun _ => store_writePeer ..
  case chnCfgWrite => exact tame_write_of fun _ => store_writeChnCfg ..
  case chkFeed => exact tame_write_of fun _ => store_chkFeedReg ..
  case chkRegisterWrite => exact tame_write_of fun _ => store_chkRegWrite ..
  case engFaultPtrWrite => exact tame_write_of fun _ => store_writeFaultPtr ..
  case mgtRetireRequest => exact tame_write_of fun _ => store_writePlain ..
  case mgtPwrReqP0 => exact tame_write_of fun _ => store_reqP0 ..
  case mgtPwrReqP1 => exact tame_write_of fun _ => store_reqP1 ..
  case mgtPwrReqP2 => exact tame_write_of fun _ => store_reqP2 ..
  case mgtPwrReqP3 => exact tame_write_of fun _ => store_reqP3 ..
  case p1Entry => exact tame_live_of fun _ => store_p1Enter ..
  case mgtClkCfgWrite => exact tame_write_of fun _ => store_writeClkCfg ..
  case mgtConeLimitsWrite => exact tame_write_of fun _ => store_writeConeLimits ..
  case mgtBootPtrWrite => exact tame_write_of fun _ => store_writeBootPtr ..
  case mgtBootDataWrite => exact tame_write fun hg => good_writeBootData _ hg
  case mgtBootGo => exact tame_write_of fun _ => store_writeBootCtl ..
  case dbgRespGo => exact tame_write_of fun _ => store_writeRespGo ..
  case dbgVerifyDone => exact tame_live_of fun _ => store_dbgVerified ..
  case dbgStewardHalt | dbgStewardStep | registerWrite => exact tame_blk fun _ => canonical_good fun hg => good_portWrite _ _ _ hg
  case dbgMemDataRead | readClearCounter => exact tame_blk fun _ => canonical_of (store_portRead ..)
  case dbgacc => exact tame_blk fun _ => canonical_good fun hg => good_dbgAcc _ hg
  case idcode | samplePreload => exact tame_blk fun _ => canonical_of (store_setJtag ..)
  case bypass => exact tame_blk fun _ => canonical_of (store_bypass ..)
  case arrAbftCtlWrite => exact tame_write fun hg => good_writeReg _ _ hg
  case mpReadResponse => exact tame_live fun hg => good_of_ite (good_launchResponse _ _ hg) (good_jobAdvance (good_readResponse _ _ _ hg))
  case tagTimeout => exact tame_live fun hg => good_of_ite (good_when (good_launchResponse _ _) hg) (good_of (store_tagTimedOut ..) hg)
  case mpWriteCompletion => exact tame_live fun hg => good_jobAdvance (good_of (store_writeCompletion ..) hg)
  case fabRxWack => exact tame_live fun hg => good_jobAdvance (good_of (store_rxWack ..) hg)
  case launchEntry => exact tame_live fun hg => good_launchEntry _ _ _ hg
  case vwarnAssert => exact tame_pin (g := fun p => { p with vwarn := false }) fun _ => canonical_vwarnAssert
  case vwarnNRelease => exact tame_pin (g := fun p => { p with vwarn := true }) fun _ => canonical_vwarnRelease
  case thermWarnAssert => exact tame_pin (g := fun p => { p with thermWarn := false }) fun _ => canonical_thermWarn true
  case thermWarnClear => exact tame_pin (g := fun p => { p with thermWarn := true }) fun _ => canonical_thermWarn false
  case thermTripAssert => exact tame_pin (g := fun p => { p with thermTrip := false }) fun _ => canonical_thermTrip
  case thermTripNRelease => exact tame_pin (g := fun p => { p with thermTrip := true }) fun _ => canonical_thermRelease
  case rstEngNAssert => exact tame_pin (g := fun p => { p with rstEng := false }) fun _ => canonical_rstEngAssert
  case rstEngNRelease => exact tame_pin (g := fun p => { p with rstEng := true }) fun _ => canonical_rstEngRelease
  case powerDown => exact tame_pin (g := fun p => p) fun _ => canonical_powerDown
  case powerRemoval => exact ⟨_, rfl, fun _ => canonical_powerRemoval⟩
  case engAbsentChange => exact ⟨_, rfl, fun _ => canonical_absentChange _⟩
  case rstColdNAssert => exact ⟨_, rfl, fun _ => canonical_coldAssert⟩
  case rstColdNRelease => exact ⟨_, rfl, fun _ => canonical_coldRelease _ _⟩

/-- Settles O5 (the form is the model's own, log 5): each meaning writes the memories by the operations that keep the form, or not at all. -/
theorem memoryStaysCanonical : Obligations.MemoryStaysCanonical := by
  intro s t hs hb h
  unfold step at h
  split at h
  · cases h
    exact canonical_good (b := s.blk) good_tick ⟨hs, hb⟩
  · next c rest _ =>
    obtain ⟨f, hf, keeps⟩ := exec_tame c { s with pending := rest }
    rw [next_blk (hf ▸ h)]
    exact keeps _ ⟨hs, hb⟩

end Sys2Proof.Proofs.Canonical

/-! SUPPORT. The registers as a map of their own: what a field of a register holds after writes of registers and fields in turn, whatever else of
the block changes beside them; and a change of the arrays, one after another. -/

namespace Sys2Proof.Proofs.Fields

open Sys2Proof Sys2Proof.Machine Sys2Proof.Laws Sys2Proof.Proofs.Store Sys2Proof.Proofs.Commands Sys2Proof.Proofs.EngReset

/-! ### The map of registers -/

/-- The value of a register in a map. -/
def regAt (m : RegMap) (r : Reg) : W64 := spGet r.resetVal m r.addr

/-- A map with register `r` written. -/
def putReg (m : RegMap) (r : Reg) (v : W64) : RegMap := spPut r.resetVal m r.addr v

/-- A field of a register in a map. -/
def fldAt (m : RegMap) (r : Reg) (lo wid : Nat) : Nat := ((regAt m r).toNat >>> lo) % 2 ^ wid

/-- A map with a field of register `r` written. -/
def putFld (m : RegMap) (r : Reg) (lo wid v : Nat) : RegMap := putReg m r (insertBits (regAt m r) lo wid v)

theorem rawReg_at (b : Block) (r : Reg) : rawReg b r = regAt b.regs r := rfl
theorem getFld_at (b : Block) (r : Reg) (lo wid : Nat) : getFld b r lo wid = fldAt b.regs r lo wid := rfl
theorem fldAt_def (m : RegMap) (r : Reg) (lo wid : Nat) : fldAt m r lo wid = ((regAt m r).toNat >>> lo) % 2 ^ wid := rfl
@[simp] theorem setRaw_at (b : Block) (r : Reg) (v : W64) : (setRaw b r v).regs = putReg b.regs r v := rfl
@[simp] theorem setFld_at (b : Block) (r : Reg) (lo wid v : Nat) : (setFld b r lo wid v).regs = putFld b.regs r lo wid v := rfl
@[simp] theorem bumpFld_at (b : Block) (r : Reg) (lo wid n : Nat) :
    (bumpFld b r lo wid n).regs = putFld b.regs r lo wid (min (2 ^ wid - 1) (fldAt b.regs r lo wid + n)) := rfl
@[simp] theorem hwSet_at (b : Block) (r : Reg) (lo : Nat) : (hwSet b r lo).regs = putFld b.regs r lo 1 1 := rfl
@[simp] theorem wrapFld_at (b : Block) (r : Reg) (lo wid n : Nat) :
    (wrapFld b r lo wid n).regs = putFld b.regs r lo wid ((fldAt b.regs r lo wid + n) % 2 ^ wid) := rfl

@[simp] theorem regAt_putReg (m : RegMap) (r : Reg) (v : W64) : regAt (putReg m r v) r = v := spGet_spPut_self _ _ _ _

@[simp] theorem regAt_putReg_ne (m : RegMap) {r r' : Reg} (v : W64) (h : r' ≠ r) : regAt (putReg m r v) r' = regAt m r' :=
  rawReg_setRaw_ne { Block.reset with regs := m } v h

theorem regAt_putFld (m : RegMap) (r : Reg) (lo wid v : Nat) : regAt (putFld m r lo wid v) r = insertBits (regAt m r) lo wid v := regAt_putReg _ _ _

@[simp] theorem regAt_putFld_ne (m : RegMap) {r r' : Reg} (lo wid v : Nat) (h : r' ≠ r) : regAt (putFld m r lo wid v) r' = regAt m r' :=
  regAt_putReg_ne m _ h

@[simp] theorem fldAt_putReg_ne (m : RegMap) {r r' : Reg} (v : W64) (lo wid : Nat) (h : r' ≠ r) : fldAt (putReg m r v) r' lo wid = fldAt m r' lo wid := by
  rw [fldAt, regAt_putReg_ne m v h, fldAt]

@[simp] theorem fldAt_putFld_ne (m : RegMap) {r r' : Reg} (lo wid v lo' wid' : Nat) (h : r' ≠ r) :
    fldAt (putFld m r lo wid v) r' lo' wid' = fldAt m r' lo' wid' := fldAt_putReg_ne m _ _ _ h

@[simp] theorem fldAt_putFld (m : RegMap) (r : Reg) {lo wid : Nat} (v : Nat) (h : lo + wid ≤ 64) : fldAt (putFld m r lo wid v) r lo wid = v % 2 ^ wid := by
  rw [fldAt, regAt_putFld, fld_insertBits _ v h]

@[simp] theorem fldAt_putFld_apart (m : RegMap) (r : Reg) {lo wid lo' wid' : Nat} (v : Nat) (h : lo' + wid' ≤ 64)
    (hd : lo' + wid' ≤ lo ∨ lo + wid ≤ lo') : fldAt (putFld m r lo wid v) r lo' wid' = fldAt m r lo' wid' := by
  rw [fldAt, regAt_putFld, fld_insertBits_apart _ v h hd, fldAt]

/-- A field that lies inside the written one. -/
theorem fld_insertBits_within (w : W64) {lo wid lo' wid' : Nat} (v : Nat) (h : lo + wid ≤ 64) (h1 : lo ≤ lo') (h2 : lo' + wid' ≤ lo + wid) :
    ((insertBits w lo wid v).toNat >>> lo') % 2 ^ wid' = (v >>> (lo' - lo)) % 2 ^ wid' := by
  apply Nat.eq_of_testBit_eq
  intro i
  rw [fld_testBit, Nat.testBit_mod_two_pow, Nat.testBit_shiftRight]
  by_cases hi : i < wid'
  · rw [insertBits_getLsbD _ _ _ _ _ (by omega), if_pos ⟨by omega, by omega⟩, show lo' + i - lo = lo' - lo + i by omega]
  · simp [hi]

@[simp] theorem fldAt_putFld_within (m : RegMap) (r : Reg) {lo wid lo' wid' : Nat} (v : Nat) (h : lo + wid ≤ 64) (h1 : lo ≤ lo')
    (h2 : lo' + wid' ≤ lo + wid) : fldAt (putFld m r lo wid v) r lo' wid' = (v >>> (lo' - lo)) % 2 ^ wid' := by
  rw [fldAt, regAt_putFld, fld_insertBits_within _ v h h1 h2]

theorem fldAt_lt (m : RegMap) (r : Reg) (lo wid : Nat) : fldAt m r lo wid < 2 ^ wid := Nat.mod_lt _ (Nat.two_pow_pos wid)

/-- One bit, as a number below 2. -/
theorem fldAt_bit (m : RegMap) (r : Reg) (lo : Nat) : fldAt m r lo 1 = 0 ∨ fldAt m r lo 1 = 1 := by
  have := fldAt_lt m r lo 1
  omega

/-- A bit of a word, read off its number. -/
theorem bitAt_word {w : Nat} (v : BitVec w) (i : Nat) : bitAt v.toNat i = v.getLsbD i := by
  rw [BitVec.getLsbD, Nat.testBit_eq_decide_div_mod_eq, bitAt, Nat.shiftRight_eq_div_pow]
  rfl

/-! ### A taken write -/

@[simp] theorem respond_regs (b : Block) (v : W64) (e : Nat) : (respond b v e).regs = b.regs := rfl

/-- A taken write answers, and leaves the block as its effect does. -/
theorem exec_write {s : State} {r : Reg} {f : Block → Block} (h : portTakes s r = true) (hp : (f s.blk).pins = s.blk.pins) :
    s.onWrite r f = .next (wrote s (f s.blk)) := by
  rw [onWrite_portTakes f h, wrote, ← hp]
  rfl

theorem onlyRegs_respond {b d : Block} (h : onlyRegs b d) : onlyRegs b (respond d 0#64 0) := by
  unfold onlyRegs at h ⊢
  rw [h]
  rfl

/-- A write that changes the map of registers and nothing else. -/
theorem onlyRegs_of {b d : Block} (h : { d with regs := b.regs, coins := b.coins } = b) : onlyRegs b d := by
  unfold onlyRegs
  conv_rhs => rw [← h]

theorem onlyReg_setFld (b : Block) (r : Reg) (lo wid v : Nat) : onlyReg r b (setFld b r lo wid v) :=
  ⟨rfl, fun _ h => rawReg_setFld_ne b lo wid v h⟩

theorem onlyReg_hwSet (b : Block) (r : Reg) (lo : Nat) : onlyReg r b (hwSet b r lo) := ⟨rfl, fun _ h => rawReg_setFld_ne b lo 1 1 h⟩

theorem onlyReg_refl (r : Reg) (b : Block) : onlyReg r b b := ⟨rfl, fun _ _ => rfl⟩

theorem onlyRegs_trans {b d e : Block} (h1 : onlyRegs b d) (h2 : onlyRegs d e) : onlyRegs b e := by
  unfold onlyRegs at *
  rw [h2, h1]

theorem onlyReg_trans {r : Reg} {b d e : Block} (h1 : onlyReg r b d) (h2 : onlyReg r d e) : onlyReg r b e :=
  ⟨onlyRegs_trans h1.1 h2.1, fun r' h => (h2.2 r' h).trans (h1.2 r' h)⟩

theorem onlyReg_wrote {r : Reg} {s : State} {d : Block} (h : onlyReg r s.blk d) : onlyReg r s.blk (wrote s d).blk :=
  ⟨onlyRegs_respond h.1, h.2⟩

theorem onlyRegs_pins {b d : Block} (h : onlyRegs b d) : d.pins = b.pins := by rw [h]

theorem onlyRegs_sameUnits {b d : Block} (h : onlyRegs b d) : sameUnits b d := by rw [h]; exact ⟨rfl, rfl, rfl, rfl, rfl, rfl, rfl, rfl, rfl, rfl, rfl, rfl⟩

/-! ### The arrays in turn -/

/-- From `b` to `d` only the arrays have changed. -/
def OnlyArrays (b d : Block) : Prop := d = { b with arrays := d.arrays }

theorem onlyArrays_refl (b : Block) : OnlyArrays b b := rfl

theorem onlyArrays_trans {b d e : Block} (h1 : OnlyArrays b d) (h2 : OnlyArrays d e) : OnlyArrays b e := by
  unfold OnlyArrays at *
  rw [h2, h1]

theorem onlyArrays_modArr (b : Block) (n : Arr) (f : ArraySt → ArraySt) : OnlyArrays b (modArr b n f) := rfl

/-- Steps that each change their own array alone, by what else the block holds: each array has changed by its own step. -/
theorem foldl_modArr {step : Block → Arr → Block} {F : Block → Arr → ArraySt → ArraySt} (hs : ∀ b n, step b n = modArr b n (F b n))
    (hF : ∀ b d n, OnlyArrays b d → F d n = F b n) : ∀ (l : List Arr) (b : Block), l.Nodup →
      OnlyArrays b (l.foldl step b) ∧ ∀ n, getArr (l.foldl step b) n = if n ∈ l then F b n (getArr b n) else getArr b n
  | [], b, _ => ⟨rfl, fun n => by simp⟩
  | m :: l, b, hl => by
    obtain ⟨hm, hl⟩ := List.nodup_cons.mp hl
    have ha : OnlyArrays b (step b m) := by rw [hs]; rfl
    obtain ⟨h1, h2⟩ := foldl_modArr hs hF l (step b m) hl
    refine ⟨onlyArrays_trans ha h1, fun n => ?_⟩
    rw [List.foldl_cons, h2 n, hF b _ n ha]
    by_cases hn : n = m
    · subst hn
      rw [if_neg hm, if_pos (List.mem_cons_self ..), hs, getArr_modArr]
    · rw [hs, getArr_modArr_ne _ _ hn]
      simp [hn]

theorem mem_allFin {n : Nat} (i : Fin n) : i ∈ allFin n := List.mem_finRange i

theorem nodup_allFin (n : Nat) : (allFin n).Nodup := List.nodup_finRange n

/-- Every array has changed by its own step. -/
theorem allFin_modArr {step : Block → Arr → Block} {F : Block → Arr → ArraySt → ArraySt} (hs : ∀ b n, step b n = modArr b n (F b n))
    (hF : ∀ b d n, OnlyArrays b d → F d n = F b n) (b : Block) :
    OnlyArrays b ((allFin 4).foldl step b) ∧ ∀ n, getArr ((allFin 4).foldl step b) n = F b n (getArr b n) := by
  obtain ⟨h1, h2⟩ := foldl_modArr hs hF (allFin 4) b (nodup_allFin 4)
  exact ⟨h1, fun n => by rw [h2, if_pos (mem_allFin n)]⟩

/-- From `b` to `d` only the contexts have changed. -/
def OnlyCtxs (b d : Block) : Prop := d = { b with ctxs := d.ctxs }

theorem onlyCtxs_trans {b d e : Block} (h1 : OnlyCtxs b d) (h2 : OnlyCtxs d e) : OnlyCtxs b e := by
  unfold OnlyCtxs at *
  rw [h2, h1]

/-- Steps that each change their own context alone, by what else the block holds: each context has changed by its own step. -/
theorem foldl_modCtx {step : Block → Ctx → Block} {F : Block → Ctx → CtxSt → CtxSt} (hs : ∀ b n, step b n = modCtx b n (F b n))
    (hF : ∀ b d n, OnlyCtxs b d → F d n = F b n) : ∀ (l : List Ctx) (b : Block), l.Nodup →
      OnlyCtxs b (l.foldl step b) ∧ ∀ n, getCtx (l.foldl step b) n = if n ∈ l then F b n (getCtx b n) else getCtx b n
  | [], b, _ => ⟨rfl, fun n => by simp⟩
  | m :: l, b, hl => by
    obtain ⟨hm, hl⟩ := List.nodup_cons.mp hl
    have ha : OnlyCtxs b (step b m) := by rw [hs]; rfl
    obtain ⟨h1, h2⟩ := foldl_modCtx hs hF l (step b m) hl
    refine ⟨onlyCtxs_trans ha h1, fun n => ?_⟩
    rw [List.foldl_cons, h2 n, hF b _ n ha]
    by_cases hn : n = m
    · subst hn
      rw [if_neg hm, if_pos (List.mem_cons_self ..), hs, getCtx_modCtx]
    · rw [hs, getCtx_modCtx_ne _ _ hn]
      simp [hn]

/-- Every context has changed by its own step. -/
theorem allFin_modCtx {step : Block → Ctx → Block} {F : Block → Ctx → CtxSt → CtxSt} (hs : ∀ b n, step b n = modCtx b n (F b n))
    (hF : ∀ b d n, OnlyCtxs b d → F d n = F b n) (b : Block) :
    OnlyCtxs b ((allFin 16).foldl step b) ∧ ∀ n, getCtx ((allFin 16).foldl step b) n = F b n (getCtx b n) := by
  obtain ⟨h1, h2⟩ := foldl_modCtx hs hF (allFin 16) b (nodup_allFin 16)
  exact ⟨h1, fun n => by rw [h2, if_pos (mem_allFin n)]⟩

theorem onlyArrays_regs {b d : Block} (h : OnlyArrays b d) : d.regs = b.regs := by rw [h]
theorem onlyArrays_power {b d : Block} (h : OnlyArrays b d) : d.power = b.power := by rw [h]
theorem onlyArrays_ctxs {b d : Block} (h : OnlyArrays b d) : d.ctxs = b.ctxs := by rw [h]
theorem onlyArrays_pins {b d : Block} (h : OnlyArrays b d) : d.pins = b.pins := by rw [h]

/-- The input ramps of all arrays move to the limit. -/
theorem setInputs_arrays (b : Block) :
    OnlyArrays b (setInputs b) ∧ ∀ n, getArr (setInputs b) n = { getArr b n with inp := rampTo b n (getArr b n).inp (inputLimit b) } :=
  allFin_modArr (F := fun b n a => { a with inp := rampTo b n a.inp (inputLimit b) }) (fun _ _ => rfl) (fun b d n h => by rw [h]; rfl) b

@[simp] theorem setInputs_at (b : Block) : (setInputs b).regs = b.regs := onlyArrays_regs (setInputs_arrays b).1

/-- An array that starts again, unless it is gated. -/
def restarted (b : Block) (n : Arr) (a : ArraySt) : ArraySt :=
  if a.gate = .gated then a else { a with gate := .ramping, adv := ⟨0, 64, 0, rampSteps b n, 0, 0⟩ }

theorem restartArrays_arrays (b : Block) :
    OnlyArrays b (restartArrays b) ∧ ∀ n, getArr (restartArrays b) n = restarted b n (getArr b n) := by
  refine allFin_modArr (F := restarted) (fun b n => ?_) (fun b d n h => by rw [h]; rfl) b
  by_cases hg : (getArr b n).gate = .gated
  · simp only [hg, decide_true, if_true]
    unfold modArr restarted
    have : b.arrays.get n = getArr b n := rfl
    rw [this, if_pos hg]
    have : b.arrays.set n.val (getArr b n) n.isLt = b.arrays := by simp [getArr, get_at]
    rw [this]
  · simp only [hg, decide_false, Bool.false_eq_true, if_false]
    unfold startAdvance modArr restarted
    have : b.arrays.get n = getArr b n := rfl
    rw [this, if_neg hg]

end Sys2Proof.Proofs.Fields

/-! SUPPORT. What a notice and a raised code do to each register and to each context. -/

namespace Sys2Proof.Proofs.Reports

open Sys2Proof Sys2Proof.Machine Sys2Proof.Laws Sys2Proof.Proofs.Fields

/-- The registers that a notice or a fault record is kept in (R319 to R323, R372). -/
def recordReg : Reg → Bool
  | .engFaultRec _ _ | .engFaultPtr | .engCtxFault _ _ | .engNotice => true
  | _ => false

/-- Registers that keep no record are the same in both blocks. -/
structure RecordOnly (b d : Block) : Prop where
  regs : ∀ r, recordReg r = false → rawReg d r = rawReg b r

theorem RecordOnly.refl (b : Block) : RecordOnly b b := ⟨fun _ _ => rfl⟩

theorem RecordOnly.trans {b d e : Block} (h : RecordOnly b d) (k : RecordOnly d e) : RecordOnly b e :=
  ⟨fun r hr => (k.regs r hr).trans (h.regs r hr)⟩

theorem RecordOnly.after {b d e : Block} (k : RecordOnly d e) (h : RecordOnly b d) : RecordOnly b e := h.trans k

theorem RecordOnly.of_regs {b d : Block} (h : d.regs = b.regs) : RecordOnly b d := ⟨fun r _ => rawReg_congr h r⟩

theorem RecordOnly.getFld {b d : Block} (h : RecordOnly b d) {r : Reg} (hr : recordReg r = false) (lo wid : Nat) :
    getFld d r lo wid = getFld b r lo wid := by
  simp only [Machine.getFld, h.regs r hr]

theorem RecordOnly.foldl {β : Type} {f : Block → β → Block} (hf : ∀ b x, RecordOnly b (f b x)) (l : List β) (b : Block) :
    RecordOnly b (l.foldl f b) :=
  l.foldlRecOn f (motive := RecordOnly b) (.refl b) (fun d h x _ => h.trans (hf d x))

theorem setRaw_recordOnly (b : Block) {r : Reg} (v : W64) (hr : recordReg r = true) : RecordOnly b (setRaw b r v) :=
  ⟨fun r' h => rawReg_setRaw_ne b v (by rintro rfl; rw [h] at hr; cases hr)⟩

theorem setFld_recordOnly (b : Block) {r : Reg} (lo wid v : Nat) (hr : recordReg r = true) : RecordOnly b (setFld b r lo wid v) :=
  setRaw_recordOnly b _ hr

theorem bumpFld_recordOnly (b : Block) {r : Reg} (lo wid n : Nat) (hr : recordReg r = true) : RecordOnly b (bumpFld b r lo wid n) :=
  ⟨(setRaw_recordOnly b _ hr).regs⟩

theorem notify_recordOnly (b : Block) (k : Nat) (c : Option Ctx) (d e : Nat) (j : Bool) : RecordOnly b (notify b k c d e j) := by
  unfold notify
  dsimp only
  split
  · exact .of_regs rfl
  · exact (bumpFld_recordOnly _ 0 16 1 rfl).after (.of_regs rfl)

theorem putRec_recordOnly (b : Block) {at_ : Fin 4 → Reg} (ws : List W64) (h : ∀ i, recordReg (at_ i) = true) : RecordOnly b (putRec b at_ ws) :=
  RecordOnly.foldl (fun b i => setRaw_recordOnly b _ (h i)) _ b

theorem ringRecord_recordOnly (b : Block) (code : Nat) (ws : List W64) (c : Option Ctx) (ev : Bool) : RecordOnly b (ringRecord b code ws c ev) := by
  unfold ringRecord
  split <;> dsimp only
  · have hq : RecordOnly b (bumpFld b .engFaultPtr 32 16 1) := bumpFld_recordOnly b 32 16 1 rfl
    split
    · exact hq.trans (notify_recordOnly ..)
    · exact hq
  · generalize hd : putRec b (fun w => .engFaultRec (Fin.ofNat 64 b.recNext) w) ws = d
    have hq : RecordOnly b d := hd ▸ putRec_recordOnly b ws (fun _ => rfl)
    have hp : RecordOnly d (setFld { d with recNext := d.recNext + 1 } .engFaultPtr 0 16 ((d.recNext + 1) % 65536)) :=
      (setFld_recordOnly _ 0 16 _ rfl).after (.of_regs rfl)
    split
    · exact (hq.trans hp).trans (notify_recordOnly ..)
    · exact hq.trans hp

theorem enterFaulted_recordOnly (b : Block) (c : Ctx) (ws : List W64) : RecordOnly b (enterFaulted b c ws) :=
  (putRec_recordOnly b ws (fun _ => rfl)).trans (.of_regs rfl)

/-- A raised code writes its count and its records (R317 to R323). -/
theorem raise_recordOnly (b : Block) (code : Code) (t : Site) :
    RecordOnly (bumpFld b (.engEventCnt (Fin.ofNat 26 code.num)) 0 32 1) (raise b code t) := by
  unfold raise
  generalize bumpFld b (.engEventCnt (Fin.ofNat 26 code.num)) 0 32 1 = d
  dsimp only
  split
  · split
    · exact ringRecord_recordOnly ..
    · exact .refl d
  · split
    · split
      · exact (enterFaulted_recordOnly ..).trans (ringRecord_recordOnly ..)
      · exact .refl d
    · generalize hx : (allFin 16).foldl _ d = x
      have hstop : RecordOnly d x := by
        subst hx
        refine RecordOnly.foldl (fun y c => ?_) _ d
        split
        · exact enterFaulted_recordOnly ..
        · exact .refl y
      have hmark : RecordOnly x { x with engFault := some code.num } := .of_regs rfl
      exact (hstop.trans hmark).trans (ringRecord_recordOnly ..)

/-- A raised code is counted once (R317). -/
theorem raise_count (b : Block) (code : Code) (t : Site) : getFld (raise b code t) (.engEventCnt (Fin.ofNat 26 code.num)) 0 32
    = min (2 ^ 32 - 1) (getFld b (.engEventCnt (Fin.ofNat 26 code.num)) 0 32 + 1) := by
  rw [(raise_recordOnly b code t).getFld rfl, getFld_bumpFld _ _ _ (by omega)]

/-- A register that is neither a count of a code nor a record keeps its fields. -/
theorem raise_fld (b : Block) (code : Code) (t : Site) {r : Reg} (hr : recordReg r = false) (hc : ∀ k, r ≠ .engEventCnt k) (lo wid : Nat) :
    getFld (raise b code t) r lo wid = getFld b r lo wid := by
  rw [(raise_recordOnly b code t).getFld hr]
  exact getFld_setFld_ne b _ _ _ _ _ (hc _)

/-! ### Contexts -/

/-- From `b` to `d` each context is as it was, or a code has stopped it: it was neither FREE nor fenced, and is FAULTED (R319 to R321). -/
structure StopsOnly (b d : Block) : Prop where
  ctx : ∀ c, getCtx d c = getCtx b c ∨ (faultable b c = true ∧ getCtx d c = { getCtx b c with state := .faulted })

theorem StopsOnly.of_ctxs {b d : Block} (h : d.ctxs = b.ctxs) : StopsOnly b d := ⟨fun c => .inl (by rw [getCtx, h, getCtx])⟩

theorem StopsOnly.refl (b : Block) : StopsOnly b b := .of_ctxs rfl

theorem faultable_congr {b d : Block} {c : Ctx} (h : getCtx d c = getCtx b c) : faultable d c = faultable b c := by
  simp only [faultable, h]

theorem StopsOnly.trans {b d e : Block} (h : StopsOnly b d) (k : StopsOnly d e) : StopsOnly b e := by
  refine ⟨fun c => ?_⟩
  rcases h.ctx c with h1 | ⟨hf, h1⟩
  · rcases k.ctx c with k1 | ⟨kf, k1⟩
    · exact .inl (k1.trans h1)
    · exact .inr ⟨faultable_congr h1 ▸ kf, by rw [k1, h1]⟩
  · rcases k.ctx c with k1 | ⟨kf, -⟩
    · exact .inr ⟨hf, k1.trans h1⟩
    · simp [faultable, h1] at kf

theorem StopsOnly.after {b d e : Block} (k : StopsOnly d e) (h : StopsOnly b d) : StopsOnly b e := h.trans k

theorem StopsOnly.foldl {β : Type} {f : Block → β → Block} (hf : ∀ b x, StopsOnly b (f b x)) (l : List β) (b : Block) : StopsOnly b (l.foldl f b) :=
  l.foldlRecOn f (motive := StopsOnly b) (.refl b) (fun d h x _ => h.trans (hf d x))

/-- A context that a code stops or not keeps its generation and strands. -/
theorem StopsOnly.gen {b d : Block} (h : StopsOnly b d) (c : Ctx) : (getCtx d c).gen = (getCtx b c).gen := by
  rcases h.ctx c with h1 | ⟨-, h1⟩ <;> rw [h1]

/-- A context of a state that no code stops is as it was. -/
theorem StopsOnly.stands {b d : Block} (h : StopsOnly b d) {c : Ctx} (hc : faultable b c = false) : getCtx d c = getCtx b c := by
  rcases h.ctx c with h1 | ⟨hf, -⟩
  · exact h1
  · rw [hc] at hf; cases hf

theorem enterFaulted_stops (b : Block) (c : Ctx) (ws : List W64) (h : faultable b c = true) : StopsOnly b (enterFaulted b c ws) := by
  obtain ⟨r, hr⟩ := putRec_frame b (fun w => .engCtxFault c w) ws
  refine ⟨fun c' => ?_⟩
  unfold enterFaulted
  rw [hr]
  by_cases hc : c' = c
  · subst hc
    exact .inr ⟨h, getCtx_modCtx ..⟩
  · exact .inl (getCtx_modCtx_ne _ _ hc)

theorem ringRecord_stops (b : Block) (code : Nat) (ws : List W64) (c : Option Ctx) (ev : Bool) : StopsOnly b (ringRecord b code ws c ev) := by
  obtain ⟨n, k, h⟩ := ringRecord_frame b code ws c ev
  exact .of_ctxs (by rw [h]; rfl)

theorem notify_stops (b : Block) (k : Nat) (c : Option Ctx) (d e : Nat) (j : Bool) : StopsOnly b (notify b k c d e j) := by
  obtain ⟨n, h⟩ := notify_frame b k c d e j
  exact .of_ctxs (by rw [h]; rfl)

theorem faultable_of_active {b : Block} {c : Ctx} (h : activeCtx b c = true) : faultable b c = true := by
  unfold activeCtx at h
  unfold faultable
  generalize (getCtx b c).state = x at h ⊢
  cases x <;> simp_all

/-- Raising a code stops contexts and does nothing else to them (R319 to R321). -/
theorem raise_stops (b : Block) (code : Code) (t : Site) : StopsOnly b (raise b code t) := by
  unfold raise
  refine StopsOnly.trans (d := bumpFld b (.engEventCnt (Fin.ofNat 26 code.num)) 0 32 1) (.of_ctxs rfl) ?_
  generalize bumpFld b (.engEventCnt (Fin.ofNat 26 code.num)) 0 32 1 = d
  dsimp only
  split
  · split
    · exact ringRecord_stops ..
    · exact .refl d
  · split
    · split
      · rename_i hf
        exact (enterFaulted_stops _ _ _ hf).trans (ringRecord_stops ..)
      · exact .refl d
    · generalize hx : (allFin 16).foldl _ d = x
      have hstop : StopsOnly d x := by
        subst hx
        refine StopsOnly.foldl (fun y c => ?_) _ d
        split
        · rename_i ha
          exact enterFaulted_stops _ _ _ (faultable_of_active ha)
        · exact .refl y
      have hmark : StopsOnly x { x with engFault := some code.num } := .of_ctxs rfl
      exact (hstop.trans hmark).trans (ringRecord_stops ..)

/-- An event stops no context (R318). -/
theorem raise_event_ctxs (b : Block) (code : Code) (t : Site) (h : code.isEvent = true) : (raise b code t).ctxs = b.ctxs := by
  unfold raise
  simp only [h, if_true]
  split
  · obtain ⟨n, k, hr⟩ := ringRecord_frame (bumpFld b (.engEventCnt (Fin.ofNat 26 code.num)) 0 32 1) code.num
      (recordWords (bumpFld b (.engEventCnt (Fin.ofNat 26 code.num)) 0 32 1) code.num 0 t
        (bumpFld b (.engEventCnt (Fin.ofNat 26 code.num)) 0 32 1).recNext) t.ctx true
    rw [hr]
    rfl
  · rfl

end Sys2Proof.Proofs.Reports

/-! SUPPORT. Requests of a power state, the boot SRAM and GO, supply and temperature, the straps and the bypass. Settles O10 to O13 and O15 to O19. -/

namespace Sys2Proof.Proofs.Power

open Sys2Proof Sys2Proof.Machine Sys2Proof.Laws Sys2Proof.Proofs.Store Sys2Proof.Proofs.Commands Sys2Proof.Proofs.Fields Sys2Proof.Proofs.Reports Sys2Proof.Proofs.EngReset
open Sys2Proof.Proofs.IssueStage

/-! ### Requests of a power state -/

/-- Two fields of one register written. -/
theorem onlyReg_setFld2 (b : Block) (r : Reg) (lo wid v lo' wid' v' : Nat) : onlyReg r b (setFld (setFld b r lo wid v) r lo' wid' v') :=
  onlyReg_trans (onlyReg_setFld ..) (onlyReg_setFld ..)

/-- What a request of P0 leaves: no request, P1 at an end, and an exit from P2 begun. -/
theorem reqP0_does (b : Block) :
    (reqP0 b).pins = b.pins ∧ sameUnits b (reqP0 b) ∧ getFld (reqP0 b) .mgtPwr 0 2 = 0 ∧ getFld (reqP0 b) .mgtPwr 4 1 = 0
      ∧ getFld (reqP0 b) .mgtPwr 2 2 = (if getFld b .mgtPwr 2 2 = 1 then 0 else getFld b .mgtPwr 2 2)
      ∧ (getFld b .mgtPwr 2 2 = 2 → (reqP0 b).steward.p2Exit = true) := by
  have hst : pwrState (setFld (setFld b .mgtPwr 0 2 0) .mgtPwr 4 1 0) = getFld b .mgtPwr 2 2 := by simp [pwrState, getFld_at]
  unfold reqP0
  simp only [hst, beq_iff_eq]
  split
  · next h1 => exact ⟨rfl, by simp [sameUnits], by simp [getFld_at], by simp [getFld_at], by simp [getFld_at], fun h2 => by omega⟩
  · next h1 =>
    split
    · exact ⟨rfl, by simp [sameUnits], by simp [getFld_at], by simp [getFld_at], by simp [getFld_at], fun _ => rfl⟩
    · next h2 => exact ⟨rfl, by simp [sameUnits], by simp [getFld_at], by simp [getFld_at], by simp [getFld_at], fun h => absurd h h2⟩

/-- Settles O16: each request writes MGT_PWR and P0 acts at once. -/
theorem powerRequests : Obligations.PowerRequests := by
  unfold Obligations.PowerRequests
  refine ⟨fun s h => ?_, fun s h => ⟨_, exec_write h rfl, onlyReg_wrote (onlyReg_setFld2 ..), ?_⟩,
    fun s h => ⟨_, exec_write h rfl, onlyReg_wrote (onlyReg_setFld2 ..), ?_⟩,
    fun s h => ⟨_, exec_write h rfl, onlyReg_wrote (onlyReg_setFld2 ..), ?_⟩⟩
  · obtain ⟨hp, hu, hrest⟩ := reqP0_does s.blk
    exact ⟨_, exec_write h hp, hrest.1, hrest.2.1, hrest.2.2.1, hrest.2.2.2, hu⟩
  · simp [wrote, reqP1, getFld_at]
  · refine ⟨by simp [wrote, reqP2, getFld_at], by simp [wrote, reqP2, getFld_at], ?_⟩
    simp only [wrote, reqP2, getFld_at, respond_regs, pwrState, b2n]
    by_cases h2 : fldAt s.blk.regs .mgtPwr 2 2 = 2 <;> cases hx : s.blk.steward.p2Exit <;> simp [h2, hx]
  · simp [wrote, reqP3, getFld_at]

/-! ### The boot SRAM -/

/-- A write of the boot SRAM's registers that comes too late only sets REJECT. -/
theorem bootReject_does (b : Block) : onlyReg .mgtBootStatus b (bootReject b) ∧ getFld (bootReject b) .mgtBootStatus 33 1 = 1 :=
  ⟨onlyReg_hwSet .., getFld_hwSet _ _ (by omega)⟩

theorem length_leBytes : ∀ n v : Nat, (leBytes n v).length = n
  | 0, _ => rfl
  | n + 1, v => congrArg (· + 1) (length_leBytes n (v / 256))

/-- The bytes of a number, lowest first. -/
theorem getElem_leBytes : ∀ (n v i : Nat) (h : i < (leBytes n v).length), (leBytes n v)[i] = BitVec.ofNat 8 (v >>> (8 * i))
  | n + 1, v, 0, _ => rfl
  | n + 1, v, i + 1, h => by
    have hi : i < (leBytes n (v / 256)).length := by simpa [leBytes] using h
    rw [show (leBytes (n + 1) v)[i + 1] = (leBytes n (v / 256))[i] from rfl, getElem_leBytes n (v / 256) i hi,
      show (v / 256) >>> (8 * i) = v >>> (8 * (i + 1)) by
        rw [show 8 * (i + 1) = 8 + 8 * i by omega, Nat.shiftRight_add, show v / 256 = v >>> 8 from (Nat.shiftRight_eq_div_pow v 8).symm]]

/-- A taken write of MGT_BOOT_DATA (R359). -/
theorem writeBootData_taken {b : Block} {v : W64} (h : bootOpen b = true ∧ getFld b .mgtBootPtr 0 14 < 0x2000) :
    writeBootData b v = setFld { b with boot := memPutBytes b.boot (8 * getFld b .mgtBootPtr 0 14) (leBytes 8 v.toNat) } .mgtBootPtr 0 14
      ((getFld b .mgtBootPtr 0 14 + 1) % 2 ^ 14) := by
  unfold writeBootData
  rw [if_neg (by simp [h.1]; exact h.2)]

theorem writeBootData_late {b : Block} {v : W64} (h : ¬(bootOpen b = true ∧ getFld b .mgtBootPtr 0 14 < 0x2000)) :
    writeBootData b v = bootReject b := by
  unfold writeBootData
  rw [if_pos]
  by_contra hc
  exact h (by simpa using hc)

/-- Settles O18: both registers are taken while the image may still come, and set REJECT otherwise. -/
theorem bootSramWrites : Obligations.BootSramWrites := by
  unfold Obligations.BootSramWrites
  refine ⟨fun s v h => ?_, fun s v h => ?_⟩
  · by_cases ho : bootOpen s.blk = true
    · have hw : writeBootPtr s.blk v = setFld s.blk .mgtBootPtr 0 14 (bitsOf v.toNat 13 0) := by rw [writeBootPtr, if_pos ho]
      refine ⟨_, exec_write (f := fun b => writeBootPtr b v) h (by rw [hw]; rfl), ?_⟩
      simp only [if_pos ho, hw]
      exact ⟨onlyReg_wrote (onlyReg_setFld ..), by simp [wrote, getFld_at, bitsOf]⟩
    · have hw : writeBootPtr s.blk v = bootReject s.blk := by rw [writeBootPtr, if_neg ho]
      refine ⟨_, exec_write (f := fun b => writeBootPtr b v) h (by rw [hw]; rfl), ?_⟩
      simp only [if_neg ho, hw]
      exact ⟨onlyReg_wrote (bootReject_does _).1, (bootReject_does _).2⟩
  · by_cases ho : bootOpen s.blk = true ∧ getFld s.blk .mgtBootPtr 0 14 < 0x2000
    · have hw := writeBootData_taken (v := v) ho
      refine ⟨_, exec_write (f := fun b => writeBootData b v) h (by rw [hw]; rfl), ?_⟩
      simp only [if_pos ho, hw]
      refine ⟨fun i hi => ?_, fun a ha => ?_, ?_, ?_⟩
      · have hl : i < (leBytes 8 v.toNat).length := by rw [length_leBytes]; exact hi
        exact (memGet_memPutBytes_in _ _ _ i hl).trans ((getElem_leBytes 8 v.toNat i hl).trans (by apply BitVec.eq_of_toNat_eq; simp))
      · exact memGet_memPutBytes_out _ _ _ a (by rw [length_leBytes]; exact ha)
      · have := ho.2
        simp only [getFld_at] at this ⊢
        simp only [wrote, respond_regs, setFld_at, fldAt_putFld _ _ _ (show 0 + 14 ≤ 64 by omega)]
        omega
      · exact onlyReg_wrote (s := { s with blk := { s.blk with boot := _ } }) (onlyReg_setFld ..)
    · have hw := writeBootData_late (v := v) ho
      refine ⟨_, exec_write (f := fun b => writeBootData b v) h (by rw [hw]; rfl), ?_⟩
      simp only [if_neg ho, hw]
      exact ⟨onlyReg_wrote (bootReject_does _).1, (bootReject_does _).2⟩

/-! ### GO -/

/-- Settles O19: GO starts Verify only where the image may come. That START_FAIL clears with the GO alone, and that an engine reset that failed goes on
with the steward's restart, is the model's reading (log 87). -/
theorem bootGoStartsVerify : Obligations.BootGoStartsVerify := by
  unfold Obligations.BootGoStartsVerify
  intro s v h
  have hopen : ∀ x, bootOpen (setFld s.blk .mgtBootCtl 1 2 x) = bootOpen s.blk := fun x => by
    have hne : Reg.mgtBootStatus ≠ .mgtBootCtl := by simp
    simp only [bootOpen, getFld_setFld_ne s.blk _ _ _ _ _ hne]
  by_cases ho : v.getLsbD 0 = true ∧ bootOpen s.blk = true
  · have hw : writeBootCtl s.blk v = setFld (setFld { setFld s.blk .mgtBootCtl 1 2 (bitsOf v.toNat 2 1) with
        rst := if s.blk.rst = .failed then .steward else s.blk.rst } .mgtBootStatus 0 8 2) .engStatus 1 1 0 := by
      unfold writeBootCtl
      rw [if_pos (by rw [hopen, ho.2, Bool.and_true, bitAt_word]; exact ho.1)]
      rfl
    refine ⟨_, exec_write (f := fun b => writeBootCtl b v) h (by rw [hw]; rfl), ?_⟩
    simp only [if_pos ho, hw]
    refine ⟨rfl, ?_, ?_, ?_, ?_, rfl⟩ <;> simp [wrote, getFld_at, bitsOf, Nat.shiftRight_eq_div_pow]
  · have hw : writeBootCtl s.blk v = setFld s.blk .mgtBootCtl 1 2 (bitsOf v.toNat 2 1) := by
      unfold writeBootCtl
      rw [if_neg (by rw [hopen, bitAt_word, Bool.and_eq_true]; exact ho)]
    refine ⟨_, exec_write (f := fun b => writeBootCtl b v) h (by rw [hw]; rfl), ?_⟩
    simp only [if_neg ho, hw]
    exact ⟨rfl, by simp [wrote, getFld_at, bitsOf, Nat.shiftRight_eq_div_pow], rawReg_setFld_ne _ _ _ _ (by simp), rawReg_setFld_ne _ _ _ _ (by simp), rfl⟩

/-! ### Supply -/

/-! ### Events of pins at a running engine -/

theorem exec_vwarnAssert {s : State} (h : live s.blk = true) : exec .vwarnAssert s = .next { s with blk := vwarnAssert s.blk } := by
  show execVwarnAssert s = _
  simp only [execVwarnAssert, State.on, h, if_true]

theorem exec_vwarnNRelease {s : State} (h : live s.blk = true) : exec .vwarnNRelease s = .next { s with blk := vwarnRelease s.blk } := by
  show execVwarnNRelease s = _
  simp only [execVwarnNRelease, State.on, h, if_true]

theorem exec_thermWarnAssert {s : State} (h : live s.blk = true) : exec .thermWarnAssert s = .next { s with blk := thermWarn s.blk true } := by
  show execThermWarnAssert s = _
  simp only [execThermWarnAssert, State.on, h, if_true]

theorem exec_thermWarnClear {s : State} (h : live s.blk = true) : exec .thermWarnClear s = .next { s with blk := thermWarn s.blk false } := by
  show execThermWarnClear s = _
  simp only [execThermWarnClear, State.on, h, if_true]

theorem exec_thermTripAssert {s : State} (h : live s.blk = true) : exec .thermTripAssert s = .next { s with blk := thermTrip s.blk } := by
  show execThermTripAssert s = _
  simp only [execThermTripAssert, State.on, h, if_true]

theorem exec_thermTripNRelease {s : State} (h : live s.blk = true) : exec .thermTripNRelease s = .next { s with blk := thermRelease s.blk } := by
  show execThermTripNRelease s = _
  simp only [execThermTripNRelease, State.on, h, if_true]

theorem exec_rstEngNAssert {s : State} (h : live s.blk = true) : exec .rstEngNAssert s = .next { s with blk := rstEngAssert s.blk } := by
  show execRstEngNAssert s = _
  simp only [execRstEngNAssert, State.on, h, if_true]

theorem exec_rstEngNRelease {s : State} (h : live s.blk = true) : exec .rstEngNRelease s = .next { s with blk := rstEngRelease s.blk } := by
  show execRstEngNRelease s = _
  simp only [execRstEngNRelease, State.on, h, if_true]

theorem exec_powerDown {s : State} (h : live s.blk = true) : exec .powerDown s = .next { s with blk := powerDown s.blk } := by
  show execPowerDown s = _
  simp only [execPowerDown, State.on, h, if_true]

/-- From `b` to `d` every unit is as it was (R357). -/
theorem sameUnits_raise (b : Block) (code : Code) (t : Site) : sameUnits b (raise b code t) := sameUnits_of_links (raise_links b code t)

/-- Where nothing runs, the sequencer stays as it is. -/
theorem jobAdvance_idle {b : Block} (h : jobRunning b = none) : jobAdvance b = b := by
  unfold jobAdvance
  generalize 4096 = n
  cases n with
  | zero => rfl
  | succ n => simp only [jobAdvanceN, h]

/-- At the end of the settle count FROZEN goes (R357). -/
def thawed (b : Block) : Block := setFld { b with power := { b.power with vClearAt := none } } .mgtVwarn 25 1 0

/-- Then the arrays start again unless a trip stops them. -/
def settledV (b : Block) : Block := if stoppedT (thawed b) then thawed b else restartArrays (thawed b)

/-- An array that may start again and is not gated ramps up from level 0; a gated one stays as it is (R79, log 110). -/
theorem restarted_cases (b : Block) (n : Arr) (a : ArraySt) :
    if a.gate = .gated then restarted b n a = a
    else (restarted b n a).gate = .ramping ∧ (restarted b n a).adv.level = 0 ∧ (restarted b n a).adv.to_ = 64 := by
  unfold restarted
  split
  · rfl
  · exact ⟨rfl, rfl, rfl⟩

/-- Letting the arrays go on, or not, changes nothing else. -/
theorem restart_only (c : Block) (stop : Bool) : OnlyArrays c (if stop then c else restartArrays c) := by
  cases stop
  · exact (restartArrays_arrays c).1
  · rfl

/-- The arrays after they were let go on, or not. -/
theorem restart_arrays {b c d : Block} {stop : Bool} (hc : ∀ n, getArr c n = getArr b n) (hd : d = if stop then c else restartArrays c) (n : Arr) :
    if stop = true ∨ (getArr b n).gate = .gated then getArr d n = getArr b n
    else (getArr d n).gate = .ramping ∧ (getArr d n).adv.level = 0 ∧ (getArr d n).adv.to_ = 64 := by
  have hr := restarted_cases c n (getArr b n)
  cases hs : stop
  · have hn : getArr d n = restarted c n (getArr b n) := by
      rw [hd, hs]
      exact ((restartArrays_arrays c).2 n).trans (by rw [hc])
    simpa [hn] using hr
  · simp [hd, hs, hc]

theorem settledV_only (b : Block) : OnlyArrays (thawed b) (settledV b) := restart_only _ _

/-- Settles O11: the event of VWARN_N freezes once, its end starts the settle count, and at that count's end the arrays that were clocked ramp up again.
That a gated array stays as it is then is deduced (log 110). -/
theorem supplyWarningFreezesAndSettles : Obligations.SupplyWarningFreezesAndSettles := by
  unfold Obligations.SupplyWarningFreezesAndSettles
  refine ⟨fun s hl hv => ?_, fun s hl hv => ?_, fun s τ hl hc hf hτ => ?_⟩
  · refine ⟨_, exec_vwarnAssert hl, vwarnAssert_pins _, ?_⟩
    simp only [vwarnAssert, hv, Bool.not_true, Bool.false_eq_true, if_false]
    have hfld : ∀ lo wid, getFld (raise _ .vwarn { unit := 0xE }) .mgtVwarn lo wid = _ :=
      fun lo wid => raise_fld (setFld { s.blk with pins := { s.blk.pins with vwarn := false }, power := { s.blk.power with vClearAt := none } }
        .mgtVwarn 24 2 3) .vwarn { unit := 0xE } rfl (by simp) lo wid
    refine ⟨?_, ?_, ?_, ?_⟩
    · rw [hfld]; simp [getFld_at]
    · rw [frozenV, hfld]; simp [getFld_at]
    · exact (raise_count _ .vwarn _).trans (by simp [getFld_at, Code.num])
    · exact sameUnits_trans ⟨rfl, rfl, rfl, rfl, rfl, rfl, rfl, rfl, rfl, rfl, rfl, rfl⟩ (sameUnits_raise _ _ _)
  · refine ⟨_, exec_vwarnNRelease hl, vwarnRelease_pins _, ?_⟩
    simp only [vwarnRelease, hv, Bool.false_eq_true, if_false]
    exact ⟨by simp [getFld_at], by simp [frozenV, getFld_at], rfl, rfl, rfl, rfl, rfl, rfl, rfl, rfl, rfl, rfl, rfl, rfl, rfl⟩
  · have hset : vwarnSettle s.blk = jobAdvance (settledV s.blk) := by
      unfold vwarnSettle
      simp only [hc, hf, Bool.true_and, decide_eq_true_eq]
      rw [if_pos hτ]
      rfl
    refine ⟨settledV s.blk, ?_, ?_, ?_, fun hj => jobAdvance_idle ?_, fun n => ?_⟩
    · exact (onLive_live vwarnSettle hl).trans (by rw [hset])
    · rw [frozenV, getFld_congr (onlyArrays_regs (settledV_only _))]
      simp [thawed, getFld_at]
    · exact congrArg PowerSt.vClearAt (onlyArrays_power (settledV_only s.blk))
    · have e := congrArg Block.jobs (settledV_only s.blk)
      rw [jobRunning, e]
      exact hj
    · have hst : stoppedT (thawed s.blk) = stoppedT s.blk := by simp [thawed, stoppedT, getFld_at]
      have hget : ∀ n, getArr (thawed s.blk) n = getArr s.blk n := fun _ => rfl
      have hd : settledV s.blk = if stoppedT (thawed s.blk) then thawed s.blk else restartArrays (thawed s.blk) := rfl
      rw [← hst]
      exact restart_arrays hget hd n

/-! ### Temperature -/

/-- A change of an input's level ends at the limit. -/
theorem rampTo_to (b : Block) (n : Arr) (r : Ramp) (l : Nat) : (rampTo b n r l).to_ = l := by
  unfold rampTo
  split
  · rename_i h; exact beq_iff_eq.mp h
  · rfl

/-- After the limit was set anew every array's inputs ramp to it, and nothing else of an array changes. -/
theorem setInputs_limits (b : Block) (n : Arr) :
    (getArr (setInputs b) n).inp.to_ = inputLimit b ∧ (getArr (setInputs b) n).pos = (getArr b n).pos := by
  rw [(setInputs_arrays b).2]
  exact ⟨rampTo_to .., rfl⟩

/-- Settles O12: the warning is counted at its fall, and every array's inputs ramp to the limit that it gives or takes away. -/
theorem thermalWarningLimitsInputs : Obligations.ThermalWarningLimitsInputs := by
  unfold Obligations.ThermalWarningLimitsInputs
  refine ⟨fun s hl hw => ⟨_, exec_thermWarnAssert hl, thermWarn_pins .., ?_⟩, fun s hl hw => ⟨_, exec_thermWarnClear hl, thermWarn_pins .., ?_⟩⟩
  all_goals
    simp only [thermWarn, hw, bne_self_eq_false, Bool.false_eq_true, if_false, if_true]
    refine ⟨by simp [getFld_at, b2n], by simp [getFld_at], fun n => ?_⟩
    obtain ⟨hto, hpos⟩ := setInputs_limits (setFld _ .mgtTherm 24 1 (b2n _)) n
    exact ⟨hto.trans (by simp [inputLimit, getFld_at, b2n]), hpos⟩

/-- Settles O13: the trip of THERM_TRIP_N stops the arrays, and its settle count lets those that were clocked go on. That a gated array stays as it is
then is deduced (log 110). -/
theorem thermalTripStopsAndSettles : Obligations.ThermalTripStopsAndSettles := by
  unfold Obligations.ThermalTripStopsAndSettles
  refine ⟨fun s hl hv => ⟨_, exec_thermTripAssert hl, thermTrip_pins _, ?_⟩, fun s hl hv => ⟨_, exec_thermTripNRelease hl, thermRelease_pins _, ?_⟩,
    fun s τ hl hc hf hτ => ?_⟩
  · simp only [thermTrip, hv, Bool.not_true, Bool.false_eq_true, if_false]
    exact ⟨by simp [getFld_at], by simp [stoppedT, getFld_at], by simp [getFld_at], sameUnits_refl s.blk⟩
  · simp only [thermRelease, hv, Bool.false_eq_true, if_false]
    exact ⟨by simp [getFld_at], by simp [stoppedT, getFld_at], rfl, sameUnits_refl s.blk⟩
  · generalize hd : setFld { s.blk with power := { s.blk.power with tClearAt := none } } .mgtTherm 26 1 0 = d
    have hset : thermSettle s.blk = if frozenV d then d else restartArrays d := by
      unfold thermSettle
      simp only [hc, hf, Bool.true_and, decide_eq_true_eq]
      rw [if_pos hτ, ← hd]
    have ho := restart_only d (frozenV d)
    refine ⟨_, (onLive_live thermSettle hl).trans (by rw [hset]), ?_, ?_, fun n => ?_⟩
    · show stoppedT (if frozenV d then d else restartArrays d) = false
      rw [stoppedT, getFld_congr (onlyArrays_regs ho), ← hd]
      simp [getFld_at]
    · show (if frozenV d then d else restartArrays d).power.tClearAt = none
      rw [onlyArrays_power ho, ← hd]
      rfl
    · rw [show frozenV s.blk = frozenV d by rw [← hd]; simp [frozenV, getFld_at]]
      exact restart_arrays (fun _ => by rw [← hd]; rfl) rfl n

/-! ### Straps, the bypass and the power states -/

/-- Both links of the chain are reset: its unit is empty and has no credit (R381). -/
theorem chainLost_lost (b : Block) :
    (chainLost b).chain.credits = 0 ∧ (chainLost b).chain.linkUp = false ∧ (chainLost b).chain.ring = [] ∧ (chainLost b).chain.keep = [] :=
  ⟨rfl, rfl, rfl, rfl⟩

/-- Settles O15: a change of ENG_ABSENT moves the pin, and resets both links just where it opens or closes the bypass. -/
theorem absentDrivesTheBypass : Obligations.AbsentDrivesTheBypass := by
  unfold Obligations.AbsentDrivesTheBypass
  intro s a ha
  refine ⟨{ s with blk := absentChange s.blk a }, rfl, absentChange_pins .., ?_⟩
  simp only [absentChange_eq, if_neg ha]
  by_cases hb : bypassed s.blk = bypassed (absentAs s.blk a)
  · simp only [if_pos hb]
    refine ⟨rfl, ?_⟩
    rw [if_pos hb.symm]
    rfl
  · simp only [if_neg hb]
    refine ⟨rfl, ?_⟩
    rw [if_neg (fun h => hb h.symm)]
    exact chainLost_lost _

@[simp] theorem chainLost_at (b : Block) : (chainLost b).regs = b.regs := rfl

/-- The straps that a cold release samples, in ENG_CONFIG and in the state of the start (R1, R2). -/
def sampledRegs (m : RegMap) (en ix : Nat) : RegMap :=
  let c := putFld (putFld (putFld (putFld m .engConfig 0 4 en) .engConfig 4 4 en) .engConfig 8 3 (gradeOf en)) .engConfig 12 3 ix
  if gradeOf en == 0 then putFld c .engStatus 2 1 1 else putFld c .mgtBootStatus 0 4 1

/-- The grade is the number of arrays, from three on (R2). -/
theorem gradeOf_straps (en : BitVec 4) :
    gradeOf en.toNat = (if ((List.range 4).filter (fun i => en.getLsbD i)).length < 3 then 0 else ((List.range 4).filter (fun i => en.getLsbD i)).length) := by
  revert en
  decide

/-- After a cold release only the registers of the straps and of the pins are not at reset, and every context is FREE (R362). -/
theorem coldRelease_does {b : Block} (en : BitVec 4) (ix : BitVec 3) (h : b.pins.rstCold = false) (ha : b.pins.absent = false) :
    (∀ r lo wid, r ≠ .mgtVwarn → r ≠ .mgtTherm → getFld (coldRelease b en ix) r lo wid = fldAt (sampledRegs [] en.toNat ix.toNat) r lo wid)
      ∧ ∀ c, (getCtx (coldRelease b en ix) c).state = .free := by
  simp only [coldRelease, h, ha, Bool.or_false, Bool.false_eq_true, if_false]
  refine ⟨fun r lo wid hv ht => ?_, fun c => ?_⟩
  · simp only [getFld_at, chainLost_at, setInputs_at, samplePins, setFld_at]
    rw [fldAt_putFld_ne _ _ _ _ _ _ ht, fldAt_putFld_ne _ _ _ _ _ _ hv, sampledRegs]
    split <;> rfl
  · have hctx : ∀ d : Block, (chainLost (setInputs d)).ctxs = d.ctxs := fun d => by
      have e := onlyArrays_ctxs (setInputs_arrays d).1
      exact e
    simp only [getCtx, hctx]
    split <;> simp [samplePins, lose, Block.reset, CtxSt.reset, get_at]

theorem gradeOf_le (m : Nat) : gradeOf m ≤ 4 := by
  unfold gradeOf
  split
  · omega
  · split <;> omega

/-- What the sampled straps read as. -/
theorem sampledRegs_config (en : BitVec 4) (ix : BitVec 3) :
    fldAt (sampledRegs [] en.toNat ix.toNat) .engConfig 0 4 = en.toNat ∧ fldAt (sampledRegs [] en.toNat ix.toNat) .engConfig 4 4 = en.toNat
      ∧ fldAt (sampledRegs [] en.toNat ix.toNat) .engConfig 8 3 = gradeOf en.toNat
      ∧ fldAt (sampledRegs [] en.toNat ix.toNat) .engConfig 12 3 = ix.toNat := by
  have h1 := en.isLt
  have h2 := ix.isLt
  have h3 := gradeOf_le en.toNat
  unfold sampledRegs
  split <;> simp <;> omega

/-- READY is low, and whether the start waits for its image or has ended follows from the grade. -/
theorem sampledRegs_status (en ix : Nat) :
    fldAt (sampledRegs [] en ix) .engStatus 0 1 = 0 ∧ fldAt (sampledRegs [] en ix) .engStatus 2 1 = (if gradeOf en = 0 then 1 else 0)
      ∧ fldAt (sampledRegs [] en ix) .mgtBootStatus 0 4 = (if gradeOf en = 0 then 0 else 1) := by
  have hr : fldAt [] .engStatus 0 1 = 0 := by decide
  have hi : fldAt [] .engStatus 2 1 = 0 := by decide
  have hb : fldAt [] .mgtBootStatus 0 4 = 0 := by decide
  unfold sampledRegs
  by_cases h : gradeOf en = 0 <;> simp [h, hr, hi, hb]

/-- Settles O10: the straps are sampled at the rise of RST_COLD_N, and decide whether a start begins. -/
theorem coldReleaseSamplesTheStraps : Obligations.ColdReleaseSamplesTheStraps := by
  unfold Obligations.ColdReleaseSamplesTheStraps
  intro s en ix h ha
  obtain ⟨hf, hc⟩ := coldRelease_does en ix h ha
  have hp := coldRelease_pins en ix h ha
  have hconf := fun lo wid => hf .engConfig lo wid (by simp) (by simp)
  have hstat := fun lo wid => hf .engStatus lo wid (by simp) (by simp)
  have hboot := fun lo wid => hf .mgtBootStatus lo wid (by simp) (by simp)
  obtain ⟨h0, h4, h8, h12⟩ := sampledRegs_config en ix
  obtain ⟨hready, hinvalid, hphase⟩ := sampledRegs_status en.toNat ix.toNat
  have hgrade := gradeOf_straps en
  refine ⟨{ s with blk := coldRelease s.blk en ix }, rfl, by simp only [hp], by simp only [hp], by simp only [hp], (hconf 0 4).trans h0,
    (hconf 4 4).trans h4, (hconf 12 3).trans h12, ⟨(hconf 8 3).trans (h8.trans hgrade), ?_, ?_⟩, (hstat 0 1).trans hready, hc⟩
  · rw [hstat, hinvalid, hgrade]
    split <;> split <;> omega
  · rw [hboot, hphase, hgrade]
    split <;> split <;> omega

/-- The kind of a notice's word (R372). -/
theorem noticeWord_kind (b : Block) {k : Nat} (c : Option Ctx) (d e : Nat) (j : Bool) (hk : k < 16) :
    (noticeWord b k c d e j).toNat % 16 = k := by
  simp only [noticeWord, BitVec.toNat_ofNat]
  cases c <;> cases j <;> simp only [Bool.false_eq_true, if_false, if_true] <;> omega

/-- Every array is gated in P1 (R347). -/
theorem gateAll_arrays (b : Block) : OnlyArrays b ((allFin 4).foldl (fun b n => modArr b n (fun a => { a with gate := .gated })) b)
    ∧ ∀ n, getArr ((allFin 4).foldl (fun b n => modArr b n (fun a => { a with gate := .gated })) b) n = { getArr b n with gate := .gated } :=
  allFin_modArr (F := fun _ _ a => { a with gate := .gated }) (fun _ _ => rfl) (fun _ _ _ _ => rfl) b

/-- The block that P2 or P3 leaves, before what P3 adds (R349). -/
def poweredDown (b : Block) : Block :=
  setFld (setFld { b with
    power := { b.power with shadowSaves := b.power.shadowSaves + 1, p1Gated := false, wake := 0 }
    steward := { b.steward with running := false, p2Exit := false } } .mgtPwr 2 2 (getFld b .mgtPwr 0 2)) .mgtPwr 4 1 0

theorem poweredDown_state (b : Block) :
    getFld (poweredDown b) .mgtPwr 2 2 = getFld b .mgtPwr 0 2 ∧ getFld (poweredDown b) .mgtPwr 4 1 = 0 := by
  have := fldAt_lt b.regs .mgtPwr 0 2
  simp [poweredDown, getFld_at]
  omega

theorem powerDown_taken {b : Block} (h4 : getFld b .mgtPwr 4 1 = 1) (hr : engineAtRest b = true) (hf : frozenV b = false) (hs : stewardOn b = true) :
    powerDown b = if getFld b .mgtPwr 0 2 = 3 then
      chainLost (notify { poweredDown b with pins := { b.pins with pwrOffOk := true } } 8 none 0 0 false) else poweredDown b := by
  unfold powerDown
  rw [if_neg (by simp [h4, hr, hf, hs])]
  simp only [beq_iff_eq]
  rfl

/-- Settles O17: P1 gates every array, P2 and P3 stop the heartbeat, and the removal of power after P3 loses all but the straps' record. That STATE
reads P3 at once at the end of POWER_DOWN is the model's reading (log 89). -/
theorem powerStatesAreEntered : Obligations.PowerStatesAreEntered := by
  unfold Obligations.PowerStatesAreEntered
  refine ⟨fun s hl hreq hst hu => ?_, fun s hl h4 hr hf hs h2 => ?_, fun s hp hok hpow => ?_⟩
  · obtain ⟨honly, hget⟩ := gateAll_arrays s.blk
    generalize hd : (allFin 4).foldl _ s.blk = d at honly hget
    have hset : p1Enter s.blk = { setFld d .mgtPwr 2 2 1 with power := { d.power with p1Gated := true } } := by
      unfold p1Enter
      rw [if_pos (by simp [pwrState, hreq, hst, hu])]
      simp only [← hd]
    refine ⟨_, (onLive_live p1Enter hl).trans (by rw [hset]), by simp [getFld_at], fun n => ?_, ?_, ?_, ?_⟩
    · exact congrArg ArraySt.gate (hget n)
    · rw [honly]
    · have e := congrArg Block.sram honly
      exact e
    · have e := congrArg Block.groups honly
      exact e
  · have hset := powerDown_taken h4 hr hf hs
    have hlt := getFld_lt s.blk .mgtPwr 0 2
    refine ⟨_, exec_powerDown hl, ?_⟩
    simp only [hset]
    by_cases h3 : getFld s.blk .mgtPwr 0 2 = 3
    · simp only [if_pos h3]
      generalize hx : ({ poweredDown s.blk with pins := { s.blk.pins with pwrOffOk := true } } : Block) = x
      obtain ⟨n, hn⟩ := notify_frame x 8 none 0 0 false
      have hregs := notify_recordOnly x 8 none 0 0 false
      have hstate : getFld (notify x 8 none 0 0 false) .mgtPwr 2 2 = 3 :=
        (hregs.getFld rfl 2 2).trans (by rw [← hx, ← h3]; exact (poweredDown_state _).1)
      refine ⟨hstate.trans h3.symm, (hregs.getFld rfl 4 1).trans (by rw [← hx]; exact (poweredDown_state _).2), ?_, ?_, ?_, ?_, fun hroom => ?_⟩
      · rw [hn, ← hx]; rfl
      · rw [hn, ← hx]; rfl
      · rw [chainLost_pins, hn, ← hx]; rfl
      · have e : pwrState (chainLost (notify x 8 none 0 0 false)) = 3 := hstate
        have e' : getFld (chainLost (notify x 8 none 0 0 false)) .mgtPwr 2 2 = 3 := e
        simp [bypassed, e']
      · have hq : x.notices = s.blk.notices := by rw [← hx]; rfl
        have hnew : x.noticeNew = s.blk.noticeNew := by rw [← hx]; rfl
        exact ⟨_, noticeAdded_congr (notify_added 8 none 0 0 false (hq ▸ hroom)) hq hnew rfl, noticeWord_kind x none 0 0 false (by omega)⟩
    · simp only [if_neg h3]
      exact ⟨(poweredDown_state _).1, (poweredDown_state _).2, rfl, rfl, rfl, rfl⟩
  · have hset : powerRemoval s.blk = { lose s.blk { s.blk.pins with powered := false } with jtag := Jtag.reset } := by
      unfold powerRemoval
      rw [if_pos (by simp [pwrState, hp, hok, hpow])]
    refine ⟨{ s with blk := powerRemoval s.blk }, rfl, by rw [hset]; rfl, ?_⟩
    simp only [hset]
    exact ⟨by simp [live, lose], fun r => rfl, trivial⟩

end Sys2Proof.Proofs.Power

/-! SUPPORT. What the reading of memory under ECC and the raising of codes can do, and what the chain unit does beside its own state. -/

namespace Sys2Proof.Proofs.Reads

open Sys2Proof Sys2Proof.Machine Sys2Proof.Laws Sys2Proof.Proofs.Fields Sys2Proof.Proofs.Reports

/-- The registers that a raised code, a notice or an error of a word shows in (R317 to R323, R340, R372). -/
def faultReg : Reg → Bool
  | .engEventCnt _ | .mgtEcc | .mgtEccLog => true
  | r => recordReg r

/-- From `b` to `d` nothing has happened but reads under ECC, codes and notices (R16, R319 to R323, R340). -/
structure ReadOnly (b d : Block) : Prop where
  frame : d = { b with
    regs := d.regs, coins := d.coins, ecc1 := d.ecc1, acts := d.acts, freeTick := d.freeTick, ctxs := d.ctxs, notices := d.notices
    noticeNew := d.noticeNew, recNext := d.recNext, engFault := d.engFault }
  regs : ∀ r, faultReg r = false → rawReg d r = rawReg b r
  stops : StopsOnly b d

theorem ReadOnly.refl (b : Block) : ReadOnly b b := ⟨rfl, fun _ _ => rfl, .refl b⟩

theorem ReadOnly.trans {b d e : Block} (h : ReadOnly b d) (k : ReadOnly d e) : ReadOnly b e := by
  refine ⟨?_, fun r hr => (k.regs r hr).trans (h.regs r hr), h.stops.trans k.stops⟩
  have h1 := h.frame
  have k1 := k.frame
  rw [h1] at k1
  exact k1

theorem ReadOnly.after {b d e : Block} (k : ReadOnly d e) (h : ReadOnly b d) : ReadOnly b e := h.trans k

theorem ReadOnly.foldl {β : Type} {f : Block → β → Block} (hf : ∀ b x, ReadOnly b (f b x)) (l : List β) (b : Block) : ReadOnly b (l.foldl f b) :=
  l.foldlRecOn f (motive := ReadOnly b) (.refl b) (fun d h x _ => h.trans (hf d x))

theorem ReadOnly.getFld {b d : Block} (h : ReadOnly b d) {r : Reg} (hr : faultReg r = false) (lo wid : Nat) :
    getFld d r lo wid = getFld b r lo wid := by
  simp only [Machine.getFld, h.regs r hr]

theorem ReadOnly.beat {b d : Block} (h : ReadOnly b d) : d.beat = b.beat := by rw [h.frame]
theorem ReadOnly.pins {b d : Block} (h : ReadOnly b d) : d.pins = b.pins := by rw [h.frame]
theorem ReadOnly.pegs {b d : Block} (h : ReadOnly b d) : d.pegs = b.pegs := by rw [h.frame]
theorem ReadOnly.entries {b d : Block} (h : ReadOnly b d) : d.entries = b.entries := by rw [h.frame]
theorem ReadOnly.sram {b d : Block} (h : ReadOnly b d) : d.sram = b.sram := by rw [h.frame]
theorem ReadOnly.boot {b d : Block} (h : ReadOnly b d) : d.boot = b.boot := by rw [h.frame]
theorem ReadOnly.streams {b d : Block} (h : ReadOnly b d) : d.streams = b.streams := by rw [h.frame]
theorem ReadOnly.mp {b d : Block} (h : ReadOnly b d) : d.mp = b.mp := by rw [h.frame]
theorem ReadOnly.tlb {b d : Block} (h : ReadOnly b d) : d.tlb = b.tlb := by rw [h.frame]
theorem ReadOnly.walks {b d : Block} (h : ReadOnly b d) : d.walks = b.walks := by rw [h.frame]
theorem ReadOnly.arrays {b d : Block} (h : ReadOnly b d) : d.arrays = b.arrays := by rw [h.frame]
theorem ReadOnly.groups {b d : Block} (h : ReadOnly b d) : d.groups = b.groups := by rw [h.frame]
theorem ReadOnly.kiln {b d : Block} (h : ReadOnly b d) : d.kiln = b.kiln := by rw [h.frame]
theorem ReadOnly.xfers {b d : Block} (h : ReadOnly b d) : d.xfers = b.xfers := by rw [h.frame]
theorem ReadOnly.grants {b d : Block} (h : ReadOnly b d) : d.grants = b.grants := by rw [h.frame]
theorem ReadOnly.jobs {b d : Block} (h : ReadOnly b d) : d.jobs = b.jobs := by rw [h.frame]
theorem ReadOnly.rules {b d : Block} (h : ReadOnly b d) : d.rules = b.rules := by rw [h.frame]
theorem ReadOnly.line {b d : Block} (h : ReadOnly b d) : d.line = b.line := by rw [h.frame]
theorem ReadOnly.fabTags {b d : Block} (h : ReadOnly b d) : d.fabTags = b.fabTags := by rw [h.frame]
theorem ReadOnly.fabTx {b d : Block} (h : ReadOnly b d) : d.fabTx = b.fabTx := by rw [h.frame]
theorem ReadOnly.fabLoop {b d : Block} (h : ReadOnly b d) : d.fabLoop = b.fabLoop := by rw [h.frame]
theorem ReadOnly.posts {b d : Block} (h : ReadOnly b d) : d.posts = b.posts := by rw [h.frame]
theorem ReadOnly.chks {b d : Block} (h : ReadOnly b d) : d.chks = b.chks := by rw [h.frame]
theorem ReadOnly.launch {b d : Block} (h : ReadOnly b d) : d.launch = b.launch := by rw [h.frame]
theorem ReadOnly.launchRead {b d : Block} (h : ReadOnly b d) : d.launchRead = b.launchRead := by rw [h.frame]
theorem ReadOnly.rst {b d : Block} (h : ReadOnly b d) : d.rst = b.rst := by rw [h.frame]
theorem ReadOnly.steward {b d : Block} (h : ReadOnly b d) : d.steward = b.steward := by rw [h.frame]
theorem ReadOnly.power {b d : Block} (h : ReadOnly b d) : d.power = b.power := by rw [h.frame]
theorem ReadOnly.cp {b d : Block} (h : ReadOnly b d) : d.cp = b.cp := by rw [h.frame]
theorem ReadOnly.cpQ {b d : Block} (h : ReadOnly b d) : d.cpQ = b.cpQ := by rw [h.frame]
theorem ReadOnly.inbuf {b d : Block} (h : ReadOnly b d) : d.inbuf = b.inbuf := by rw [h.frame]
theorem ReadOnly.rlocks {b d : Block} (h : ReadOnly b d) : d.rlocks = b.rlocks := by rw [h.frame]
theorem ReadOnly.ecc2 {b d : Block} (h : ReadOnly b d) : d.ecc2 = b.ecc2 := by rw [h.frame]
theorem ReadOnly.chain_eq {b d : Block} (h : ReadOnly b d) : d.chain = b.chain := by rw [h.frame]

theorem setRaw_readOnly (b : Block) {r : Reg} (v : W64) (hr : faultReg r = true) : ReadOnly b (setRaw b r v) :=
  ⟨rfl, fun r' h => rawReg_setRaw_ne b v (by rintro rfl; rw [h] at hr; cases hr), .of_ctxs rfl⟩

theorem bumpFld_readOnly (b : Block) {r : Reg} (lo wid n : Nat) (hr : faultReg r = true) : ReadOnly b (bumpFld b r lo wid n) :=
  ⟨rfl, (setRaw_readOnly b _ hr).regs, .of_ctxs rfl⟩

theorem hwSet_readOnly (b : Block) {r : Reg} (lo : Nat) (hr : faultReg r = true) : ReadOnly b (hwSet b r lo) :=
  ⟨rfl, (setRaw_readOnly b _ hr).regs, .of_ctxs rfl⟩

theorem notify_readOnly (b : Block) (k : Nat) (c : Option Ctx) (d e : Nat) (j : Bool) : ReadOnly b (notify b k c d e j) := by
  refine ⟨?_, fun r hr => (notify_recordOnly b k c d e j).regs r ?_, notify_stops ..⟩
  · obtain ⟨n, h⟩ := notify_frame b k c d e j
    rw [h]
    rfl
  · cases r <;> first | rfl | exact hr

theorem raise_readOnly (b : Block) (code : Code) (t : Site) : ReadOnly b (raise b code t) := by
  refine ⟨?_, fun r hr => ((raise_recordOnly b code t).regs r ?_).trans (rawReg_setFld_ne b _ _ _ ?_), raise_stops ..⟩
  · obtain ⟨n, x, k, e, h⟩ := raise_frame b code t
    rw [h]
    rfl
  · cases r <;> first | rfl | exact hr
  · rintro rfl
    cases hr

theorem eccLog_readOnly (b : Block) (w : Nat) (u s : Bool) : ReadOnly b (eccLog b w u s) :=
  (setRaw_readOnly b _ rfl).trans (hwSet_readOnly _ 63 rfl)

/-- A read under ECC corrects single errors, counts and logs (R340). -/
theorem eccRead_readOnly (b : Block) (lo n : Nat) (scrub : Bool) : ReadOnly b (eccRead b lo n scrub).1 := by
  have hone : ∀ (lo wid : Nat) (u : Bool) (d : Block) (w : Nat), ReadOnly d (eccLog (bumpFld d .mgtEcc lo wid 1) w u scrub) :=
    fun lo wid u d w => (bumpFld_readOnly d lo wid 1 rfl).trans (eccLog_readOnly _ w u scrub)
  unfold eccRead
  dsimp only
  refine ReadOnly.trans ?_ (ReadOnly.foldl (hone 32 16 true) _ _)
  refine ReadOnly.trans ?_ (ReadOnly.foldl (hone 0 32 false) _ _)
  exact ⟨rfl, fun _ _ => rfl, .of_ctxs rfl⟩

theorem tickFree_readOnly (b : Block) : ReadOnly b (tickFree b) := ⟨rfl, fun _ _ => rfl, .of_ctxs rfl⟩

theorem countAct_readOnly (b : Block) (f : Acts → Acts) : ReadOnly b (countAct b f) := ⟨rfl, fun _ _ => rfl, .of_ctxs rfl⟩

theorem countSram_readOnly (b : Block) (lo n : Nat) : ReadOnly b (countSram b lo n) := ⟨rfl, fun _ _ => rfl, .of_ctxs rfl⟩

/-! ### The chain unit -/

/-- From `b` to `d` only the chain unit has worked: its own state, fresh words in its slots, and what reads and codes do. -/
structure ChainOnly (b d : Block) : Prop where
  read : ReadOnly { b with chain := d.chain, ecc2 := d.ecc2 } d

theorem ReadOnly.beside {b d : Block} (h : ReadOnly b d) (x : ChainSt) (l : List Nat) :
    ReadOnly { b with chain := x, ecc2 := l } { d with chain := x, ecc2 := l } := by
  refine ⟨?_, h.regs, ⟨h.stops.ctx⟩⟩
  have e := congrArg (fun y : Block => ({ y with chain := x, ecc2 := l } : Block)) h.frame
  exact e

theorem ReadOnly.chain {b d : Block} (h : ReadOnly b d) : ChainOnly b d := by
  have e3 : ({ b with chain := d.chain, ecc2 := d.ecc2 } : Block) = b := by rw [h.chain_eq, h.ecc2]
  exact ⟨e3.symm ▸ h⟩

theorem ChainOnly.refl (b : Block) : ChainOnly b b := (ReadOnly.refl b).chain

theorem ChainOnly.trans {b d e : Block} (h : ChainOnly b d) (k : ChainOnly d e) : ChainOnly b e :=
  ⟨(h.read.beside e.chain e.ecc2).trans k.read⟩

theorem ChainOnly.after {b d e : Block} (k : ChainOnly d e) (h : ChainOnly b d) : ChainOnly b e := h.trans k

theorem ChainOnly.foldl {β : Type} {f : Block → β → Block} (hf : ∀ b x, ChainOnly b (f b x)) (l : List β) (b : Block) : ChainOnly b (l.foldl f b) :=
  l.foldlRecOn f (motive := ChainOnly b) (.refl b) (fun d h x _ => h.trans (hf d x))

theorem ChainOnly.stops {b d : Block} (h : ChainOnly b d) : StopsOnly b d := ⟨h.read.stops.ctx⟩

theorem ChainOnly.regs {b d : Block} (h : ChainOnly b d) {r : Reg} (hr : faultReg r = false) : rawReg d r = rawReg b r := h.read.regs r hr

theorem ChainOnly.getFld {b d : Block} (h : ChainOnly b d) {r : Reg} (hr : faultReg r = false) (lo wid : Nat) :
    getFld d r lo wid = getFld b r lo wid := h.read.getFld hr lo wid

theorem ChainOnly.beat {b d : Block} (h : ChainOnly b d) : d.beat = b.beat := by rw [h.read.frame]
theorem ChainOnly.pins {b d : Block} (h : ChainOnly b d) : d.pins = b.pins := by rw [h.read.frame]
theorem ChainOnly.pegs {b d : Block} (h : ChainOnly b d) : d.pegs = b.pegs := by rw [h.read.frame]
theorem ChainOnly.entries {b d : Block} (h : ChainOnly b d) : d.entries = b.entries := by rw [h.read.frame]
theorem ChainOnly.sram {b d : Block} (h : ChainOnly b d) : d.sram = b.sram := by rw [h.read.frame]
theorem ChainOnly.boot {b d : Block} (h : ChainOnly b d) : d.boot = b.boot := by rw [h.read.frame]
theorem ChainOnly.streams {b d : Block} (h : ChainOnly b d) : d.streams = b.streams := by rw [h.read.frame]
theorem ChainOnly.mp {b d : Block} (h : ChainOnly b d) : d.mp = b.mp := by rw [h.read.frame]
theorem ChainOnly.tlb {b d : Block} (h : ChainOnly b d) : d.tlb = b.tlb := by rw [h.read.frame]
theorem ChainOnly.walks {b d : Block} (h : ChainOnly b d) : d.walks = b.walks := by rw [h.read.frame]
theorem ChainOnly.arrays {b d : Block} (h : ChainOnly b d) : d.arrays = b.arrays := by rw [h.read.frame]
theorem ChainOnly.groups {b d : Block} (h : ChainOnly b d) : d.groups = b.groups := by rw [h.read.frame]
theorem ChainOnly.kiln {b d : Block} (h : ChainOnly b d) : d.kiln = b.kiln := by rw [h.read.frame]
theorem ChainOnly.xfers {b d : Block} (h : ChainOnly b d) : d.xfers = b.xfers := by rw [h.read.frame]
theorem ChainOnly.grants {b d : Block} (h : ChainOnly b d) : d.grants = b.grants := by rw [h.read.frame]
theorem ChainOnly.jobs {b d : Block} (h : ChainOnly b d) : d.jobs = b.jobs := by rw [h.read.frame]
theorem ChainOnly.rules {b d : Block} (h : ChainOnly b d) : d.rules = b.rules := by rw [h.read.frame]
theorem ChainOnly.line {b d : Block} (h : ChainOnly b d) : d.line = b.line := by rw [h.read.frame]
theorem ChainOnly.fabTags {b d : Block} (h : ChainOnly b d) : d.fabTags = b.fabTags := by rw [h.read.frame]
theorem ChainOnly.fabTx {b d : Block} (h : ChainOnly b d) : d.fabTx = b.fabTx := by rw [h.read.frame]
theorem ChainOnly.fabLoop {b d : Block} (h : ChainOnly b d) : d.fabLoop = b.fabLoop := by rw [h.read.frame]
theorem ChainOnly.posts {b d : Block} (h : ChainOnly b d) : d.posts = b.posts := by rw [h.read.frame]
theorem ChainOnly.chks {b d : Block} (h : ChainOnly b d) : d.chks = b.chks := by rw [h.read.frame]
theorem ChainOnly.launch {b d : Block} (h : ChainOnly b d) : d.launch = b.launch := by rw [h.read.frame]
theorem ChainOnly.launchRead {b d : Block} (h : ChainOnly b d) : d.launchRead = b.launchRead := by rw [h.read.frame]
theorem ChainOnly.rst {b d : Block} (h : ChainOnly b d) : d.rst = b.rst := by rw [h.read.frame]
theorem ChainOnly.steward {b d : Block} (h : ChainOnly b d) : d.steward = b.steward := by rw [h.read.frame]
theorem ChainOnly.power {b d : Block} (h : ChainOnly b d) : d.power = b.power := by rw [h.read.frame]
theorem ChainOnly.cp {b d : Block} (h : ChainOnly b d) : d.cp = b.cp := by rw [h.read.frame]
theorem ChainOnly.cpQ {b d : Block} (h : ChainOnly b d) : d.cpQ = b.cpQ := by rw [h.read.frame]
theorem ChainOnly.inbuf {b d : Block} (h : ChainOnly b d) : d.inbuf = b.inbuf := by rw [h.read.frame]
theorem ChainOnly.rlocks {b d : Block} (h : ChainOnly b d) : d.rlocks = b.rlocks := by rw [h.read.frame]

theorem modChain_chainOnly (b : Block) (f : ChainSt → ChainSt) : ChainOnly b (modChain b f) := ⟨.refl _⟩

theorem modTileC_chainOnly (b : Block) (i : Nat) (f : ChTile → ChTile) : ChainOnly b (modTileC b i f) := modChain_chainOnly ..

theorem slotWrite_chainOnly (b : Block) (f : Frame) : ChainOnly b (slotWrite b f) := ⟨rfl, fun _ _ => rfl, .of_ctxs rfl⟩

theorem slotRead_chainOnly (b : Block) (f : Frame) : ChainOnly b (slotRead b f).1 := (eccRead_readOnly ..).chain

theorem keepFrame_chainOnly (b : Block) (f : Frame) : ChainOnly b (keepFrame b f) := by
  have hread := slotRead_chainOnly b f
  unfold keepFrame
  generalize slotRead b f = p at hread
  obtain ⟨d, bad⟩ := p
  dsimp only at hread ⊢
  refine ((slotWrite_chainOnly _ _).after (modChain_chainOnly _ _)).after (hread.trans ?_)
  split
  · exact ((tickFree_readOnly d).trans (raise_readOnly _ _ _)).chain
  · exact .refl d

theorem cutTile_chainOnly (b : Block) (t : ChTile) : ChainOnly b (cutTile b t) := by
  unfold cutTile
  dsimp only
  split
  · exact .refl b
  · split
    · exact ((ChainOnly.foldl keepFrame_chainOnly _ b).trans (modChain_chainOnly _ _)).trans (modChain_chainOnly _ _)
    · exact (modChain_chainOnly b _).trans (modChain_chainOnly _ _)

theorem freeSlots_chainOnly (b : Block) : ChainOnly b (freeSlots b) := ⟨.refl _⟩

theorem holdUpdate_chainOnly (b : Block) : ChainOnly b (holdUpdate b) := ⟨.refl _⟩

theorem chainSettle_chainOnly (b : Block) : ChainOnly b (chainSettle b) := by
  have hcut : ChainOnly b (if b.chain.cut then b.chain.tiles.foldl cutTile b else b) := by
    split
    · exact ChainOnly.foldl cutTile_chainOnly _ b
    · exact .refl b
  exact (hcut.trans (freeSlots_chainOnly _)).trans (holdUpdate_chainOnly _)

theorem cutClear_chainOnly (b : Block) : ChainOnly b (cutClear b) := by
  unfold cutClear
  split
  · exact modChain_chainOnly ..
  · exact .refl b

theorem takeTile_chainOnly (b : Block) (i : Nat) : ChainOnly b (takeTile b i) :=
  (((modChain_chainOnly b _).trans (modTileC_chainOnly _ _ _)).trans (chainSettle_chainOnly _)).trans (cutClear_chainOnly _)

theorem fenceChain_chainOnly (b : Block) (c : Ctx) : ChainOnly b (fenceChain b c) := by
  unfold fenceChain
  dsimp only
  generalize hd : (if b.entries.any (fun e => decide (e.ctx = c) && e.started && wOpc e.word.toNat == 0x48) = true then
    modChain b (fun x => { x with ownTile := false }) else b) = d
  have hown : ChainOnly b d := by
    rw [← hd]
    split
    · exact modChain_chainOnly ..
    · exact .refl b
  split
  · split
    · exact hown.trans (takeTile_chainOnly d _)
    · exact hown
  · exact hown

end Sys2Proof.Proofs.Reads

/-! SUPPORT. Which contexts an engine reset by RST_ENG_N fences, and what the compute reset leaves of contexts, groups and requests. Settles O14. -/

namespace Sys2Proof.Proofs.ResetPin

open Sys2Proof Sys2Proof.Machine Sys2Proof.Laws Sys2Proof.Proofs.Store Sys2Proof.Proofs.Commands Sys2Proof.Proofs.Fields Sys2Proof.Proofs.Reports
open Sys2Proof.Proofs.Reads Sys2Proof.Proofs.EngReset Sys2Proof.Proofs.Power

/-! ### Contexts that a reset has to fence -/

/-- A context that a reset leaves alone: FREE, or in QUARANTINE (R330). -/
def Resting (b : Block) (c : Ctx) : Prop := (getCtx b c).state = .free ∨ (getCtx b c).state = .quarantine

/-- A context that is not at rest stays so. -/
structure BusyKept (b d : Block) : Prop where
  busy : ∀ c, ¬ Resting b c → ¬ Resting d c

theorem BusyKept.trans {b d e : Block} (h : BusyKept b d) (k : BusyKept d e) : BusyKept b e := ⟨fun c hc => k.busy c (h.busy c hc)⟩

theorem BusyKept.foldl {β : Type} {f : Block → β → Block} (hf : ∀ b x, BusyKept b (f b x)) (l : List β) (b : Block) : BusyKept b (l.foldl f b) :=
  l.foldlRecOn f (motive := BusyKept b) ⟨fun _ h => h⟩ (fun _ h x _ => h.trans (hf _ x))

theorem BusyKept.of_stops {b d : Block} (h : StopsOnly b d) : BusyKept b d := by
  refine ⟨fun c hc => ?_⟩
  unfold Resting at *
  rcases h.ctx c with h1 | ⟨-, h1⟩ <;> rw [h1]
  · exact hc
  · simp

theorem BusyKept.of_modCtx (b : Block) (c : Ctx) {f : CtxSt → CtxSt} (hf : (f (getCtx b c)).state = (getCtx b c).state ∨ (f (getCtx b c)).state = .fencing) :
    BusyKept b (modCtx b c f) := by
  refine ⟨fun d hd => ?_⟩
  unfold Resting at *
  by_cases h : d = c
  · subst h
    rw [getCtx_modCtx]
    rcases hf with hf | hf <;> rw [hf]
    · exact hd
    · simp
  · rwa [getCtx_modCtx_ne b f h]

theorem chargeRemote_busy {b d : Block} {c : Ctx} {n : Nat} (h : chargeRemote b c n = some d) : BusyKept b d := by
  unfold chargeRemote at h
  split at h
  · cases h
    exact .of_modCtx b c (.inl rfl)
  · cases h

theorem sendRequest_stops (b : Block) (hdr : BitVec 512) (data : List Byte) : StopsOnly b (sendRequest b hdr data) := by
  unfold sendRequest
  split <;> exact .of_ctxs rfl

theorem sendTagged_busy {b d : Block} {c : Ctx} {gen : BitVec 16} {peer : Nat} {kind : FabKind} {pk beats arg mask : Nat} {data : List Byte}
    (h : sendTagged b c gen peer kind pk beats arg mask data = some d) : BusyKept b d := by
  unfold sendTagged at h
  split at h
  · rename_i t b' ht hb
    cases h
    refine (chargeRemote_busy hb).trans (.of_stops ((sendRequest_stops _ _ _).after ?_))
    exact .of_ctxs rfl
  · cases h

theorem sendRevokes_busy (b : Block) (c : Ctx) : BusyKept b (sendRevokes b c) := by
  unfold sendRevokes
  split
  · exact ⟨fun _ h => h⟩
  · refine BusyKept.foldl (fun d i => ?_) _ b
    split
    · rename_i hd
      exact (sendTagged_busy hd).trans (.of_modCtx _ c (.inl rfl))
    · exact ⟨fun _ h => h⟩

theorem fenceKiln_stops (b : Block) (c : Ctx) : StopsOnly b (fenceKiln b c) := by
  unfold fenceKiln
  dsimp only
  generalize hd : (allFin 64).foldl _ b = d
  have hgroups : StopsOnly b d := by
    subst hd
    refine StopsOnly.foldl (fun e g => ?_) _ b
    split
    · exact .of_ctxs rfl
    · exact .refl e
  exact hgroups.trans (.of_ctxs rfl)

/-- Discarding a context's work changes no context, but for those that a word of the chain buffer stops (R327, R341). -/
theorem fenceWork_stops (b : Block) (c : Ctx) : StopsOnly b (fenceWork b c) := by
  unfold fenceWork
  dsimp only
  have harrays : ∀ (d : Block) (n : Arr), StopsOnly d (fenceArray d c n) := fun _ _ => .of_ctxs rfl
  have hunits := (fenceChain_chainOnly b c).stops.trans (StopsOnly.foldl harrays (allFin 4) _)
  have hkiln := hunits.trans (fenceKiln_stops _ c)
  generalize fenceKiln _ c = d at hkiln
  generalize hx : (allFin 4).foldl _ d = x
  have hchks : StopsOnly d x := by
    subst hx
    refine StopsOnly.foldl (fun e n => ?_) _ d
    split
    · exact .of_ctxs rfl
    · exact .refl e
  exact (hkiln.trans hchks).trans (.of_ctxs rfl)

theorem contextReset_busy (b : Block) (c : Ctx) : BusyKept b (contextReset b c) := by
  by_cases h : resettable (getCtx b c).state = true
  · have htags : ∀ d, StopsOnly d (fenceTags d c) := fun d => .of_ctxs rfl
    rw [contextReset_taken h, fenceStart_eq]
    exact ((BusyKept.of_modCtx b c (.inr rfl)).trans (.of_stops ((fenceWork_stops _ c).trans (htags _)))).trans (sendRevokes_busy _ c)
  · rw [contextReset_ignored h]
    exact ⟨fun _ h => h⟩

/-- A context that was not at rest is in FENCING after its context reset. -/
theorem contextReset_fencing {b : Block} {c : Ctx} (h : ¬ Resting b c) : (getCtx (contextReset b c) c).state = .fencing := by
  by_cases hr : resettable (getCtx b c).state = true
  · rw [contextReset_taken hr]
    exact (fenceStart_fencing b c).1
  · rw [contextReset_ignored hr]
    unfold Resting at h
    generalize (getCtx b c).state = x at h hr ⊢
    cases x <;> simp_all [resettable]

theorem contextReset_resting {b : Block} {c : Ctx} (h : Resting b c) : contextReset b c = b := by
  refine contextReset_ignored ?_
  rcases h with h | h <;> simp [h, resettable]

/-- The resets of contexts in turn: where all were at rest nothing happens, and any other is in FENCING in the end. -/
theorem contextResets_resting {b : Block} (h : ∀ c, Resting b c) (l : List Ctx) : l.foldl contextReset b = b := by
  induction l with
  | nil => rfl
  | cons c l ih => rw [List.foldl_cons, contextReset_resting (h c), ih]

theorem contextResets_fencing {c : Ctx} (l : List Ctx) {b : Block} (hm : c ∈ l) (hb : ¬ Resting b c) :
    (getCtx (l.foldl contextReset b) c).state = .fencing := by
  induction l generalizing b with
  | nil => cases hm
  | cons x l ih =>
    rw [List.foldl_cons]
    by_cases hx : c = x
    · subst hx
      exact ((FencesKept.foldl contextReset_fences l _).fencing c (contextReset_fencing hb)).1
    · exact ih ((List.mem_cons.mp hm).resolve_left hx) ((contextReset_busy b x).busy c hb)

/-- The fence of an engine reset is complete at once just where every context was at rest (R330). -/
theorem engineResetStart_rst (b : Block) : ((∀ c, Resting b c) → (engineResetStart b).rst = .computeReset)
    ∧ ((¬ ∀ c, Resting b c) → (engineResetStart b).rst = .fencing) := by
  rw [engineResetStart_eq]
  have hbusy : ∀ c, Resting (setFld { b with rst := .fencing } .engStatus 0 1 0) c ↔ Resting b c := fun _ => Iff.rfl
  have hphase : (setFld { b with rst := .fencing } .engStatus 0 1 0).rst = .fencing := rfl
  generalize setFld { b with rst := .fencing } .engStatus 0 1 0 = d at hbusy hphase
  refine ⟨fun h => ?_, fun h => ?_⟩
  · rw [contextResets_resting (fun c => (hbusy c).mpr (h c)), resetGoesOn, if_pos]
    have hall : (allFin 16).all (fun c => decide ((getCtx d c).state ≠ .fencing)) = true := by
      rw [List.all_eq_true]
      intro c _
      rcases (hbusy c).mpr (h c) with hc | hc <;> simp [hc]
    rw [hphase, hall]
    rfl
  · obtain ⟨c, hc⟩ := Classical.not_forall.mp h
    have hf := contextResets_fencing (allFin 16) (mem_allFin c) (fun hd => hc ((hbusy c).mp hd))
    have hfences : FencesKept d ((allFin 16).foldl contextReset d) := FencesKept.foldl contextReset_fences _ d
    rw [resetGoesOn, if_neg]
    · exact hfences.rst.trans hphase
    · intro hgo
      have hall := (Bool.and_eq_true _ _).mp hgo
      have := of_decide_eq_true (List.all_eq_true.mp hall.2 c (mem_allFin c))
      exact this hf

/-! ### The compute reset -/

/-- The engine's part of the chain unit: nothing but the chain unit works. -/
theorem chainEngineReset_chainOnly (b : Block) : ChainOnly b (chainEngineReset b) := (modChain_chainOnly b _).trans (chainSettle_chainOnly _)

/-- A context at rest is no context that a code stops. -/
theorem Resting.stands {b : Block} {c : Ctx} (h : Resting b c) : faultable b c = false := by
  rcases h with h | h <;> simp [faultable, h]

/-- The parts of the block that the compute reset speaks of. -/
structure SameParts (b d : Block) : Prop where
  pins : d.pins = b.pins
  rst : d.rst = b.rst
  sram : d.sram = b.sram
  mp : d.mp = b.mp
  entries : d.entries = b.entries
  groups : d.groups = b.groups
  ctx : ∀ c, getCtx d c = getCtx b c

/-- The chain unit's reset and the input levels touch none of them while every context is at rest. -/
theorem resetTail_parts {b : Block} (h : ∀ c, Resting b c) : SameParts b (setInputs (chainEngineReset b)) := by
  have hc := chainEngineReset_chainOnly b
  have hs := (setInputs_arrays (chainEngineReset b)).1
  have hctx : ∀ c, getCtx (setInputs (chainEngineReset b)) c = getCtx b c := fun c => by
    rw [getCtx, onlyArrays_ctxs hs]
    exact hc.stops.stands (h c).stands
  refine ⟨?_, ?_, ?_, ?_, ?_, ?_, hctx⟩
  · exact (by rw [hs] : _ = _).trans hc.pins
  · exact (by rw [hs] : _ = _).trans hc.rst
  · exact (by rw [hs] : _ = _).trans hc.sram
  · exact (by rw [hs] : _ = _).trans hc.mp
  · exact (by rw [hs] : _ = _).trans hc.entries
  · exact (by rw [hs] : _ = _).trans hc.groups

/-- A context after the compute reset. -/
def resetState (adv : Bool) (x : CtxSt) : CtxSt :=
  { CtxSt.reset with state := if x.state = .quarantine then .quarantine else .free, gen := if adv then x.gen + 1#16 else x.gen }

/-- What the compute reset leaves beside the registers (R330, R332). -/
structure ComputeReset (b d : Block) (adv : Bool) : Prop where
  pins : d.pins = b.pins
  rst : d.rst = b.rst
  sram : d.sram = b.sram
  mp : d.mp = b.mp
  entries : d.entries = []
  groups : d.groups = Vector.replicate 64 GroupSt.reset
  ctx : ∀ c, getCtx d c = resetState adv (getCtx b c)

theorem ComputeReset.of_parts {b x d : Block} {adv : Bool} (h : SameParts x d) (hp : x.pins = b.pins) (hr : x.rst = b.rst) (hs : x.sram = b.sram)
    (hm : x.mp = b.mp) (he : x.entries = []) (hg : x.groups = Vector.replicate 64 GroupSt.reset)
    (hc : ∀ c, getCtx x c = resetState adv (getCtx b c)) : ComputeReset b d adv :=
  ⟨h.pins.trans hp, h.rst.trans hr, h.sram.trans hs, h.mp.trans hm, h.entries.trans he, h.groups.trans hg, fun c => (h.ctx c).trans (hc c)⟩

theorem resetState_resting (adv : Bool) (x : CtxSt) : (resetState adv x).state = .free ∨ (resetState adv x).state = .quarantine := by
  unfold resetState
  dsimp only
  split
  · exact .inr rfl
  · exact .inl rfl

theorem computeReset_does (b : Block) (adv : Bool) : ComputeReset b (computeReset b adv) adv := by
  unfold computeReset
  dsimp only
  generalize hd : hwSet { samplePins (resetRegs (fun k => decide (k ≠ .K)) b) with coins := [] } .engStatus 4 = d
  obtain ⟨honly, hget⟩ := allFin_modCtx (step := fun c x => resetCtx c adv x) (F := fun _ _ => resetState adv) (fun _ _ => rfl) (fun _ _ _ _ => rfl) d
  generalize (allFin 16).foldl (fun c x => resetCtx c adv x) d = x at honly hget
  have hx : ∀ c, getCtx x c = resetState adv (getCtx b c) := fun c => by rw [hget, ← hd]; rfl
  have hparts : x.pins = b.pins ∧ x.rst = b.rst ∧ x.sram = b.sram ∧ x.mp = b.mp := by
    rw [honly, ← hd]
    exact ⟨rfl, rfl, rfl, rfl⟩
  obtain ⟨hpins, hrst, hsram, hmp⟩ := hparts
  refine ComputeReset.of_parts (resetTail_parts (fun c => ?_)) hpins hrst hsram hmp rfl rfl hx
  unfold Resting
  have e : getCtx x c = _ := hx c
  exact e.symm ▸ resetState_resting adv (getCtx b c)

/-- Settles O14: the pin's fall fences what is not at rest, its rise resets the compute part once more. That the compute reset holds while the pin is
low, and that the rise leaves it for the next beat to end, is the model's reading (log 84, with log 3). -/
theorem engineResetPin : Obligations.EngineResetPin := by
  unfold Obligations.EngineResetPin
  refine ⟨fun s hl hp hr hph => ?_, fun s hl hp hr => ?_⟩
  · have hset : rstEngAssert s.blk = engineResetStart { s.blk with pins := { s.blk.pins with rstEng := false } } := by
      have hcold : coldStarting { s.blk with pins := { s.blk.pins with rstEng := false } } = false := by
        have e : getFld { s.blk with pins := { s.blk.pins with rstEng := false } } .mgtBootStatus 0 4 = getFld s.blk .mgtBootStatus 0 4 := rfl
        simp only [coldStarting, e, Bool.and_eq_false_imp, decide_eq_false_iff_not]
        omega
      have hnot : ¬ (!s.blk.pins.rstEng) = true := by simp [hp]
      rw [rstEngAssert, if_neg hnot]
      dsimp only
      rw [hcold]
      simp only [hr, Bool.false_eq_true, if_false]
    obtain ⟨-, hready, hsram⟩ := engineResetStart_began { s.blk with pins := { s.blk.pins with rstEng := false } }
    refine ⟨_, exec_rstEngNAssert hl, rstEngAssert_pins _, ?_⟩
    simp only [hset]
    refine ⟨?_, hready, hsram⟩
    obtain ⟨hall, hsome⟩ := engineResetStart_rst { s.blk with pins := { s.blk.pins with rstEng := false } }
    split
    · next h => exact hall h
    · next h => exact hsome h
  · have hset : rstEngRelease s.blk = computeReset { s.blk with pins := { s.blk.pins with rstEng := true } } false := by
      simp only [rstEngRelease, hp, hr, Bool.false_eq_true, if_false]
    have hd := computeReset_does { s.blk with pins := { s.blk.pins with rstEng := true } } false
    refine ⟨_, exec_rstEngNRelease hl, rstEngRelease_pins _, ?_⟩
    simp only [hset]
    refine ⟨hd.rst.trans hr, fun c => ?_, fun g => ?_, hd.sram, hd.entries, hd.mp⟩
    · have e := hd.ctx c
      rw [e]
      exact ⟨rfl, rfl⟩
    · rw [getGrp, hd.groups]
      simp [get_at, GroupSt.reset]

end Sys2Proof.Proofs.ResetPin

/-! SUPPORT. How a start ends: Verify, the self-test with its counts and retirements, READY or FAILED. Settles O20 and O21. -/

namespace Sys2Proof.Proofs.StartUp

open Sys2Proof Sys2Proof.Machine Sys2Proof.Laws Sys2Proof.Proofs.IssueStage Sys2Proof.Proofs.Fields Sys2Proof.Proofs.Reports Sys2Proof.Proofs.Reads

/-! ### The end of a start -/

/-- The registers that the end of a start writes (R362, R364, R396, R397, R404). -/
def startReg : Reg → Bool
  | .mgtBootStatus | .engStatus | .engConfig | .mgtFw | .dbgChal _ | .dbgChalStatus | .engNotice => true
  | _ => false

/-- From `b` to `d` only registers, notices and the steward have changed, and no other registers than those of a start. -/
structure StartOnly (b d : Block) : Prop where
  frame : d = { b with regs := d.regs, coins := d.coins, notices := d.notices, noticeNew := d.noticeNew, steward := d.steward }
  regs : ∀ r, startReg r = false → rawReg d r = rawReg b r

theorem StartOnly.refl (b : Block) : StartOnly b b := ⟨rfl, fun _ _ => rfl⟩

theorem StartOnly.trans {b d e : Block} (h : StartOnly b d) (k : StartOnly d e) : StartOnly b e := by
  refine ⟨?_, fun r hr => (k.regs r hr).trans (h.regs r hr)⟩
  have h1 := h.frame
  have k1 := k.frame
  rw [h1] at k1
  exact k1

theorem StartOnly.after {b d e : Block} (k : StartOnly d e) (h : StartOnly b d) : StartOnly b e := h.trans k

theorem StartOnly.getFld {b d : Block} (h : StartOnly b d) {r : Reg} (hr : startReg r = false) (lo wid : Nat) :
    getFld d r lo wid = getFld b r lo wid := by
  simp only [Machine.getFld, h.regs r hr]

theorem StartOnly.pins {b d : Block} (h : StartOnly b d) : d.pins = b.pins := by rw [h.frame]
theorem StartOnly.sram {b d : Block} (h : StartOnly b d) : d.sram = b.sram := by rw [h.frame]
theorem StartOnly.rst {b d : Block} (h : StartOnly b d) : d.rst = b.rst := by rw [h.frame]

theorem setFld_startOnly (b : Block) {r : Reg} (lo wid v : Nat) (hr : startReg r = true) : StartOnly b (setFld b r lo wid v) :=
  ⟨rfl, fun r' h => rawReg_setRaw_ne b _ (by rintro rfl; rw [h] at hr; cases hr)⟩

theorem setRaw_startOnly (b : Block) {r : Reg} (v : W64) (hr : startReg r = true) : StartOnly b (setRaw b r v) :=
  ⟨rfl, fun r' h => rawReg_setRaw_ne b v (by rintro rfl; rw [h] at hr; cases hr)⟩

theorem steward_startOnly (b : Block) (x : StewardSt) : StartOnly b { b with steward := x } := ⟨rfl, fun _ _ => rfl⟩

theorem notify_startOnly (b : Block) (k : Nat) (c : Option Ctx) (d e : Nat) (j : Bool) : StartOnly b (notify b k c d e j) := by
  obtain ⟨n, h⟩ := notify_frame b k c d e j
  refine ⟨by rw [h]; rfl, fun r hr => ?_⟩
  by_cases hn : r = .engNotice
  · subst hn
    cases hr
  · unfold notify
    dsimp only
    split
    · rfl
    · exact rawReg_setFld_ne _ _ _ _ hn

/-- A notice leaves the state of the start as it is. -/
theorem notify_fld (b : Block) (k : Nat) (c : Option Ctx) (d e : Nat) (j : Bool) {r : Reg} (hr : recordReg r = false) (lo wid : Nat) :
    getFld (notify b k c d e j) r lo wid = getFld b r lo wid := (notify_recordOnly b k c d e j).getFld hr lo wid

/-- A start that ends in FAILED shows its REASON and START_FAIL, and READY is low (R364). -/
structure Failed (d : Block) (reason : Nat) : Prop where
  phase : getFld d .mgtBootStatus 0 4 = 8
  reason : getFld d .mgtBootStatus 4 4 = reason % 16
  fail : getFld d .engStatus 1 1 = 1
  ready : getFld d .engStatus 0 1 = 0

theorem failStart_startOnly (b : Block) (reason : Nat) : StartOnly b (failStart b reason) :=
  (((notify_startOnly _ 7 none reason 0 false).after (steward_startOnly _ _)).after (setFld_startOnly _ 0 1 0 rfl)).after
    ((setFld_startOnly _ 1 1 1 rfl).after (setFld_startOnly b 0 8 _ rfl))

theorem failStart_failed (b : Block) (reason : Nat) : Failed (failStart b reason) reason := by
  unfold failStart
  refine ⟨?_, ?_, ?_, ?_⟩ <;> rw [notify_fld _ _ _ _ _ _ rfl] <;> simp [getFld_at]
  all_goals omega

theorem placeChallenge_startOnly (b : Block) : StartOnly b (placeChallenge b) := by
  unfold placeChallenge
  dsimp only
  refine (setFld_startOnly _ 2 1 1 rfl).after ((steward_startOnly _ _).after ?_)
  exact (allFin 6).foldlRecOn _ (motive := StartOnly b) (.refl b) (fun d h k _ => h.trans (setRaw_startOnly d _ rfl))

/-- A challenge touches neither the state of the start nor ENG_STATUS and ENG_CONFIG. -/
theorem placeChallenge_raw (b : Block) {r : Reg} (h1 : ∀ k, r ≠ .dbgChal k) (h2 : r ≠ .dbgChalStatus) : rawReg (placeChallenge b) r = rawReg b r := by
  unfold placeChallenge
  dsimp only
  rw [rawReg_setFld_ne _ _ _ _ h2]
  exact (allFin 6).foldlRecOn _ (motive := fun d : Block => rawReg d r = rawReg b r) rfl (fun d h k _ => (rawReg_setRaw_ne d _ (h1 k)).trans h)

theorem placeChallenge_fld (b : Block) {r : Reg} (h1 : ∀ k, r ≠ .dbgChal k) (h2 : r ≠ .dbgChalStatus) (lo wid : Nat) :
    getFld (placeChallenge b) r lo wid = getFld b r lo wid := by
  simp only [Machine.getFld, placeChallenge_raw b h1 h2]

theorem Failed.challenge {d : Block} {reason : Nat} (h : Failed d reason) : Failed (placeChallenge d) reason :=
  ⟨(placeChallenge_fld d (by simp) (by simp) 0 4).trans h.phase, (placeChallenge_fld d (by simp) (by simp) 4 4).trans h.reason,
    (placeChallenge_fld d (by simp) (by simp) 1 1).trans h.fail, (placeChallenge_fld d (by simp) (by simp) 0 1).trans h.ready⟩

theorem heldReset_high {b : Block} (h : b.pins.rstEng = true) : heldReset b = b := by simp only [heldReset, h, if_true]

/-! ### Verify -/

theorem verifyReason_lt (b : Block) : verifyReason b < 5 := by
  unfold verifyReason
  dsimp only
  repeat' split
  all_goals omega

theorem bootVerified_taken {b : Block} (h2 : getFld b .mgtBootStatus 0 4 = 2) (hh : dbgHalted b = false) (hr : b.rst = .idle)
    (hp : b.steward.p2Exit = false) : bootVerified b = if verifyReason b = 0 then
      setFld { repair b with sram := [], ecc1 := [], ecc2 := [] } .mgtBootStatus 0 4 5 else heldReset (placeChallenge (failStart b (verifyReason b))) := by
  unfold bootVerified
  rw [if_neg (by simp [h2, hh, hr, hp])]
  generalize verifyReason b = r
  cases r <;> rfl

theorem repair_boot (b : Block) : (repair b).boot = b.boot := by
  unfold repair
  dsimp only
  split <;> rfl

/-- Settles O20: Verify of a cold start sends an accepted image to the self-test, with the SRAM at zero, and ends the start of any other. -/
theorem verifyDecidesTheStart : Obligations.VerifyDecidesTheStart := by
  unfold Obligations.VerifyDecidesTheStart
  intro s hl h2 hh hr hp hpin
  have hset := bootVerified_taken h2 hh hr hp
  have hlt := verifyReason_lt s.blk
  generalize verifyReason s.blk = reason at hset hlt ⊢
  by_cases hv : reason = 0
  · rw [if_pos hv] at hset
    refine ⟨_, (onLive_live bootVerified hl).trans (by rw [hset]), ?_⟩
    rw [if_pos hv]
    exact ⟨getFld_setFld _ _ _ (by omega), fun _ => rfl, repair_boot _⟩
  · rw [if_neg hv] at hset
    have hs := (failStart_startOnly s.blk reason).trans (placeChallenge_startOnly _)
    have hf := (failStart_failed s.blk reason).challenge
    have hmod : reason % 16 = reason := Nat.mod_eq_of_lt (by omega)
    rw [heldReset_high (by rw [hs.pins]; exact hpin)] at hset
    generalize placeChallenge (failStart s.blk reason) = d at hs hf hset
    refine ⟨{ s with blk := d }, hset ▸ onLive_pins hl (by rw [hset]; exact hs.pins), ?_⟩
    rw [if_neg hv]
    exact ⟨hf.phase, hf.reason.trans hmod, hf.fail, hf.ready, hs.sram⟩

/-! ### The self-test -/

theorem eccLog_ecc (b : Block) (w : Nat) (u s : Bool) : rawReg (eccLog b w u s) .mgtEcc = rawReg b .mgtEcc := by
  unfold eccLog
  rw [rawReg_hwSet, rawReg_setFld_ne _ _ _ _ (by simp), rawReg_setRaw_ne _ _ (by simp)]

/-- One bad word that the SRAM test found is counted and logged (R340, R341). -/
def logBad (b : Block) (q : Nat × Bool) : Block := eccLog (if q.2 then bumpFld b .mgtEcc 32 16 1 else bumpFld b .mgtEcc 0 32 1) q.1 q.2 false

theorem marchLog_eq (b : Block) (found : List (Nat × Bool)) : marchLog b found = (marchWords b found).foldl logBad b := rfl

theorem logBad_readOnly (b : Block) (q : Nat × Bool) : ReadOnly b (logBad b q) := by
  unfold logBad
  refine (eccLog_readOnly _ _ _ _).after ?_
  split <;> exact bumpFld_readOnly _ _ _ _ rfl

theorem logBad_low (b : Block) (q : Nat × Bool) :
    getFld (logBad b q) .mgtEcc 0 32 = if q.2 then getFld b .mgtEcc 0 32 else min (2 ^ 32 - 1) (getFld b .mgtEcc 0 32 + 1) := by
  have e : getFld (logBad b q) .mgtEcc 0 32 = getFld (if q.2 then bumpFld b .mgtEcc 32 16 1 else bumpFld b .mgtEcc 0 32 1) .mgtEcc 0 32 := by
    simp only [getFld, logBad, eccLog_ecc]
  rw [e]
  split
  · exact getFld_setFld_apart b .mgtEcc _ (by omega) (by omega)
  · exact getFld_bumpFld b .mgtEcc 1 (by omega)

theorem logBad_high (b : Block) (q : Nat × Bool) :
    getFld (logBad b q) .mgtEcc 32 16 = if q.2 then min (2 ^ 16 - 1) (getFld b .mgtEcc 32 16 + 1) else getFld b .mgtEcc 32 16 := by
  have e : getFld (logBad b q) .mgtEcc 32 16 = getFld (if q.2 then bumpFld b .mgtEcc 32 16 1 else bumpFld b .mgtEcc 0 32 1) .mgtEcc 32 16 := by
    simp only [getFld, logBad, eccLog_ecc]
  rw [e]
  split
  · exact getFld_bumpFld b .mgtEcc 1 (by omega)
  · exact getFld_setFld_apart b .mgtEcc _ (by omega) (by omega)

/-- Words that can be corrected and words that cannot are counted apart, each count up to its limit (R340). -/
theorem logBad_counts (l : List (Nat × Bool)) (b : Block) :
    getFld (l.foldl logBad b) .mgtEcc 0 32 = min (2 ^ 32 - 1) (getFld b .mgtEcc 0 32 + (l.filter (fun q => !q.2)).length)
      ∧ getFld (l.foldl logBad b) .mgtEcc 32 16 = min (2 ^ 16 - 1) (getFld b .mgtEcc 32 16 + (l.filter (·.2)).length) := by
  induction l generalizing b with
  | nil =>
    have h1 := getFld_lt b .mgtEcc 0 32
    have h2 := getFld_lt b .mgtEcc 32 16
    simp only [List.foldl_nil, List.filter_nil, List.length_nil]
    omega
  | cons q l ih =>
    obtain ⟨h1, h2⟩ := ih (logBad b q)
    rw [List.foldl_cons, h1, h2, logBad_low, logBad_high]
    cases hq : q.2 <;> simp only [hq, List.filter_cons, Bool.not_false, Bool.not_true, Bool.false_eq_true, if_true, if_false, List.length_cons]
    · exact ⟨by omega, trivial⟩
    · exact ⟨trivial, by omega⟩

theorem marchLog_readOnly (b : Block) (found : List (Nat × Bool)) : ReadOnly b (marchLog b found) := ReadOnly.foldl logBad_readOnly _ b

/-! ### Retired arrays -/

theorem bitAt_testBit (x i : Nat) : bitAt x i = x.testBit i := by
  rw [bitAt, Nat.testBit_eq_decide_div_mod_eq, Nat.shiftRight_eq_div_pow]
  rfl

theorem testBit_fifteen_sub {x : Nat} (h : x < 16) (i : Nat) : (15 - x).testBit i = (decide (i < 4) && !x.testBit i) := by
  rw [show 15 - x = 2 ^ 4 - (x + 1) by omega]
  exact Nat.testBit_two_pow_sub_succ h i

/-- The arrays that a test retires, beside those retired before: the enabled ones among those that failed. -/
def retiredBy (cfg ret fails : Nat) : Nat := ret ||| (fails &&& cfg &&& (15 - ret))

theorem retiredBy_lt {cfg ret fails : Nat} (h : ret < 16) : retiredBy cfg ret fails < 16 :=
  Nat.or_lt_two_pow (n := 4) h (Nat.lt_of_le_of_lt Nat.and_le_right (by omega))

theorem retiredBy_left {cfg ret fails : Nat} (h : ret < 16) (hf : fails < 16) : cfg &&& (15 - retiredBy cfg ret fails) = cfg &&& (15 - (ret ||| fails)) := by
  apply Nat.eq_of_testBit_eq
  intro i
  rw [Nat.testBit_and, Nat.testBit_and, testBit_fifteen_sub (retiredBy_lt h), testBit_fifteen_sub (Nat.or_lt_two_pow (n := 4) h hf)]
  simp only [retiredBy, Nat.testBit_or, Nat.testBit_and, testBit_fifteen_sub h]
  cases cfg.testBit i <;> cases ret.testBit i <;> cases fails.testBit i <;> cases decide (i < 4) <;> rfl

theorem retiredBy_bit {cfg ret fails i : Nat} (h : ret < 16) (hi : i < 4) (hc : bitAt cfg i = true) (hf : fails.testBit i = true) :
    bitAt (retiredBy cfg ret fails) i = true := by
  rw [bitAt_testBit] at *
  simp only [retiredBy, Nat.testBit_or, Nat.testBit_and, testBit_fifteen_sub h, hc, hf, decide_eq_true hi]
  cases ret.testBit i <;> rfl

/-- The arrays of a mask of four. -/
theorem marchRetire_eq (b : Block) (found : List (Nat × Bool)) :
    marchRetire b found = (if (marchWords b found).any (fun q => q.2 && q.1 / 0x1000000 == 0) then 1 else 0)
      + (if (marchWords b found).any (fun q => q.2 && q.1 / 0x1000000 == 1) then 2 else 0)
      + (if (marchWords b found).any (fun q => q.2 && q.1 / 0x1000000 == 2) then 4 else 0)
      + (if (marchWords b found).any (fun q => q.2 && q.1 / 0x1000000 == 3) then 8 else 0) := by
  simp only [marchRetire, List.range_succ, List.range_zero, List.nil_append, List.foldl_append, List.foldl_cons, List.foldl_nil, Nat.zero_add]
  rfl

theorem marchRetire_lt (b : Block) (found : List (Nat × Bool)) : marchRetire b found < 16 := by
  rw [marchRetire_eq]
  split <;> split <;> split <;> split <;> omega

/-- The bits of a mask of four. -/
theorem mask4_testBit (p : Fin 4 → Bool) (n : Fin 4) : ((if p 0 then 1 else 0) + (if p 1 then 2 else 0) + (if p 2 then 4 else 0)
    + (if p 3 then 8 else 0) : Nat).testBit n.val = p n := by
  have h : ∀ a b c d : Bool, ∀ n : Fin 4, ((if a then 1 else 0) + (if b then 2 else 0) + (if c then 4 else 0) + (if d then 8 else 0) : Nat).testBit n.val
      = [a, b, c, d].getD n.val false := by decide
  rw [h]
  match n with
  | 0 => rfl
  | 1 => rfl
  | 2 => rfl
  | 3 => rfl

theorem marchRetire_testBit (b : Block) (found : List (Nat × Bool)) (n : Arr) :
    (marchRetire b found).testBit n.val = (marchWords b found).any (fun q => q.2 && q.1 / 0x1000000 == n.val) := by
  rw [marchRetire_eq]
  exact mask4_testBit (fun n => (marchWords b found).any (fun q => q.2 && q.1 / 0x1000000 == n.val)) n

/-- A test retires enabled arrays; ARRAY_TEST_FAIL of the start shows which (R363). -/
theorem testRetire_does (b : Block) (fails : Nat) :
    getFld (testRetire b fails) .mgtRetire 0 4 = retiredBy (getFld b .engConfig 4 4) (getFld b .mgtRetire 0 4) fails
      ∧ (∀ r, r ≠ .mgtRetire → r ≠ .mgtBootStatus → rawReg (testRetire b fails) r = rawReg b r)
      ∧ (testRetire b fails).pins = b.pins := by
  unfold testRetire
  dsimp only
  refine ⟨?_, fun r h1 h2 => ?_, rfl⟩
  · have := retiredBy_lt (cfg := getFld b .engConfig 4 4) (fails := fails) (getFld_lt b .mgtRetire 0 4)
    rw [getFld_setFld_ne _ _ _ _ _ _ (by simp), getFld_setFld _ _ _ (by omega)]
    exact Nat.mod_eq_of_lt this
  · rw [rawReg_setFld_ne _ _ _ _ h2, rawReg_setFld_ne _ _ _ _ h1]

/-- The firmware's start makes the engine READY with the arrays that are left (R362, R396). -/
theorem firmwareStart_startOnly (b : Block) : StartOnly b (firmwareStart b) := by
  unfold firmwareStart
  dsimp only
  exact (steward_startOnly _ _).after (((setFld_startOnly _ 0 1 1 rfl).after (setFld_startOnly _ 0 8 7 rfl)).after
    ((setRaw_startOnly _ _ rfl).after ((setFld_startOnly _ 8 3 _ rfl).after (setFld_startOnly b 0 4 _ rfl))))

/-- A start that has ended READY, in PHASE 7, with its steward beating (R362). -/
structure Ready (d : Block) (left : Nat) : Prop where
  phase : getFld d .mgtBootStatus 0 4 = 7
  ready : getFld d .engStatus 0 1 = 1
  map : getFld d .engConfig 0 4 = left
  running : d.steward.running = true

theorem firmwareStart_ready (b : Block) : Ready (firmwareStart b) (getFld b .engConfig 4 4 &&& (15 - getFld b .mgtRetire 0 4)) := by
  have hlt : getFld b .engConfig 4 4 &&& (15 - getFld b .mgtRetire 0 4) < 2 ^ 4 := Nat.lt_of_le_of_lt Nat.and_le_right (by omega)
  unfold firmwareStart
  dsimp only
  generalize getFld b .engConfig 4 4 &&& (15 - getFld b .mgtRetire 0 4) = m at hlt
  exact ⟨by simp [getFld_at], by simp [getFld_at], by simp [getFld_at]; omega, rfl⟩

theorem Ready.told {d : Block} {m : Nat} (h : Ready d m) (k : Nat) (c : Option Ctx) (x e : Nat) (j : Bool) : Ready (notify d k c x e j) m := by
  obtain ⟨n, hn⟩ := notify_frame d k c x e j
  refine ⟨(notify_fld _ _ _ _ _ _ rfl _ _).trans h.phase, (notify_fld _ _ _ _ _ _ rfl _ _).trans h.ready,
    (notify_fld _ _ _ _ _ _ rfl _ _).trans h.map, ?_⟩
  rw [hn]
  exact h.running

theorem Ready.challenge {d : Block} {m : Nat} (h : Ready d m) : Ready (placeChallenge d) m := by
  refine ⟨(placeChallenge_fld d (by simp) (by simp) 0 4).trans h.phase, (placeChallenge_fld d (by simp) (by simp) 0 1).trans h.ready,
    (placeChallenge_fld d (by simp) (by simp) 0 4).trans h.map, ?_⟩
  exact h.running

/-- The REASON with which a self-test ends, or 0 (R364). -/
def testReason (unitFail sramFail : Bool) (left : Nat) : Nat :=
  if unitFail = true then 5 else if sramFail = true then 6 else if popcount4 left < 3 then 7 else 0

theorem testReason_lt (u s : Bool) (left : Nat) : testReason u s left < 16 := by
  unfold testReason
  split
  · omega
  · split
    · omega
    · split <;> omega

/-- The end of a start after the self-test. -/
def testEnd (d : Block) (unitFail sramFail : Bool) : Block :=
  if unitFail then failStart d 5
  else if sramFail then failStart d 6
  else if popcount4 (getFld d .engConfig 4 4 &&& (15 - getFld d .mgtRetire 0 4)) < 3 then failStart d 7
  else notify (firmwareStart d) 7 none 0 0 false

theorem testEnd_startOnly (d : Block) (u s : Bool) : StartOnly d (testEnd d u s) := by
  unfold testEnd
  split
  · exact failStart_startOnly d 5
  · split
    · exact failStart_startOnly d 6
    · split
      · exact failStart_startOnly d 7
      · exact (firmwareStart_startOnly d).trans (notify_startOnly _ _ _ _ _ _)

theorem testEnd_does (d : Block) (u s : Bool) {left : Nat} (hl : getFld d .engConfig 4 4 &&& (15 - getFld d .mgtRetire 0 4) = left) :
    if testReason u s left = 0 then Ready (testEnd d u s) left else Failed (testEnd d u s) (testReason u s left) := by
  unfold testEnd testReason
  rw [hl]
  cases u
  · cases s
    · by_cases hp : popcount4 left < 3
      · simpa [hp] using failStart_failed d 7
      · have h := hl ▸ firmwareStart_ready d
        simpa [hp] using h.told 7 none 0 0 false
    · simpa using failStart_failed d 6
  · simpa using failStart_failed d 5

theorem startUpEnd_taken {b : Block} (fails : Nat) (u : Bool) (found : List (Nat × Bool)) (h5 : getFld b .mgtBootStatus 0 4 = 5)
    (hh : dbgHalted b = false) (hv : frozenV b = false) : startUpEnd b fails u found = heldReset (placeChallenge
      (testEnd (testRetire (marchLog b found) (fails ||| marchRetire b found)) u
        ((marchWords b found).any (fun q => q.2 && decide (4 ≤ q.1 / 0x1000000))))) := by
  unfold startUpEnd
  rw [if_neg (by simp [h5, hh, hv])]
  rfl

/-- Settles O21: the self-test counts what it found, retires the arrays that failed, and ends in READY or in the first REASON that applies. -/
theorem selfTestEndsTheStart : Obligations.SelfTestEndsTheStart := by
  unfold Obligations.SelfTestEndsTheStart
  intro s f u found hl h5 hh hv hpin
  have hset := startUpEnd_taken f.toNat u found h5 hh hv
  have hlog := marchLog_readOnly s.blk found
  obtain ⟨hret, hkeep, hpins⟩ := testRetire_does (marchLog s.blk found) (f.toNat ||| marchRetire s.blk found)
  obtain ⟨hlow, hhigh⟩ := logBad_counts (marchWords s.blk found) s.blk
  rw [← marchLog_eq] at hlow hhigh
  rw [hlog.getFld rfl, hlog.getFld rfl] at hret
  generalize hd : testRetire (marchLog s.blk found) (f.toNat ||| marchRetire s.blk found) = d at hset hret hkeep hpins
  have hsub := hkeep .mgtEcc (by simp) (by simp)
  have hcfg : getFld d .engConfig 4 4 = getFld s.blk .engConfig 4 4 := by
    rw [getFld, hkeep .engConfig (by simp) (by simp)]
    exact hlog.getFld rfl 4 4
  have hfails : f.toNat ||| marchRetire s.blk found < 16 := Nat.or_lt_two_pow (n := 4) f.isLt (marchRetire_lt _ _)
  have hr16 := getFld_lt s.blk .mgtRetire 0 4
  have hleft : getFld d .engConfig 4 4 &&& (15 - getFld d .mgtRetire 0 4)
      = getFld s.blk .engConfig 4 4 &&& (15 - (getFld s.blk .mgtRetire 0 4 ||| (f.toNat ||| marchRetire s.blk found))) := by
    rw [hcfg, hret, retiredBy_left hr16 hfails]
  have hend := testEnd_does d u ((marchWords s.blk found).any (fun q => q.2 && decide (4 ≤ q.1 / 0x1000000))) hleft
  have honly := testEnd_startOnly d u ((marchWords s.blk found).any (fun q => q.2 && decide (4 ≤ q.1 / 0x1000000)))
  generalize testEnd d u _ = e at hset hend honly
  have hall := honly.trans (placeChallenge_startOnly e)
  rw [heldReset_high (by rw [hall.pins, hpins, hlog.pins]; exact hpin)] at hset
  have hecc : ∀ lo wid, getFld (placeChallenge e) .mgtEcc lo wid = getFld (marchLog s.blk found) .mgtEcc lo wid := fun lo wid => by
    rw [hall.getFld rfl, getFld, hsub, getFld]
  have hp : (startUpEnd s.blk f.toNat u found).pins = s.blk.pins := by rw [hset, hall.pins, hpins, hlog.pins]
  refine ⟨{ s with blk := placeChallenge e }, hset ▸ onLive_pins (f := fun b => startUpEnd b f.toNat u found) hl hp, ?_⟩
  refine ⟨(hecc 0 32).trans hlow, (hecc 32 16).trans hhigh, fun n hn hc => ?_, ?_⟩
  · rw [(hall.getFld (r := .mgtRetire) rfl 0 4).trans hret]
    refine retiredBy_bit hr16 n.isLt hc ?_
    rw [Nat.testBit_or, marchRetire_testBit]
    exact hn
  · have hlt : testReason u ((marchWords s.blk found).any (fun q => q.2 && decide (4 ≤ q.1 / 0x1000000)))
        (getFld s.blk .engConfig 4 4 &&& (15 - (getFld s.blk .mgtRetire 0 4 ||| (f.toNat ||| marchRetire s.blk found)))) < 16 := testReason_lt ..
    change (if testReason u ((marchWords s.blk found).any (fun q => q.2 && decide (4 ≤ q.1 / 0x1000000)))
        (getFld s.blk .engConfig 4 4 &&& (15 - (getFld s.blk .mgtRetire 0 4 ||| (f.toNat ||| marchRetire s.blk found)))) = 0 then _
      else _ ∧ _ = testReason u ((marchWords s.blk found).any (fun q => q.2 && decide (4 ≤ q.1 / 0x1000000)))
        (getFld s.blk .engConfig 4 4 &&& (15 - (getFld s.blk .mgtRetire 0 4 ||| (f.toNat ||| marchRetire s.blk found)))) ∧ _)
    generalize testReason u _ _ = reason at hend hlt ⊢
    split
    · next h0 =>
      rw [if_pos h0] at hend
      exact ⟨hend.challenge.phase, hend.challenge.ready, hend.challenge.map, hend.challenge.running⟩
    · next h0 =>
      rw [if_neg h0] at hend
      exact ⟨hend.challenge.phase, hend.challenge.reason.trans (Nat.mod_eq_of_lt hlt), hend.challenge.ready⟩

end Sys2Proof.Proofs.StartUp

/-! SUPPORT. The steward's periodic duties and the end of a window of the cone. Settles O23 and O24. -/

namespace Sys2Proof.Proofs.Steward

open Sys2Proof Sys2Proof.Machine Sys2Proof.Laws Sys2Proof.Proofs.IssueStage Sys2Proof.Proofs.Fields Sys2Proof.Proofs.Reports
open Sys2Proof.Proofs.Reads Sys2Proof.Proofs.StartUp Sys2Proof.Proofs.Power

/-! ### The cone -/

/-- A window of the cone is booked: counted where THROTTLE was set, its status written, its onset raised (R353). -/
def coneBooked (b : Block) (was on : Bool) (w : W64) : Block :=
  if on && !was then raise (setRaw (if was then bumpFld b .mgtConeCnt 0 32 1 else b) .mgtConeStatus w) .coneThrottle { unit := 0xE }
  else setRaw (if was then bumpFld b .mgtConeCnt 0 32 1 else b) .mgtConeStatus w

/-- What a booked window leaves. -/
structure ConeBooked (b d : Block) (was : Bool) (w : W64) : Prop where
  links : OnlyLinks b d
  ctxs : d.ctxs = b.ctxs
  status : rawReg d .mgtConeStatus = w
  count : getFld d .mgtConeCnt 0 32 = if was = true then min (2 ^ 32 - 1) (getFld b .mgtConeCnt 0 32 + 1) else getFld b .mgtConeCnt 0 32

theorem coneBooked_does (b : Block) (was on : Bool) (w : W64) : ConeBooked b (coneBooked b was on w) was w := by
  generalize hd : setRaw (if was then bumpFld b .mgtConeCnt 0 32 1 else b) .mgtConeStatus w = d
  have hbook : ConeBooked b d was w := by
    subst hd
    refine ⟨?_, ?_, rawReg_setRaw .., ?_⟩
    · cases was <;> rfl
    · cases was <;> rfl
    · rw [getFld_setRaw_ne _ _ _ _ (by simp)]
      cases was
      · rfl
      · exact getFld_bumpFld b .mgtConeCnt 1 (by omega)
  unfold coneBooked
  rw [hd]
  split
  · have hrec := raise_recordOnly d .coneThrottle { unit := 0xE }
    refine ⟨hbook.links.trans (raise_links _ _ _), (raise_event_ctxs _ _ _ rfl).trans hbook.ctxs, ?_, ?_⟩
    · rw [hrec.regs _ rfl, rawReg_bumpFld, rawReg_setFld_ne _ _ _ _ (by simp)]
      exact hbook.status
    · rw [raise_fld _ _ _ rfl (by simp)]
      exact hbook.count
  · exact hbook

/-- The word of MGT_CONE_STATUS. -/
def coneWord (c w level on : Nat) : W64 := BitVec.ofNat 64 (c + w * 2 ^ 32 + level * 2 ^ 42 + on * 2 ^ 49)

/-- LEVEL and THROTTLE of that word (R353). -/
theorem coneWord_fields {c w level on : Nat} (hc : c < 2 ^ 32) (hw : w < 1024) (hl : level < 2 ^ 7) (ho : on < 2) :
    (coneWord c w level on).toNat >>> 49 % 2 ^ 1 = on ∧ (coneWord c w level on).toNat >>> 42 % 2 ^ 7 = level := by
  simp only [coneWord, BitVec.toNat_ofNat, Nat.shiftRight_eq_div_pow]
  omega

/-- The end of a window books it under some status, THROTTLE 0 and LEVEL 64 where the cone is off, and begins the next (R352, R353). -/
theorem coneWindow_taken {b : Block} (h : b.power.coneAt + 350 ≤ b.beat) : ∃ (c w level : Nat) (on : Bool), c < 2 ^ 32 ∧ w < 1024
    ∧ (getFld b .mgtConeLimits 30 1 = 0 → on = false ∧ level = 64)
    ∧ coneWindow b = (let d := coneBooked b (getFld b .mgtConeStatus 49 1 == 1) on (coneWord c w level (b2n on))
        setInputs (tickFree { d with acts := Acts.zero, power := { d.power with coneAt := d.power.coneAt + 350 } })) := by
  unfold coneWindow
  rw [if_neg (by omega)]
  extract_lets mhz e sus peak budget hyst c1 c w1 w above lv was on target level
  refine ⟨c, w, level, on, ?_, ?_, fun h0 => ?_, rfl⟩
  · show (if c1 < 2 ^ 32 then c1 else _ % 2 ^ 32) < 2 ^ 32
    split
    · assumption
    · exact Nat.mod_lt _ (by omega)
  · show (if w1 < 1024 then w1 else _ % 1024) < 1024
    split
    · assumption
    · exact Nat.mod_lt _ (by omega)
  · have hon : on = false := by
      show (getFld b .mgtConeLimits 30 1 == 1 && _) = false
      rw [h0]
      rfl
    refine ⟨hon, ?_⟩
    show (if !on then 64 else _) = 64
    rw [hon]
    rfl

/-- Settles O24: the window that ends is booked and the next begins. That a window counts where THROTTLE was set before it is deduced (log 92). -/
theorem coneWindowEnds : Obligations.ConeWindowEnds := by
  unfold Obligations.ConeWindowEnds
  intro s hl hw
  obtain ⟨c, w, level, on, hc, hwin, hoff, hset⟩ := coneWindow_taken hw
  have hd := coneBooked_does s.blk (getFld s.blk .mgtConeStatus 49 1 == 1) on (coneWord c w level (b2n on))
  generalize coneBooked s.blk _ on _ = d at hd hset
  dsimp only at hset
  generalize hx : tickFree { d with acts := Acts.zero, power := { d.power with coneAt := d.power.coneAt + 350 } } = x at hset
  obtain ⟨hin, hget⟩ := setInputs_arrays x
  have hreg : ∀ r, rawReg (setInputs x) r = rawReg d r := fun r => by rw [rawReg_congr (onlyArrays_regs hin), ← hx]; rfl
  have hpins : (coneWindow s.blk).pins = s.blk.pins := by rw [hset, onlyArrays_pins hin, ← hx]; exact hd.links.pins
  refine ⟨{ s with blk := setInputs x }, hset ▸ onLive_pins hl hpins, ?_, ?_, ?_, ?_, fun h0 => ?_, ?_, ?_, ?_, fun n => ?_⟩
  · show (setInputs x).power.coneAt = _
    rw [onlyArrays_power hin, ← hx, hd.links]
    rfl
  · show (setInputs x).acts = _
    rw [hin, ← hx]
    rfl
  · show (setInputs x).freeTick = _
    rw [hin, ← hx, hd.links]
    rfl
  · show getFld (setInputs x) .mgtConeCnt 0 32 = _
    rw [getFld, hreg]
    exact hd.count.trans (by simp)
  · obtain ⟨hon, hlev⟩ := hoff h0
    obtain ⟨hf1, hf2⟩ := coneWord_fields hc hwin (level := level) (on := b2n on) (by omega) (by rw [hon]; decide)
    constructor
    · show getFld (setInputs x) .mgtConeStatus 49 1 = 0
      rw [getFld, hreg, hd.status, hf1, hon]
      rfl
    · show getFld (setInputs x) .mgtConeStatus 42 7 = 64
      rw [getFld, hreg, hd.status, hf2, hlev]
  · show (setInputs x).sram = _
    rw [hin, ← hx]
    exact hd.links.sram
  · show (setInputs x).groups = _
    rw [hin, ← hx]
    exact hd.links.groups
  · show (setInputs x).ctxs = _
    rw [onlyArrays_ctxs hin, ← hx]
    exact hd.ctxs
  · show (getArr (setInputs x) n).pos = _
    rw [hget, ← hx]
    show (d.arrays.get n).pos = _
    rw [hd.links.arrays]
    rfl

/-! ### The heartbeat -/

/-- The pins, the steward and the heartbeat's count are the same in both blocks. -/
structure BeatKept (b d : Block) : Prop where
  pins : d.pins = b.pins
  steward : d.steward = b.steward
  count : rawReg d .mgtHeartbeat = rawReg b .mgtHeartbeat

theorem BeatKept.refl (b : Block) : BeatKept b b := ⟨rfl, rfl, rfl⟩

theorem BeatKept.trans {b d e : Block} (h : BeatKept b d) (k : BeatKept d e) : BeatKept b e :=
  ⟨k.pins.trans h.pins, k.steward.trans h.steward, k.count.trans h.count⟩

theorem BeatKept.after {b d e : Block} (k : BeatKept d e) (h : BeatKept b d) : BeatKept b e := h.trans k

theorem BeatKept.foldl {β : Type} {f : Block → β → Block} (hf : ∀ b x, BeatKept b (f b x)) (l : List β) (b : Block) : BeatKept b (l.foldl f b) :=
  l.foldlRecOn f (motive := BeatKept b) (.refl b) (fun d h x _ => h.trans (hf d x))

theorem BeatKept.of_read {b d : Block} (h : ReadOnly b d) : BeatKept b d := ⟨h.pins, h.steward, h.regs _ rfl⟩

theorem setFld_beatKept (b : Block) {r : Reg} (lo wid v : Nat) (h : Reg.mgtHeartbeat ≠ r) : BeatKept b (setFld b r lo wid v) :=
  ⟨rfl, rfl, rawReg_setFld_ne b lo wid v h⟩

theorem watchCtx_beatKept (b : Block) (c : Ctx) : BeatKept b (watchCtx b c) := by
  unfold watchCtx
  dsimp only
  split
  · exact ⟨rfl, rfl, rfl⟩
  · split
    · exact .refl b
    · split
      · exact (setFld_beatKept _ _ _ _ (by simp)).after ((BeatKept.of_read (raise_readOnly _ _ _)).after ⟨rfl, rfl, rfl⟩)
      · exact ⟨rfl, rfl, rfl⟩

theorem modArr_beatKept (b : Block) (n : Arr) (f : ArraySt → ArraySt) : BeatKept b (modArr b n f) := ⟨rfl, rfl, rfl⟩

theorem modPos_beatKept (b : Block) (n : Arr) (g : Sag) (f : PosSt → PosSt) : BeatKept b (modPos b n g f) := modArr_beatKept ..

theorem clearBank_beatKept (b : Block) (n : Arr) (g : Sag) (t : BankIx) : BeatKept b (clearBank b n g t) := modPos_beatKept ..

theorem poison_beatKept (b : Block) (g : Grp) : BeatKept b (poison b g) := ⟨rfl, rfl, rfl⟩

theorem kiln_beatKept (b : Block) (l : List KRec) : BeatKept b { b with kiln := l } := ⟨rfl, rfl, rfl⟩

theorem abortProblem_beatKept (b : Block) (n : Arr) (g : Sag) (r : PassRun) : BeatKept b (abortProblem b n g r) := by
  have hclear := (modPos_beatKept b n g (fun p => { p with run := none })).trans (clearBank_beatKept _ n g r.bank)
  unfold abortProblem
  split
  · exact (poison_beatKept _ _).after ((kiln_beatKept _ _).after ((modArr_beatKept _ _ _).after hclear))
  · exact (modArr_beatKept _ _ _).after hclear

theorem abortArray_beatKept (b : Block) (n : Arr) : BeatKept b (abortArray b n) := by
  unfold abortArray
  dsimp only
  generalize h1 : (allFin 16).foldl _ b = d
  have hd : BeatKept b d := by
    subst h1
    refine BeatKept.foldl (fun x g => ?_) _ b
    split
    · exact abortProblem_beatKept ..
    · exact .refl x
  generalize h2 : (allFin 16).foldl _ d = e
  have he : BeatKept d e := by
    subst h2
    refine BeatKept.foldl (fun x g => BeatKept.foldl (fun y t => ?_) _ x) _ d
    split
    · exact .refl y
    · split
      · exact (poison_beatKept _ _).after (clearBank_beatKept y n g t)
      · exact clearBank_beatKept y n g t
  generalize h3 : (allFin 4).foldl _ e = f
  have hf : BeatKept e f := by
    subst h3
    refine BeatKept.foldl (fun x k => ?_) _ e
    split
    · exact ⟨rfl, rfl, rfl⟩
    · exact .refl x
  exact (modArr_beatKept _ _ _).after ((hd.trans he).trans hf)

theorem retireArray_beatKept (b : Block) (n : Arr) : BeatKept b (retireArray b n) := by
  unfold retireArray
  dsimp only
  refine (setFld_beatKept _ _ _ _ (by simp)).after ?_
  split
  · exact (BeatKept.of_read (raise_readOnly _ _ _)).after ((abortArray_beatKept _ n).after (setFld_beatKept b _ _ _ (by simp)))
  · exact .refl b

/-- Settles O23: the heartbeat counts, the patrol reads its next line, and a missing heartbeat is told once. -/
theorem stewardDuties : Obligations.StewardDuties := by
  unfold Obligations.StewardDuties
  refine ⟨fun s hl hon hb => ?_, fun s hl hon hp h1 h2 => ?_, fun s hl h2 h24 hlim hroom => ?_⟩
  · generalize hd : wrapFld { s.blk with steward := { s.blk.steward with beatAt := s.blk.beat } } .mgtHeartbeat 0 32 1 = d
    have hset : heartbeat s.blk = (allFin 4).foldl retireArray ((allFin 16).foldl watchCtx d) := by
      unfold heartbeat
      rw [if_neg (by simp [hon]; omega), ← hd]
    have hkept : BeatKept d (heartbeat s.blk) := hset ▸ (BeatKept.foldl watchCtx_beatKept _ d).trans (BeatKept.foldl retireArray_beatKept _ _)
    have hpins : (heartbeat s.blk).pins = s.blk.pins := hkept.pins.trans (by rw [← hd]; rfl)
    refine ⟨_, onLive_pins hl hpins, ?_, ?_⟩
    · show (heartbeat s.blk).steward.beatAt = s.blk.beat
      rw [hkept.steward, ← hd]
      rfl
    · show getFld (heartbeat s.blk) .mgtHeartbeat 0 32 = _
      rw [getFld, hkept.count, ← hd]
      exact getFld_wrapFld _ .mgtHeartbeat 1 (by omega)
  · have hset : scrubPatrol s.blk = { countSram s.blk (patrolLine (patrolRegions s.blk) s.blk.steward.patrol) 64 with steward := { s.blk.steward with
        patrolAt := s.blk.beat
        patrol := if s.blk.steward.patrol + 1 < patrolLines s.blk then s.blk.steward.patrol + 1 else 0 } } := by
      unfold scrubPatrol
      rw [if_neg (by simp [hon]; omega)]
      dsimp only
      rw [eccRead_clean _ _ _ _ h1 h2]
      rfl
    exact ⟨_, onLive_pins hl (by rw [hset]; rfl), hset⟩
  · have hset : swdtLost s.blk = notify (setFld s.blk .mgtSwdt 24 1 1) 9 none 0 0 false := by
      unfold swdtLost
      rw [if_neg]
      simp [inP2, h2, h24]
      omega
    have hfr : swdtLost s.blk = { setFld s.blk .mgtSwdt 24 1 1 with notices := (swdtLost s.blk).notices, noticeNew := (swdtLost s.blk).noticeNew } := by
      rw [hset]
      simp [notify, hroom]
    have hadd := notify_added (b := setFld s.blk .mgtSwdt 24 1 1) 9 none 0 0 false hroom
    have hregs : ∀ r, rawReg (swdtLost s.blk) r = rawReg (setFld s.blk .mgtSwdt 24 1 1) r := fun r => by
      have e := congrArg Block.regs hfr
      exact rawReg_congr e r
    have honly : onlyRegs { s.blk with notices := (swdtLost s.blk).notices, noticeNew := (swdtLost s.blk).noticeNew } (swdtLost s.blk) := by
      obtain ⟨q, m, hx⟩ : ∃ q m, swdtLost s.blk = { setFld s.blk .mgtSwdt 24 1 1 with notices := q, noticeNew := m } := ⟨_, _, hfr⟩
      rw [hx]
      rfl
    refine ⟨_, onLive_pins hl (by rw [hfr]; rfl), ⟨honly, fun r hr => ?_⟩, ?_, noticeWord (setFld s.blk .mgtSwdt 24 1 1) 9 none 0 0 false, ?_,
      noticeWord_kind _ none 0 0 false (by omega)⟩
    · exact (hregs r).trans (rawReg_setFld_ne _ _ _ _ hr)
    · show getFld (swdtLost s.blk) .mgtSwdt 24 1 = 1
      rw [getFld, hregs]
      exact getFld_setFld _ _ _ (by omega)
    · exact noticeAdded_congr hadd rfl rfl (by rw [hset])

end Sys2Proof.Proofs.Steward

/-! SUPPORT. The register map as a table: addresses, fields, and what a write by access code or a read does to each field. Settles O28 to O31. -/

namespace Sys2Proof.Proofs.RegTable

open Sys2Proof Sys2Proof.Machine Sys2Proof.Laws Sys2Proof.Proofs.IssueStage Sys2Proof.Proofs.EngReset Sys2Proof.Proofs.Fields

/-! ### Fields of a word -/

/-- Two fields share no bit. -/
def apart (f g : Field) : Bool := decide (f.lo + f.wid ≤ g.lo) || decide (g.lo + g.wid ≤ f.lo)

/-- A field that lies in the word and is not empty. -/
def fits (f : Field) : Bool := decide (1 ≤ f.wid) && decide (f.lo + f.wid ≤ 64)

/-- Every field fits, and no two share a bit. -/
def fit : List Field → Bool
  | [] => true
  | f :: l => fits f && l.all (apart f) && fit l

theorem fields_fit (r : Reg) : fit r.fields = true := by cases r <;> rfl

theorem addr_fits (r : Reg) : r.addr < 2 ^ 24 ∧ r.addr % 8 = 0 := by
  constructor <;> cases r <;> simp only [Reg.addr] <;> omega

/-- The address of a register as the port's 24 bits. -/
theorem addr_toNat (r : Reg) : (BitVec.ofNat 24 r.addr).toNat = r.addr := by
  rw [BitVec.toNat_ofNat, Nat.mod_eq_of_lt (addr_fits r).1]

theorem fit_cons {f : Field} {l : List Field} : fit (f :: l) = true ↔ fits f = true ∧ (∀ g ∈ l, apart f g = true) ∧ fit l = true := by
  simp only [fit, Bool.and_eq_true, List.all_eq_true, and_assoc]

theorem fits_of_mem : ∀ {l : List Field}, fit l = true → ∀ {f : Field}, f ∈ l → 1 ≤ f.wid ∧ f.lo + f.wid ≤ 64
  | g :: l, h, f, hf => by
    obtain ⟨h1, -, h3⟩ := fit_cons.mp h
    rcases List.mem_cons.mp hf with rfl | hf
    · simpa [fits] using h1
    · exact fits_of_mem h3 hf

theorem apart_iff {f g : Field} : apart f g = true ↔ f.lo + f.wid ≤ g.lo ∨ g.lo + g.wid ≤ f.lo := by simp [apart]

/-- The number in a field of a word. -/
def fldOf (w : W64) (f : Field) : Nat := (w.toNat >>> f.lo) % 2 ^ f.wid

theorem getFld_of (b : Block) (r : Reg) (f : Field) : getFld b r f.lo f.wid = fldOf (rawReg b r) f := rfl

theorem fldOf_lt (w : W64) (f : Field) : fldOf w f < 2 ^ f.wid := Nat.mod_lt _ (Nat.two_pow_pos _)

theorem fldOf_testBit (w : W64) (f : Field) (i : Nat) : (fldOf w f).testBit i = (decide (i < f.wid) && w.getLsbD (f.lo + i)) := fld_testBit ..

/-- Two words that agree on the bits of a field agree on its number. -/
theorem fldOf_congr {w w' : W64} {f : Field} (h : ∀ i, f.lo ≤ i → i < f.lo + f.wid → w.getLsbD i = w'.getLsbD i) : fldOf w f = fldOf w' f := by
  apply Nat.eq_of_testBit_eq
  intro i
  rw [fldOf_testBit, fldOf_testBit]
  by_cases hi : i < f.wid
  · rw [h (f.lo + i) (by omega) (by omega)]
  · simp [hi]

/-- A step that touches one field after another: it leaves the others, and what it makes of its own follows from what that held. -/
structure FieldStep (step : W64 → Field → W64) : Prop where
  others : ∀ w f g, 1 ≤ f.wid → g.lo + g.wid ≤ 64 → apart f g = true → fldOf (step w f) g = fldOf w g
  own : ∀ w w' f, f.lo + f.wid ≤ 64 → 1 ≤ f.wid → fldOf w f = fldOf w' f → fldOf (step w f) f = fldOf (step w' f) f

theorem apart_comm {f g : Field} (h : apart f g = true) : apart g f = true := by rw [apart_iff] at *; omega

theorem FieldStep.stands {step : W64 → Field → W64} (hs : FieldStep step) {g : Field} (hg : g.lo + g.wid ≤ 64) (l : List Field) (w : W64)
    (hl : fit l = true) (ha : ∀ f ∈ l, apart f g = true) : fldOf (l.foldl step w) g = fldOf w g := by
  induction l generalizing w with
  | nil => rfl
  | cons f l ih =>
    have hf := fits_of_mem hl (List.mem_cons_self ..)
    rw [List.foldl_cons, ih _ (fit_cons.mp hl).2.2 (fun x hx => ha x (List.mem_cons_of_mem _ hx))]
    exact hs.others w f g hf.1 hg (ha f (List.mem_cons_self ..))

/-- After the steps of all fields in turn, a field holds what its own step makes of it. -/
theorem FieldStep.foldl {step : W64 → Field → W64} (hs : FieldStep step) (l : List Field) (w : W64) (hl : fit l = true) {f : Field} (hf : f ∈ l) :
    fldOf (l.foldl step w) f = fldOf (step w f) f := by
  induction l generalizing w with
  | nil => cases hf
  | cons g l ih =>
    obtain ⟨-, ha, hl'⟩ := fit_cons.mp hl
    have hfit := fits_of_mem hl hf
    rw [List.foldl_cons]
    by_cases hfl : f ∈ l
    · rw [ih _ hl' hfl]
      exact hs.own _ _ f hfit.2 hfit.1 (hs.others w g f (fits_of_mem hl (List.mem_cons_self ..)).1 hfit.2 (ha f hfl))
    · obtain rfl : f = g := (List.mem_cons.mp hf).resolve_right hfl
      exact hs.stands hfit.2 l _ hl' (fun x hx => apart_comm (ha x hx))

/-! ### A write by access code -/

/-- What a write of `x` makes of a field that held `old` (R8). -/
def writtenFld (acc : Access) (lk : Bool) (x old : Nat) : Nat :=
  match acc with
  | .RW => x
  | .RWL => if lk then old else x
  | .W1C => old - (old &&& x)
  | .W1S => old ||| x
  | .RO | .WO | .RC => old

theorem bitsOf_field {f : Field} (h : 1 ≤ f.wid) (n : Nat) : bitsOf n (f.lo + f.wid - 1) f.lo = (n >>> f.lo) % 2 ^ f.wid := by
  rw [bitsOf, show f.lo + f.wid - 1 + 1 - f.lo = f.wid by omega]

theorem fldOf_insertBits (w : W64) {f : Field} (v : Nat) (h : f.lo + f.wid ≤ 64) : fldOf (insertBits w f.lo f.wid v) f = v % 2 ^ f.wid :=
  fld_insertBits w v h

theorem fldOf_insertBits_apart (w : W64) {f g : Field} (v : Nat) (hg : g.lo + g.wid ≤ 64) (ha : apart f g = true) :
    fldOf (insertBits w f.lo f.wid v) g = fldOf w g := fld_insertBits_apart w v hg (by rw [apart_iff] at ha; omega)

theorem writeField_own (lk : Bool) (v w : W64) {f : Field} (h : f.lo + f.wid ≤ 64) (h1 : 1 ≤ f.wid) :
    fldOf (writeField lk v w f) f = writtenFld f.acc lk (fldOf v f) (fldOf w f) := by
  have hx : (v.toNat >>> f.lo) % 2 ^ f.wid < 2 ^ f.wid := fldOf_lt v f
  have ho : (w.toNat >>> f.lo) % 2 ^ f.wid < 2 ^ f.wid := fldOf_lt w f
  have hor := Nat.or_lt_two_pow ho hx
  unfold writeField writtenFld
  simp only [bitsOf_field h1]
  cases f.acc <;> dsimp only
  case RW => rw [fldOf_insertBits _ _ h]; exact Nat.mod_eq_of_lt hx
  case RWL =>
    cases lk
    · simp only [Bool.false_eq_true, if_false]
      rw [fldOf_insertBits _ _ h]
      exact Nat.mod_eq_of_lt hx
    · simp only [if_true]
  case W1C =>
    rw [fldOf_insertBits _ _ h]
    exact Nat.mod_eq_of_lt (by omega)
  case W1S => rw [fldOf_insertBits _ _ h]; exact Nat.mod_eq_of_lt hor

theorem writeField_step (lk : Bool) (v : W64) : FieldStep (writeField lk v) where
  others w f g _ hg ha := by
    unfold writeField
    cases f.acc <;> dsimp only
    case RW => exact fldOf_insertBits_apart _ _ hg ha
    case RWL =>
      cases lk
      · simp only [Bool.false_eq_true, if_false]
        exact fldOf_insertBits_apart _ _ hg ha
      · simp only [if_true]
    case W1C => exact fldOf_insertBits_apart _ _ hg ha
    case W1S => exact fldOf_insertBits_apart _ _ hg ha
  own w w' f h h1 he := by rw [writeField_own lk v w h h1, writeField_own lk v w' h h1, he]

/-- A bit that hardware set in the beat stays set (R9). -/
def keepStep (b : Block) (r : Reg) (w : W64) (f : Field) : W64 :=
  if decide (f.acc = .W1C) && (coinOf b r f.lo).isSome then insertBits w f.lo 1 1 else w

theorem keepSet_eq (b : Block) (r : Reg) (w : W64) : keepSet b r w = r.fields.foldl (keepStep b r) w := rfl

theorem keepStep_own (b : Block) (r : Reg) (w : W64) {f : Field} (h : f.lo + f.wid ≤ 64) (h1 : 1 ≤ f.wid) :
    fldOf (keepStep b r w f) f = if f.acc = .W1C ∧ (coinOf b r f.lo).isSome = true then fldOf w f ||| 1 else fldOf w f := by
  unfold keepStep
  by_cases hc : f.acc = .W1C ∧ (coinOf b r f.lo).isSome = true
  · rw [if_pos hc, if_pos (by simp [hc.1, hc.2])]
    apply Nat.eq_of_testBit_eq
    intro i
    rw [Nat.testBit_or, fldOf_testBit, fldOf_testBit]
    by_cases hi : i < f.wid
    · rw [insertBits_getLsbD _ _ _ _ _ (by omega)]
      cases i with
      | zero => simp [hi]
      | succ i => simp [Nat.testBit_succ]
    · cases i with
      | zero => omega
      | succ i => simp [Nat.testBit_succ, hi]
  · rw [if_neg hc, if_neg]
    simpa using hc

theorem keepStep_step (b : Block) (r : Reg) : FieldStep (keepStep b r) where
  others w f g h1 hg ha := by
    unfold keepStep
    rw [apart_iff] at ha
    split
    · exact fld_insertBits_apart w 1 hg (by omega)
    · rfl
  own w w' f h h1 he := by rw [keepStep_own b r w h h1, keepStep_own b r w' h h1, he]

/-- The word that a write by access code leaves in a register. -/
def writtenWord (b : Block) (r : Reg) (v : W64) : W64 := keepSet b r (r.fields.foldl (writeField (locked b r) v) (rawReg b r))

theorem writePlain_eq (b : Block) (r : Reg) (v : W64) : writePlain b r v =
    if r.fields.any (fun f => decide (f.acc = .RWL)) && !locked b r then lockReg (setRaw b r (writtenWord b r v)) r
    else setRaw b r (writtenWord b r v) := rfl

/-- Each field after the write (R8, R9). -/
theorem writtenWord_fld (b : Block) {r : Reg} (v : W64) {f : Field} (hf : f ∈ r.fields) :
    fldOf (writtenWord b r v) f = if f.acc = .W1C ∧ (coinOf b r f.lo).isSome = true
      then writtenFld f.acc (locked b r) (fldOf v f) (fldOf (rawReg b r) f) ||| 1
      else writtenFld f.acc (locked b r) (fldOf v f) (fldOf (rawReg b r) f) := by
  obtain ⟨h1, h⟩ := fits_of_mem (fields_fit r) hf
  rw [writtenWord, keepSet_eq, (keepStep_step b r).foldl _ _ (fields_fit r) hf, keepStep_own b r _ h h1,
    (writeField_step (locked b r) v).foldl _ _ (fields_fit r) hf, writeField_own _ _ _ h h1]

theorem rawReg_writePlain (b : Block) (r : Reg) (v : W64) : rawReg (writePlain b r v) r = writtenWord b r v := by
  rw [writePlain_eq]
  split <;> exact rawReg_setRaw ..

theorem rawReg_writePlain_ne (b : Block) {r r' : Reg} (v : W64) (h : r' ≠ r) : rawReg (writePlain b r v) r' = rawReg b r' := by
  rw [writePlain_eq]
  split <;> exact rawReg_setRaw_ne b _ h

/-- A write by access code changes its register, and may lock it. -/
theorem writePlain_frame (b : Block) (r : Reg) (v : W64) :
    writePlain b r v = { b with regs := (writePlain b r v).regs, rlocks := (writePlain b r v).rlocks } := by
  rw [writePlain_eq]
  split <;> rfl

theorem onlyReg_writePlain (b : Block) (r : Reg) (v : W64) : onlyReg r { b with rlocks := (writePlain b r v).rlocks } (writePlain b r v) := by
  refine ⟨?_, fun r' h => rawReg_writePlain_ne b v h⟩
  obtain ⟨x, l, hx⟩ : ∃ x l, writePlain b r v = { b with regs := x, rlocks := l } := ⟨_, _, writePlain_frame b r v⟩
  rw [hx]
  rfl

/-- A register without a field that locks is written and nothing else. -/
theorem onlyReg_writePlain_free {b : Block} {r : Reg} (v : W64) (h : r.fields.any (fun f => decide (f.acc = .RWL)) = false) :
    onlyReg r b (writePlain b r v) := by
  rw [writePlain_eq, h]
  exact ⟨rfl, fun r' hr => rawReg_setRaw_ne b _ hr⟩

theorem writePlain_locked {b : Block} {r : Reg} (v : W64) (h : ∃ f ∈ r.fields, f.acc = .RWL) : locked (writePlain b r v) r = true := by
  obtain ⟨f, hf, ha⟩ := h
  have hany : r.fields.any (fun f => decide (f.acc = .RWL)) = true := List.any_eq_true.mpr ⟨f, hf, by simp [ha]⟩
  rw [writePlain_eq, hany]
  cases hl : locked b r
  · simp [lockReg, locked]
  · exact hl

/-! What the answer of a write leaves as it is. -/

@[simp] theorem rawReg_wrote (s : State) (d : Block) (r : Reg) : rawReg (wrote s d).blk r = rawReg d r := rfl
@[simp] theorem getFld_wrote (s : State) (d : Block) (r : Reg) (lo wid : Nat) : getFld (wrote s d).blk r lo wid = getFld d r lo wid := rfl
@[simp] theorem getArr_wrote (s : State) (d : Block) (n : Arr) : getArr (wrote s d).blk n = getArr d n := rfl
@[simp] theorem getCtx_wrote (s : State) (d : Block) (c : Ctx) : getCtx (wrote s d).blk c = getCtx d c := rfl

/-- Settles O28: the write of a register without behaviour of its own is a write by access code, field by field. -/
theorem registerWriteByAccessCode : Obligations.RegisterWriteByAccessCode := by
  unfold Obligations.RegisterWriteByAccessCode
  intro s r v hopen hpage hl harr hsp
  have htakes : portTakes s r = true := by rw [portTakes, hopen, hpage]; rfl
  have hset : writeReg s.blk r v = writePlain s.blk r v := by
    unfold writeReg
    rw [harr, hsp]
    rfl
  have hpins : (writeReg s.blk r v).pins = s.blk.pins := by rw [hset, writePlain_frame]
  have hexec : exec (.registerWrite (BitVec.ofNat 24 r.addr) 0xFF#8 v) s = .next (wrote s (writePlain s.blk r v)) := by
    show s.onBlk (fun b => portWrite b (BitVec.ofNat 24 r.addr).toNat 255 v) = _
    rw [addr_toNat, onBlk_portWrite v htakes (addr_fits r).2 hl, exec_write (f := fun b => writeReg b r v) htakes hpins, hset]
  refine ⟨_, hexec, ?_, ?_, fun f hf => ?_, fun hrwl => writePlain_locked v hrwl⟩
  · have hp : (writePlain s.blk r v).pins = s.blk.pins := hset ▸ hpins
    simp only [wrote, respond, okRsp, hp]
  · obtain ⟨h1, h2⟩ := onlyReg_writePlain s.blk r v
    exact ⟨onlyRegs_respond h1, h2⟩
  · have hfld : getFld (wrote s (writePlain s.blk r v)).blk r f.lo f.wid = fldOf (writtenWord s.blk r v) f := by
      rw [← rawReg_writePlain]
      rfl
    have hv : fldOf v f = v.toNat / 2 ^ f.lo % 2 ^ f.wid := by rw [fldOf, Nat.shiftRight_eq_div_pow]
    rw [hfld, writtenWord_fld s.blk v hf, hv, getFld_of]
    cases f.acc <;> simp [writtenFld]

/-! ### The port's errors -/

theorem cpError_eq (b : Block) (a : BitVec 24) (be : BitVec 8) : cpError b a.toNat be.toNat
    = if be ≠ 0xFF#8 ∨ a.toNat % 8 ≠ 0 then 1 else if pageUp b a.toNat = false then 2 else if dbgLocked b a.toNat = true then 3 else 0 := by
  have hbe : be = 0xFF#8 ↔ be.toNat = 255 := by rw [← BitVec.toNat_inj]; rfl
  simp only [cpError, Bool.or_eq_true, bne_iff_ne, ne_eq, hbe, Bool.not_eq_true']

theorem portWrite_error {b : Block} {a be : Nat} (v : W64) (ho : cpOpen b = true) (he : cpError b a be ≠ 0) :
    portWrite b a be v = respond b 0#64 (cpError b a be) := by
  unfold portWrite
  rw [ho]
  generalize cpError b a be = c at he
  cases c with
  | zero => exact absurd rfl he
  | succ n => rfl

theorem portRead_error {b : Block} {a be : Nat} (ho : cpOpen b = true) (he : cpError b a be ≠ 0) :
    portRead b a be = respond b 0#64 (cpError b a be) := by
  unfold portRead
  rw [ho]
  generalize cpError b a be = c at he
  cases c with
  | zero => exact absurd rfl he
  | succ n => rfl

/-- Settles O29: an error is the answer, and nothing else happens. That FORMAT comes before UNAVAILABLE and that before LOCKED is deduced (log 99). -/
theorem portErrorsHaveNoEffect : Obligations.PortErrorsHaveNoEffect := by
  unfold Obligations.PortErrorsHaveNoEffect
  intro s a be v hopen
  rw [← cpError_eq]
  intro e he
  constructor
  · show s.onBlk (fun b => portWrite b a.toNat be.toNat v) = _
    rw [onBlk_eq, portWrite_error v hopen he]
    rfl
  · show s.onBlk (fun b => portRead b a.toNat be.toNat) = _
    rw [onBlk_eq, portRead_error hopen he]
    rfl

/-! ### Reading -/

/-- The bits of a mask of fields. -/
theorem fieldMask_getLsbD (r : Reg) (p : Field → Bool) {i : Nat} (hi : i < 64) :
    (fieldMask r p).getLsbD i = r.fields.any (fun f => p f && decide (f.lo ≤ i) && decide (i < f.lo + f.wid)) := by
  have hbits : ∀ (l : List Field) (m : Nat), (l.foldl (fun m f => if p f then m ||| (2 ^ f.wid - 1) <<< f.lo else m) m).testBit i
      = (m.testBit i || l.any (fun f => p f && decide (f.lo ≤ i) && decide (i < f.lo + f.wid))) := by
    intro l
    induction l with
    | nil => intro m; simp
    | cons f l ih =>
      intro m
      rw [List.foldl_cons, ih, List.any_cons]
      cases hp : p f
      · simp
      · simp only [if_true, Nat.testBit_or, Nat.testBit_shiftLeft, Nat.testBit_two_pow_sub_one, Bool.true_and, Bool.or_assoc]
        congr 2
        by_cases h1 : f.lo ≤ i <;> by_cases h2 : i < f.lo + f.wid <;> simp [h1, h2] <;> omega
  rw [fieldMask, BitVec.getLsbD_ofNat, hbits]
  simp [hi]

theorem visible_fld {r : Reg} (v : W64) {f : Field} (hf : f ∈ r.fields) (hw : f.acc ≠ .WO) : fldOf (visible r v) f = fldOf v f := by
  obtain ⟨-, h⟩ := fits_of_mem (fields_fit r) hf
  refine fldOf_congr (fun i h1 h2 => ?_)
  have hm : (fieldMask r (fun f => decide (f.acc ≠ .WO))).getLsbD i = true := by
    rw [fieldMask_getLsbD r _ (by omega)]
    exact List.any_eq_true.mpr ⟨f, hf, by simp [hw, h1, h2]⟩
  rw [visible, BitVec.getLsbD_and, hm, Bool.and_true]

theorem visible_reserved {r : Reg} (v : W64) {i : Nat} (h : ∀ f ∈ r.fields, i < f.lo ∨ f.lo + f.wid ≤ i) : (visible r v).getLsbD i = false := by
  by_cases hi : i < 64
  · have hm : (fieldMask r (fun f => decide (f.acc ≠ .WO))).getLsbD i = false := by
      rw [fieldMask_getLsbD r _ hi, List.any_eq_false]
      intro f hf
      have := h f hf
      simp only [Bool.and_eq_true, decide_eq_true_eq, not_and]
      omega
    rw [visible, BitVec.getLsbD_and, hm, Bool.and_false]
  · exact BitVec.getLsbD_of_ge _ _ (by omega)

/-- STATE stands at bit 0 of ARR_STATUS. -/
theorem arrStatus_bit0 (n : Arr) : ∃ f ∈ (Reg.arrStatus n).fields, f.lo = 0 ∧ 1 ≤ f.wid := ⟨_, List.mem_cons_self .., rfl, by decide⟩

/-- Settles O31: what a read returns is masked by the fields of its register. -/
theorem reservedBitsReadZero : Obligations.ReservedBitsReadZero := by
  unfold Obligations.ReservedBitsReadZero
  intro b r i h
  unfold readReg
  split
  · split
    · exact visible_reserved _ h
    · split
      · next hst =>
        obtain rfl := of_decide_eq_true (Bool.and_eq_true .. ▸ hst).1
        obtain ⟨f, hf, hlo, hwid⟩ := arrStatus_bit0 _
        have hi : i ≠ 0 := by have := h f hf; omega
        rw [BitVec.getLsbD_one]
        simp [hi]
      · exact BitVec.getLsbD_zero
  · exact visible_reserved _ h

/-- A bit lies in one field at most. -/
theorem fit_unique : ∀ {l : List Field}, fit l = true → ∀ {f g : Field} {i : Nat}, f ∈ l → g ∈ l → f.lo ≤ i → i < f.lo + f.wid → g.lo ≤ i →
    i < g.lo + g.wid → f = g
  | h :: l, hl, f, g, i, hf, hg, f1, f2, g1, g2 => by
    obtain ⟨-, ha, hl'⟩ := fit_cons.mp hl
    rcases List.mem_cons.mp hf with hf | hf <;> rcases List.mem_cons.mp hg with hg | hg
    · exact hf.trans hg.symm
    · have := apart_iff.mp (ha g hg)
      subst hf
      omega
    · have := apart_iff.mp (ha f hf)
      subst hg
      omega
    · exact fit_unique hl' hf hg f1 f2 g1 g2

/-- A register's word with its read-clear fields at 0. -/
def clearedWord (r : Reg) (w : W64) : W64 := w &&& ~~~ fieldMask r (fun f => decide (f.acc = .RC))

theorem clearedWord_fld {r : Reg} (w : W64) {f : Field} (hf : f ∈ r.fields) : fldOf (clearedWord r w) f = if f.acc = .RC then 0 else fldOf w f := by
  obtain ⟨-, h⟩ := fits_of_mem (fields_fit r) hf
  split
  · next hc =>
    apply Nat.eq_of_testBit_eq
    intro i
    rw [fldOf_testBit, Nat.zero_testBit]
    by_cases hi : i < f.wid
    · have hm : (fieldMask r (fun f => decide (f.acc = .RC))).getLsbD (f.lo + i) = true := by
        rw [fieldMask_getLsbD r _ (by omega)]
        exact List.any_eq_true.mpr ⟨f, hf, by simp [hc, hi]⟩
      rw [clearedWord, BitVec.getLsbD_and, BitVec.getLsbD_not, hm]
      simp
    · simp [hi]
  · next hc =>
    refine fldOf_congr (fun i h1 h2 => ?_)
    have hm : (fieldMask r (fun f => decide (f.acc = .RC))).getLsbD i = false := by
      rw [fieldMask_getLsbD r _ (by omega), List.any_eq_false]
      intro g hg hbit
      simp only [Bool.and_eq_true, decide_eq_true_eq] at hbit
      obtain rfl := fit_unique (fields_fit r) hf hg h1 h2 hbit.1.2 hbit.2
      exact hc hbit.1.1
    rw [clearedWord, BitVec.getLsbD_and, BitVec.getLsbD_not, hm]
    simp [show i < 64 by omega]

/-- A read clears the read-clear fields of its register and nothing else. -/
theorem readClears_does {b : Block} {r : Reg} (h : r ≠ .dbgMemData) :
    onlyReg r b (readClears b r) ∧ ∀ f ∈ r.fields, fldOf (rawReg (readClears b r) r) f = if f.acc = .RC then 0 else fldOf (rawReg b r) f := by
  unfold readClears
  dsimp only
  rw [if_neg h]
  split
  · exact ⟨⟨rfl, fun r' hr => rawReg_setRaw_ne b _ hr⟩, fun f hf => by rw [rawReg_setRaw]; exact clearedWord_fld _ hf⟩
  · next hn =>
    refine ⟨⟨rfl, fun _ _ => rfl⟩, fun f hf => ?_⟩
    rw [if_neg]
    intro hc
    exact hn (List.any_eq_true.mpr ⟨f, hf, by simp [hc]⟩)

/-- One field of `r` in which hardware counted in this beat is written as `val` says. -/
def coinStep (b : Block) (r : Reg) (val : Field → Coin → Nat) (d : Block) (f : Field) : Block :=
  match coinOf b r f.lo with
  | some k => if f.acc = .RC then setFld d r f.lo f.wid (val f k) else d
  | none => d

/-- The same step on the register's word. -/
def coinWord (b : Block) (r : Reg) (val : Field → Coin → Nat) (w : W64) (f : Field) : W64 :=
  match coinOf b r f.lo with
  | some k => if f.acc = .RC then insertBits w f.lo f.wid (val f k) else w
  | none => w

theorem beforeCoins_eq (b : Block) (r : Reg) : beforeCoins b r = r.fields.foldl (coinStep b r (fun _ k => k.before)) b := rfl

theorem afterRead_eq (b : Block) (r : Reg) : afterRead b r =
    { r.fields.foldl (coinStep b r (fun f k => min (2 ^ f.wid - 1) k.n)) (readClears b r) with
      coins := (r.fields.foldl (coinStep b r (fun f k => min (2 ^ f.wid - 1) k.n)) (readClears b r)).coins.map
        (fun k => if k.reg == r.addr then { k with before := 0 } else k) } := rfl

theorem coinFold_does (b : Block) (r : Reg) (val : Field → Coin → Nat) (l : List Field) (d : Block) :
    onlyReg r d (l.foldl (coinStep b r val) d) ∧ rawReg (l.foldl (coinStep b r val) d) r = l.foldl (coinWord b r val) (rawReg d r) := by
  induction l generalizing d with
  | nil => exact ⟨onlyReg_refl r d, rfl⟩
  | cons f l ih =>
    have hstep : onlyReg r d (coinStep b r val d f) ∧ rawReg (coinStep b r val d f) r = coinWord b r val (rawReg d r) f := by
      unfold coinStep coinWord
      split
      · split
        · exact ⟨onlyReg_setFld .., rawReg_setRaw ..⟩
        · exact ⟨onlyReg_refl r d, rfl⟩
      · exact ⟨onlyReg_refl r d, rfl⟩
    obtain ⟨h1, h2⟩ := ih (coinStep b r val d f)
    rw [List.foldl_cons, List.foldl_cons, h2, hstep.2]
    exact ⟨onlyReg_trans hstep.1 h1, rfl⟩

theorem coinWord_own (b : Block) (r : Reg) (val : Field → Coin → Nat) (w : W64) {f : Field} (h : f.lo + f.wid ≤ 64) :
    fldOf (coinWord b r val w f) f = if f.acc = .RC then (match coinOf b r f.lo with | some k => val f k % 2 ^ f.wid | none => fldOf w f)
      else fldOf w f := by
  unfold coinWord
  cases hc : coinOf b r f.lo with
  | none => simp
  | some k =>
    by_cases ha : f.acc = .RC
    · simp only [ha, if_true]
      exact fldOf_insertBits w _ h
    · simp only [ha, if_false]

theorem coinWord_step (b : Block) (r : Reg) (val : Field → Coin → Nat) : FieldStep (coinWord b r val) where
  others w f g h1 hg ha := by
    unfold coinWord
    split
    · split
      · exact fldOf_insertBits_apart w _ hg ha
      · rfl
    · rfl
  own w w' f h h1 he := by rw [coinWord_own b r val w h, coinWord_own b r val w' h, he]

/-- A field of the register after those steps. -/
theorem coinFold_fld (b : Block) {r : Reg} (val : Field → Coin → Nat) (d : Block) {f : Field} (hf : f ∈ r.fields) :
    fldOf (rawReg (r.fields.foldl (coinStep b r val) d) r) f =
      if f.acc = .RC then (match coinOf b r f.lo with | some k => val f k % 2 ^ f.wid | none => fldOf (rawReg d r) f) else fldOf (rawReg d r) f := by
  rw [(coinFold_does b r val r.fields d).2, (coinWord_step b r val).foldl _ _ (fields_fit r) hf,
    coinWord_own b r val _ (fits_of_mem (fields_fit r) hf).2]

theorem beforeCoins_quiet {b : Block} {r : Reg} (h : ∀ f ∈ r.fields, f.acc = .RC → coinOf b r f.lo = none) : beforeCoins b r = b := by
  rw [beforeCoins_eq]
  have hall : ∀ l : List Field, (∀ f ∈ l, f.acc = .RC → coinOf b r f.lo = none) → l.foldl (coinStep b r (fun _ k => k.before)) b = b := by
    intro l
    induction l with
    | nil => intro _; rfl
    | cons f l ih =>
      intro hl
      have hf : coinStep b r (fun _ k => k.before) b f = b := by
        unfold coinStep
        split
        · next k hk =>
          split
          · next ha => rw [hl f (List.mem_cons_self ..) ha] at hk; cases hk
          · rfl
        · rfl
      rw [List.foldl_cons, hf]
      exact ih (fun g hg => hl g (List.mem_cons_of_mem _ hg))
  exact hall _ h

/-- Whether a register shows a unit's state does not depend on the state. -/
theorem liveWord_isSome (b d : Block) (r : Reg) : (liveWord d r).isSome = (liveWord b r).isSome := by
  unfold liveWord
  cases r <;> simp only [Option.isSome_some, Option.isSome_none]

theorem liveWord_none {b : Block} {r : Reg} (d : Block) (h : liveWord b r = none) : liveWord d r = none := by
  have hs := liveWord_isSome b d r
  generalize liveWord d r = x at hs ⊢
  rw [h] at hs
  cases x with
  | none => rfl
  | some v => cases hs

theorem afterRead_does {b : Block} {r : Reg} (h : r ≠ .dbgMemData) : onlyReg r b (afterRead b r) ∧ (afterRead b r).pins = b.pins
    ∧ ∀ f ∈ r.fields, getFld (afterRead b r) r f.lo f.wid =
      if f.acc = .RC then (match coinOf b r f.lo with | some k => min (2 ^ f.wid - 1) k.n | none => 0) else getFld b r f.lo f.wid := by
  obtain ⟨hc, hclear⟩ := readClears_does (b := b) h
  obtain ⟨hfold, -⟩ := coinFold_does b r (fun f k => min (2 ^ f.wid - 1) k.n) r.fields (readClears b r)
  have honly : onlyReg r b (afterRead b r) := by
    have h1 := onlyReg_trans hc hfold
    rw [afterRead_eq]
    generalize r.fields.foldl (coinStep b r (fun f k => min (2 ^ f.wid - 1) k.n)) (readClears b r) = d at h1
    refine ⟨?_, h1.2⟩
    have e := congrArg (fun x : Block => ({ x with coins := d.coins.map (fun k => if k.reg == r.addr then { k with before := 0 } else k) } : Block)) h1.1
    exact e
  refine ⟨honly, onlyRegs_pins honly.1, fun f hf => ?_⟩
  have hfld := coinFold_fld b (fun f k => min (2 ^ f.wid - 1) k.n) (readClears b r) hf
  rw [hclear f hf] at hfld
  rw [getFld_of b r f, show getFld (afterRead b r) r f.lo f.wid = _ from hfld]
  by_cases ha : f.acc = .RC
  · simp only [ha, if_true]
    cases coinOf b r f.lo with
    | none => rfl
    | some k =>
      have := Nat.two_pow_pos f.wid
      exact Nat.mod_eq_of_lt (by omega)
  · simp only [ha, if_false]

/-- Settles O30: a read returns the value before this beat's counts, and clears what a read clears. -/
theorem readsReturnAndClear : Obligations.ReadsReturnAndClear := by
  unfold Obligations.ReadsReturnAndClear
  intro s r hopen hpage hl harr hr
  obtain ⟨honly, hpins, hfld⟩ := afterRead_does (b := s.blk) hr
  have herr : cpError s.blk r.addr 255 = 0 := by simp [cpError, (addr_fits r).2, hpage, hl]
  have hset : portRead s.blk r.addr 255 = respond (afterRead s.blk r) (sampleReg s.blk r) 0 := by
    simp only [portRead, hopen, herr, ofAddr_addr, harr, Bool.not_true, Bool.false_eq_true, if_false, Option.any_none]
  have hexec : exec (.readClearCounter ⟨BitVec.ofNat 24 r.addr, 0xFF#8⟩) s
      = .next { s with blk := respond (afterRead s.blk r) (sampleReg s.blk r) 0 } := by
    show s.onBlk (fun b => portRead b (BitVec.ofNat 24 r.addr).toNat 255) = _
    rw [addr_toNat, onBlk_eq, hset, ← hpins]
    rfl
  refine ⟨_, hexec, ?_, ⟨?_, honly.2⟩, fun hq => ?_, hfld, fun hlive f hf ha => ?_⟩
  · simp only [respond, hpins]
  · have h1 := honly.1
    unfold onlyRegs at h1 ⊢
    generalize afterRead s.blk r = d at h1
    rw [h1]
    rfl
  · rw [sampleReg, beforeCoins_quiet hq]
  · have hread : readReg (beforeCoins s.blk r) r = visible r (rawReg (beforeCoins s.blk r) r) := by
      simp only [readReg, harr, liveWord_none (beforeCoins s.blk r) hlive]
    rw [sampleReg, hread, ← Nat.shiftRight_eq_div_pow]
    refine (visible_fld _ hf (by rw [ha]; simp)).trans ?_
    rw [beforeCoins_eq, coinFold_fld s.blk _ s.blk hf, if_pos ha]
    rfl

/-! ### Registers of an array -/

/-- The registers of an array are in no locked page, and hold neither the map of arrays nor the retired ones. -/
theorem arrOf_apart {r : Reg} {n : Arr} (h : r.arrOf = some n) : r.addr / 0x10000 ≠ 0x0E ∧ r ≠ .engConfig ∧ r ≠ .mgtRetire := by
  cases r
  case arrRamp | arrAbftCtl | arrStatus | arrAbftFirst | arrAbftStrikes | arrAbftLast | arrRetireLimit | glzStatus | glzNan | glzInf =>
    refine ⟨?_, by simp, by simp⟩
    simp only [Reg.addr]
    omega
  all_goals cases h

theorem usable_congr {b d : Block} (n : Arr) (h1 : rawReg d .engConfig = rawReg b .engConfig) (h2 : rawReg d .mgtRetire = rawReg b .mgtRetire) :
    usable d n = usable b n := by
  simp only [usable, getFld, h1, h2]

/-- What a register of an array reads as that no instruction may name (R3, R342). -/
theorem sampleReg_unusable {b : Block} {r : Reg} {n : Arr} (h : r.arrOf = some n) (hu : usable b n = false) :
    sampleReg b r = if r = .arrStatus n ∧ bitAt (getFld b .mgtRetire 0 4) n.val = true then 1#64 else 0#64 := by
  obtain ⟨-, h1, h2⟩ := arrOf_apart h
  obtain ⟨honly, -⟩ := coinFold_does b r (fun _ k => k.before) r.fields b
  rw [← beforeCoins_eq] at honly
  have hus : usable (beforeCoins b r) n = false := (usable_congr n (honly.2 _ h1.symm) (honly.2 _ h2.symm)).trans hu
  have hret : getFld (beforeCoins b r) .mgtRetire 0 4 = getFld b .mgtRetire 0 4 := by simp only [getFld, honly.2 _ h2.symm]
  unfold sampleReg readReg
  simp only [h, hus, hret, Bool.false_eq_true, if_false, Bool.and_eq_true, decide_eq_true_eq]

theorem arrAbftCtl_fields (n : Arr) : (⟨0, 2, .RW, 0x1, .E⟩ : Field) ∈ (Reg.arrAbftCtl n).fields ∧ (⟨8, 16, .RW, 0x10, .E⟩ : Field) ∈ (Reg.arrAbftCtl n).fields :=
  ⟨by simp [Reg.fields], by simp [Reg.fields]⟩

/-- A field that is written as it is and that nothing locks or sets beside it. -/
theorem writePlain_rw (b : Block) {r : Reg} (v : W64) {f : Field} (hf : f ∈ r.fields) (ha : f.acc = .RW) :
    getFld (writePlain b r v) r f.lo f.wid = v.toNat / 2 ^ f.lo % 2 ^ f.wid := by
  rw [getFld_of, rawReg_writePlain, writtenWord_fld b v hf, ha, if_neg (by simp), writtenFld, fldOf, Nat.shiftRight_eq_div_pow]

/-- Settles O32: an array that no instruction may name takes no write and shows nothing, but ARR_STATUS of a retired one reads 1 (log 81); a write of
ARR_ABFT_CTL counts passes anew. -/
theorem arrayRegisters : Obligations.ArrayRegisters := by
  unfold Obligations.ArrayRegisters
  refine ⟨fun s r n v hopen hpage harr hu => ?_, fun s n v h hu => ?_⟩
  · have hl : dbgLocked s.blk r.addr = false := by simp [dbgLocked, (arrOf_apart harr).1]
    have htakes : portTakes s r = true := by rw [portTakes, hopen, hpage]; rfl
    have herr : cpError s.blk r.addr 255 = 0 := by simp [cpError, (addr_fits r).2, hpage, hl]
    have hany : r.arrOf.any (fun n => !usable s.blk n) = true := by simp [harr, hu]
    constructor
    · show s.onBlk (fun b => portWrite b (BitVec.ofNat 24 r.addr).toNat 255 v) = _
      rw [addr_toNat, onBlk_portWrite v htakes (addr_fits r).2 hl]
      exact onWrite_ignored (f := fun b => writeReg b r v) htakes (by rw [writeReg, hany]; rfl)
    · show s.onBlk (fun b => portRead b (BitVec.ofNat 24 r.addr).toNat 255) = _
      have hset : portRead s.blk r.addr 255 = respond s.blk (sampleReg s.blk r) 0 := by
        simp only [portRead, hopen, herr, ofAddr_addr, hany, Bool.not_true, Bool.false_eq_true, if_false, if_true]
      rw [addr_toNat, onBlk_eq, hset, sampleReg_unusable harr hu]
      rfl
  · have hset : writeReg s.blk (.arrAbftCtl n) v = modArr (writePlain s.blk (.arrAbftCtl n) v) n (fun a => { a with abftCount := 0 }) := by
      have hany : (Reg.arrAbftCtl n).arrOf.any (fun n => !usable s.blk n) = false := by simp [Reg.arrOf, hu]
      rw [writeReg, hany]
      rfl
    have hfree : (Reg.arrAbftCtl n).fields.any (fun f => decide (f.acc = .RWL)) = false := by simp [Reg.fields]
    obtain ⟨ho1, ho2⟩ := onlyReg_writePlain_free (b := s.blk) (r := .arrAbftCtl n) v hfree
    have hpins : (writeReg s.blk (.arrAbftCtl n) v).pins = s.blk.pins := by rw [hset]; exact (onlyRegs_pins ho1 :)
    obtain ⟨hf0, hf8⟩ := arrAbftCtl_fields n
    have hw0 := writePlain_rw s.blk v hf0 rfl
    have hw8 := writePlain_rw s.blk v hf8 rfl
    have harrs : (writePlain s.blk (.arrAbftCtl n) v).arrays = s.blk.arrays := by rw [writePlain_frame]
    generalize writePlain s.blk (.arrAbftCtl n) v = d at ho1 ho2 hset hw0 hw8 harrs
    refine ⟨_, exec_write (f := fun b => writeReg b (.arrAbftCtl n) v) h hpins, ?_⟩
    rw [hset]
    refine ⟨⟨?_, ho2⟩, ?_, fun m hm => ?_, ?_, ?_⟩
    · unfold onlyRegs at ho1 ⊢
      rw [ho1]
      rfl
    · rw [getArr_wrote, getArr_modArr, getArr, harrs]
      rfl
    · rw [getArr_wrote, getArr_modArr_ne d _ hm, getArr, harrs]
      rfl
    · exact hw0.trans (by simp)
    · exact hw8

/-! ### Retirement and the read pointer -/

theorem mgtRetire_fields : (⟨0, 4, .RO, 0x0, .K⟩ : Field) ∈ Reg.mgtRetire.fields ∧ (⟨4, 4, .W1S, 0x0, .E⟩ : Field) ∈ Reg.mgtRetire.fields :=
  ⟨by simp [Reg.fields], by simp [Reg.fields]⟩

/-- RD as a write of the pointer register carries it. -/
theorem bitsOf_rd (n : Nat) : bitsOf n 31 16 = n / 65536 % 65536 := by
  rw [bitsOf, Nat.shiftRight_eq_div_pow]
  rfl

/-- Settles O33: a request to retire is kept until it is served, and RD moves only over records that stand. -/
theorem retireRequestAndFaultPointer : Obligations.RetireRequestAndFaultPointer := by
  unfold Obligations.RetireRequestAndFaultPointer
  refine ⟨fun s v h => ?_, fun s v h => ?_⟩
  · have honly := onlyReg_writePlain_free (b := s.blk) (r := .mgtRetire) v rfl
    obtain ⟨hf0, hf4⟩ := mgtRetire_fields
    have h0 := writtenWord_fld s.blk v hf0
    have h4 := writtenWord_fld s.blk v hf4
    rw [← rawReg_writePlain, ← getFld_of, ← getFld_of] at h0 h4
    refine ⟨_, exec_write (f := fun b => writePlain b .mgtRetire v) h (onlyRegs_pins honly.1), onlyReg_wrote honly, h4.trans ?_, h0⟩
    simp only [writtenFld, fldOf, Nat.shiftRight_eq_div_pow]
    rfl
  · by_cases hw : (ptrWR s.blk + 65536 - v.toNat / 65536 % 65536) % 65536 ≤ 64
    · have hset : writeFaultPtr s.blk v = setFld s.blk .engFaultPtr 16 16 (v.toNat / 65536 % 65536) := by
        unfold writeFaultPtr
        rw [bitsOf_rd]
        exact if_pos hw
      refine ⟨_, exec_write (f := fun b => writeFaultPtr b v) h (by rw [hset]; rfl), ?_⟩
      rw [if_pos hw, hset]
      refine ⟨onlyReg_wrote (onlyReg_setFld ..), ?_, ?_⟩
      · rw [ptrRD, getFld_wrote]
        simp [getFld_at]
      · rw [ptrWR, getFld_wrote]
        simp [getFld_at, ptrWR]
    · have hset : writeFaultPtr s.blk v = s.blk := by
        unfold writeFaultPtr
        rw [bitsOf_rd]
        exact if_neg hw
      refine ⟨_, exec_write (f := fun b => writeFaultPtr b v) h (by rw [hset]), ?_⟩
      rw [if_neg hw, hset]

end Sys2Proof.Proofs.RegTable

/-! SUPPORT. The debug registers (R390, R403 to R405), the test port (R389) and the notice port (R372). Settles O26, O27, O46. -/

namespace Sys2Proof.Proofs.Debug

open Sys2Proof Sys2Proof.Machine Sys2Proof.Laws Sys2Proof.Proofs.IssueStage Sys2Proof.Proofs.EngReset Sys2Proof.Proofs.Fields
open Sys2Proof.Proofs.RegTable Sys2Proof.Proofs.StartUp

/-! ### The challenge -/

/-- Three bits of a field, one by one. -/
theorem fldAt_three (m : RegMap) (r : Reg) (lo : Nat) : fldAt m r lo 3 = fldAt m r lo 1 + 2 * fldAt m r (lo + 1) 1 + 4 * fldAt m r (lo + 2) 1 := by
  simp only [fldAt, Nat.shiftRight_add]
  generalize (regAt m r).toNat >>> lo = x
  simp only [Nat.shiftRight_eq_div_pow]
  omega

theorem fldAt_two (m : RegMap) (r : Reg) (lo : Nat) : fldAt m r lo 2 = fldAt m r lo 1 + 2 * fldAt m r (lo + 1) 1 := by
  simp only [fldAt, Nat.shiftRight_add]
  generalize (regAt m r).toNat >>> lo = x
  simp only [Nat.shiftRight_eq_div_pow]
  omega

/-- A new challenge sets VALID and leaves the rest of its status. -/
theorem placeChallenge_status (b : Block) (lo wid : Nat) :
    getFld (placeChallenge b) .dbgChalStatus lo wid = fldAt (putFld b.regs .dbgChalStatus 2 1 1) .dbgChalStatus lo wid := by
  have hraw : rawReg (placeChallenge b) .dbgChalStatus = regAt (putFld b.regs .dbgChalStatus 2 1 1) .dbgChalStatus := by
    unfold placeChallenge
    dsimp only
    rw [rawReg_at, setFld_at, regAt_putFld, regAt_putFld]
    congr 1
    exact (allFin 6).foldlRecOn _ (motive := fun d : Block => rawReg d .dbgChalStatus = rawReg b .dbgChalStatus) rfl
      (fun d h k _ => (rawReg_setRaw_ne d _ (by simp)).trans h)
  rw [getFld, hraw, fldAt]

theorem placeChallenge_chal (b : Block) : (placeChallenge b).steward.chal = b.steward.chal + 1 := rfl

theorem sameUnits_startOnly {b d : Block} (h : StartOnly b d) : sameUnits b d := by
  rw [h.frame]
  exact ⟨rfl, rfl, rfl, rfl, rfl, rfl, rfl, rfl, rfl, rfl, rfl, rfl⟩

/-- A failed verification is counted, and a new challenge stands in place of the old. -/
def refused (b : Block) : Block := placeChallenge (bumpFld (setFld b .dbgChalStatus 1 1 0) .dbgChalStatus 8 8 1)

theorem dbgVerified_does {b : Block} (hh : dbgHalted b = false) (hp : inP2 b = false) (hv : getFld b .dbgChalStatus 1 1 = 1) :
    dbgVerified b = if respGood b = true then setFld b .dbgChalStatus 0 3 1 else refused b := by
  unfold dbgVerified
  rw [if_neg (by simp [hh, hp, hv])]
  rfl

theorem refused_startOnly (b : Block) : StartOnly b (refused b) :=
  (placeChallenge_startOnly _).after ⟨rfl, fun r h => rawReg_setRaw_ne _ _ (by rintro rfl; cases h) |>.trans (rawReg_setRaw_ne _ _ (by rintro rfl; cases h))⟩

theorem refused_status (b : Block) : getFld (refused b) .dbgChalStatus 1 2 = 2 ∧ getFld (refused b) .dbgChalStatus 0 1 = getFld b .dbgChalStatus 0 1
    ∧ getFld (refused b) .dbgChalStatus 8 8 = min 255 (getFld b .dbgChalStatus 8 8 + 1) := by
  simp only [refused, placeChallenge_status]
  simp only [bumpFld_at, setFld_at, getFld_at]
  refine ⟨?_, ?_, ?_⟩
  · rw [fldAt_two]
    simp
  · simp
  · simp

/-! ### The steward under the debugger -/

/-- The completion of a taken write, and the steward beside it. -/
theorem wrote_cp {s : State} {d : Block} (h : d.pins = s.blk.pins) : (wrote s d).blk.cp = okRsp s.blk := by rw [wrote, respond, okRsp, h]

theorem wrote_steward (s : State) (d : Block) : (wrote s d).blk.steward = d.steward := rfl

theorem portTakes_debug {s : State} {r : Reg} (ho : cpOpen s.blk = true) (hp : getFld s.blk .mgtPwr 2 2 ≠ 2) (hr : r.addr / 0x10000 = 0x0E) :
    portTakes s r = true := by simp [portTakes, ho, pageUp, hr, hp]

theorem dbgLocked_unlocked {b : Block} (a : Nat) (h : getFld b .dbgChalStatus 0 1 = 1) : dbgLocked b a = false := by simp [dbgLocked, h]

theorem writeSteward_pins (b : Block) (v : W64) : (writeSteward b v).pins = b.pins := by
  unfold writeSteward
  dsimp only
  split <;> rfl

/-- A write of DBG_STEWARD on an unlocked engine (R405). -/
theorem exec_dbgSteward {s : State} (v : W64) (ho : cpOpen s.blk = true) (hp : getFld s.blk .mgtPwr 2 2 ≠ 2) (hl : getFld s.blk .dbgChalStatus 0 1 = 1) :
    exec (.dbgStewardHalt v) s = .next (wrote s (writeSteward s.blk v)) := by
  have htakes := portTakes_debug (r := .dbgSteward) ho hp rfl
  show s.onBlk (fun b => portWrite b Reg.dbgSteward.addr 255 v) = _
  have hset : writeReg s.blk .dbgSteward v = writeSteward s.blk v := rfl
  rw [onBlk_portWrite v htakes rfl (dbgLocked_unlocked _ hl), exec_write (f := fun b => writeReg b .dbgSteward v) htakes, hset]
  exact writeSteward_pins _ _

/-- HALT is kept, and a step is made while it is 1 (R405). -/
theorem writeSteward_does (b : Block) (v : W64) : getFld (writeSteward b v) .dbgSteward 0 1 = v.toNat % 2
    ∧ (writeSteward b v).steward.steps = if v.getLsbD 0 = true ∧ v.getLsbD 1 = true then b.steward.steps + 1 else b.steward.steps := by
  have h0 : (v.toNat % 2 == 1) = v.getLsbD 0 := by rw [← bitAt_word]; rfl
  unfold writeSteward
  simp only [h0, bitAt_word, Bool.and_eq_true]
  constructor
  · split <;> simp [getFld_at]
  · split <;> rfl

/-- The bits of a step's write: HALT as it stands, and STEP. -/
theorem stepWrite_bits {h : Nat} (hh : h < 2) : (BitVec.ofNat 64 (h + 2)).toNat % 2 = h ∧ (BitVec.ofNat 64 (h + 2)).getLsbD 0 = decide (h = 1)
    ∧ (BitVec.ofNat 64 (h + 2)).getLsbD 1 = true := by
  have : h = 0 ∨ h = 1 := by omega
  rcases this with rfl | rfl <;> decide

/-! ### The window into the boot SRAM -/

theorem coins_memData (b : Block) (val : Field → Coin → Nat) (d : Block) : Reg.dbgMemData.fields.foldl (coinStep b .dbgMemData val) d = d := by
  show coinStep b .dbgMemData val d ⟨0, 64, .RO, 0x0, .E⟩ = d
  unfold coinStep
  split
  · exact if_neg (by simp)
  · rfl

theorem sampleReg_memData (b : Block) : sampleReg b .dbgMemData = bootWord b (getFld b .dbgMemAddr 3 14) := by
  have hread : readReg b .dbgMemData = visible .dbgMemData (BitVec.ofNat 64 (bootWord b (getFld b .dbgMemAddr 3 14)).toNat) := rfl
  have hmask : fieldMask .dbgMemData (fun f => decide (f.acc ≠ .WO)) = BitVec.allOnes 64 := by decide
  rw [sampleReg, beforeCoins_eq, coins_memData, hread, visible, hmask, BitVec.and_allOnes, BitVec.ofNat_toNat, BitVec.setWidth_eq]

theorem afterRead_memData (b : Block) : onlyReg .dbgMemAddr b (afterRead b .dbgMemData)
    ∧ getFld (afterRead b .dbgMemData) .dbgMemAddr 3 14 = (getFld b .dbgMemAddr 3 14 + 1) % 2 ^ 14 := by
  have hclear : readClears b .dbgMemData = setFld b .dbgMemAddr 3 14 ((getFld b .dbgMemAddr 3 14 + 1) % 2 ^ 14) := rfl
  rw [afterRead_eq, coins_memData, hclear]
  refine ⟨⟨rfl, fun r hr => rawReg_setRaw_ne b _ hr⟩, ?_⟩
  refine (getFld_setFld b .dbgMemAddr (lo := 3) (wid := 14) _ (by omega)).trans ?_
  exact Nat.mod_mod _ _

/-- An answer of the control port changes no more than its own registers. -/
theorem onlyRegs_answer {b d : Block} (h : onlyRegs b d) (v : W64) (e : Nat) : onlyRegs b (respond d v e) := by
  unfold onlyRegs at h ⊢
  rw [h]
  rfl

/-- A read changes registers and what was counted in them. -/
theorem afterRead_onlyRegs (b : Block) (r : Reg) : onlyRegs b (afterRead b r) := by
  by_cases h : r = .dbgMemData
  · subst h
    exact (afterRead_memData b).1.1
  · exact (afterRead_does (b := b) h).1.1

/-- Settles O26: what GO, the end of a verification, DBG_STEWARD and DBG_MEM_DATA do. -/
theorem debugAccess : Obligations.DebugAccess := by
  unfold Obligations.DebugAccess
  refine ⟨fun s v h => ?_, fun s hl hh hp hv => ?_, fun s v ho hp hl => ?_, fun s ho hp hl => ?_, fun s ho hp hl => ?_⟩
  · by_cases hgo : v.getLsbD 0 = true ∧ getFld s.blk .dbgChalStatus 0 3 = 4
    · have hset : writeRespGo s.blk v = setFld s.blk .dbgChalStatus 1 1 1 := if_pos (by simp [bitAt_word, hgo.1, hgo.2])
      have hbits := hgo.2
      rw [getFld_at, fldAt_three] at hbits
      have h0 := fldAt_bit s.blk.regs .dbgChalStatus 0
      have h1 := fldAt_bit s.blk.regs .dbgChalStatus (0 + 1)
      have h2 := fldAt_bit s.blk.regs .dbgChalStatus (0 + 2)
      refine ⟨_, exec_write (f := fun b => writeRespGo b v) h (by rw [hset]; rfl), ?_⟩
      rw [if_pos hgo, hset, getFld_wrote]
      refine ⟨onlyReg_wrote (onlyReg_setFld ..), ?_⟩
      rw [getFld_at, setFld_at, fldAt_three]
      simp
      simp at hbits h0 h1 h2
      omega
    · have hset : writeRespGo s.blk v = s.blk := if_neg (by simpa [bitAt_word] using hgo)
      exact ⟨_, onWrite_ignored h hset, by rw [if_neg hgo]⟩
  · have hset := dbgVerified_does hh hp hv
    by_cases hg : respGood s.blk = true
    · rw [if_pos hg] at hset
      refine ⟨{ s with blk := setFld s.blk .dbgChalStatus 0 3 1 }, hset ▸ onLive_pins (f := dbgVerified) hl (by rw [hset]; rfl), ?_⟩
      rw [if_pos hg]
      exact ⟨⟨by simp [getFld_at], by simp [getFld_at]⟩, sameUnits_startOnly (setFld_startOnly s.blk 0 3 1 rfl)⟩
    · rw [if_neg hg] at hset
      have honly := refused_startOnly s.blk
      have hst := refused_status s.blk
      have hchal : (refused s.blk).steward.chal = s.blk.steward.chal + 1 := rfl
      generalize refused s.blk = d at hset honly hst hchal
      refine ⟨{ s with blk := d }, hset ▸ onLive_pins (f := dbgVerified) hl (by rw [hset, honly.pins]), ?_⟩
      rw [if_neg hg]
      exact ⟨⟨hst.1, hst.2.1, hst.2.2, hchal⟩, sameUnits_startOnly honly⟩
  · have hexec := exec_dbgSteward v ho hp hl
    obtain ⟨h1, h2⟩ := writeSteward_does s.blk v
    have hpins := writeSteward_pins s.blk v
    generalize writeSteward s.blk v = d at hexec h1 h2 hpins
    exact ⟨_, hexec, h1, wrote_cp hpins, h2⟩
  · have hexec := exec_dbgSteward (BitVec.ofNat 64 (getFld s.blk .dbgSteward 0 1 + 2)) ho hp hl
    obtain ⟨h1, h2⟩ := writeSteward_does s.blk (BitVec.ofNat 64 (getFld s.blk .dbgSteward 0 1 + 2))
    have hpins := writeSteward_pins s.blk (BitVec.ofNat 64 (getFld s.blk .dbgSteward 0 1 + 2))
    obtain ⟨hb, hb0, hb1⟩ := stepWrite_bits (h := getFld s.blk .dbgSteward 0 1) (fldAt_lt _ _ 0 1)
    generalize writeSteward s.blk (BitVec.ofNat 64 (getFld s.blk .dbgSteward 0 1 + 2)) = d at hexec h1 h2 hpins
    refine ⟨_, hexec, h1.trans hb, wrote_cp hpins, h2.trans ?_⟩
    simp only [hb0, hb1, decide_eq_true_eq, and_true]
  · have htakes := portTakes_debug (r := .dbgMemData) ho hp rfl
    have herr : cpError s.blk Reg.dbgMemData.addr 255 = 0 := by
      simp [cpError, (addr_fits .dbgMemData).2, ((Bool.and_eq_true _ _).mp htakes).2, dbgLocked_unlocked _ hl]
    obtain ⟨honly, hfld⟩ := afterRead_memData s.blk
    have hset : portRead s.blk Reg.dbgMemData.addr 255 = respond (afterRead s.blk .dbgMemData) (sampleReg s.blk .dbgMemData) 0 := by
      simp only [portRead, ho, herr, ofAddr_addr, Reg.arrOf, Bool.not_true, Bool.false_eq_true, if_false, Option.any_none]
    rw [sampleReg_memData] at hset
    have hpins := onlyRegs_pins honly.1
    generalize afterRead s.blk .dbgMemData = d at hset honly hfld hpins
    refine ⟨{ s with blk := respond d (bootWord s.blk (getFld s.blk .dbgMemAddr 3 14)) 0 }, ?_, ?_, ⟨?_, honly.2⟩, hfld⟩
    · show s.onBlk (fun b => portRead b Reg.dbgMemData.addr 255) = _
      rw [onBlk_eq, hset, ← hpins]
      rfl
    · simp only [respond, hpins]
    · exact onlyRegs_answer honly.1 _ _

/-! ### The test port -/

/-- An instruction that the test port of a powered engine takes (R389). -/
theorem setJtag_taken {b : Block} (ir : BitVec 8) (f : Jtag → Jtag) (hp : b.pins.powered = true) (ht : b.pins.trst = true) :
    setJtag b ir f = { b with jtag := { f b.jtag with ir := ir } } := by simp only [setJtag, hp, ht, Bool.not_true, Bool.false_eq_true, if_false, if_true]

/-- TRST_N low holds the port in its reset (R368). -/
theorem setJtag_held {b : Block} (ir : BitVec 8) (f : Jtag → Jtag) (hp : b.pins.powered = true) (ht : b.pins.trst = false) :
    setJtag b ir f = { b with jtag := Jtag.reset } := by simp only [setJtag, hp, ht, Bool.not_true, Bool.false_eq_true, if_false]

/-- A command that sets the test port and nothing else. -/
theorem onBlk_jtag {s : State} {f : Block → Block} {j : Jtag} (h : f s.blk = { s.blk with jtag := j }) :
    s.onBlk f = .next { s with blk := { s.blk with jtag := j } } := by
  rw [onBlk_eq, h]

/-- Bits of the boundary register (R368; the order is the model's, log 5). -/
theorem boundaryWord_bits (b : Block) : (BitVec.ofNat 96 (boundaryWord b)).getLsbD 0 = b.pins.rstCold ∧ (BitVec.ofNat 96 (boundaryWord b)).getLsbD 1 = b.pins.rstEng
    ∧ (BitVec.ofNat 96 (boundaryWord b)).getLsbD 2 = b.pins.vwarn ∧ ∀ i < 4, (BitVec.ofNat 96 (boundaryWord b)).getLsbD (8 + i) = b.pins.arrayEn.getLsbD i := by
  have hb : ∀ x : Bool, b2n x < 2 ∧ (b2n x = 1 ↔ x = true) := by decide
  have hdec : ∀ (x : Bool) (n : Nat), n % 2 = b2n x → decide (n % 2 = 1) = x := by
    intro x n h
    rw [h]
    cases x <;> rfl
  obtain ⟨p, hp⟩ : ∃ p, p = b.pins := ⟨_, rfl⟩
  unfold boundaryWord
  rw [← hp]
  generalize (live b && getFld b .engStatus 0 1 == 1) = ready
  have h0 := (hb p.rstCold).1
  have h1 := (hb p.rstEng).1
  have h2 := (hb p.vwarn).1
  have h3 := (hb p.thermWarn).1
  have h4 := (hb p.thermTrip).1
  have h5 := (hb p.absent).1
  have h6 := (hb ready).1
  have h7 := (hb p.pwrOffOk).1
  simp only [BitVec.getLsbD_ofNat, Nat.testBit_eq_decide_div_mod_eq, Nat.reducePow, Nat.reduceLT, decide_true, Bool.true_and]
  refine ⟨hdec _ _ ?_, hdec _ _ ?_, hdec _ _ ?_, fun i hi => ?_⟩
  · omega
  · omega
  · omega
  · rw [BitVec.getLsbD, Nat.testBit_eq_decide_div_mod_eq]
    have hlt := p.arrayEn.isLt
    have : i = 0 ∨ i = 1 ∨ i = 2 ∨ i = 3 := by omega
    rcases this with rfl | rfl | rfl | rfl <;> simp <;> omega

/-- DBGACC of an address of the page that answers. -/
theorem dbgAcc_open {b : Block} {dr : BitVec 96} (hl : live b = true) (ht : b.pins.trst = true) (hc : b.rst ≠ .computeReset) (hp : getFld b .mgtPwr 2 2 ≠ 2)
    (ha : dr.toNat % 2 ^ 24 / 0x10000 = 0x0E) (h8 : dr.toNat % 8 = 0) : dbgAcc b dr =
      if dbgLocked b (dr.toNat % 2 ^ 24) then bypass b (bitAt dr.toNat 95)
      else if bitAt dr.toNat 88 then
        setJtag (match Reg.ofAddr (dr.toNat % 2 ^ 24) with | some r => writeReg b r (BitVec.ofNat 64 (bitsOf dr.toNat 87 24)) | none => b) 0x20#8
          (fun j => { j with dr := BitVec.ofNat 96 (dr.toNat % 2 ^ 89) })
      else match Reg.ofAddr (dr.toNat % 2 ^ 24) with
        | some r => setJtag (afterRead b r) 0x20#8 (fun j => { j with dr := BitVec.ofNat 96 (dr.toNat % 2 ^ 24 + (sampleReg b r).toNat * 2 ^ 24) })
        | none => setJtag b 0x20#8 (fun j => { j with dr := BitVec.ofNat 96 (dr.toNat % 2 ^ 24) }) := by
  have hbits : bitsOf dr.toNat 23 0 = dr.toNat % 2 ^ 24 := rfl
  have hup : pageUp b (dr.toNat % 2 ^ 24) = true :=  by
    unfold pageUp
    rw [ha]
    simp [hp]
  have h8' : dr.toNat % 2 ^ 24 % 8 = 0 := by omega
  unfold dbgAcc
  dsimp only
  rw [hbits]
  exact if_neg (by simp [-Nat.reducePow, hl, ht, ha, h8', hup, hc])

theorem live_powered {b : Block} (h : live b = true) : b.pins.powered = true := by
  unfold live at h
  simp only [Bool.and_eq_true] at h
  exact h.1.2

theorem exec_idcode (s : State) : exec .idcode s = s.onBlk (fun b => setJtag b 0x01#8 (fun j => { j with dr := 0x1D325A4F#96 })) := rfl
theorem exec_samplePreload (s : State) (p : BitVec 16) : exec (.samplePreload p) s =
    s.onBlk (fun b => setJtag b 0x02#8 (fun j => { j with dr := BitVec.ofNat 96 (boundaryWord b), boundary := p })) := rfl
theorem exec_bypass (s : State) (x : Bool) : exec (.bypass x) s = s.onBlk (fun b => bypass b x) := rfl
theorem exec_dbgacc (s : State) (dr : BitVec 96) : exec (.dbgacc dr) s = s.onBlk (fun b => dbgAcc b dr) := rfl

/-- What a DBGACC shifts out of a register fits the register of the port (log 5). -/
theorem readOut_toNat (r : Reg) (v : W64) : (BitVec.ofNat 96 (r.addr + v.toNat * 2 ^ 24)).toNat = r.addr + v.toNat * 2 ^ 24 := by
  have h1 := (addr_fits r).1
  have h2 := v.isLt
  rw [BitVec.toNat_ofNat, Nat.mod_eq_of_lt]
  omega

/-- Settles O27: each instruction of the test port. The order of the boundary register and the layout of the data of a DBGACC are the model's
choice (log 5); that the port needs power and TRST_N high, and how a locked DBGACC acts, is log 102. -/
theorem testPort : Obligations.TestPort := by
  unfold Obligations.TestPort
  refine ⟨fun s hp ht => ?_, fun s p hp ht => ?_, fun s x hp ht => ?_, fun s dr hl ht hc hp hlock ha h8 hr => ?_, fun s dr r hl ht hc hp hlock ha hpage hw => ?_,
    fun s i hp ht hi => ?_⟩
  · rw [exec_idcode, onBlk_jtag (setJtag_taken _ _ hp ht)]
    exact ⟨_, rfl, rfl⟩
  · obtain ⟨h0, h1, h2, h3⟩ := boundaryWord_bits s.blk
    rw [exec_samplePreload, onBlk_jtag (setJtag_taken _ _ hp ht)]
    exact ⟨_, rfl, rfl, rfl, rfl, h0, h1, h2, h3⟩
  · rw [exec_bypass, onBlk_jtag (setJtag_taken _ _ hp ht)]
    refine ⟨_, rfl, rfl, rfl, ?_, fun hir => ?_⟩
    · show (BitVec.ofNat 96 (b2n x)).getLsbD 0 = x
      cases x <;> decide
    · simp only [hir, decide_true, Bool.true_and]
      exact bitAt_word s.blk.jtag.dr 0
  · have hd : dbgLocked s.blk (dr.toNat % 2 ^ 24) = true := by simp [-Nat.reducePow, dbgLocked, ha, hlock, hr]
    have hset : dbgAcc s.blk dr = bypass s.blk (bitAt dr.toNat 95) := by rw [dbgAcc_open hl ht hc hp ha h8, hd, if_pos rfl]
    rw [exec_dbgacc, onBlk_jtag (hset.trans (setJtag_taken _ _ (live_powered hl) ht))]
    exact ⟨_, rfl, rfl, rfl⟩
  · have hd := dbgLocked_unlocked (dr.toNat % 2 ^ 24) hlock
    have h8 : dr.toNat % 8 = 0 := by have := (addr_fits r).2; omega
    have hpins := onlyRegs_pins (afterRead_onlyRegs s.blk r)
    have hset : dbgAcc s.blk dr = setJtag (afterRead s.blk r) 0x20#8 (fun j => { j with dr := BitVec.ofNat 96 (r.addr + (sampleReg s.blk r).toNat * 2 ^ 24) }) := by
      rw [dbgAcc_open hl ht hc hp (by rw [ha, hpage]) h8, hd, (bitAt_word dr 88).trans hw, ha, ofAddr_addr]
      rfl
    generalize afterRead s.blk r = d at hset hpins
    rw [setJtag_taken _ _ (by rw [hpins]; exact live_powered hl) (by rw [hpins]; exact ht)] at hset
    rw [exec_dbgacc, onBlk_eq, hset]
    exact ⟨_, rfl, rfl, readOut_toNat r _⟩
  · rcases hi with rfl | ⟨p, rfl⟩ | ⟨x, rfl⟩ | ⟨dr, rfl⟩
    · rw [exec_idcode, onBlk_jtag (setJtag_held _ _ hp ht)]
    · rw [exec_samplePreload, onBlk_jtag (setJtag_held _ _ hp ht)]
    · rw [exec_bypass, onBlk_jtag (setJtag_held _ _ hp ht)]
    · have hset : dbgAcc s.blk dr = setJtag s.blk 0x20#8 (fun j => { j with dr := BitVec.ofNat 96 (dr.toNat % 2 ^ 24) }) := by
        unfold dbgAcc
        exact if_pos (by simp [ht])
      rw [exec_dbgacc, onBlk_jtag (hset.trans (setJtag_held _ _ hp ht))]

/-! ### The notice port -/

/-- Settles O46: the oldest notice leaves; a powered engine in P3 sends those that wait too (log 89). -/
theorem noticesLeaveInOrder : Obligations.NoticesLeaveInOrder := by
  unfold Obligations.NoticesLeaveInOrder
  intro s n r hq hc hp
  have hset : noticeSend s.blk = { s.blk with notices := r, noticeOut := some n } := by
    unfold noticeSend
    rw [hq]
    exact if_pos (by simp [hc, hp])
  show s.onBlk noticeSend = _
  rw [onBlk_eq, hset]

end Sys2Proof.Proofs.Debug

/-! SUPPORT. A beat in which nothing waits (R9, R17, R242, R330). Settles O2. -/

namespace Sys2Proof.Proofs.Beat

open Sys2Proof Sys2Proof.Machine Sys2Proof.Laws Sys2Proof.Proofs.Fields Sys2Proof.Proofs.Power

/-- Context time of every context passes. -/
def timed (b : Block) : Block := (allFin 16).foldl tickCtx b

/-- What a beat makes of a context. -/
def beatCtx (b : Block) (c : Ctx) (x : CtxSt) : CtxSt :=
  { x with
    elapsed := if x.state = .running then x.elapsed + 3#64 else x.elapsed
    regRead := refill b x.regRead (getFld b (.strSplit c) 0 7) 6144
    regWrite := refill b x.regWrite (getFld b (.strSplit c) 8 7) 6144
    regRemote := refill b x.regRemote (getFld b (.strSplit c) 16 7) 512 }

theorem timed_ctxs (b : Block) : OnlyCtxs b (timed b) ∧ ∀ c, getCtx (timed b) c = beatCtx b c (getCtx b c) :=
  allFin_modCtx (F := beatCtx) (fun _ _ => rfl) (fun b d n h => by rw [h]; rfl) b

/-- A context with no REVOKE to send sends none. -/
theorem sendRevokes_sent {b : Block} {c : Ctx} (h : ∀ f, (getCtx b c).fence = some f → f.unsent = []) : sendRevokes b c = b := by
  unfold sendRevokes
  split
  · rfl
  · next f hf => rw [h f hf, List.foldl_nil]

theorem allSent {b : Block} (h : ∀ c f, (getCtx b c).fence = some f → f.unsent = []) : (allFin 16).foldl sendRevokes b = b :=
  (allFin 16).foldlRecOn _ (motive := fun d => d = b) rfl (fun d hd c _ => by rw [hd]; exact sendRevokes_sent (h c))

theorem flushPosts_none {b : Block} (h : b.posts = []) : flushPosts b = b := by rw [flushPosts, h, List.foldl_nil]

theorem deliverLoop_none {b : Block} (h : b.fabLoop = []) : deliverLoop b = b := by
  rw [deliverLoop, h, List.foldl_nil]
  rw [← h]

/-- The lanes change nothing but what they hold and what the estimator counts. -/
theorem drainLanes_frame (b : Block) : drainLanes b = { b with fabTx := (drainLanes b).fabTx, acts := (drainLanes b).acts } := rfl

theorem tick_eq (b : Block) : tick b =
    if !live b then b else beatEnd (drainLanes (jobAdvance (deliverLoop (flushPosts ((allFin 16).foldl sendRevokes (timed b)))))) := rfl

/-- Where nothing waits, a beat is context time, the lanes and the beat's end. -/
theorem tick_quiet {b : Block} (hl : live b = true) (hq : QuietBeat b) : tick b = beatEnd (drainLanes (timed b)) := by
  obtain ⟨hframe, hctx⟩ := timed_ctxs b
  have hsent : ∀ c f, (getCtx (timed b) c).fence = some f → f.unsent = [] := fun c f hf => hq.sent c f (by rw [hctx] at hf; exact hf)
  have hposts : (timed b).posts = [] := by rw [hframe]; exact hq.posts
  have hloop : (timed b).fabLoop = [] := by rw [hframe]; exact hq.loop
  have hjobs : (timed b).jobs = b.jobs := by rw [hframe]
  have hjob : jobRunning (timed b) = none := by rw [jobRunning, hjobs]; exact hq.job
  rw [tick_eq, hl, allSent hsent, flushPosts_none hposts, deliverLoop_none hloop, jobAdvance_idle hjob]
  exact if_neg (by simp)

/-- Settles O2: with an empty queue a beat passes, which is the model's choice (log 3). -/
theorem beatPassesWhenNoCommandWaits : Obligations.BeatPassesWhenNoCommandWaits := by
  unfold Obligations.BeatPassesWhenNoCommandWaits
  intro s hs
  have hstep : step s = .next { s with blk := tick s.blk } := by
    unfold step
    rw [hs]
  refine ⟨_, hstep, hs, fun hl => ?_, fun hl hq => ?_⟩
  · have htick : tick s.blk = s.blk := by rw [tick, hl]; rfl
    rw [htick]
  · obtain ⟨hframe, hctx⟩ := timed_ctxs s.blk
    have htick := (tick_quiet hl hq).trans (congrArg beatEnd (drainLanes_frame (timed s.blk)))
    dsimp only
    rw [htick]
    generalize (drainLanes (timed s.blk)).fabTx = tx
    generalize (drainLanes (timed s.blk)).acts = acts
    generalize timed s.blk = d at hframe hctx
    obtain ⟨x, rfl⟩ : ∃ x, d = { s.blk with ctxs := x } := ⟨_, hframe⟩
    refine ⟨rfl, rfl, rfl, rfl, rfl, rfl, ⟨rfl, rfl, rfl, rfl, rfl, rfl, rfl, rfl, rfl, rfl, rfl, rfl⟩, rfl, rfl, ?_, fun c => ?_⟩
    · simp only [beatEnd, Bool.and_eq_true, decide_eq_true_eq]
    · have h : getCtx (beatEnd { { s.blk with ctxs := x } with fabTx := tx, acts := acts }) c = beatCtx s.blk c (getCtx s.blk c) := hctx c
      rw [h]
      exact ⟨rfl, rfl, rfl, rfl⟩

end Sys2Proof.Proofs.Beat

/-! SUPPORT. The scheduling registers (R236, R237, R247 to R250, R275, R398 to R400): which writes are taken, and what a taken one holds. Settles O36 to
O40. -/

namespace Sys2Proof.Proofs.Sched

open Sys2Proof Sys2Proof.Machine Sys2Proof.Laws Sys2Proof.Proofs.IssueStage Sys2Proof.Proofs.EngReset Sys2Proof.Proofs.Fields
open Sys2Proof.Proofs.RegTable

/-! ### Writes that are taken whole, and writes that are refused -/

theorem bitsOf_div (n hi lo : Nat) : bitsOf n hi lo = n / 2 ^ lo % 2 ^ (hi + 1 - lo) := by rw [bitsOf, Nat.shiftRight_eq_div_pow]

theorem hwSet_onlyReg (b : Block) (r : Reg) (lo : Nat) : onlyReg r b (hwSet b r lo) := onlyReg_hwSet ..

theorem hwSet_set (b : Block) (r : Reg) {lo : Nat} (h : lo < 64) : getFld (hwSet b r lo) r lo 1 = 1 := by
  rw [getFld_at, hwSet_at, fldAt_putFld _ _ _ (by omega)]
  rfl

/-- A refused write sets its bit and does nothing else. -/
theorem exec_refused {s : State} {r r' : Reg} {lo : Nat} {f : Block → Block} (h : portTakes s r = true) (hf : f s.blk = hwSet s.blk r' lo) (hlo : lo < 64) :
    ∃ t : State, s.onWrite r f = .next t ∧ onlyReg r' s.blk t.blk ∧ getFld t.blk r' lo 1 = 1 := by
  refine ⟨_, exec_write h (by rw [hf]; exact onlyRegs_pins (hwSet_onlyReg ..).1), ?_⟩
  rw [hf, getFld_wrote]
  exact ⟨onlyReg_wrote (hwSet_onlyReg ..), hwSet_set _ _ hlo⟩

/-- A write by access code of a register without a field that locks. -/
theorem exec_plain {s : State} {r r' : Reg} {v : W64} {f : Block → Block} (h : portTakes s r = true) (hf : f s.blk = writePlain s.blk r' v)
    (hfree : r'.fields.any (fun x => decide (x.acc = .RWL)) = false) :
    s.onWrite r f = .next (wrote s (writePlain s.blk r' v)) ∧ onlyReg r' s.blk (wrote s (writePlain s.blk r' v)).blk := by
  have honly := onlyReg_writePlain_free (b := s.blk) (r := r') v hfree
  rw [exec_write h (by rw [hf]; exact onlyRegs_pins honly.1), hf]
  exact ⟨rfl, onlyReg_wrote honly⟩

/-- A field that such a write takes as it comes. -/
theorem wrotePlain_rw (s : State) {r : Reg} (v : W64) {lo wid : Nat} (h : ∃ f ∈ r.fields, f.lo = lo ∧ f.wid = wid ∧ f.acc = .RW) :
    getFld (wrote s (writePlain s.blk r v)).blk r lo wid = v.toNat / 2 ^ lo % 2 ^ wid := by
  obtain ⟨f, hf, rfl, rfl, ha⟩ := h
  exact writePlain_rw s.blk v hf ha

/-! ### Pegs -/

theorem pegOwner_fld (b : Block) (p : Peg) : pegOwner b p = Fin.ofNat 16 (getFld b (.schPegCfg p) 0 4) := rfl
theorem pegProd_fld (b : Block) (p : Peg) : pegProd b p = getFld b (.schPegCfg p) 4 3 := rfl
theorem pegCons_fld (b : Block) (p : Peg) : pegCons b p = getFld b (.schPegCfg p) 8 3 := rfl
theorem pegPeer_fld (b : Block) (p : Peg) : pegPeer b p = getFld b (.schPegCfg p) 12 12 := rfl
theorem pegEn_fld (b : Block) (p : Peg) : pegEn b p = (getFld b (.schPegCfg p) 24 1 == 1) := rfl

/-- When a pair takes a new configuration (R399). -/
abbrev pegTakes (b : Block) (p : Peg) (v : W64) : Prop :=
  restFree b (pegOwner b p) = true ∧ restFree b (Fin.ofNat 16 (v.toNat % 16)) = true ∧ v.toNat / 16 % 8 ≤ 4
    ∧ v.toNat / 2 ^ 8 % 8 ≤ 4 ∧ v.toNat / 16 % 8 ≠ v.toNat / 2 ^ 8 % 8

theorem writePegCfg_taken {b : Block} {p : Peg} {v : W64} (h : pegTakes b p v) : writePegCfg b p v = writePlain b (.schPegCfg p) v := by
  obtain ⟨h1, h2, h3, h4, h5⟩ := h
  refine if_pos ?_
  simp only [bitsOf_div, Bool.and_eq_true, decide_eq_true_eq, bne_iff_ne, ne_eq]
  simpa using ⟨⟨⟨⟨h1, h2⟩, h3⟩, h4⟩, h5⟩

theorem writePegCfg_refused {b : Block} {p : Peg} {v : W64} (h : ¬ pegTakes b p v) : writePegCfg b p v = hwSet b .schStatus 0 := by
  refine if_neg (fun hc => h ?_)
  simp only [bitsOf_div, Bool.and_eq_true, decide_eq_true_eq, bne_iff_ne, ne_eq] at hc
  obtain ⟨⟨⟨⟨h1, h2⟩, h3⟩, h4⟩, h5⟩ := hc
  simp at h2 h3 h4 h5
  exact ⟨h1, h2, h3, h4, h5⟩

/-- When the counts of a pair are written (R237). -/
abbrev countTakes (b : Block) (p : Peg) : Prop := pegEn b p = false ∨ (getCtx b (pegOwner b p)).state = .free ∨ (getCtx b (pegOwner b p)).state = .done
  ∨ (getCtx b (pegOwner b p)).state = .preempted

theorem writePeg_taken {b : Block} {p : Peg} (v : W64) (h : countTakes b p) :
    writePeg b p v = setPeg b p ⟨BitVec.ofNat 16 (bitsOf v.toNat 15 0), BitVec.ofNat 16 (bitsOf v.toNat 31 16)⟩ := by
  refine if_pos ?_
  rcases h with h | h | h | h <;> simp [h]

theorem writePeg_refused {b : Block} {p : Peg} (v : W64) (h : ¬ countTakes b p) : writePeg b p v = hwSet b .schStatus 0 := by
  refine if_neg (fun hc => h ?_)
  unfold countTakes
  cases hx : (getCtx b (pegOwner b p)).state <;> simp_all

/-- One count in a write of a peg's register. -/
theorem pegHalf (v : W64) (i : Nat) : BitVec.ofNat 16 (bitsOf v.toNat (16 * i + 15) (16 * i)) = (v >>> (16 * i)).setWidth 16 := by
  apply BitVec.eq_of_toNat_eq
  rw [bitsOf_div, show 16 * i + 15 + 1 - 16 * i = 16 by omega]
  simp [BitVec.toNat_ushiftRight, Nat.shiftRight_eq_div_pow]

/-- Settles O37: a configuration or a count is written whole where R399 and R237 allow it, and refused else. -/
theorem pegWrites : Obligations.PegWrites := by
  unfold Obligations.PegWrites
  refine ⟨fun s p v h => ?_, fun s p v h => ?_⟩
  · by_cases hc : pegTakes s.blk p v
    · obtain ⟨hexec, honly⟩ := exec_plain (f := fun b => writePegCfg b p v) h (writePegCfg_taken hc) rfl
      have hf : ∀ lo wid, (∃ f ∈ (Reg.schPegCfg p).fields, f.lo = lo ∧ f.wid = wid ∧ f.acc = .RW) → _ := fun lo wid => wrotePlain_rw s v (r := .schPegCfg p)
      refine ⟨_, hexec, ?_⟩
      rw [if_pos hc, pegOwner_fld, pegProd_fld, pegCons_fld, pegPeer_fld, pegEn_fld]
      refine ⟨honly, ?_, ?_, ?_, ?_, ?_⟩
      · rw [hf 0 4 (by simp [Reg.fields])]; simp
      · rw [hf 4 3 (by simp [Reg.fields])]; simp
      · rw [hf 8 3 (by simp [Reg.fields])]; rfl
      · rw [hf 12 12 (by simp [Reg.fields])]
      · rw [hf 24 1 (by simp [Reg.fields]), ← bitAt_word, bitAt, Nat.shiftRight_eq_div_pow]; rfl
    · obtain ⟨t, hexec, h1, h2⟩ := exec_refused (f := fun b => writePegCfg b p v) h (writePegCfg_refused hc) (by omega)
      exact ⟨t, hexec, by rw [if_neg hc]; exact ⟨h1, h2⟩⟩
  · by_cases hc : countTakes s.blk p
    · have hset := writePeg_taken v hc
      refine ⟨_, exec_write (f := fun b => writePeg b p v) h (by rw [hset]; rfl), ?_⟩
      rw [if_pos hc, hset]
      refine ⟨(getPeg_setPeg ..).trans ?_, fun q hq => getPeg_setPeg_ne _ _ hq, rfl⟩
      rw [pegHalf v 0, pegHalf v 1]
      simp
    · obtain ⟨t, hexec, h1, h2⟩ := exec_refused (f := fun b => writePeg b p v) h (writePeg_refused v hc) (by omega)
      exact ⟨t, hexec, by rw [if_neg hc]; exact ⟨h1, h2⟩⟩

/-! ### Windows and the mark log -/

/-- When a window is written (R400). -/
abbrev winTakes (b : Block) (c : Ctx) (k : Fin 8) (v : W64) : Prop :=
  (getCtx b c).state = .free ∧ k ≠ 7 ∧ 64 * (v.toNat % 2 ^ 20 + v.toNat / 2 ^ 32 % 2 ^ 21) ≤ winRegion k.val
    ∧ (∀ d, d ≠ c → (getCtx b d).state ≠ .free →
        rangesMeet (64 * (v.toNat % 2 ^ 20)) (64 * (v.toNat / 2 ^ 32 % 2 ^ 21)) (winBase b d k.val) (winSize b d k.val) = false)

theorem writeWin_eq (b : Block) (c : Ctx) (k : Fin 8) (v : W64) [Decidable (winTakes b c k v)] :
    writeWin b c k v = if winTakes b c k v then writePlain b (.schWin c k) v else hwSet b .schStatus 0 := by
  have hiff : (decide ((getCtx b c).state = .free) && k.val != 7 && decide (64 * (v.toNat % 2 ^ 20) + 64 * (v.toNat / 2 ^ 32 % 2 ^ 21) ≤ winRegion k.val)
      && !((allFin 16).any (fun d => decide (d ≠ c) && decide ((getCtx b d).state ≠ .free)
        && rangesMeet (64 * (v.toNat % 2 ^ 20)) (64 * (v.toNat / 2 ^ 32 % 2 ^ 21)) (winBase b d k.val) (winSize b d k.val)))) = true ↔ winTakes b c k v := by
    have h7 : k.val ≠ 7 ↔ k ≠ 7 := by rw [ne_eq, ne_eq, Fin.ext_iff]; rfl
    simp only [winTakes, Bool.and_eq_true, decide_eq_true_eq, bne_iff_ne, h7, Bool.not_eq_true', List.any_eq_false, mem_allFin, Nat.mul_add, not_and,
      Bool.not_eq_true, forall_const, and_assoc]
  show (if _ then _ else _) = _
  have h0 : bitsOf v.toNat 19 0 = v.toNat % 2 ^ 20 := by simp [bitsOf_div]
  have h32 : bitsOf v.toNat 52 32 = v.toNat / 2 ^ 32 % 2 ^ 21 := by simp [bitsOf_div]
  rw [h0, h32]
  by_cases h : winTakes b c k v
  · rw [if_pos h, if_pos (hiff.mpr h)]
  · rw [if_neg h, if_neg (fun hc => h (hiff.mp hc))]
    rfl

/-- Settles O38: a window is written where R400 allows it; a write of the log's SIZE returns NEXT to 0. -/
theorem windowAndLogWrites : Obligations.WindowAndLogWrites := by
  unfold Obligations.WindowAndLogWrites
  refine ⟨fun s c k v h => ?_, fun s c v h => ?_⟩
  · classical
    have hset := writeWin_eq s.blk c k v
    by_cases hc : winTakes s.blk c k v
    · rw [if_pos hc] at hset
      obtain ⟨hexec, honly⟩ := exec_plain (f := fun b => writeWin b c k v) h hset rfl
      refine ⟨_, hexec, ?_⟩
      dsimp only
      rw [if_pos hc]
      refine ⟨honly, ?_, ?_⟩
      · rw [wrotePlain_rw s v (by simp [Reg.fields])]; simp
      · rw [wrotePlain_rw s v (by simp [Reg.fields])]
    · rw [if_neg hc] at hset
      obtain ⟨t, hexec, h1, h2⟩ := exec_refused (f := fun b => writeWin b c k v) h hset (by omega)
      exact ⟨t, hexec, by dsimp only; rw [if_neg hc]; exact ⟨h1, h2⟩⟩
  · have honly : onlyReg (.schLogSize c) s.blk (writeLogSize s.blk c v) := onlyReg_trans (onlyReg_writePlain_free v rfl) (onlyReg_setFld ..)
    have h0 : getFld (writePlain s.blk (.schLogSize c) v) (.schLogSize c) 0 20 = v.toNat / 2 ^ 0 % 2 ^ 20 :=
      wrotePlain_rw s v (r := .schLogSize c) (by simp [Reg.fields])
    refine ⟨_, exec_write (f := fun b => writeLogSize b c v) h (onlyRegs_pins honly.1), onlyReg_wrote honly, ?_, ?_⟩
    · rw [getFld_wrote, writeLogSize, getFld_at, setFld_at, fldAt_putFld_apart _ _ _ (by omega) (by omega), ← getFld_at, h0]
      simp
    · rw [getFld_wrote, writeLogSize, getFld_at, setFld_at, fldAt_putFld _ _ _ (by omega)]
      rfl

/-! ### Fixed mode -/

/-- The fixed context and EN that a write of SCH_FIXED names for an array. -/
def fixedPart (v : W64) (n : Arr) : Nat := v.toNat / 2 ^ (8 * n.val) % 32

/-- An array whose part of SCH_FIXED stays (R247, R248; log 33). -/
def fixedStays (b : Block) (v : W64) (n : Arr) : Bool :=
  anyTileHeld b n || (fixedEn b n && working b (fixedCtx b n)) || working b (fixedPart v n / 2)

/-- A part of SCH_FIXED as it is taken, with SIDE at 0. -/
def putFixed (b : Block) (v : W64) (n : Arr) : Block := setFld (setFld b .schFixed (8 * n.val) 5 (fixedPart v n)) .schFixed (8 * n.val + 5) 1 0

theorem writeFixedPart_eq (b : Block) (v : W64) (n : Arr) :
    writeFixedPart v b n = if fixedStays b v n = true then hwSet b .schStatus 0 else putFixed b v n := by
  have hpart : bitsOf v.toNat (8 * n.val + 4) (8 * n.val) = fixedPart v n := by
    rw [bitsOf_div, show 8 * n.val + 4 + 1 - 8 * n.val = 5 by omega]
    rfl
  unfold writeFixedPart
  dsimp only
  rw [hpart]
  rfl

theorem fldAt_six (m : RegMap) (r : Reg) (lo : Nat) : fldAt m r lo 6 = fldAt m r lo 5 + 32 * fldAt m r (lo + 5) 1 := by
  simp only [fldAt, Nat.shiftRight_add]
  generalize (regAt m r).toNat >>> lo = x
  simp only [Nat.shiftRight_eq_div_pow]
  omega

/-- A taken part reads as it was written, and the other arrays' parts stand. -/
theorem putFixed_fld (b : Block) (v : W64) (n : Arr) : getFld (putFixed b v n) .schFixed (8 * n.val) 6 = fixedPart v n := by
  have hn := n.isLt
  have hlt : fixedPart v n < 32 := Nat.mod_lt _ (by omega)
  have h5 : fldAt (putFixed b v n).regs .schFixed (8 * n.val) 5 = fixedPart v n := by
    rw [putFixed, setFld_at, setFld_at, fldAt_putFld_apart _ _ _ (by omega) (by omega), fldAt_putFld _ _ _ (by omega)]
    exact Nat.mod_eq_of_lt hlt
  have h1 : fldAt (putFixed b v n).regs .schFixed (8 * n.val + 5) 1 = 0 := by
    rw [putFixed, setFld_at, setFld_at, fldAt_putFld _ _ _ (by omega)]
    rfl
  rw [getFld_at, fldAt_six, h5, h1]
  omega

theorem putFixed_apart (b : Block) (v : W64) {n m : Arr} (h : m ≠ n) {lo wid : Nat} (hlo : 8 * m.val ≤ lo) (hw : lo + wid ≤ 8 * m.val + 6) :
    getFld (putFixed b v n) .schFixed lo wid = getFld b .schFixed lo wid := by
  have hm := m.isLt
  have hne : m.val ≠ n.val := fun e => h (Fin.ext e)
  rw [getFld_at, getFld_at, putFixed, setFld_at, setFld_at, fldAt_putFld_apart _ _ _ (by omega) (by omega), fldAt_putFld_apart _ _ _ (by omega) (by omega)]

/-- One part of the write touches SCH_FIXED and SCH_STATUS, and of the former its own array's part. -/
theorem writeFixedPart_does (b : Block) (v : W64) (n : Arr) : onlyRegs b (writeFixedPart v b n)
    ∧ (∀ r, r ≠ .schFixed → r ≠ .schStatus → rawReg (writeFixedPart v b n) r = rawReg b r)
    ∧ ∀ m, m ≠ n → ∀ lo wid, 8 * m.val ≤ lo → lo + wid ≤ 8 * m.val + 6 → getFld (writeFixedPart v b n) .schFixed lo wid = getFld b .schFixed lo wid := by
  rw [writeFixedPart_eq]
  by_cases h : fixedStays b v n = true
  · rw [if_pos h]
    have ho := hwSet_onlyReg b .schStatus 0
    exact ⟨ho.1, fun r _ hr => ho.2 r hr, fun m _ lo wid _ _ => by rw [getFld, ho.2 _ (by simp)]; rfl⟩
  · rw [if_neg h]
    have ho : onlyReg .schFixed b (putFixed b v n) := onlyReg_trans (onlyReg_setFld ..) (onlyReg_setFld ..)
    exact ⟨ho.1, fun r hr _ => ho.2 r hr, fun m hm lo wid => putFixed_apart b v hm⟩

theorem fixedStays_congr {b d : Block} (v : W64) {n : Arr} (h : onlyRegs b d)
    (hf : ∀ lo wid, 8 * n.val ≤ lo → lo + wid ≤ 8 * n.val + 6 → getFld d .schFixed lo wid = getFld b .schFixed lo wid) :
    fixedStays d v n = fixedStays b v n := by
  have hen : fixedEn d n = fixedEn b n := by rw [fixedEn, hf _ _ (by omega) (by omega), fixedEn]
  have hctx : fixedCtx d n = fixedCtx b n := by rw [fixedCtx, hf _ _ (by omega) (by omega), fixedCtx]
  have harr : d.arrays = b.arrays := by rw [h]
  have hctxs : d.ctxs = b.ctxs := by rw [h]
  have hheld : anyTileHeld d n = anyTileHeld b n := by simp only [anyTileHeld, getPos, getArr, harr]
  have hwork : ∀ c, working d c = working b c := fun c => by simp only [working, getCtx, hctxs]
  rw [fixedStays, fixedStays, hen, hctx, hheld, hwork, hwork]

/-- What a write of SCH_FIXED has done after the arrays of `l`. -/
structure FixedAfter (v : W64) (l : List Arr) (b d : Block) : Prop where
  only : onlyRegs b d
  regs : ∀ r, r ≠ .schFixed → r ≠ .schStatus → rawReg d r = rawReg b r
  apart : ∀ m, m ∉ l → ∀ lo wid, 8 * m.val ≤ lo → lo + wid ≤ 8 * m.val + 6 → getFld d .schFixed lo wid = getFld b .schFixed lo wid
  part : ∀ n ∈ l, getFld d .schFixed (8 * n.val) 6 = if fixedStays b v n = true then getFld b .schFixed (8 * n.val) 6 else fixedPart v n
  told : (getFld b .schStatus 0 1 = 1 ∨ ∃ n ∈ l, fixedStays b v n = true) → getFld d .schStatus 0 1 = 1
  quiet : (∀ n ∈ l, fixedStays b v n = false) → rawReg d .schStatus = rawReg b .schStatus

theorem writeFixed_after (v : W64) (l : List Arr) (b : Block) (hl : l.Nodup) : FixedAfter v l b (l.foldl (writeFixedPart v) b) := by
  induction l generalizing b with
  | nil =>
    exact { only := rfl, regs := fun _ _ _ => rfl, apart := fun _ _ _ _ _ _ => rfl, part := fun n hn => absurd hn List.not_mem_nil,
            told := fun h => h.elim id (fun ⟨n, hn, _⟩ => absurd hn List.not_mem_nil), quiet := fun _ => rfl }
  | cons m l ih =>
    obtain ⟨hm, hl⟩ := List.nodup_cons.mp hl
    obtain ⟨ho, hr, ha⟩ := writeFixedPart_does b v m
    have hstep := writeFixedPart_eq b v m
    have h := ih (writeFixedPart v b m) hl
    have hst : ∀ n ∈ l, fixedStays (writeFixedPart v b m) v n = fixedStays b v n := fun n hn =>
      fixedStays_congr v ho (ha n (fun e => hm (e ▸ hn)))
    have hset : fixedStays b v m = true → getFld (writeFixedPart v b m) .schStatus 0 1 = 1 := fun hs => by
      rw [hstep, if_pos hs]
      exact hwSet_set _ _ (by omega)
    have hkept : fixedStays b v m = false → rawReg (writeFixedPart v b m) .schStatus = rawReg b .schStatus := fun hs => by
      rw [hstep, if_neg (by simp [hs])]
      exact (onlyReg_trans (onlyReg_setFld ..) (onlyReg_setFld ..) : onlyReg .schFixed b (putFixed b v m)).2 _ (by simp)
    rw [List.foldl_cons]
    refine ⟨onlyRegs_trans ho h.only, fun r h1 h2 => (h.regs r h1 h2).trans (hr r h1 h2), fun n hn lo wid h1 h2 => ?_, fun n hn => ?_, fun ht => ?_, fun hq => ?_⟩
    · obtain ⟨hnm, hnl⟩ := not_or.mp (fun e => hn (List.mem_cons.mpr e))
      exact (h.apart n hnl lo wid h1 h2).trans (ha n hnm lo wid h1 h2)
    · rcases List.mem_cons.mp hn with rfl | hn
      · rw [h.apart n hm _ _ (by omega) (by omega), hstep]
        by_cases hs : fixedStays b v n = true
        · rw [if_pos hs, if_pos hs]
          exact congrArg (fun w : W64 => (w.toNat >>> (8 * n.val)) % 2 ^ 6) ((hwSet_onlyReg b .schStatus 0).2 .schFixed (by simp))
        · rw [if_neg hs, if_neg hs, putFixed_fld]
      · rw [h.part n hn, hst n hn, ha n (fun e => hm (e ▸ hn)) _ _ (by omega) (by omega)]
    · apply h.told
      rcases ht with ht | ⟨n, hn, hs⟩
      · left
        by_cases hs : fixedStays b v m = true
        · exact hset hs
        · rw [getFld, hkept (by simpa using hs)]
          exact ht
      · rcases List.mem_cons.mp hn with rfl | hn
        · exact .inl (hset hs)
        · exact .inr ⟨n, hn, (hst n hn).trans hs⟩
    · rw [h.quiet (fun n hn => (hst n hn).trans (hq n (List.mem_cons_of_mem _ hn))), hkept (hq m (List.mem_cons_self ..))]

/-- Settles O39: SCH_FIXED is written array by array; that the named context counts as well as the fixed one is log 33. -/
theorem fixedModeWrites : Obligations.FixedModeWrites := by
  unfold Obligations.FixedModeWrites
  intro s v h
  have hafter := writeFixed_after v (allFin 4) s.blk (nodup_allFin 4)
  have hset : writeFixed s.blk v = (allFin 4).foldl (writeFixedPart v) s.blk := rfl
  generalize (allFin 4).foldl (writeFixedPart v) s.blk = d at hafter hset
  refine ⟨_, exec_write (f := fun b => writeFixed b v) h (by rw [hset]; exact onlyRegs_pins hafter.only), ?_⟩
  rw [hset]
  exact ⟨onlyRegs_respond hafter.only, ⟨fun n => hafter.part n (mem_allFin n), fun ⟨n, hn⟩ => hafter.told (.inr ⟨n, mem_allFin n, hn⟩),
    fun hq => hafter.quiet (fun n _ => hq n)⟩, hafter.regs⟩

/-! ### Pre-emption -/

theorem modArr_self (b : Block) (n : Arr) : modArr b n (fun a => a) = b := by simp [modArr, get_at]

/-- The parked tiles of the context go to the heads of their arrays' queues (R250). -/
def queueParked (b : Block) (c : Ctx) : Block :=
  (allFin 4).foldl (fun d n =>
    let l := ((b.preParked.filter (fun q => decide (q.2.ctx = c))).filter (fun q => decide (q.1 = n))).map (·.2)
    if l.isEmpty then d else modArr d n (fun a => { a with resume := a.resume ++ l }))
    { b with preParked := b.preParked.filter (fun q => decide (q.2.ctx ≠ c)) }

/-- The work that goes on wakes the units (R348). -/
def wakeParked (b d : Block) (c : Ctx) : Block :=
  if (b.preParked.filter (fun q => decide (q.2.ctx = c))).isEmpty && d.entries.all (fun e => !(decide (e.ctx = c) && gatedUnit e.eunit))
    && d.jobs.all (fun j => decide (j.ctx ≠ c)) then d else wakeUnits d .array

/-- Closes whose counts were met meanwhile go on. -/
def metCloses (b : Block) (c : Ctx) : Block := (allFin 64).foldl (fun b g => if (getGrp b g).ctx = c then countMet b g else b) b

/-- A resumed context before the test of its end. -/
def resumed (b : Block) (c : Ctx) : Block := metCloses (modCtx (wakeParked b (queueParked b c) c) c (fun x => { x with state := .running })) c

theorem resumeCtx_eq (b : Block) (c : Ctx) :
    resumeCtx b c = if (getCtx b c).state = .preempted then ctxDone (resumed b c) c else hwSet b .schStatus 0 := rfl

/-- Arrays, parked tiles, contexts, entries and pins stand. -/
structure QueuesStand (b d : Block) : Prop where
  arrays : d.arrays = b.arrays
  parked : d.preParked = b.preParked
  ctxs : d.ctxs = b.ctxs
  entries : d.entries = b.entries
  pins : d.pins = b.pins

theorem QueuesStand.refl (b : Block) : QueuesStand b b := ⟨rfl, rfl, rfl, rfl, rfl⟩

theorem QueuesStand.trans {b d e : Block} (h : QueuesStand b d) (k : QueuesStand d e) : QueuesStand b e :=
  ⟨k.arrays.trans h.arrays, k.parked.trans h.parked, k.ctxs.trans h.ctxs, k.entries.trans h.entries, k.pins.trans h.pins⟩

theorem wakeUnits_stand (b : Block) (u : EUnit) : QueuesStand b (wakeUnits b u) := by
  unfold wakeUnits
  split
  · exact ⟨rfl, rfl, rfl, rfl, rfl⟩
  · exact .refl b

theorem countMet_stand (b : Block) (g : Grp) : QueuesStand b (countMet b g) := by
  unfold countMet
  dsimp only
  split
  · exact ⟨rfl, rfl, rfl, rfl, rfl⟩
  · exact .refl b

theorem metCloses_stand (b : Block) (c : Ctx) : QueuesStand b (metCloses b c) := by
  refine (allFin 64).foldlRecOn _ (motive := QueuesStand b) (.refl b) (fun d h g _ => h.trans ?_)
  split
  · exact countMet_stand d g
  · exact .refl d

theorem wakeParked_stand (b d : Block) (c : Ctx) : QueuesStand d (wakeParked b d c) := by
  unfold wakeParked
  split
  · exact .refl d
  · exact wakeUnits_stand d .array

/-- The queues after the resume, array by array. -/
theorem queueParked_does (b : Block) (c : Ctx) :
    OnlyArrays { b with preParked := b.preParked.filter (fun q => decide (q.2.ctx ≠ c)) } (queueParked b c)
      ∧ ∀ n, (getArr (queueParked b c) n).resume = (getArr b n).resume
        ++ (b.preParked.filter (fun x => decide (x.1 = n) && decide (x.2.ctx = c))).map (·.2) := by
  obtain ⟨h1, h2⟩ := allFin_modArr (step := fun d n =>
      let l := ((b.preParked.filter (fun q => decide (q.2.ctx = c))).filter (fun q => decide (q.1 = n))).map (·.2)
      if l.isEmpty then d else modArr d n (fun a => { a with resume := a.resume ++ l }))
    (F := fun _ n a => { a with resume := a.resume ++ ((b.preParked.filter (fun q => decide (q.2.ctx = c))).filter (fun q => decide (q.1 = n))).map (·.2) })
    (fun d n => by
      dsimp only
      split
      · next he =>
        rw [List.isEmpty_iff.mp he]
        simp only [List.append_nil]
        exact (modArr_self d n).symm
      · rfl) (fun _ _ _ _ => rfl) { b with preParked := b.preParked.filter (fun q => decide (q.2.ctx ≠ c)) }
  refine ⟨h1, fun n => ?_⟩
  have h := congrArg ArraySt.resume (h2 n)
  refine h.trans ?_
  rw [← List.filter_filter]
  rfl

/-- What the resume of a pre-empted context leaves (R250). -/
theorem resumed_does (b : Block) (c : Ctx) : getCtx (resumed b c) c = { getCtx b c with state := .running } ∧ (resumed b c).entries = b.entries
    ∧ (resumed b c).pins = b.pins ∧ (resumed b c).preParked = b.preParked.filter (fun q => decide (q.2.ctx ≠ c))
    ∧ ∀ n, (getArr (resumed b c) n).resume = (getArr b n).resume ++ (b.preParked.filter (fun x => decide (x.1 = n) && decide (x.2.ctx = c))).map (·.2) := by
  obtain ⟨ha, hq⟩ := queueParked_does b c
  have hw := wakeParked_stand b (queueParked b c) c
  unfold resumed
  generalize queueParked b c = d at ha hq hw
  generalize wakeParked b d c = e at hw
  have hm := metCloses_stand (modCtx e c (fun x => { x with state := .running })) c
  generalize metCloses (modCtx e c (fun x => { x with state := .running })) c = f at hm
  have hctx : getCtx e c = getCtx b c := by
    rw [getCtx, hw.ctxs, ha]
    rfl
  refine ⟨?_, ?_, ?_, ?_, fun n => ?_⟩
  · rw [getCtx, hm.ctxs, ← getCtx, getCtx_modCtx, hctx]
  · rw [hm.entries]
    exact hw.entries.trans (by rw [ha])
  · rw [hm.pins]
    exact hw.pins.trans (by rw [ha])
  · rw [hm.parked]
    exact hw.parked.trans (by rw [ha])
  · rw [getArr, hm.arrays, ← hq, getArr, ← hw.arrays]
    rfl

/-- A context with work left does not end. -/
theorem ctxDone_works {b : Block} {c : Ctx} (h : (∃ e ∈ b.entries, e.ctx = c) ∨ ∃ q, GoesOn b c q) : ctxDone b c = b := by
  rcases h with ⟨e, he, hc⟩ | ⟨q, hq⟩
  · have hall : b.entries.all (fun e => !decide (e.ctx = c)) = false := by
      rw [List.all_eq_false]
      exact ⟨e, he, by simp [hc]⟩
    simp only [ctxDone, hall, Bool.and_false, Bool.false_eq_true, if_false]
  · exact ctxDone_goesOn hq

theorem ctxDone_parked (b : Block) (c : Ctx) : (ctxDone b c).preParked = b.preParked := by
  have h := ctxDone_links b c
  rw [h]

/-- Settles O36: pre-emption, resume and rest of a context. -/
theorem preemptionAndResume : Obligations.PreemptionAndResume := by
  unfold Obligations.PreemptionAndResume
  refine ⟨fun s c h => ?_, fun s c h => ?_, fun s c hl hst hrest hroom => ?_⟩
  · by_cases hr : (getCtx s.blk c).state = .running
    · have hset : preempt s.blk c = modCtx s.blk c (fun x => { x with state := .preempting }) := if_pos hr
      refine ⟨_, exec_write (f := fun b => preempt b c) h (by rw [hset]; rfl), ?_⟩
      rw [if_pos hr, hset]
      refine ⟨(getCtx_wrote ..).trans (getCtx_modCtx ..), fun d hd => (getCtx_wrote ..).trans (getCtx_modCtx_ne _ _ hd), rfl, fun q => ?_⟩
      have hstate : (getCtx (modCtx s.blk c (fun x => { x with state := .preempting })) c).state = .preempting := by rw [getCtx_modCtx]
      unfold strandLive
      rw [getCtx_wrote, hstate]
      rfl
    · obtain ⟨t, hexec, h1, h2⟩ := exec_refused (f := fun b => preempt b c) (r' := .schStatus) (lo := 0) h (if_neg hr) (by omega)
      exact ⟨t, hexec, by rw [if_neg hr]; exact ⟨h1, h2⟩⟩
  · have hset := resumeCtx_eq s.blk c
    by_cases hr : (getCtx s.blk c).state = .preempted
    · rw [if_pos hr] at hset
      obtain ⟨hctx, hent, hpins, hparked, hq⟩ := resumed_does s.blk c
      generalize resumed s.blk c = d at hset hctx hent hpins hparked hq
      have hlinks := ctxDone_links d c
      refine ⟨_, exec_write (f := fun b => resumeCtx b c) h (by rw [hset, hlinks.pins, hpins]), ?_⟩
      rw [if_pos hr, hset]
      refine ⟨?_, fun hw => ?_, fun n => ?_, ?_⟩
      · rw [getCtx_wrote, (ctxDone_kept d c).strands c, hctx]
      · have hgo : ctxDone d c = d := by
          refine ctxDone_works (hw.imp (fun ⟨e, he, hc⟩ => ⟨e, hent ▸ he, hc⟩) (fun ⟨q, hq⟩ => ⟨q, ?_⟩))
          rw [GoesOn, getStrand, hctx]
          exact hq
        rw [getCtx_wrote, hgo, hctx]
      · rw [getArr_wrote, getArr, hlinks.arrays, ← getArr, hq n]
      · exact (ctxDone_parked d c).trans hparked
    · rw [if_neg hr] at hset
      obtain ⟨t, hexec, h1, h2⟩ := exec_refused (f := fun b => resumeCtx b c) h hset (by omega)
      exact ⟨t, hexec, by rw [if_neg hr]; exact ⟨h1, h2⟩⟩
  · have hset : preemptRest s.blk c = notify (modCtx s.blk c (fun x => { x with state := .preempted })) 5 (some c) 0 0 false :=
      if_pos (by simp [hst, hrest])
    have hctx : getCtx (modCtx s.blk c (fun x => { x with state := .preempted })) c = { getCtx s.blk c with state := .preempted } := getCtx_modCtx ..
    have hadd := notify_added (b := modCtx s.blk c (fun x => { x with state := .preempted })) 5 (some c) 0 0 false hroom
    have hframe : notify (modCtx s.blk c (fun x => { x with state := .preempted })) 5 (some c) 0 0 false =
        { modCtx s.blk c (fun x => { x with state := .preempted }) with
          notices := (notify (modCtx s.blk c (fun x => { x with state := .preempted })) 5 (some c) 0 0 false).notices
          noticeNew := s.blk.noticeNew + 1 } := by
      unfold notify
      dsimp only
      rw [if_pos (show (modCtx s.blk c (fun x => { x with state := .preempted })).notices.length < 32 from hroom)]
      rfl
    have hword := noticeWord_low (modCtx s.blk c (fun x => { x with state := .preempted })) (k := 5) c 0 0 false (by omega)
    obtain ⟨e, he⟩ : ∃ e, e = modCtx s.blk c (fun x => { x with state := .preempted }) := ⟨_, rfl⟩
    rw [← he] at hset hctx hadd hframe hword
    have hbase : e = { s.blk with ctxs := e.ctxs } := by rw [he]; rfl
    generalize notify e 5 (some c) 0 0 false = d at hset hadd hframe
    have hframe' : d = { s.blk with ctxs := e.ctxs, notices := d.notices, noticeNew := s.blk.noticeNew + 1 } := hframe.trans (by rw [hbase])
    have hpins : d.pins = s.blk.pins := by rw [hframe']
    have hctxs : d.ctxs = e.ctxs := by rw [hframe]
    refine ⟨{ s with blk := d }, _, hset ▸ onLive_pins (f := fun b => preemptRest b c) hl (by rw [hset, hpins]), ?_, ?_, ?_, hword⟩
    · rw [getCtx, hctxs]
      exact hctx
    · rw [hframe']
    · exact noticeAdded_congr hadd (by rw [hbase]) (by rw [hbase]) rfl

/-! ### The command queue's registers -/

/-- When TAIL is taken (R275). -/
abbrev tailTakes (b : Block) (v : W64) : Prop :=
  if 6 ≤ getFld b .schCqSize 0 4 ∧ getFld b .schCqSize 0 4 ≤ 12 then
    (v.toNat % 2 ^ 32 + 2 ^ 32 - getFld b .schCqHead 0 32) % 2 ^ 32 ≤ 2 ^ getFld b .schCqSize 0 4
  else (v.toNat % 2 ^ 32 + 2 ^ 32 - getFld b .schCqHead 0 32) % 2 ^ 32 = 0

theorem writeTail_eq (b : Block) (v : W64) :
    writeTail b v = if tailTakes b v then setFld b .schCqTail 0 32 (v.toNat % 2 ^ 32) else hwSet b .schStatus 0 := by
  have h0 : bitsOf v.toNat 31 0 = v.toNat % 2 ^ 32 := by simp [bitsOf_div]
  have hcond : (if cqEnabled b then decide ((v.toNat % 2 ^ 32 + 2 ^ 32 - cqHead b) % 2 ^ 32 ≤ 2 ^ cqLog b)
      else (v.toNat % 2 ^ 32 + 2 ^ 32 - cqHead b) % 2 ^ 32 == 0) = true ↔ tailTakes b v := by
    unfold cqEnabled cqLog cqHead tailTakes
    by_cases he : 6 ≤ getFld b .schCqSize 0 4 ∧ getFld b .schCqSize 0 4 ≤ 12
    · rw [if_pos he, if_pos (by simpa using he), decide_eq_true_eq]
    · rw [if_neg he, if_neg (by simpa using he), beq_iff_eq]
  unfold writeTail
  dsimp only
  rw [h0]
  by_cases h : tailTakes b v
  · rw [if_pos h, if_pos (hcond.mpr h)]
  · rw [if_neg h, if_neg (fun hc => h (hcond.mp hc))]
    rfl

/-- Settles O40: TAIL, BASE and SIZE of the command queue. -/
theorem commandQueueWrites : Obligations.CommandQueueWrites := by
  unfold Obligations.CommandQueueWrites
  refine ⟨fun s v h => ?_, fun s size v h => ?_⟩
  · have hset := writeTail_eq s.blk v
    by_cases hc : tailTakes s.blk v
    · rw [if_pos hc] at hset
      refine ⟨_, exec_write (f := fun b => writeTail b v) h (by rw [hset]; rfl), ?_⟩
      dsimp only
      rw [if_pos hc, hset]
      refine ⟨onlyReg_wrote (onlyReg_setFld ..), ?_⟩
      rw [getFld_wrote, getFld_at, setFld_at, fldAt_putFld _ _ _ (by omega)]
      omega
    · rw [if_neg hc] at hset
      obtain ⟨t, hexec, h1, h2⟩ := exec_refused (f := fun b => writeTail b v) h hset (by omega)
      exact ⟨t, hexec, by dsimp only; rw [if_neg hc]; exact ⟨h1, h2⟩⟩
  · by_cases hc : getFld s.blk .schCqHead 0 32 ≠ getFld s.blk .schCqTail 0 32 ∨ s.blk.launch.isSome = true
    · have hset : writeCq s.blk size v = hwSet s.blk .schStatus 0 := if_pos (by simpa [cqHead, cqTail] using hc)
      obtain ⟨t, hexec, h1, h2⟩ := exec_refused (f := fun b => writeCq b size v) h hset (by omega)
      exact ⟨t, hexec, h1.1, by rw [if_pos hc]; exact ⟨h1, h2⟩⟩
    · have hbusy : ¬ (cqHead s.blk != cqTail s.blk || s.blk.launch.isSome) = true := by simpa [cqHead, cqTail] using hc
      cases size with
      | true =>
        have hset : writeCq s.blk true v = setFld (setFld (writePlain s.blk .schCqSize v) .schCqHead 0 32 0) .schCqTail 0 32 0 := if_neg hbusy
        have ho := onlyReg_writePlain_free (b := s.blk) (r := .schCqSize) v rfl
        have hsize : getFld (writePlain s.blk .schCqSize v) .schCqSize 0 4 = v.toNat / 2 ^ 0 % 2 ^ 4 :=
          wrotePlain_rw s v (r := .schCqSize) (by simp [Reg.fields])
        generalize writePlain s.blk .schCqSize v = d at hset ho hsize
        have honly : onlyRegs s.blk (setFld (setFld d .schCqHead 0 32 0) .schCqTail 0 32 0) :=
          onlyRegs_trans ho.1 (onlyRegs_trans (onlyReg_setFld ..).1 (onlyReg_setFld ..).1)
        refine ⟨_, exec_write (f := fun b => writeCq b true v) h (by rw [hset]; exact onlyRegs_pins honly), ?_⟩
        rw [if_neg hc, if_pos rfl, hset]
        refine ⟨onlyRegs_respond honly, ?_, ?_, ?_⟩ <;> rw [getFld_wrote]
        · rw [getFld_at] at hsize ⊢
          simp [hsize]
        · simp [getFld_at]
        · simp [getFld_at]
      | false =>
        obtain ⟨hexec, honly⟩ := exec_plain (f := fun b => writeCq b false v) (r' := .schCqBase) (v := v) h (if_neg hbusy) rfl
        refine ⟨_, hexec, honly.1, ?_⟩
        rw [if_neg hc, if_neg (by simp)]
        exact ⟨honly, wrotePlain_rw s v (by simp [Reg.fields])⟩

end Sys2Proof.Proofs.Sched

/-! SUPPORT. The configuration registers of translation, fabric peers, chain and check channels (R221, R290, R291, R310, R401, R402). Settles O42, O44
and O45. -/

namespace Sys2Proof.Proofs.Config

open Sys2Proof Sys2Proof.Machine Sys2Proof.Laws Sys2Proof.Proofs.IssueStage Sys2Proof.Proofs.EngReset Sys2Proof.Proofs.Fields
open Sys2Proof.Proofs.RegTable Sys2Proof.Proofs.Sched

/-! ### Translation -/

/-- What a taken XLT_INVAL makes of the cache and of the walks in flight. -/
def invalidated (b : Block) (sel : TlbEnt → Bool) (req : MpReq → Bool) (wk : Walk → Bool) : Block :=
  { b with
    tlb := b.tlb.filter (fun e => !sel e), invalBusy := (b.mp.filter req).map (·.tag), invalUntil := b.beat + 2
    walks := b.walks.map (fun w => if wk w then { w with stale := true } else w) }

theorem xltInval_eq (b : Block) (sel : TlbEnt → Bool) (req : MpReq → Bool) (wk : Walk → Bool) :
    xltInval b sel req wk = if xltBusy b then hwSet b .xltStatus 18 else invalidated b sel req wk := rfl

theorem invalidated_busy (b : Block) (sel : TlbEnt → Bool) (req : MpReq → Bool) (wk : Walk → Bool) : xltBusy (invalidated b sel req wk) = true := by
  simp [xltBusy, invalidated]

/-- A write of XLT_INVAL (R221, R401): the walks that `wk` names go stale. -/
theorem exec_xltInval {s : State} {f : Block → Block} (sel : TlbEnt → Bool) (req : MpReq → Bool) (wk : Walk → Bool) (h : portTakes s .xltInval = true)
    (hf : f s.blk = xltInval s.blk sel req wk) : ∃ t : State, s.onWrite .xltInval f = .next t
      ∧ (if xltBusy s.blk = true then onlyReg .xltStatus s.blk t.blk ∧ getFld t.blk .xltStatus 18 1 = 1
         else t = wrote s { s.blk with
            tlb := s.blk.tlb.filter (fun e => !sel e), invalBusy := t.blk.invalBusy, invalUntil := t.blk.invalUntil
            walks := s.blk.walks.map (fun w => if wk w = true then { w with stale := true } else w) } ∧ xltBusy t.blk = true) := by
  rw [xltInval_eq] at hf
  by_cases hb : xltBusy s.blk = true
  · rw [if_pos hb] at hf
    obtain ⟨t, hexec, h1, h2⟩ := exec_refused (f := f) h hf (by omega)
    exact ⟨t, hexec, by rw [if_pos hb]; exact ⟨h1, h2⟩⟩
  · rw [if_neg hb] at hf
    refine ⟨_, exec_write (f := f) h (by rw [hf]; rfl), ?_⟩
    rw [if_neg hb, hf]
    exact ⟨rfl, invalidated_busy s.blk sel req wk⟩

/-- Settles O42: the root of a FREE context, and the three scopes of XLT_INVAL. That walks in flight of what is removed go stale is the model's choice:
no rule of the spec names it. -/
theorem translationRegisters : Obligations.TranslationRegisters := by
  unfold Obligations.TranslationRegisters
  refine ⟨fun s c v h => ?_, fun s i sel wk h hi => ?_⟩
  · by_cases hfree : (getCtx s.blk c).state = .free
    · obtain ⟨hexec, honly⟩ := exec_plain (f := fun b => writeRoot b c v) (r' := .xltRoot c) (v := v) h (if_pos hfree) rfl
      refine ⟨_, hexec, ?_⟩
      rw [if_pos hfree]
      refine ⟨honly, ?_, wrotePlain_rw s v (by simp [Reg.fields])⟩
      rw [wrotePlain_rw s v (by simp [Reg.fields])]
      simp
    · obtain ⟨t, hexec, h1, h2⟩ := exec_refused (f := fun b => writeRoot b c v) (r' := .xltStatus) (lo := 19) h (if_neg hfree) (by omega)
      exact ⟨t, hexec, by rw [if_neg hfree]; exact ⟨h1, h2⟩⟩
  · rcases hi with ⟨c, va, rfl, rfl, rfl⟩ | ⟨c, rfl, rfl, rfl⟩ | ⟨rfl, rfl, rfl⟩
    · exact exec_xltInval (f := fun b => invalPage b c va.toNat) _ _ _ h rfl
    · exact exec_xltInval (f := fun b => invalContext b c) _ _ _ h rfl
    · exact exec_xltInval (f := fun b => invalAll b) _ _ _ h rfl

/-! ### Peers and the chain -/

/-- The word of CHN_CFG for a mode, a context, an intake, a keep area and a chain (R301). -/
def chnWord (mode c ik kp id : Nat) : W64 := BitVec.ofNat 64 (mode + c * 4 + ik * 2 ^ 6 + kp * 2 ^ 16 + id * 2 ^ 32)

/-- A write of CHN_CFG whose fields are in range, taken. -/
def chnWritten (b : Block) (v : W64) : Block :=
  setRaw b .chnCfg (chnWord (v.toNat % 4) (v.toNat / 4 % 16) (v.toNat / 2 ^ 6 % 2 ^ 10) (v.toNat / 2 ^ 16 % 2 ^ 10) (v.toNat / 2 ^ 32 % 2 ^ 16))

theorem chnWord_flds (b : Block) {mode c ik kp id : Nat} (h1 : mode < 4) (h2 : c < 16) (h3 : ik < 2 ^ 10) (h4 : kp < 2 ^ 10) (h5 : id < 2 ^ 16) :
    getFld (setRaw b .chnCfg (chnWord mode c ik kp id)) .chnCfg 0 2 = mode ∧ getFld (setRaw b .chnCfg (chnWord mode c ik kp id)) .chnCfg 2 4 = c
      ∧ getFld (setRaw b .chnCfg (chnWord mode c ik kp id)) .chnCfg 6 10 = ik ∧ getFld (setRaw b .chnCfg (chnWord mode c ik kp id)) .chnCfg 16 10 = kp
      ∧ getFld (setRaw b .chnCfg (chnWord mode c ik kp id)) .chnCfg 32 16 = id := by
  have hw : (chnWord mode c ik kp id).toNat = mode + c * 4 + ik * 2 ^ 6 + kp * 2 ^ 16 + id * 2 ^ 32 := by
    rw [chnWord, BitVec.toNat_ofNat, Nat.mod_eq_of_lt]
    omega
  simp only [getFld, rawReg_setRaw, hw, Nat.shiftRight_eq_div_pow]
  refine ⟨?_, ?_, ?_, ?_, ?_⟩ <;> omega

/-- When CHN_CFG is not taken (R290). -/
abbrev chnBusy (b : Block) : Prop := if chnTake b = true then ∃ e ∈ b.entries, e.eunit = .chain else b.chain.ring ≠ []

theorem writeChnCfg_busy {b : Block} (v : W64) (h : chnBusy b) : writeChnCfg b v = hwSet b .chnStatus 34 := by
  unfold writeChnCfg
  dsimp only
  refine if_pos ?_
  by_cases ht : chnTake b = true
  · rw [chnBusy, if_pos ht] at h
    obtain ⟨e, he, hu⟩ := h
    rw [if_pos ht, Bool.not_eq_true', List.all_eq_false]
    exact ⟨e, he, by simp [hu]⟩
  · rw [chnBusy, if_neg ht] at h
    rw [if_neg ht]
    simpa using h

theorem writeChnCfg_free {b : Block} {v : W64} (h : ¬ chnBusy b) (hm : v.toNat % 4 ≤ 1) (hi : 1 ≤ v.toNat / 2 ^ 6 % 2 ^ 10)
    (hs : v.toNat / 2 ^ 6 % 2 ^ 10 + v.toNat / 2 ^ 16 % 2 ^ 10 ≤ 1024) : writeChnCfg b v =
      if v.toNat / 2 ^ 6 % 2 ^ 10 = getFld b .chnCfg 6 10 then chnWritten b v else driveLrst (linkReset (chnWritten b v) false) false := by
  have hmay : (!(if chnTake b then b.entries.all (fun e => decide (e.eunit ≠ .chain)) else b.chain.ring.isEmpty)) = false := by
    by_cases ht : chnTake b = true
    · rw [chnBusy, if_pos ht] at h
      rw [if_pos ht, Bool.not_eq_false', List.all_eq_true]
      exact fun e he => decide_eq_true (fun hu => h ⟨e, he, hu⟩)
    · rw [chnBusy, if_neg ht] at h
      rw [if_neg ht]
      simpa using h
  have hik : bitsOf v.toNat 15 6 = v.toNat / 2 ^ 6 % 2 ^ 10 := by rw [bitsOf_div]
  have hkp : bitsOf v.toNat 25 16 = v.toNat / 2 ^ 16 % 2 ^ 10 := by rw [bitsOf_div]
  have hc : bitsOf v.toNat 5 2 = v.toNat / 4 % 16 := by rw [bitsOf_div]; rfl
  have hid : bitsOf v.toNat 47 32 = v.toNat / 2 ^ 32 % 2 ^ 16 := by rw [bitsOf_div]
  have h0 : (v.toNat / 2 ^ 6 % 2 ^ 10 == 0) = false := by
    rw [beq_eq_false_iff_ne]
    omega
  have hfits : ¬ 1024 < v.toNat / 2 ^ 6 % 2 ^ 10 + v.toNat / 2 ^ 16 % 2 ^ 10 := by omega
  unfold writeChnCfg
  simp only [hmay, hik, hkp, hc, hid, if_pos hm, h0, Bool.false_eq_true, if_false, if_neg hfits, beq_iff_eq]
  rfl

theorem chnWritten_flds (b : Block) (v : W64) : getFld (chnWritten b v) .chnCfg 0 2 = v.toNat % 4 ∧ getFld (chnWritten b v) .chnCfg 2 4 = v.toNat / 4 % 16
    ∧ getFld (chnWritten b v) .chnCfg 6 10 = v.toNat / 2 ^ 6 % 2 ^ 10 ∧ getFld (chnWritten b v) .chnCfg 16 10 = v.toNat / 2 ^ 16 % 2 ^ 10
    ∧ getFld (chnWritten b v) .chnCfg 32 16 = v.toNat / 2 ^ 32 % 2 ^ 16 := by
  unfold chnWritten
  exact chnWord_flds b (by omega) (by omega) (by omega) (by omega) (by omega)

/-- A new INTAKE resets the link: the reset is driven for 8 PORT cycles and INTAKE is advertised (R301, R380). -/
theorem chnReset_chain (b : Block) : driveLrst (linkReset b false) false =
    { b with chain := { b.chain with creditsOut := getFld b .chnCfg 6 10, holdFrom := none, lrstUp := portNow b + 8 } } := rfl

/-- When an entry of the peer table is not taken (R291). -/
abbrev peerBusy (b : Block) (n : Fin 4096) (v : W64) : Prop :=
  activeCtx b (Fin.ofNat 16 (getFld b (.fabPeer n) 1 4)) = true ∨ activeCtx b (Fin.ofNat 16 (v.toNat / 2 % 16)) = true

theorem writePeer_eq (b : Block) (n : Fin 4096) (v : W64) :
    writePeer b n v = if peerBusy b n v then hwSet b .fabStatus 33 else setRaw b (.fabPeer n) (v &&& 0x00FFFFFFFFFFFFFF#64) := by
  have hnew : peerLocal v.toNat = v.toNat / 2 % 16 := by rw [peerLocal, bitsOf_div]; rfl
  have hold : peerLocal (peerWord b n) = getFld b (.fabPeer n) 1 4 := rfl
  unfold writePeer
  dsimp only
  rw [hnew, hold, ctxBusy, ctxBusy]
  simp only [Bool.or_eq_true]

/-- A write of CHN_CFG in range, taken: its fields, and the chain's state after it. -/
structure ChnTaken (b : Block) (v : W64) (d : Block) : Prop where
  only : onlyReg .chnCfg { b with chain := d.chain } d
  mode : getFld d .chnCfg 0 2 = v.toNat % 4
  ctx : getFld d .chnCfg 2 4 = v.toNat / 4 % 16
  intake : getFld d .chnCfg 6 10 = v.toNat / 2 ^ 6 % 2 ^ 10
  keep : getFld d .chnCfg 16 10 = v.toNat / 2 ^ 16 % 2 ^ 10
  chain : getFld d .chnCfg 32 16 = v.toNat / 2 ^ 32 % 2 ^ 16
  link : d.chain = if v.toNat / 2 ^ 6 % 2 ^ 10 = getFld b .chnCfg 6 10 then b.chain
    else { b.chain with creditsOut := v.toNat / 2 ^ 6 % 2 ^ 10, holdFrom := none, lrstUp := portNow b + 8 }

theorem setRaw_onlyReg (b : Block) (r : Reg) (v : W64) : onlyReg r b (setRaw b r v) := ⟨rfl, fun _ hr => rawReg_setRaw_ne b v hr⟩

theorem chnWritten_onlyReg (b : Block) (v : W64) : onlyReg .chnCfg b (chnWritten b v) := setRaw_onlyReg b .chnCfg _

theorem chnWritten_beat (b : Block) (v : W64) : portNow (chnWritten b v) = portNow b := by rw [portNow, portNow, chnWritten, setRaw_beat]

theorem chnWritten_chain (b : Block) (v : W64) : (chnWritten b v).chain = b.chain := by rw [chnWritten, setRaw_chain]

/-! The chain's state beside the registers. -/

theorem rawReg_chain (b : Block) (x : ChainSt) (r : Reg) : rawReg { b with chain := x } r = rawReg b r := rfl
theorem getFld_chain (b : Block) (x : ChainSt) (r : Reg) (lo wid : Nat) : getFld { b with chain := x } r lo wid = getFld b r lo wid := rfl

theorem onlyRegs_chain {b d : Block} (h : onlyRegs b d) (x : ChainSt) : onlyRegs { b with chain := x } { d with chain := x } := by
  unfold onlyRegs at h ⊢
  rw [h]

theorem onlyRegs_sameChain {b d : Block} (h : onlyRegs b d) : onlyRegs { b with chain := d.chain } d := by
  unfold onlyRegs at h ⊢
  rw [h]

theorem writeChnCfg_taken {b : Block} {v : W64} (h : ¬ chnBusy b) (hm : v.toNat % 4 ≤ 1) (hi : 1 ≤ v.toNat / 2 ^ 6 % 2 ^ 10)
    (hs : v.toNat / 2 ^ 6 % 2 ^ 10 + v.toNat / 2 ^ 16 % 2 ^ 10 ≤ 1024) : ChnTaken b v (writeChnCfg b v) := by
  have hset := writeChnCfg_free h hm hi hs
  obtain ⟨h0, h2, h6, h16, h32⟩ := chnWritten_flds b v
  have honly := chnWritten_onlyReg b v
  have hchain := chnWritten_chain b v
  rw [chnReset_chain, h6, hchain, chnWritten_beat] at hset
  generalize chnWritten b v = d at *
  obtain ⟨hframe, hregs⟩ := honly
  by_cases hik : v.toNat / 2 ^ 6 % 2 ^ 10 = getFld b .chnCfg 6 10
  · have hsame := onlyRegs_sameChain hframe
    rw [if_pos hik] at hset
    rw [hset]
    exact ⟨⟨hsame, fun r hr => (hregs r hr).trans (rawReg_chain ..).symm⟩, h0, h2, h6, h16, h32, by rw [if_pos hik, hchain]⟩
  · rw [if_neg hik] at hset
    rw [hset]
    refine ⟨⟨onlyRegs_chain hframe _, fun r hr => (rawReg_chain ..).trans (hregs r hr)⟩, (getFld_chain ..).trans h0, (getFld_chain ..).trans h2,
      (getFld_chain ..).trans h6, (getFld_chain ..).trans h16, (getFld_chain ..).trans h32, by rw [if_neg hik]⟩

/-- Settles O44: a peer entry and CHN_CFG are taken where nothing uses them. -/
theorem peerAndChainConfiguration : Obligations.PeerAndChainConfiguration := by
  unfold Obligations.PeerAndChainConfiguration
  refine ⟨fun s n v h => ?_, fun s v h => ?_⟩
  · have hset := writePeer_eq s.blk n v
    by_cases hc : peerBusy s.blk n v
    · rw [if_pos hc] at hset
      obtain ⟨t, hexec, h1, h2⟩ := exec_refused (f := fun b => writePeer b n v) h hset (by omega)
      exact ⟨t, hexec, by rw [if_pos hc]; exact ⟨h1, h2⟩⟩
    · rw [if_neg hc] at hset
      refine ⟨_, exec_write (f := fun b => writePeer b n v) h (by rw [hset]; rfl), ?_⟩
      rw [if_neg hc, hset]
      refine ⟨onlyReg_wrote (setRaw_onlyReg ..), ?_⟩
      rw [rawReg_wrote, rawReg_setRaw]
  · by_cases hb : chnBusy s.blk
    · obtain ⟨t, hexec, h1, h2⟩ := exec_refused (f := fun b => writeChnCfg b v) h (writeChnCfg_busy v hb) (by omega)
      exact ⟨t, hexec, by rw [if_pos hb]; exact ⟨h1, h2⟩⟩
    · refine ⟨_, onWrite_portTakes (fun b => writeChnCfg b v) h, ?_⟩
      rw [if_neg hb]
      intro hm hi hs
      have ht := writeChnCfg_taken hb hm hi hs
      generalize writeChnCfg s.blk v = d at ht
      have hpins : d.pins = s.blk.pins := (onlyRegs_pins ht.only.1 :)
      have heq : ({ respond d 0#64 0 with pins := s.blk.pins } : Block) = respond d 0#64 0 := by rw [← hpins]; rfl
      dsimp only
      rw [heq]
      exact ⟨⟨onlyRegs_respond ht.only.1, ht.only.2⟩, ht.mode, ht.ctx, ht.intake, ht.keep, ht.chain, ht.link⟩

/-! ### Check channels -/

theorem crcWidth_le (p : Nat) : crcWidth p ≤ 64 := by
  unfold crcWidth
  split <;> omega

theorem chkPoly_setChkV (b : Block) (n : Chk) (v : Nat) : chkPoly (setChkV b n v) n = chkPoly b n := by
  rw [chkPoly, setChkV, getFld, rawReg_setRaw_ne b _ (by simp), ← getFld, ← chkPoly]

/-- The running value after it is set (R305). -/
theorem chkV_setChkV (b : Block) (n : Chk) (v : Nat) : chkV (setChkV b n v) n = v % 2 ^ crcWidth (chkPoly b n) := by
  have hraw : rawReg (setChkV b n v) (.chkValue n) = BitVec.ofNat 64 (v % 2 ^ crcWidth (chkPoly b n)) := rawReg_setRaw ..
  have hlt : v % 2 ^ crcWidth (chkPoly b n) < 2 ^ 64 :=
    (Nat.mod_lt _ (Nat.two_pow_pos _)).trans_le (Nat.pow_le_pow_right (by omega) (crcWidth_le _))
  rw [chkV, chkPoly_setChkV, hraw, BitVec.toNat_ofNat, Nat.mod_eq_of_lt hlt, Nat.mod_mod]

theorem setChkV_onlyReg (b : Block) (n : Chk) (v : Nat) : onlyReg (.chkValue n) b (setChkV b n v) := setRaw_onlyReg b (.chkValue n) _

theorem getChk_setChkV (b : Block) (n m : Chk) (v : Nat) : getChk (setChkV b n v) m = getChk b m := by rw [getChk, setChkV, setRaw_chks, getChk]

theorem getChk_modChk_if (b : Block) (n : Chk) (f : ChkSt → ChkSt) (m : Chk) : getChk (modChk b n f) m = if m = n then f (getChk b m) else getChk b m := by
  by_cases h : m = n
  · subst h
    simp [getChk, modChk, get_at]
  · have : n.val ≠ m.val := fun e => h (Fin.ext e.symm)
    rw [if_neg h]
    simp [getChk, modChk, get_at, this]

/-- The running value is set, beside a change of the channel's own state. -/
theorem chkPut_does (b : Block) (n : Chk) (f : ChkSt → ChkSt) (v : Nat) : chkV (setChkV (modChk b n f) n v) n = v % 2 ^ crcWidth (chkPoly b n)
    ∧ (∀ m, getChk (setChkV (modChk b n f) n v) m = if m = n then f (getChk b m) else getChk b m)
    ∧ onlyReg (.chkValue n) { b with chks := (setChkV (modChk b n f) n v).chks } (setChkV (modChk b n f) n v) := by
  have honly := setChkV_onlyReg (modChk b n f) n v
  refine ⟨(chkV_setChkV ..).trans rfl, fun m => (getChk_setChkV ..).trans (getChk_modChk_if ..), ?_, fun r hr => honly.2 r hr⟩
  have hchks : (setChkV (modChk b n f) n v).chks = (modChk b n f).chks := by rw [setChkV, setRaw_chks]
  rw [hchks]
  exact honly.1

/-- CHK_FEED takes 1, 2 or 4 bytes on a channel that takes register writes (R310, R315). -/
theorem chkFeedReg_eq (b : Block) (n : Chk) (v : W64) : chkFeedReg b n v =
    if chkWritable b n = true ∧ v.toNat / 2 ^ 32 % 4 ≠ 3 then
      setChkV (modChk b n (fun x => { x with busyUntil := b.beat + 2 ^ (v.toNat / 2 ^ 32 % 4) })) n
        (crcFold (chkPoly b n) (chkV b n) (leBytes (2 ^ (v.toNat / 2 ^ 32 % 4)) (v.toNat % 2 ^ 32)))
    else hwSet b (.chkStatus n) 8 := by
  have hsize : bitsOf v.toNat 33 32 = v.toNat / 2 ^ 32 % 4 := by rw [bitsOf_div]; rfl
  have hlow : bitsOf v.toNat 31 0 = v.toNat % 2 ^ 32 := by simp [bitsOf_div]
  unfold chkFeedReg
  dsimp only
  rw [hsize, hlow]
  by_cases h : chkWritable b n = true ∧ v.toNat / 2 ^ 32 % 4 ≠ 3
  · rw [if_pos h, if_neg (by simp only [Bool.or_eq_true, Bool.not_eq_true', beq_iff_eq]; rintro (h1 | h1); exacts [by simp [h.1] at h1, h.2 h1])]
    rfl
  · rw [if_neg h, if_pos]
    · rfl
    · simp only [Bool.or_eq_true, Bool.not_eq_true', beq_iff_eq]
      by_cases hw : chkWritable b n = true
      · exact .inr (Decidable.not_not.mp (fun h3 => h ⟨hw, h3⟩))
      · exact .inl (by simpa using hw)

/-- The port takes a write of one register of a channel where it takes one of another. -/
theorem portTakes_chk {s : State} {n : Chk} (r : ChkReg) (h : portTakes s (.chkCtl n) = true) :
    portTakes s (match r with | .ctl => .chkCtl n | .value => .chkValue n | .expect => .chkExpect n) = true := by
  have hpage : ∀ r' : Reg, r'.addr / 0x10000 = (Reg.chkCtl n).addr / 0x10000 → portTakes s r' = true := fun r' hr => by
    simpa only [portTakes, pageUp, hr] using h
  cases r
  · exact h
  · exact hpage (.chkValue n) (by simp only [Reg.addr]; omega)
  · exact hpage (.chkExpect n) (by simp only [Reg.addr]; omega)

/-- CHK_CTL keeps the value, in the width of the new polynomial. -/
theorem chkCtl_does (b : Block) (n : Chk) (v : W64) :
    let d := setChkV (setRaw b (.chkCtl n) (v &&& 0x7F#64)) n (chkV (setRaw b (.chkCtl n) (v &&& 0x7F#64)) n)
    onlyRegs b d ∧ (∀ m, getChk d m = getChk b m) ∧ getFld d (.chkCtl n) 0 7 = v.toNat % 2 ^ 7
      ∧ chkV d n = (rawReg b (.chkValue n)).toNat % 2 ^ crcWidth (v.toNat % 2) := by
  have hlow : (v &&& 0x7F#64).toNat = v.toNat % 128 := by
    rw [BitVec.toNat_and]
    exact Nat.and_two_pow_sub_one_eq_mod _ 7
  have hfld : getFld (setRaw b (.chkCtl n) (v &&& 0x7F#64)) (.chkCtl n) 0 7 = v.toNat % 2 ^ 7 := by
    rw [getFld, rawReg_setRaw, hlow]
    simp
  have hpoly : chkPoly (setRaw b (.chkCtl n) (v &&& 0x7F#64)) n = v.toNat % 2 := by
    rw [chkPoly, getFld, rawReg_setRaw, hlow, Nat.shiftRight_zero]
    omega
  have hval : rawReg (setRaw b (.chkCtl n) (v &&& 0x7F#64)) (.chkValue n) = rawReg b (.chkValue n) := rawReg_setRaw_ne b _ (by simp)
  have h1 := setRaw_onlyReg b (.chkCtl n) (v &&& 0x7F#64)
  have hchk : ∀ m, getChk (setRaw b (.chkCtl n) (v &&& 0x7F#64)) m = getChk b m := fun m => by rw [getChk, setRaw_chks, getChk]
  generalize setRaw b (.chkCtl n) (v &&& 0x7F#64) = c at *
  have h2 := setChkV_onlyReg c n (chkV c n)
  refine ⟨onlyRegs_trans h1.1 h2.1, fun m => (getChk_setChkV ..).trans (hchk m), ?_, ?_⟩
  · rw [← hfld, getFld, h2.2 _ (by simp), getFld]
  · rw [chkV_setChkV, chkV, hpoly, hval, Nat.mod_mod]

theorem onlyRegs_sameChks {b d : Block} (h : onlyRegs b d) : onlyRegs { b with chks := d.chks } d := by
  unfold onlyRegs at h ⊢
  rw [h]

theorem getChk_wrote (s : State) (d : Block) (m : Chk) : getChk (wrote s d).blk m = getChk d m := rfl

/-- A write that leaves every channel's own state changes no more than registers. -/
theorem getChk_unset {b d : Block} {n : Chk} (p : Prop) [Decidable p] (h : ¬ p) (hk : ∀ m, getChk d m = getChk b m) (m : Chk) :
    getChk d m = if m = n ∧ p then { getChk b m with preFold := none } else getChk b m := by
  rw [if_neg (fun hc => h hc.2), hk]

/-- Settles O45: feeds and register writes of a check channel. -/
theorem checkRegisterWrites : Obligations.CheckRegisterWrites := by
  unfold Obligations.CheckRegisterWrites
  refine ⟨fun s n v h => ?_, fun s n r v h => ?_⟩
  · have hset := chkFeedReg_eq s.blk n v
    by_cases hc : chkWritable s.blk n = true ∧ v.toNat / 2 ^ 32 % 4 ≠ 3
    · rw [if_pos hc] at hset
      obtain ⟨hv, hk, honly⟩ := chkPut_does s.blk n (fun x => { x with busyUntil := s.blk.beat + 2 ^ (v.toNat / 2 ^ 32 % 4) })
        (crcFold (chkPoly s.blk n) (chkV s.blk n) (leBytes (2 ^ (v.toNat / 2 ^ 32 % 4)) (v.toNat % 2 ^ 32)))
      rw [← hset] at hv hk honly
      have hpins : (chkFeedReg s.blk n v).pins = s.blk.pins := (onlyRegs_pins honly.1 :)
      refine ⟨_, exec_write (f := fun b => chkFeedReg b n v) h hpins, ?_⟩
      dsimp only
      generalize chkFeedReg s.blk n v = d at hv hk honly
      rw [if_pos hc]
      refine ⟨hv, (hk n).trans (if_pos rfl), fun m hm => (hk m).trans (if_neg hm), onlyRegs_respond honly.1, honly.2⟩
    · rw [if_neg hc] at hset
      obtain ⟨t, hexec, h1, h2⟩ := exec_refused (f := fun b => chkFeedReg b n v) h hset (by omega)
      exact ⟨t, hexec, by dsimp only; rw [if_neg hc]; exact ⟨h1, h2⟩⟩
  · have htakes := portTakes_chk r h
    by_cases hw : chkWritable s.blk n = true
    · cases r with
      | ctl =>
        obtain ⟨h1, h2, h3, h4⟩ := chkCtl_does s.blk n v
        have hset : chkRegWrite s.blk n .ctl v = setChkV (setRaw s.blk (.chkCtl n) (v &&& 0x7F#64)) n (chkV (setRaw s.blk (.chkCtl n) (v &&& 0x7F#64)) n) :=
          if_neg (by simp [hw])
        rw [← hset] at h1 h2 h3 h4
        have hexec := exec_write (f := fun b => chkRegWrite b n .ctl v) htakes (onlyRegs_pins h1)
        generalize chkRegWrite s.blk n .ctl v = d at h1 h2 h3 h4 hexec
        refine ⟨_, hexec, onlyRegs_sameChks (onlyRegs_respond h1), getChk_unset _ (by simp) h2, ?_⟩
        rw [if_pos hw]
        exact ⟨h3, h4⟩
      | value =>
        obtain ⟨hv, hk, honly⟩ := chkPut_does s.blk n (fun x => { x with preFold := none }) v.toNat
        have hset : chkRegWrite s.blk n .value v = setChkV (modChk s.blk n (fun x => { x with preFold := none })) n v.toNat := if_neg (by simp [hw])
        rw [← hset] at hv hk honly
        have hexec := exec_write (f := fun b => chkRegWrite b n .value v) htakes (onlyRegs_pins honly.1 :)
        generalize chkRegWrite s.blk n .value v = d at hv hk honly hexec
        refine ⟨_, hexec, onlyRegs_respond honly.1, fun m => ?_, ?_⟩
        · rw [getChk_wrote, hk]
          simp only [hw, and_true]
        · rw [if_pos hw]
          exact ⟨⟨onlyRegs_respond honly.1, honly.2⟩, hv⟩
      | expect =>
        have hset : chkRegWrite s.blk n .expect v = setRaw s.blk (.chkExpect n) v := if_neg (by simp [hw])
        have honly := setRaw_onlyReg s.blk (.chkExpect n) v
        have hraw := rawReg_setRaw s.blk (.chkExpect n) v
        have hk : ∀ m, getChk (setRaw s.blk (.chkExpect n) v) m = getChk s.blk m := fun m => by rw [getChk, setRaw_chks, getChk]
        rw [← hset] at honly hraw hk
        have hexec := exec_write (f := fun b => chkRegWrite b n .expect v) htakes (onlyRegs_pins honly.1)
        generalize chkRegWrite s.blk n .expect v = d at honly hraw hk hexec
        refine ⟨_, hexec, onlyRegs_sameChks (onlyRegs_respond honly.1), getChk_unset _ (by simp) hk, ?_⟩
        rw [if_pos hw]
        exact ⟨onlyReg_wrote honly, hraw⟩
    · have hset : chkRegWrite s.blk n r v = hwSet s.blk (.chkStatus n) 8 := if_pos (by simp [hw])
      have hk : ∀ m, getChk (hwSet s.blk (.chkStatus n) 8) m = getChk s.blk m := fun m => by rw [getChk, hwSet_chks, getChk]
      have honly := hwSet_onlyReg s.blk (.chkStatus n) 8
      have hbit := hwSet_set s.blk (.chkStatus n) (lo := 8) (by omega)
      rw [← hset] at hk honly hbit
      have hexec := exec_write (f := fun b => chkRegWrite b n r v) htakes (onlyRegs_pins honly.1)
      generalize chkRegWrite s.blk n r v = d at hk honly hbit hexec
      refine ⟨_, hexec, onlyRegs_sameChks (onlyRegs_respond honly.1), getChk_unset _ (fun hc => hw hc.2) hk, ?_⟩
      rw [if_neg hw]
      exact ⟨onlyReg_wrote honly, hbit⟩

end Sys2Proof.Proofs.Config

/-! SUPPORT. Writes of SRAM in which no word holds an error, and the raising of a hot bank key (R16, R219). -/

namespace Sys2Proof.Proofs.Sram

open Sys2Proof Sys2Proof.Machine Sys2Proof.Laws Sys2Proof.Proofs.Fields Sys2Proof.Proofs.Reports Sys2Proof.Proofs.Reads

/-! ### Clean memory -/

theorem foldl_memPut (bs : List Byte) (m : Mem) (a : Nat) :
    (List.range bs.length).foldl (fun m i => memPut m (a + i) (bs.getD i 0)) m = memPutBytes m a bs := by
  induction bs generalizing m a with
  | nil => rfl
  | cons x bs ih =>
    rw [List.length_cons, List.range_succ_eq_map, List.foldl_cons, List.foldl_map, memPutBytes, ← ih]
    simp only [Nat.add_zero, List.getD_cons_zero, List.getD_cons_succ, Nat.succ_eq_add_one, Nat.add_assoc, Nat.add_comm 1]

/-- Where no word of SRAM holds an error a write stores its bytes (R16). -/
theorem sramWrite_clean {b : Block} (a : Nat) (bs : List Byte) (h : eccClean b) :
    sramWrite b a bs = ({ countSram b a bs.length with sram := memPutBytes b.sram a bs }, false) := by
  obtain ⟨h1, h2⟩ := h
  have hfresh : freshEcc b a bs.length = b := by
    unfold freshEcc
    dsimp only
    rw [h1, h2, List.filter_nil]
    obtain ⟨⟩ := b
    cases h1
    cases h2
    rfl
  have hkeep : ∀ x, (countSram b a bs.length).ecc2.contains x = false := fun x => by
    show b.ecc2.contains x = false
    rw [h2]
    rfl
  unfold sramWrite
  dsimp only
  rw [hfresh, eccRead_clean b a bs.length false h1 h2]
  dsimp only
  simp only [hkeep, Bool.false_eq_true, if_false]
  rw [foldl_memPut]
  rfl

theorem eccClean_congr {b d : Block} (h : eccClean b) (h1 : d.ecc1 = b.ecc1) (h2 : d.ecc2 = b.ecc2) : eccClean d := ⟨h1.trans h.1, h2.trans h.2⟩

/-- The bytes that a write has stored. -/
theorem memGet_written {m : Mem} {a i : Nat} {bs : List Byte} (h : i < bs.length) : memGet (memPutBytes m a bs) (a + i) = bs.getD i 0 := by
  rw [memGet_memPutBytes_in bs m a i h, List.getD_eq_getElem?_getD, List.getElem?_eq_getElem h, Option.getD_some]

/-! ### Hot banks -/

/-- From `b` to `d` a bank key may have become hot, with its event (R219). -/
structure HotOnly (b d : Block) : Prop where
  frame : d = { b with
    regs := d.regs, coins := d.coins, ecc1 := d.ecc1, acts := d.acts, freeTick := d.freeTick, notices := d.notices, noticeNew := d.noticeNew
    recNext := d.recNext, engFault := d.engFault, hotKeys := d.hotKeys }
  regs : ∀ r, faultReg r = false → r ≠ .strHotbank → rawReg d r = rawReg b r

theorem HotOnly.refl (b : Block) : HotOnly b b := ⟨rfl, fun _ _ _ => rfl⟩

theorem HotOnly.trans {b d e : Block} (h : HotOnly b d) (k : HotOnly d e) : HotOnly b e := by
  refine ⟨?_, fun r h1 h2 => (k.regs r h1 h2).trans (h.regs r h1 h2)⟩
  have h1 := h.frame
  have k1 := k.frame
  rw [h1] at k1
  exact k1

theorem ReadOnly.hot {b d : Block} (h : ReadOnly b d) (hc : d.ctxs = b.ctxs) : HotOnly b d := by
  refine ⟨?_, fun r h1 _ => h.regs r h1⟩
  have hk : d.hotKeys = b.hotKeys := by rw [h.frame]
  have h1 := h.frame
  rw [hc] at h1
  rw [hk]
  exact h1

/-- The event of a hot bank stops nothing. -/
theorem hotRaise_hotOnly (b : Block) (key : Nat) (c : Option Ctx) (gen : BitVec 16) (unit : Nat) : HotOnly b (hotRaise b key c gen unit) := by
  unfold hotRaise
  split
  · refine HotOnly.trans ?_ (ReadOnly.hot (raise_readOnly ..) (raise_event_ctxs _ _ _ rfl))
    refine ⟨rfl, fun r _ h2 => ?_⟩
    exact ((rawReg_setFld_ne _ _ _ _ h2).trans (rawReg_setFld_ne _ _ _ _ h2)).trans ((rawReg_setFld_ne _ _ _ _ h2).trans (rawReg_setFld_ne _ _ _ _ h2))
  · exact .refl b

theorem countAct_hotOnly (b : Block) (f : Acts → Acts) : HotOnly b (countAct b f) := ⟨rfl, fun _ _ _ => rfl⟩

theorem keyFreed_hotOnly (b : Block) (key : Nat) : HotOnly b (keyFreed b key) := by
  unfold keyFreed
  split
  · exact ⟨rfl, fun _ _ _ => rfl⟩
  · exact .refl b

theorem HotOnly.getFld {b d : Block} (h : HotOnly b d) {r : Reg} (h1 : faultReg r = false) (h2 : r ≠ .strHotbank) (lo wid : Nat) :
    getFld d r lo wid = getFld b r lo wid := by simp only [Machine.getFld, h.regs r h1 h2]

theorem HotOnly.ctxs {b d : Block} (h : HotOnly b d) : d.ctxs = b.ctxs := by rw [h.frame]
theorem HotOnly.pins {b d : Block} (h : HotOnly b d) : d.pins = b.pins := by rw [h.frame]
theorem HotOnly.launch {b d : Block} (h : HotOnly b d) : d.launch = b.launch := by rw [h.frame]
theorem HotOnly.launchRead {b d : Block} (h : HotOnly b d) : d.launchRead = b.launchRead := by rw [h.frame]
theorem HotOnly.entries {b d : Block} (h : HotOnly b d) : d.entries = b.entries := by rw [h.frame]
theorem HotOnly.sram {b d : Block} (h : HotOnly b d) : d.sram = b.sram := by rw [h.frame]

theorem HotOnly.sameUnits {b d : Block} (h : HotOnly b d) : sameUnits b d := by
  rw [h.frame]
  exact ⟨rfl, rfl, rfl, rfl, rfl, rfl, rfl, rfl, rfl, rfl, rfl, rfl⟩

/-- A freed key touches no register. -/
theorem keyFreed_frame (b : Block) (key : Nat) : ∃ l, keyFreed b key = { b with hotKeys := l } := by
  unfold keyFreed
  split
  · exact ⟨_, rfl⟩
  · exact ⟨b.hotKeys, rfl⟩

end Sys2Proof.Proofs.Sram

/-! SUPPORT. The command queue (R274 to R276, R328, R375): its reads, the responses to them, and the end of an entry. Settles O41. -/

namespace Sys2Proof.Proofs.Launch

open Sys2Proof Sys2Proof.Machine Sys2Proof.Laws Sys2Proof.Proofs.IssueStage Sys2Proof.Proofs.EngReset Sys2Proof.Proofs.Fields
open Sys2Proof.Proofs.Reports Sys2Proof.Proofs.Reads Sys2Proof.Proofs.Sram

/-! ### A read of the queue -/

/-- The request that a read of `n` bytes from `src` makes. -/
def readOf (b : Block) (src n : Nat) : LaunchRead :=
  { src := src, len := n, beats := (src % 256 + n + 255) / 256, port := portOf b src, key := bankKey b src, issued := b.beat, zombie := false }

theorem queueRead_hot (b : Block) (src n : Nat) (c : Option Ctx) :
    HotOnly { b with launchRead := some (readOf b src n) } (queueRead b src n c) :=
  (countAct_hotOnly _ _).trans (hotRaise_hotOnly ..)

/-- The next step, where the queue goes on and nothing is being read. -/
theorem launchStep_with {b : Block} {i k : Nat} {w : Vector W64 8} (hg : queueGoes b = true) (hr : b.launchRead = none) (hl : b.launch = some ⟨i, some w, k⟩) :
    launchStep b = launchWith b ⟨i, some w, k⟩ w := by
  unfold launchStep
  rw [if_neg (by simp [hr]), hl]
  dsimp only
  rw [if_neg (by simp [hg])]

theorem launchStep_entry {b : Block} (hq : queueRuns b = true) (hr : b.launchRead = none) (hl : b.launch = none) :
    launchStep b = queueRead { b with launch := some ⟨cqHead b, none, 0⟩ } (entryAddr b (cqHead b)) 64 none := by
  unfold launchStep
  rw [if_neg (by simp [hr]), hl]
  dsimp only
  rw [if_pos hq]

/-! ### The engine runs on -/

/-- Pins and power state stand, so that a running engine runs on. -/
structure RunsOn (b d : Block) : Prop where
  pins : d.pins = b.pins
  power : getFld d .mgtPwr 2 2 = getFld b .mgtPwr 2 2

theorem RunsOn.refl (b : Block) : RunsOn b b := ⟨rfl, rfl⟩
theorem RunsOn.trans {b d e : Block} (h : RunsOn b d) (k : RunsOn d e) : RunsOn b e := ⟨k.pins.trans h.pins, k.power.trans h.power⟩
theorem RunsOn.live {b d : Block} (h : RunsOn b d) : live d = live b := by rw [Machine.live, h.pins, h.power, Machine.live]

theorem HotOnly.runsOn {b d : Block} (h : HotOnly b d) : RunsOn b d := ⟨h.pins, h.getFld rfl (by simp) 2 2⟩
theorem ReadOnly.runsOn {b d : Block} (h : ReadOnly b d) : RunsOn b d := ⟨h.pins, h.getFld rfl 2 2⟩

theorem queueRead_runsOn (b : Block) (src n : Nat) (c : Option Ctx) : RunsOn b (queueRead b src n c) :=
  RunsOn.trans (d := { b with launchRead := some (readOf b src n) }) ⟨rfl, rfl⟩ (HotOnly.runsOn (queueRead_hot b src n c))

/-- The entry is consumed, before its notice. -/
def consumed (b : Block) (reason : Nat) : Block :=
  setFld { (if reason == 0 then b else hwSet (setFld (setFld b .schCqStatus 1 3 reason) .schCqStatus 8 32 (cqHead b)) .schCqStatus 0) with launch := none }
    .schCqHead 0 32 ((cqHead b + 1) % 2 ^ 32)

theorem consume_eq (b : Block) (l : Launch) (reason : Nat) (named : Bool) : consume b l reason named =
    if named && l.notify then notify (consumed b reason) 3 (some l.ctx) l.tagVal 0 (reason != 0) else consumed b reason := rfl

/-- What the end of an entry leaves: HEAD moves on, and a rejection shows its reason and index (R276). -/
structure Consumed (b d : Block) (reason : Nat) : Prop where
  launch : d.launch = none
  launchRead : d.launchRead = b.launchRead
  ctxs : d.ctxs = b.ctxs
  sram : d.sram = b.sram
  entries : d.entries = b.entries
  runs : RunsOn b d
  head : getFld d .schCqHead 0 32 = (getFld b .schCqHead 0 32 + 1) % 2 ^ 32
  rejected : reason ≠ 0 → getFld d .schCqStatus 0 1 = 1 ∧ getFld d .schCqStatus 1 3 = reason % 8 ∧ getFld d .schCqStatus 8 32 = getFld b .schCqHead 0 32

theorem consumed_does (b : Block) (reason : Nat) : Consumed b (consumed b reason) reason := by
  have hhead : cqHead b < 2 ^ 32 := fldAt_lt _ _ 0 32
  by_cases hr : reason = 0
  · subst hr
    have hset : consumed b 0 = setFld { b with launch := none } .schCqHead 0 32 ((cqHead b + 1) % 2 ^ 32) := rfl
    rw [hset]
    refine ⟨rfl, rfl, rfl, rfl, rfl, ⟨rfl, ?_⟩, ?_, fun h => absurd rfl h⟩
    · simp [getFld_at]
    · rw [getFld_at, setFld_at, fldAt_putFld _ _ _ (by omega), Nat.mod_mod]
      rfl
  · have hset : consumed b reason = setFld { hwSet (setFld (setFld b .schCqStatus 1 3 reason) .schCqStatus 8 32 (cqHead b)) .schCqStatus 0 with launch := none }
        .schCqHead 0 32 ((cqHead b + 1) % 2 ^ 32) := by
      rw [consumed, if_neg (by simpa using hr)]
    rw [hset]
    refine ⟨rfl, rfl, rfl, rfl, rfl, ⟨rfl, ?_⟩, ?_, fun _ => ⟨?_, ?_, ?_⟩⟩
    · simp [getFld_at]
    · rw [getFld_at, setFld_at, fldAt_putFld _ _ _ (by omega), Nat.mod_mod]
      rfl
    · simp [getFld_at]
    · simp [getFld_at]
    · simp [getFld_at]
      exact Nat.mod_eq_of_lt hhead

theorem consume_does (b : Block) (l : Launch) (reason : Nat) (named : Bool) : Consumed b (consume b l reason named) reason := by
  have h := consumed_does b reason
  rw [consume_eq]
  split
  · have hn := notify_readOnly (consumed b reason) 3 (some l.ctx) l.tagVal 0 (reason != 0)
    obtain ⟨x, hx⟩ := notify_frame (consumed b reason) 3 (some l.ctx) l.tagVal 0 (reason != 0)
    have hc : (notify (consumed b reason) 3 (some l.ctx) l.tagVal 0 (reason != 0)).ctxs = (consumed b reason).ctxs := by rw [hx]; rfl
    generalize notify (consumed b reason) 3 (some l.ctx) l.tagVal 0 (reason != 0) = d at hn hc
    refine ⟨hn.launch.trans h.launch, hn.launchRead.trans h.launchRead, hc.trans h.ctxs, hn.sram.trans h.sram, hn.entries.trans h.entries,
      h.runs.trans (ReadOnly.runsOn hn), (hn.getFld rfl 0 32).trans h.head, fun hr => ?_⟩
    obtain ⟨h1, h2, h3⟩ := h.rejected hr
    exact ⟨(hn.getFld rfl 0 1).trans h1, (hn.getFld rfl 1 3).trans h2, (hn.getFld rfl 8 32).trans h3⟩
  · exact h

/-! ### Starting the strands -/

/-- A strand as an entry starts it (R276). -/
def startedStrand (l : Launch) (now : Nat) (q : Strand) (x : StrandSt) : StrandSt :=
  { x with pos := l.pos q, started := true, halted := false, yielded := false, markAt := now }

/-- The start of one strand that the entry names. -/
def startStep (l : Launch) (b : Block) (s : Strand) : Block :=
  if bitAt l.strands s.val then modStrand (dropFetched b l.ctx s) l.ctx s (startedStrand l (arrNow b) s) else b

theorem startStrands_eq (b : Block) (l : Launch) : startStrands b l =
    modCtx ((allFin 4).foldl (startStep l) b) l.ctx (fun x => { x with state := .running, tagVal := BitVec.ofNat 16 l.tagVal }) := rfl

/-- From `b` to `d` only contexts and fetched instructions have changed. -/
def OnlyIssue (b d : Block) : Prop := d = { b with ctxs := d.ctxs, fetched := d.fetched }

theorem OnlyIssue.trans {b d e : Block} (h : OnlyIssue b d) (k : OnlyIssue d e) : OnlyIssue b e := by
  unfold OnlyIssue at *
  rw [k, h]

theorem startStep_does (l : Launch) (b : Block) (s : Strand) : OnlyIssue b (startStep l b s)
    ∧ (∀ q, getStrand (startStep l b s) l.ctx q = if q = s ∧ bitAt l.strands q.val = true then startedStrand l (arrNow b) q (getStrand b l.ctx q)
        else getStrand b l.ctx q)
    ∧ ∀ d, d ≠ l.ctx → getCtx (startStep l b s) d = getCtx b d := by
  unfold startStep
  by_cases hb : bitAt l.strands s.val = true
  · rw [if_pos hb]
    refine ⟨rfl, fun q => ?_, fun d hd => (getCtx_modCtx_ne _ _ hd).trans rfl⟩
    by_cases hq : q = s
    · subst hq
      rw [if_pos ⟨rfl, hb⟩, getStrand_modStrand]
      rfl
    · rw [if_neg (fun hc => hq hc.1), getStrand_modStrand_ne _ _ (.inr hq)]
      rfl
  · rw [if_neg hb]
    exact ⟨rfl, fun q => by rw [if_neg (by rintro ⟨rfl, hc⟩; exact hb hc)], fun _ _ => rfl⟩

theorem startFold_does (l : Launch) (qs : List Strand) (b : Block) (hn : qs.Nodup) : OnlyIssue b (qs.foldl (startStep l) b)
    ∧ (∀ q, getStrand (qs.foldl (startStep l) b) l.ctx q = if q ∈ qs ∧ bitAt l.strands q.val = true then startedStrand l (arrNow b) q (getStrand b l.ctx q)
        else getStrand b l.ctx q)
    ∧ ∀ d, d ≠ l.ctx → getCtx (qs.foldl (startStep l) b) d = getCtx b d := by
  induction qs generalizing b with
  | nil => exact ⟨rfl, fun q => by simp, fun _ _ => rfl⟩
  | cons s qs ih =>
    obtain ⟨hs, hn⟩ := List.nodup_cons.mp hn
    obtain ⟨h1, h2, h3⟩ := startStep_does l b s
    obtain ⟨k1, k2, k3⟩ := ih (startStep l b s) hn
    have hnow : arrNow (startStep l b s) = arrNow b := by rw [arrNow, h1, arrNow]
    refine ⟨h1.trans k1, fun q => ?_, fun d hd => (k3 d hd).trans (h3 d hd)⟩
    rw [List.foldl_cons, k2 q, h2 q, hnow]
    by_cases hq : q = s
    · subst hq
      simp [hs]
    · simp [hq]

/-- Each strand that the entry names starts at its position and the context is RUNNING (R276). -/
theorem startStrands_does (b : Block) (l : Launch) : OnlyIssue b (startStrands b l) ∧ (getCtx (startStrands b l) l.ctx).state = .running
    ∧ (getCtx (startStrands b l) l.ctx).tagVal = BitVec.ofNat 16 l.tagVal
    ∧ (∀ q, getStrand (startStrands b l) l.ctx q = if bitAt l.strands q.val = true then startedStrand l (arrNow b) q (getStrand b l.ctx q) else getStrand b l.ctx q)
    ∧ ∀ d, d ≠ l.ctx → getCtx (startStrands b l) d = getCtx b d := by
  obtain ⟨h1, h2, h3⟩ := startFold_does l (allFin 4) b (nodup_allFin 4)
  rw [startStrands_eq]
  generalize (allFin 4).foldl (startStep l) b = d at h1 h2 h3
  refine ⟨h1.trans rfl, by rw [getCtx_modCtx], by rw [getCtx_modCtx], fun q => ?_, fun e he => (getCtx_modCtx_ne _ _ he).trans (h3 e he)⟩
  rw [getStrand, getCtx_modCtx]
  refine (h2 q).trans ?_
  simp only [mem_allFin, true_and]

/-! ### Responses -/

/-- The read under way is over, and its key freed (R219, R375). -/
def readDone (b : Block) (q : LaunchRead) : Block := keyFreed { b with launchRead := none } q.key

theorem readDone_frame (b : Block) (q : LaunchRead) : ∃ l, readDone b q = { b with launchRead := none, hotKeys := l } := keyFreed_frame _ _

/-- The bytes that a response brings to a read. -/
def gotBytes (q : LaunchRead) (data : List Byte) : List Byte := (List.range q.len).map (fun i => data.getD (q.src % 256 + i) 0#8)

theorem gotBytes_length (q : LaunchRead) (data : List Byte) : (gotBytes q data).length = q.len := by simp [gotBytes]

theorem gotBytes_getD (q : LaunchRead) (data : List Byte) {i : Nat} (h : i < q.len) : (gotBytes q data).getD i 0#8 = data.getD (q.src % 256 + i) 0#8 := by
  simp [gotBytes, List.getD_eq_getElem?_getD, h]

theorem launchResponse_eq {b : Block} {q : LaunchRead} {r : LaunchRun} (err : Bool) (data : List Byte) (hq : b.launchRead = some q) (hz : q.zombie = false)
    (hl : b.launch = some r) : launchResponse b err data = match r.words with
      | none => if err then consume (readDone b q) (parseLaunch (entryWords [])) 4 false
        else { readDone b q with launch := some { r with words := some (entryWords (gotBytes q data)) } }
      | some w => if err then consume (readDone b q) (parseLaunch w) 4 true
        else { (sramWrite (readDone b q) (cmdBase + 64 * ((parseLaunch w).dst + r.copied)) (gotBytes q data)).1 with
          launch := some { r with copied := r.copied + q.len / 64 } } := by
  have hlaunch : (keyFreed { b with launchRead := none } q.key).launch = some r := by
    obtain ⟨x, hx⟩ := keyFreed_frame { b with launchRead := none } q.key
    rw [hx]
    exact hl
  unfold launchResponse
  rw [hq]
  dsimp only
  rw [hz, hlaunch]
  rfl

/-- The words of the entry come (R275). -/
theorem launchResponse_words {b : Block} {q : LaunchRead} {r : LaunchRun} (data : List Byte) (hq : b.launchRead = some q) (hz : q.zombie = false)
    (hl : b.launch = some r) (hw : r.words = none) : ∃ ks, launchResponse b false data =
      { b with launchRead := none, hotKeys := ks, launch := some { r with words := some (entryWords (gotBytes q data)) } } := by
  obtain ⟨ks, hks⟩ := readDone_frame b q
  refine ⟨ks, ?_⟩
  rw [launchResponse_eq false data hq hz hl, hw, hks]
  rfl

/-- Bytes of the image go to the command store (R276). -/
theorem launchResponse_image {b : Block} {q : LaunchRead} {r : LaunchRun} {w : Vector W64 8} (data : List Byte) (hq : b.launchRead = some q)
    (hz : q.zombie = false) (hl : b.launch = some r) (hw : r.words = some w) (hc : eccClean b) : ∃ ks acts, launchResponse b false data =
      { b with
        launchRead := none, hotKeys := ks, acts := acts, launch := some { r with copied := r.copied + q.len / 64 }
        sram := memPutBytes b.sram (cmdBase + 64 * ((parseLaunch w).dst + r.copied)) (gotBytes q data) } := by
  obtain ⟨ks, hks⟩ := readDone_frame b q
  have hclean : eccClean (readDone b q) := eccClean_congr hc (by rw [hks]) (by rw [hks])
  refine ⟨ks, (countSram (readDone b q) (cmdBase + 64 * ((parseLaunch w).dst + r.copied)) (gotBytes q data).length).acts, ?_⟩
  rw [launchResponse_eq false data hq hz hl]
  simp only [hw, Bool.false_eq_true, if_false]
  rw [sramWrite_clean _ _ hclean, hks]
  rfl

/-- A failed read rejects the entry with reason 0x4 (R276, R328). -/
theorem launchResponse_failed {b : Block} {q : LaunchRead} {r : LaunchRun} (data : List Byte) (hq : b.launchRead = some q) (hz : q.zombie = false)
    (hl : b.launch = some r) : Consumed (readDone b q) (launchResponse b true data) 4 := by
  rw [launchResponse_eq true data hq hz hl]
  simp only [if_true]
  split
  · exact consume_does ..
  · exact consume_does ..

theorem sramWrite_runsOn (b : Block) (a : Nat) (bs : List Byte) : RunsOn b (sramWrite b a bs).1 :=
  RunsOn.trans (d := (eccRead (freshEcc b a bs.length) a bs.length false).1)
    (RunsOn.trans (d := freshEcc b a bs.length) ⟨rfl, rfl⟩ (ReadOnly.runsOn (eccRead_readOnly ..))) ⟨rfl, rfl⟩

/-- A response lets the engine run on, and leaves contexts and registers but those of errors. -/
theorem launchResponse_runsOn {b : Block} {q : LaunchRead} {r : LaunchRun} (err : Bool) (data : List Byte) (hq : b.launchRead = some q)
    (hz : q.zombie = false) (hl : b.launch = some r) : RunsOn b (launchResponse b err data) := by
  obtain ⟨x, hx⟩ := readDone_frame b q
  have hdone : RunsOn b (readDone b q) := by
    rw [hx]
    exact ⟨rfl, rfl⟩
  cases err with
  | true => exact hdone.trans (launchResponse_failed data hq hz hl).runs
  | false =>
    rw [launchResponse_eq false data hq hz hl]
    refine hdone.trans ?_
    split
    · exact ⟨rfl, rfl⟩
    · exact (sramWrite_runsOn ..).trans ⟨rfl, rfl⟩

/-! ### LAUNCH_ENTRY with its responses -/

theorem exec_launchEntry (s : State) (ent : List Byte) (img : List (List Byte)) (err : Bool) :
    exec (.launchEntry ent img err) s = s.onLive (launchEntry ent img err) := rfl

theorem exec_launchResponse (s : State) (err : BitVec 2) (data : List Byte) :
    exec (.mpReadResponse 0x1840#13 err data) s = s.onLive (fun b => launchResponse b (err != 0#2) data) := rfl

theorem launchEntry_step (b : Block) : launchEntry [] [] false b = launchStep b := rfl

theorem launchEntry_eq (b : Block) (ent : List Byte) (img : List (List Byte)) (err : Bool) : launchEntry ent img err b =
    if err then launchAnswer false true (img.foldl (launchAnswer false false) (if ent.isEmpty then launchStep b else launchAnswer true false (launchStep b) ent)) []
    else img.foldl (launchAnswer false false) (if ent.isEmpty then launchStep b else launchAnswer true false (launchStep b) ent) := rfl

/-- Nothing waits for a response. -/
theorem launchAnswer_none {b : Block} (words err : Bool) (data : List Byte) (h : b.launch = none ∨ ∀ q, b.launchRead = some q → q.zombie = true) :
    launchAnswer words err b data = b := by
  unfold launchAnswer
  split
  · next r hr =>
    rw [if_neg]
    rcases h with h | h
    · rw [h] at hr
      cases hr
    · cases hq : b.launchRead with
      | none => simp
      | some q => simp [h q hq]
  · rfl

/-- A response to the other kind of read is not taken. -/
theorem launchAnswer_other {b : Block} {r : LaunchRun} (words : Bool) (data : List Byte) (hl : b.launch = some r) (hw : r.words.isNone ≠ words) :
    launchAnswer words false b data = b := by
  unfold launchAnswer
  rw [hl]
  dsimp only
  rw [if_neg]
  simp [hw]

theorem launchAnswer_taken {b : Block} {q : LaunchRead} {r : LaunchRun} (words : Bool) (data : List Byte) (hq : b.launchRead = some q)
    (hz : q.zombie = false) (hl : b.launch = some r) (hw : r.words.isNone = words) :
    launchAnswer words false b data = launchStep (launchResponse b false data) := by
  unfold launchAnswer
  rw [hl]
  dsimp only
  rw [if_pos (by simp [hq, hz, hw])]
  rfl

theorem launchAnswer_failed {b : Block} {q : LaunchRead} {r : LaunchRun} (words : Bool) (data : List Byte) (hq : b.launchRead = some q)
    (hz : q.zombie = false) (hl : b.launch = some r) : launchAnswer words true b data = launchResponse b true [] := by
  unfold launchAnswer
  rw [hl]
  dsimp only
  rw [if_pos (by simp [hq, hz])]
  rfl

/-- The next step of the queue lets the engine run on. -/
theorem launchWith_runsOn (b : Block) (r : LaunchRun) (w : Vector W64 8) : RunsOn b (launchWith b r w) := by
  unfold launchWith
  dsimp only
  split
  · exact .refl b
  · split
    · split
      · split
        · exact .refl b
        · exact RunsOn.trans (d := chargeClass b (parseLaunch w).ctx false _) ⟨rfl, rfl⟩ (queueRead_runsOn ..)
      · split
        · exact (consume_does ..).runs
        · have h := (startStrands_does b (parseLaunch w)).1
          refine RunsOn.trans ?_ (consume_does ..).runs
          rw [h]
          exact ⟨rfl, rfl⟩
    · exact (consume_does ..).runs

theorem launchStep_runsOn (b : Block) : RunsOn b (launchStep b) := by
  unfold launchStep
  split
  · exact .refl b
  · split
    · split
      · exact RunsOn.trans (d := { b with launch := some ⟨cqHead b, none, 0⟩ }) ⟨rfl, rfl⟩ (queueRead_runsOn ..)
      · exact .refl b
    · split
      · exact .refl b
      · split
        · exact queueRead_runsOn ..
        · exact launchWith_runsOn ..

theorem exec_launchEntry_live {s : State} (hl : live s.blk = true) : exec (.launchEntry [] [] false) s = .next { s with blk := launchStep s.blk } := by
  rw [exec_launchEntry]
  exact onLive_pins (f := launchEntry [] [] false) hl (launchStep_runsOn s.blk).pins

theorem exec_launchResponse_live {s : State} {q : LaunchRead} {r : LaunchRun} (err : BitVec 2) (data : List Byte) (hl : live s.blk = true)
    (hq : s.blk.launchRead = some q) (hz : q.zombie = false) (hr : s.blk.launch = some r) :
    exec (.mpReadResponse 0x1840#13 err data) s = .next { s with blk := launchResponse s.blk (err != 0#2) data } := by
  rw [exec_launchResponse]
  exact onLive_pins (f := fun b => launchResponse b (err != 0#2) data) hl (launchResponse_runsOn _ _ hq hz hr).pins

/-- The read of the queue meets its timeout (R328). -/
def readTimedOut (b : Block) : Block :=
  if b.launchRead.any (fun q => decide (tagTimeoutLimit b ≤ b.beat - q.issued)) then launchResponse b true [] else b

/-- A response that fails, or none within ENG_TAG_TIMEOUT (R328). -/
theorem exec_launchFails {s : State} {x : Instr} {q : LaunchRead} {r : LaunchRun} (hl : live s.blk = true) (hq : s.blk.launchRead = some q)
    (hz : q.zombie = false) (hr : s.blk.launch = some r)
    (hx : (∃ err data, x = .mpReadResponse 0x1840#13 err data ∧ err ≠ 0#2)
      ∨ (x = .tagTimeout 0x1840#13 ∧ max 1 (getFld s.blk .engTagTimeout 0 32) ≤ s.blk.beat - q.issued)) :
    ∃ data, exec x s = .next { s with blk := launchResponse s.blk true data } := by
  rcases hx with ⟨err, data, rfl, he⟩ | ⟨rfl, ht⟩
  · refine ⟨data, ?_⟩
    rw [exec_launchResponse_live err data hl hq hz hr, show (err != 0#2) = true by simpa using he]
  · refine ⟨[], ?_⟩
    have hset : readTimedOut s.blk = launchResponse s.blk true [] := if_pos (by rw [hq]; exact decide_eq_true ht)
    show s.onLive readTimedOut = _
    rw [onLive_pins hl (by rw [hset]; exact (launchResponse_runsOn _ _ hq hz hr).pins), hset]

/-- LAUNCH_ENTRY on a running engine. -/
theorem exec_launchEntry_next {s : State} (ent : List Byte) (img : List (List Byte)) (err : Bool) (hl : live s.blk = true) :
    exec (.launchEntry ent img err) s = .next { s with blk := { launchEntry ent img err s.blk with pins := s.blk.pins } } := by
  rw [exec_launchEntry, onLive_live _ hl]

/-- A failure that comes with LAUNCH_ENTRY is the last response. -/
def lastFailure (err : Bool) (b : Block) : Block := if err then launchAnswer false true b [] else b

theorem launchEntry_bare (b : Block) (img : List (List Byte)) (err : Bool) :
    launchEntry [] img err b = lastFailure err (img.foldl (launchAnswer false false) (launchStep b)) := rfl

theorem launchEntry_words {b : Block} {ent : List Byte} (img : List (List Byte)) (err : Bool) (h : ent ≠ []) :
    launchEntry ent img err b = lastFailure err (img.foldl (launchAnswer false false) (launchAnswer true false (launchStep b) ent)) := by
  have he : ent.isEmpty = false := by simpa using h
  rw [launchEntry_eq, he]
  rfl

theorem foldl_same {β : Type} {f : Block → β → Block} {b : Block} (hf : ∀ x, f b x = b) (l : List β) : l.foldl f b = b :=
  l.foldlRecOn f (motive := fun d => d = b) rfl (fun d h x _ => by rw [h]; exact hf x)

/-- Where nothing waits for a response, LAUNCH_ENTRY is the queue's next step. -/
theorem launchEntry_unread {b : Block} (ent : List Byte) (img : List (List Byte)) (err : Bool)
    (h : (launchStep b).launch = none ∨ ∀ q, (launchStep b).launchRead = some q → q.zombie = true) : launchEntry ent img err b = launchStep b := by
  have hans : ∀ words err data, launchAnswer words err (launchStep b) data = launchStep b := fun words err data => launchAnswer_none words err data h
  by_cases he : ent = []
  · subst he
    rw [launchEntry_bare, foldl_same (hans false false), lastFailure, hans, ite_self]
  · rw [launchEntry_words img err he, hans, foldl_same (hans false false), lastFailure, hans, ite_self]

/-- While the words are read no response of an image is taken, and the words' response leads on as MP_READ_RESPONSE does. -/
theorem launchEntry_firstRead {b : Block} {q : LaunchRead} {r : LaunchRun} (ent : List Byte) (img : List (List Byte)) (err : Bool)
    (hq : (launchStep b).launchRead = some q) (hz : q.zombie = false) (hr : (launchStep b).launch = some r) (hw : r.words = none) :
    (ent ≠ [] → launchEntry ent img err b = launchEntry [] img err (launchResponse (launchStep b) false ent))
      ∧ launchEntry [] img err b = launchEntry [] [] err b := by
  refine ⟨fun he => ?_, ?_⟩
  · rw [launchEntry_words img err he, launchAnswer_taken true ent hq hz hr (by rw [hw]; rfl), launchEntry_bare]
  · rw [launchEntry_bare, launchEntry_bare, foldl_same (fun d => launchAnswer_other false d hr (by rw [hw]; simp)), List.foldl_nil]

/-- While the image is read a response of the words is not taken, and the next one of the image leads on. -/
theorem launchEntry_imageRead {b : Block} {q : LaunchRead} {r : LaunchRun} (ent : List Byte) (img : List (List Byte)) (err : Bool)
    (hq : (launchStep b).launchRead = some q) (hz : q.zombie = false) (hr : (launchStep b).launch = some r) (hw : r.words ≠ none) :
    launchEntry ent img err b = launchEntry [] img err b
      ∧ ∀ d l, img = d :: l → launchEntry [] img err b = launchEntry [] l err (launchResponse (launchStep b) false d) := by
  have hsome : r.words.isNone = false := by
    cases h : r.words with
    | none => exact absurd h hw
    | some w => rfl
  refine ⟨?_, fun d l hi => ?_⟩
  · by_cases he : ent = []
    · rw [he]
    · rw [launchEntry_words img err he, launchAnswer_other true ent hr (by rw [hsome]; simp), launchEntry_bare]
  · rw [hi, launchEntry_bare, List.foldl_cons, launchAnswer_taken false d hq hz hr hsome, launchEntry_bare]

/-- The reason with which an entry ends whose words are known and of whose image nothing is left to copy (R276). -/
def endReason (b : Block) (l : Launch) (k : Nat) : Nat :=
  if k = 0 then launchReason b l else if (getCtx b l.ctx).state ≠ .free ∧ (getCtx b l.ctx).state ≠ .running then 1 else 0

theorem launchReason_lt (b : Block) (l : Launch) : launchReason b l < 8 := by
  unfold launchReason
  dsimp only
  repeat' split
  all_goals omega

/-- An entry that the first tests let pass names a FREE or RUNNING context. -/
theorem launchReason_zero {b : Block} {l : Launch} (h : launchReason b l = 0) :
    ¬ ((getCtx b l.ctx).state ≠ .free ∧ (getCtx b l.ctx).state ≠ .running) := by
  intro hst
  unfold launchReason at h
  dsimp only at h
  split at h
  · omega
  · omega

/-- With no byte left to copy the entry is consumed (R276). -/
theorem launchWith_ends {b : Block} {i k : Nat} {w : Vector W64 8}
    (himg : (parseLaunch w).img = true → (k = 0 ∧ launchReason b (parseLaunch w) ≠ 0) ∨ (k ≠ 0 ∧ (parseLaunch w).len ≤ k))
    (hst : k = 0 → (getCtx b (parseLaunch w).ctx).state ≠ .fencing ∧ (getCtx b (parseLaunch w).ctx).state ≠ .quarantine) :
    launchWith b ⟨i, some w, k⟩ w = if endReason b (parseLaunch w) k = 0 then consume (startStrands b (parseLaunch w)) (parseLaunch w) 0 true
      else consume b (parseLaunch w) (endReason b (parseLaunch w) k) true := by
  unfold launchWith endReason
  dsimp only
  generalize parseLaunch w = l at *
  have hwait : ¬ (k == 0 && decide ((getCtx b l.ctx).state = .fencing ∨ (getCtx b l.ctx).state = .quarantine)) = true := by
    simp only [Bool.and_eq_true, beq_iff_eq, decide_eq_true_eq]
    rintro ⟨hk, h | h⟩
    · exact (hst hk).1 h
    · exact (hst hk).2 h
  rw [if_neg hwait]
  by_cases hk : k = 0
  · subst hk
    simp only [beq_self_eq_true, if_true]
    by_cases hr : launchReason b l = 0
    · rw [hr]
      have hnoimg : l.img = false := by
        cases h : l.img with
        | false => rfl
        | true => exact absurd hr ((himg h).resolve_right (fun h => h.1 rfl)).2
      rw [if_neg (by simp [hnoimg]), if_neg (by simpa using launchReason_zero hr), if_pos rfl]
      rfl
    · rw [if_neg hr]
      generalize launchReason b l = x at hr
      cases x with
      | zero => exact absurd rfl hr
      | succ x => rfl
  · have hk' : ¬ (k == 0) = true := by simpa using hk
    rw [if_neg hk']
    have hno : ¬ (l.img && decide (k < l.len)) = true := by
      simp only [Bool.and_eq_true, decide_eq_true_eq]
      rintro ⟨hi, hlt⟩
      rcases himg hi with h | h
      · exact hk h.1
      · omega
    rw [if_neg hno, if_neg hk]
    by_cases hbad : (getCtx b l.ctx).state ≠ .free ∧ (getCtx b l.ctx).state ≠ .running
    · rw [if_pos (by simpa using hbad), if_pos hbad, if_neg (by omega)]
      rfl
    · rw [if_neg (by simpa using hbad), if_neg hbad, if_pos rfl]
      rfl

/-- A read of the image at the context's read share (R218, R276). -/
theorem launchWith_reads {b : Block} {i k : Nat} {w : Vector W64 8} (himg : (parseLaunch w).img = true) (hk : k < (parseLaunch w).len)
    (hr : k = 0 → launchReason b (parseLaunch w) = 0) (hf : frozenV b = false) (hs : sharesZero b (parseLaunch w).ctx = false)
    (hc : 256 * ((((parseLaunch w).src + 64 * k) % 256 + min (64 * ((parseLaunch w).len - k)) (4096 - ((parseLaunch w).src + 64 * k) % 4096) + 255) / 256)
      ≤ (getCtx b (parseLaunch w).ctx).regRead) :
    launchWith b ⟨i, some w, k⟩ w = queueRead (chargeClass b (parseLaunch w).ctx false
        (256 * ((((parseLaunch w).src + 64 * k) % 256 + min (64 * ((parseLaunch w).len - k)) (4096 - ((parseLaunch w).src + 64 * k) % 4096) + 255) / 256)))
      ((parseLaunch w).src + 64 * k) (min (64 * ((parseLaunch w).len - k)) (4096 - ((parseLaunch w).src + 64 * k) % 4096)) (some (parseLaunch w).ctx) := by
  unfold launchWith
  dsimp only
  generalize parseLaunch w = l at *
  have hwait : ¬ (k == 0 && decide ((getCtx b l.ctx).state = .fencing ∨ (getCtx b l.ctx).state = .quarantine)) = true := by
    simp only [Bool.and_eq_true, beq_iff_eq, decide_eq_true_eq]
    rintro ⟨h0, h | h⟩ <;> exact launchReason_zero (hr h0) (by simp [h])
  have hreason : (if (k == 0) = true then launchReason b l else 0) = 0 := by
    split
    · next h0 => exact hr (by simpa using h0)
    · rfl
  rw [if_neg hwait, hreason]
  rw [if_pos (by simp [himg, hk])]
  refine if_neg ?_
  rw [hf, hs, Bool.false_or, Bool.false_or]
  exact fun h => absurd (of_decide_eq_true h) (Nat.not_lt.mpr hc)

theorem chargeClass_read (b : Block) (c : Ctx) (n : Nat) :
    (getCtx (chargeClass b c false n) c).regRead = (getCtx b c).regRead - n ∧ (getCtx (chargeClass b c false n) c).strands = (getCtx b c).strands
      ∧ ∀ d, d ≠ c → getCtx (chargeClass b c false n) d = getCtx b d := by
  refine ⟨?_, ?_, fun d hd => getCtx_modCtx_ne _ _ hd⟩
  · rw [chargeClass, getCtx_modCtx]
    rfl
  · rw [chargeClass, getCtx_modCtx]
    rfl

/-- Settles O41: the reads of the queue, the responses to them, the end of an entry, and LAUNCH_ENTRY with responses of its own. That one read is under
way at a time, that the words are read uncharged and that a failed read rejects with reason 4 is log 105; how LAUNCH_ENTRY brings responses is log 131. -/
theorem launchStartsStrands : Obligations.LaunchStartsStrands := by
  unfold Obligations.LaunchStartsStrands
  refine ⟨fun s hl hq hn hr => ?_, fun s data q r hl hq hz hr hc => ?_, fun s w i k hl hg hr hn => ?_, fun s w i k hl hg hr hn => ?_,
    fun s x q r hl hq hz hr hx => ?_, fun s t ent img err hl ht => ?_⟩
  · have hset := launchStep_entry hq hr hn
    have hhot := queueRead_hot { s.blk with launch := some ⟨cqHead s.blk, none, 0⟩ } (entryAddr s.blk (cqHead s.blk)) 64 none
    rw [← hset] at hhot
    have hexec := exec_launchEntry_live hl
    generalize launchStep s.blk = d at hset hhot hexec
    have hunits := hhot.sameUnits
    exact ⟨_, readOf { s.blk with launch := some ⟨cqHead s.blk, none, 0⟩ } (entryAddr s.blk (cqHead s.blk)) 64, hexec, hhot.launch, hhot.launchRead, rfl, rfl,
      rfl, rfl, hhot.ctxs, hunits⟩
  · have hexec := exec_launchResponse_live 0#2 data hl hq hz hr
    rw [show (0#2 != 0#2) = false from rfl] at hexec
    cases hw : r.words with
    | none =>
      obtain ⟨ks, hset⟩ := launchResponse_words data hq hz hr hw
      rw [hset] at hexec
      refine ⟨_, hexec, rfl, rfl, rfl, fun _ => ⟨?_, rfl⟩, fun w hw => by cases hw⟩
      rw [gotBytes]
    | some w =>
      obtain ⟨ks, acts, hset⟩ := launchResponse_image data hq hz hr hw hc
      rw [hset] at hexec
      refine ⟨_, hexec, rfl, rfl, rfl, (fun h => by cases h), fun w' hw' => ?_⟩
      obtain rfl := Option.some.inj hw'
      refine ⟨by rw [hw], fun j hj => ?_, fun y hy => ?_⟩
      · exact (memGet_written (by rw [gotBytes_length]; exact hj)).trans (gotBytes_getD q data hj)
      · exact memGet_memPutBytes_out (gotBytes q data) s.blk.sram _ y (by rw [gotBytes_length]; exact hy)
  · intro l himg hk hreason hf hs a n cost hcost
    have hset : launchStep s.blk = queueRead (chargeClass s.blk l.ctx false cost) a n (some l.ctx) :=
      (launchStep_with hg hr hn).trans (launchWith_reads himg hk hreason hf hs hcost)
    have hhot := queueRead_hot (chargeClass s.blk l.ctx false cost) a n (some l.ctx)
    obtain ⟨hread, hstrands, hothers⟩ := chargeClass_read s.blk l.ctx cost
    have hexec := exec_launchEntry_live hl
    rw [← hset] at hhot
    generalize launchStep s.blk = d at hset hhot hexec
    have hunits := hhot.sameUnits
    have hctx : ∀ e, getCtx d e = getCtx (chargeClass s.blk l.ctx false cost) e := fun e => by
      rw [getCtx, hhot.ctxs]
      rfl
    exact ⟨_, readOf (chargeClass s.blk l.ctx false cost) a n, hexec, hhot.launchRead, rfl, rfl, rfl, rfl, hhot.launch,
      (congrArg CtxSt.regRead (hctx _)).trans hread, (congrArg CtxSt.strands (hctx _)).trans hstrands, fun e he => (hctx e).trans (hothers e he), hunits⟩
  · intro l st reason himg hst
    have hset := (launchStep_with hg hr hn).trans (launchWith_ends himg hst)
    have hreason : reason = endReason s.blk l k := rfl
    have hexec := exec_launchEntry_live hl
    have hlt : endReason s.blk l k < 8 := by
      unfold endReason
      have := launchReason_lt s.blk l
      split
      · exact this
      · split <;> omega
    by_cases h0 : reason = 0
    · rw [if_pos (hreason ▸ h0)] at hset
      obtain ⟨hissue, hrun, htag, hstrands, hothers⟩ := startStrands_does s.blk l
      have hcons := consume_does (startStrands s.blk l) l 0 true
      have hhead : getFld (startStrands s.blk l) .schCqHead 0 32 = getFld s.blk .schCqHead 0 32 := by rw [hissue]; rfl
      have hsram : (startStrands s.blk l).sram = s.blk.sram := by rw [hissue]
      have hent : (startStrands s.blk l).entries = s.blk.entries := by rw [hissue]
      change launchStep s.blk = consume (startStrands s.blk l) l 0 true at hset
      rw [← hset] at hcons
      generalize startStrands s.blk l = e at *
      generalize launchStep s.blk = d at *
      have hctx : ∀ x, getCtx d x = getCtx e x := fun x => by rw [getCtx, hcons.ctxs]; rfl
      refine ⟨_, hexec, hcons.head.trans (by rw [hhead]), hcons.launch, ?_, hcons.sram.trans hsram, hcons.entries.trans hent⟩
      rw [if_pos h0]
      exact ⟨(congrArg CtxSt.state (hctx _)).trans hrun, (congrArg CtxSt.tagVal (hctx _)).trans htag,
        fun q => (congrArg (fun x : CtxSt => x.strands.get q) (hctx _)).trans (hstrands q), fun x hx => (hctx x).trans (hothers x hx)⟩
    · rw [if_neg (hreason ▸ h0)] at hset
      have hcons := consume_does s.blk l (endReason s.blk l k) true
      change launchStep s.blk = consume s.blk l (endReason s.blk l k) true at hset
      rw [← hset] at hcons
      generalize launchStep s.blk = d at *
      refine ⟨_, hexec, hcons.head, hcons.launch, ?_, hcons.sram, hcons.entries⟩
      obtain ⟨h1, h2, h3⟩ := hcons.rejected (hreason ▸ h0)
      rw [if_neg h0]
      exact ⟨hcons.ctxs, h1, h2.trans (Nat.mod_eq_of_lt hlt), h3⟩
  · obtain ⟨data, hexec⟩ := exec_launchFails hl hq hz hr hx
    have hcons := launchResponse_failed data hq hz hr
    obtain ⟨ks, hks⟩ := readDone_frame s.blk q
    obtain ⟨h1, h2, h3⟩ := hcons.rejected (by omega)
    have hhead : getFld (readDone s.blk q) .schCqHead 0 32 = getFld s.blk .schCqHead 0 32 := by rw [hks]; rfl
    have hread : (readDone s.blk q).launchRead = none := by rw [hks]
    have hctxs : (readDone s.blk q).ctxs = s.blk.ctxs := by rw [hks]
    generalize launchResponse s.blk true data = d at *
    exact ⟨_, hexec, hcons.launchRead.trans hread, hcons.launch, hcons.ctxs.trans hctxs, hcons.head.trans (by rw [hhead]), h1, h2, h3.trans hhead⟩
  · rw [exec_launchEntry_live hl] at ht
    obtain rfl := Host.Outcome.next.inj ht
    have hstep := launchStep_runsOn s.blk
    have hlive : live (launchStep s.blk) = true := hstep.live.trans hl
    have hpins := hstep.pins
    refine ⟨fun h => ?_, fun q r hq hz hr => ⟨fun hw => ?_, fun hw => ?_, ?_⟩⟩
    · rw [exec_launchEntry_next ent img err hl, launchEntry_unread ent img err h, ← hpins]
    · obtain ⟨h1, h2⟩ := launchEntry_firstRead ent img err hq hz hr hw
      refine ⟨fun u he hu => ?_, ?_⟩
      · have hresp := launchResponse_runsOn false ent hq hz hr
        rw [exec_launchResponse_live 0#2 ent hlive hq hz hr] at hu
        obtain rfl := Host.Outcome.next.inj hu
        rw [exec_launchEntry_next ent img err hl, h1 he, exec_launchEntry_next [] img err (hresp.live.trans hlive),
          ← hresp.pins.trans hpins]
        rfl
      · rw [exec_launchEntry_next [] img err hl, h2, exec_launchEntry_next [] [] err hl]
    · obtain ⟨h1, h2⟩ := launchEntry_imageRead ent img err hq hz hr hw
      refine ⟨by rw [exec_launchEntry_next ent img err hl, h1, exec_launchEntry_next [] img err hl], fun d l u hi hu => ?_⟩
      have hresp := launchResponse_runsOn false d hq hz hr
      rw [exec_launchResponse_live 0#2 d hlive hq hz hr] at hu
      obtain rfl := Host.Outcome.next.inj hu
      rw [exec_launchEntry_next [] img err hl, h2 d l hi, exec_launchEntry_next [] l err (hresp.live.trans hlive),
        ← hresp.pins.trans hpins]
      rfl
    · rw [exec_launchResponse_live 1#2 [] hlive hq hz hr, exec_launchEntry_next [] [] true hl, launchEntry_bare, List.foldl_nil,
        lastFailure, if_pos rfl, launchAnswer_failed false [] hq hz hr, ← hpins, ← (launchResponse_runsOn true [] hq hz hr).pins]
      rfl

end Sys2Proof.Proofs.Launch

/-! SUPPORT. What a dispatched word meets (R234, R254), for every unit; the instructions of the strands and of the pegs (R235, R236, R240, R264, R265).
Settles O50 and O51. -/

namespace Sys2Proof.Proofs.Strands

open Sys2Proof Sys2Proof.Machine Sys2Proof.Laws Sys2Proof.Proofs.IssueStage Sys2Proof.Proofs.EngReset Sys2Proof.Proofs.Fields
open Sys2Proof.Proofs.Reports Sys2Proof.Proofs.Reads Sys2Proof.Proofs.Sram

/-! ### Dispatch, for every unit -/

/-- Without an error in the SRAM, the store's reads are counted and no more (R340). -/
theorem storeRead_clean {b : Block} (l : List (Nat × Nat)) (h1 : b.ecc1 = []) (h2 : b.ecc2 = []) : ∃ d, OnlyFetched b d ∧ storeRead b l = (d, false) := by
  unfold storeRead
  induction l generalizing b with
  | nil => exact ⟨b, .refl b, rfl⟩
  | cons r l ih =>
    have hc : OnlyFetched b (countSram b (cmdBase + r.1) r.2) := rfl
    obtain ⟨h3, h4⟩ := hc.clean h1 h2
    obtain ⟨d, hd, hr⟩ := ih h3 h4
    refine ⟨d, hc.trans hd, ?_⟩
    rw [List.foldl_cons]
    simpa only [eccRead_clean b _ _ _ h1 h2, Bool.or_false] using hr

/-- Where a word dispatches and is its command's, the opportunity dispatches it and fetches ahead (R234, R252, R256). -/
theorem issue_takes {b : Block} {c : Ctx} {q : Strand} {w : BitVec 128} {op : Nat → Bool} (h : Dispatches b c q w) (hop : op w.toNat = true) :
    ∃ d, OnlyFetched b d ∧ issue op b c q = prefetch (dispatch d c q w) c q := by
  have hf := fetchMeets_fetched b c q (getStrand b c q).pos h.ecc1 h.ecc2
  obtain ⟨hf1, hf2⟩ := hf.clean h.ecc1 h.ecc2
  obtain ⟨d, hd, hr⟩ := storeRead_clean (storeReads (fetchMeets b c q (getStrand b c q).pos) w.toNat) hf1 hf2
  have hbad : opBad d c q w.toNat = [] := (opBad_of_fetched (hf.trans hd) c q _).trans h.checks
  refine ⟨d, hf.trans hd, ?_⟩
  simp [issue, h.issues, h.strand, h.fetched, h.static, hop, h.picked, hr, hbad]

/-- The block on which a dispatched word runs or enters its queue. -/
def atDispatch (b : Block) (c : Ctx) (q : Strand) (w : BitVec 128) : Block :=
  setPos (takeWaits { (fresh b).2 with rot := 4 * c.val + q.val } c q w.toNat) c q ((getStrand b c q).pos + 1)

/-- The entry that a dispatched word makes. -/
def entryOf (b : Block) (c : Ctx) (q : Strand) (w : BitVec 128) : Entry := mkEntry (fresh b).2 c q (fresh b).1 w

theorem atDispatch_issued (b : Block) (c : Ctx) (q : Strand) (w : BitVec 128) : Issued b c q (atDispatch b c q w) := by
  obtain ⟨g, hg⟩ := takeWaits_pegs { (fresh b).2 with rot := 4 * c.val + q.val } c q w.toNat
  unfold atDispatch
  rw [hg]
  rfl

theorem dispatch_runs {b : Block} {c : Ctx} {q : Strand} {w : BitVec 128} (h : opUnit b c q w.toNat = .issue) :
    dispatch b c q w = finishIssue (runIssue (atDispatch b c q w) (entryOf b c q w) c q w.toNat) (entryOf b c q w) := by
  have hu : (mkEntry (fresh b).2 c q (fresh b).1 w).eunit = .issue := h
  unfold dispatch
  dsimp only
  rw [hu]
  rfl

theorem dispatch_enters {b : Block} {c : Ctx} {q : Strand} {w : BitVec 128} {u : EUnit} (h : opUnit b c q w.toNat = u) (hu : u ≠ .issue) :
    dispatch b c q w = wakeUnits (progress (dispatchUnit (atDispatch b c q w) (entryOf b c q w)) c) u := by
  have he : (mkEntry (fresh b).2 c q (fresh b).1 w).eunit = u := h
  unfold dispatch
  dsimp only
  rw [he]
  cases u <;> first | exact absurd rfl hu | rfl

theorem atDispatch_pegs (b : Block) (c : Ctx) (q : Strand) (w : BitVec 128) :
    (atDispatch b c q w).pegs = (takeWaits { (fresh b).2 with rot := 4 * c.val + q.val } c q w.toNat).pegs := rfl

/-- An instruction of the issue stage without a post ends with the pegs as its run left them (R22). -/
theorem finishIssue_pegs {b : Block} {e : Entry} (h : wordPen e.word = false) : (finishIssue b e).pegs = b.pegs := by
  unfold finishIssue
  rw [syncPost_none _ _ _ _ h]
  unfold ctxDone
  dsimp only
  split
  · obtain ⟨n, hn⟩ := notify_frame (modCtx (progress b e.ctx) e.ctx (fun x => { x with state := .done })) 4 (some e.ctx)
      (getCtx (progress b e.ctx) e.ctx).tagVal.toNat 0 false
    rw [hn]
    rfl
  · rfl

theorem getPeg_of_pegs {b d : Block} (h : d.pegs = b.pegs) (p : Peg) : getPeg d p = getPeg b p := by
  unfold getPeg
  rw [h]

/-- A strand that dispatches belongs to a RUNNING context and goes on (R231, R233). -/
theorem strandLive_runs {b : Block} {c : Ctx} {q : Strand} (h : strandLive b c q = true) : (getCtx b c).state = .running ∧ GoesOn b c q := by
  simp only [strandLive, Bool.and_eq_true, decide_eq_true_eq, Bool.not_eq_true'] at h
  obtain ⟨⟨⟨hr, hs⟩, hh⟩, -⟩ := h
  exact ⟨hr, hs, hh⟩

/-! ### A code against a context -/

theorem ringRecord_getCtx (b : Block) (code : Nat) (ws : List W64) (o : Option Ctx) (ev : Bool) (c : Ctx) :
    getCtx (ringRecord b code ws o ev) c = getCtx b c := by
  obtain ⟨n, k, hr⟩ := ringRecord_frame b code ws o ev
  rw [hr]
  rfl

theorem enterFaulted_state (b : Block) (c : Ctx) (ws : List W64) : (getCtx (enterFaulted b c ws) c).state = .faulted := by
  rw [enterFaulted, getCtx_modCtx]

/-- A context fault that still stops its context leaves it FAULTED (R319, R321). -/
theorem raise_faults {b : Block} {code : Code} {t : Site} {c : Ctx} (he : code.isEvent = false) (ha : code ≠ .arrayRetired) (hc : t.ctx = some c)
    (hf : faultable b c = true) : (getCtx (raise b code t) c).state = .faulted := by
  have hbump : faultable (bumpFld b (.engEventCnt (Fin.ofNat 26 code.num)) 0 32 1) c = faultable b c := faultable_congr rfl
  rw [← hbump] at hf
  unfold raise
  generalize bumpFld b (.engEventCnt (Fin.ofNat 26 code.num)) 0 32 1 = d at hf ⊢
  dsimp only
  rw [if_neg (by rw [he]; exact Bool.false_ne_true), if_neg ha, hc]
  dsimp only
  rw [if_pos hf, ringRecord_getCtx, enterFaulted_state]

/-! ### NOP, YIELD, HALT, PWAIT, FENCE -/

theorem arrNow_issued {b m : Block} {c : Ctx} {q : Strand} (h : Issued b c q m) : arrNow m = arrNow b := by
  rw [h]
  rfl

/-- An instruction of the issue stage whose effect is on its strand alone makes it there, and its strand has moved on (R235, R254). -/
theorem strand_ran {s : State} {c : Ctx} {q : Strand} {w : BitVec 128} {op : Nat → Bool} {f : Block → StrandSt → StrandSt} (h : Dispatches s.blk c q w)
    (hop : op w.toNat = true) (hi : issueOpc w.toNat) (hrun : ∀ m e, runIssue m e c q w.toNat = modStrand m c q (f m))
    (hf : ∀ m, Issued s.blk c q m → f m = f s.blk) :
    ∃ t, s.onLive (fun b => issue op b c q) = .next t
      ∧ getStrand t.blk c q = f s.blk { getStrand s.blk c q with pos := (getStrand s.blk c q).pos + 1 } ∧ sameUnits s.blk t.blk := by
  obtain ⟨t, m, e, ht, hran⟩ := onLive_issue_ran h hop hi hrun (fun _ => rfl)
  exact ⟨t, ht, by rw [hran.kept.getStrand, getStrand_modStrand, hf m hran.issued, hran.issued.getStrand], hran.units⟩

theorem modCtx_self {b : Block} {c : Ctx} {f : CtxSt → CtxSt} (h : f (getCtx b c) = getCtx b c) : modCtx b c f = b := by
  have hget : f (b.ctxs.get c) = b.ctxs.get c := h
  unfold modCtx
  rw [hget]
  simp [get_at]

theorem modStrand_id (b : Block) (c : Ctx) (q : Strand) : modStrand b c q id = b :=
  modCtx_self (by simp [get_at])

/-- An instruction of the issue stage without an effect moves its strand on (R264). -/
theorem strand_moves {s : State} {c : Ctx} {q : Strand} {w : BitVec 128} {op : Nat → Bool} (h : Dispatches s.blk c q w) (hop : op w.toNat = true)
    (hi : issueOpc w.toNat) (hrun : ∀ m e, runIssue m e c q w.toNat = m) :
    ∃ t, s.onLive (fun b => issue op b c q) = .next t
      ∧ getStrand t.blk c q = { getStrand s.blk c q with pos := (getStrand s.blk c q).pos + 1 } ∧ sameUnits s.blk t.blk :=
  strand_ran (f := fun _ => id) h hop hi (fun m e => by rw [hrun, modStrand_id]) (fun _ _ => rfl)

/-! ### MARK -/

/-- From `b` to `d` the strands, the SRAM with its errors, the arrays, the groups and the pins stand. -/
structure Aside (b d : Block) : Prop where
  strands : ∀ c, (getCtx d c).strands = (getCtx b c).strands
  pins : d.pins = b.pins
  sram : d.sram = b.sram
  arrays : d.arrays = b.arrays
  groups : d.groups = b.groups
  ecc1 : d.ecc1 = b.ecc1
  ecc2 : d.ecc2 = b.ecc2

theorem Aside.refl (b : Block) : Aside b b := ⟨fun _ => rfl, rfl, rfl, rfl, rfl, rfl, rfl⟩

theorem Aside.trans {b d e : Block} (h : Aside b d) (k : Aside d e) : Aside b e :=
  ⟨fun c => (k.strands c).trans (h.strands c), k.pins.trans h.pins, k.sram.trans h.sram, k.arrays.trans h.arrays, k.groups.trans h.groups,
    k.ecc1.trans h.ecc1, k.ecc2.trans h.ecc2⟩

theorem Aside.getStrand {b d : Block} (h : Aside b d) (c : Ctx) (q : Strand) : getStrand d c q = getStrand b c q := by
  simp only [Machine.getStrand, h.strands]

theorem aside_of_links {b d : Block} (h : OnlyLinks b d) (k : Kept b d) : Aside b d :=
  ⟨k.strands, h.pins, h.sram, h.arrays, h.groups, by rw [h], by rw [h]⟩

theorem aside_of_fetched {b d : Block} (h : OnlyFetched b d) : Aside b d := by
  rw [h]
  exact ⟨fun _ => rfl, rfl, rfl, rfl, rfl, rfl, rfl⟩

theorem addStream_aside (b : Block) (o : Owner) (c : Ctx) (gen : BitVec 16) (write : Bool) (idx quota : Nat) (peer : Option Nat) (segs : List Seg) :
    Aside b (addStream b o c gen write idx quota peer segs) := by
  unfold addStream
  split
  · exact .refl b
  · exact ⟨fun _ => rfl, rfl, rfl, rfl, rfl, rfl, rfl⟩

theorem wrapFld_aside (b : Block) (r : Reg) (lo wid n : Nat) : Aside b (wrapFld b r lo wid n) := ⟨fun _ => rfl, rfl, rfl, rfl, rfl, rfl, rfl⟩

theorem bumpFld_aside (b : Block) (r : Reg) (lo wid n : Nat) : Aside b (bumpFld b r lo wid n) := ⟨fun _ => rfl, rfl, rfl, rfl, rfl, rfl, rfl⟩

theorem writeLog_aside (b : Block) (c : Ctx) (l : List Byte) : Aside b (writeLog b c l) := by
  unfold writeLog
  dsimp only
  split
  · exact .refl b
  · exact (wrapFld_aside b _ _ _ _).trans (addStream_aside ..)

theorem raise_aside (b : Block) (code : Code) (t : Site) : Aside b (raise b code t) :=
  aside_of_links (raise_links b code t) (raise_oneNotice b code t).kept

/-- MARK takes the cycle of the mark; its reports and its log touch no strand and no unit's state (R240, R241). -/
theorem runMark_aside (b : Block) (e : Entry) (c : Ctx) (q : Strand) (w : Nat) :
    Aside (modStrand b c q (fun x => { x with markAt := arrNow b })) (runMark b e c q w) := by
  have hlate : ∀ (m : Block) (p : Bool), Aside m (if p then raise (bumpFld m .schOverrun 0 32 1) .scheduleOverrun (e.site 0) else m) := by
    intro m p
    split
    · exact (bumpFld_aside m _ _ _ _).trans (raise_aside ..)
    · exact .refl m
  unfold runMark
  dsimp only
  split
  · exact (hlate _ _).trans (writeLog_aside _ c _)
  · exact hlate _ _

theorem mark_ran {s : State} {c : Ctx} {q : Strand} {w : BitVec 128} (h : Dispatches s.blk c q w) (ho : wOpc w.toNat = 0x0A) :
    ∃ t, s.onLive (fun b => issue (fun w => wOpc w == 0x0A) b c q) = .next t
      ∧ getStrand t.blk c q = { getStrand s.blk c q with pos := (getStrand s.blk c q).pos + 1, markAt := arrNow s.blk }
      ∧ t.blk.sram = s.blk.sram ∧ t.blk.arrays = s.blk.arrays ∧ t.blk.groups = s.blk.groups := by
  obtain ⟨d, hd, hr⟩ := issue_takes (op := fun w => wOpc w == 0x0A) h (by simp [ho])
  have hi : issueOpc w.toNat := ⟨by omega, by omega⟩
  have hm := (atDispatch_issued d c q w).of_fetched hd
  rw [dispatch_runs (opUnit_issue hi ..)] at hr
  generalize atDispatch d c q w = m at hm hr
  generalize entryOf d c q w = e at hr
  have hrun : runIssue m e c q w.toNat = runMark m e c q w.toNat := by simp only [runIssue, ho]
  rw [hrun] at hr
  have hmark := runMark_aside m e c q w.toNat
  have hfin := hmark.trans (aside_of_links (finishIssue_links _ e) (finishIssue_kept _ e))
  generalize finishIssue (runMark m e c q w.toNat) e = f at hr hfin
  have hstand : ∀ {x : Block}, Aside (modStrand m c q (fun x => { x with markAt := arrNow m })) x →
      x.pins = s.blk.pins ∧ x.sram = s.blk.sram ∧ x.arrays = s.blk.arrays ∧ x.groups = s.blk.groups ∧ x.ecc1 = s.blk.ecc1 ∧ x.ecc2 = s.blk.ecc2 := by
    intro x hx
    obtain ⟨-, h1, h2, h3, h4, h5, h6⟩ := hx
    rw [h1, h2, h3, h4, h5, h6, hm]
    exact ⟨rfl, rfl, rfl, rfl, rfl, rfl⟩
  obtain ⟨-, -, -, -, he1, he2⟩ := hstand hfin
  have hall := hfin.trans (aside_of_fetched (prefetch_fetched f c q (he1.trans h.ecc1) (he2.trans h.ecc2)))
  obtain ⟨hpins, hsram, harr, hgrp, -, -⟩ := hstand hall
  rw [← hr] at hpins hsram harr hgrp hall
  refine ⟨_, onLive_pins (f := fun b => issue (fun w => wOpc w == 0x0A) b c q) h.live hpins, ?_, hsram, harr, hgrp⟩
  rw [hall.getStrand, getStrand_modStrand, hm.getStrand, arrNow_issued hm]

/-! ### PWAIT and PPOST -/

theorem pick_ready {b : Block} {k : Nat} (h : pick b = some k) : strandReady b k = true := List.find?_some h

/-- A word that dispatches waits for nothing (R233, R234). -/
theorem dispatches_status {b : Block} {c : Ctx} {q : Strand} {w : BitVec 128} (h : Dispatches b c q w) : wordStatus b c q w.toNat = 1 := by
  have hk := pick_ready h.picked
  have hc : Fin.ofNat 16 ((4 * c.val + q.val) / 4) = c := by
    apply Fin.ext
    simp only [Fin.ofNat]
    omega
  have hq : Fin.ofNat 4 ((4 * c.val + q.val) % 4) = q := by
    apply Fin.ext
    simp only [Fin.ofNat]
    omega
  simp only [strandReady, hc, hq, h.fetched, Bool.and_eq_true, beq_iff_eq] at hk
  exact hk.2.2

/-- The pegs that a word waits on hold what it takes (R236). -/
theorem dispatches_waits {b : Block} {c : Ctx} {q : Strand} {w : BitVec 128} (h : Dispatches b c q w) {p : Peg} {n : Nat} (hp : (p, n) ∈ opWaits w.toNat)
    {r : Role} (hr : pegRole b p c q = some r) : n ≤ pegCount b p r := by
  have hs := dispatches_status h
  unfold wordStatus at hs
  split at hs
  · cases hs
  · rename_i hw
    simp only [Bool.not_eq_true, Bool.not_eq_false', List.all_eq_true] at hw
    simpa [pegReady, hr] using hw _ hp

theorem pegCount_pegTake (b : Block) (p : Peg) (r : Role) {n : Nat} (h : n ≤ pegCount b p r) : pegCount (pegTake b p r n) p r + n = pegCount b p r := by
  cases r <;> simp only [pegCount, pegTake, getPeg_setPeg] at h ⊢ <;> bv_omega

theorem getPeg_pegTake_ne (b : Block) {p p' : Peg} (r : Role) (n : Nat) (h : p' ≠ p) : getPeg (pegTake b p r n) p' = getPeg b p' := by
  cases r <;> exact getPeg_setPeg_ne _ _ h

theorem pegCount_of_pegs {b d : Block} (h : d.pegs = b.pegs) (p : Peg) (r : Role) : pegCount d p r = pegCount b p r := by
  cases r <;> simp only [pegCount, getPeg_of_pegs h]

theorem takeWaits_pwait {b : Block} {c : Ctx} {q : Strand} {w : Nat} (ho : wOpc w = 0x08) {r : Role} (hr : pegRole b (wPeg w) c q = some r) :
    takeWaits b c q w = pegTake b (wPeg w) r (wPegN w) := by
  simp [takeWaits, opWaits, ho, hr]

theorem takeWaits_none {b : Block} {c : Ctx} {q : Strand} {w : Nat} (ho : wOpc w ≠ 0x08) (hw : wWen w = false) : takeWaits b c q w = b := by
  simp [takeWaits, opWaits, ho, hw]

/-- A PWAIT that dispatches names a peg on which its strand may wait (R236). -/
theorem pwait_role {b : Block} {c : Ctx} {q : Strand} {w : BitVec 128} (h : Dispatches b c q w) (ho : wOpc w.toNat = 0x08) :
    ∃ r, pegRole b (wPeg w.toNat) c q = some r := by
  have hb := h.checks
  cases hr : pegRole b (wPeg w.toNat) c q with
  | some r => exact ⟨r, rfl⟩
  | none => simp [opBad, pegsBad, opWaits, ho, hr, badIf] at hb

theorem getPeg_of_fetched {b d : Block} (h : OnlyFetched b d) (p : Peg) : getPeg d p = getPeg b p := getPeg_of_pegs (by rw [h]) p

theorem pegRole_of_regs {b d : Block} (h : d.regs = b.regs) (p : Peg) (c : Ctx) (q : Strand) : pegRole d p c q = pegRole b p c q := by
  unfold pegRole pegEn pegOwner pegProd pegCons pegCfg
  rw [rawReg_congr h]

theorem postRemote_of_regs {b d : Block} (h : d.regs = b.regs) (p : Peg) (r : Role) : postRemote d p r = postRemote b p r := by
  simp only [postRemote, pegProd, pegCons, pegCfg, rawReg_congr h]

/-- What an opportunity leaves of its pegs where the word runs in the issue stage, touches links alone and posts nothing (R19, R22). -/
theorem issue_pegs {s : State} {c : Ctx} {q : Strand} {w : BitVec 128} {op : Nat → Bool} (h : Dispatches s.blk c q w) (hop : op w.toNat = true)
    (hu : ∀ d, OnlyFetched s.blk d → opUnit d c q w.toNat = .issue) (hpen : bitAt w.toNat 13 = false)
    (hl : ∀ m e, OnlyLinks m (runIssue m e c q w.toNat)) :
    ∃ d e f, OnlyFetched s.blk d ∧ e = entryOf d c q w ∧ f = runIssue (atDispatch d c q w) e c q w.toNat
      ∧ s.onLive (fun b => issue op b c q) = .next { s with blk := prefetch (finishIssue f e) c q }
      ∧ OnlyFetched (finishIssue f e) (prefetch (finishIssue f e) c q) ∧ (prefetch (finishIssue f e) c q).pegs = f.pegs := by
  obtain ⟨d, hd, hr⟩ := issue_takes h hop
  rw [dispatch_runs (hu d hd)] at hr
  have hm := (atDispatch_issued d c q w).of_fetched hd
  have hlinks := (hl (atDispatch d c q w) (entryOf d c q w)).trans (finishIssue_links _ (entryOf d c q w))
  obtain ⟨h1, h2⟩ := hm.clean hlinks h.ecc1 h.ecc2
  have hp := prefetch_fetched _ c q h1 h2
  have hpegs := finishIssue_pegs (b := runIssue (atDispatch d c q w) (entryOf d c q w) c q w.toNat) (e := entryOf d c q w) hpen
  refine ⟨d, _, _, hd, rfl, rfl, ?_, hp, ?_⟩
  · rw [← hr]
    refine onLive_pins (f := fun b => issue op b c q) h.live ?_
    rw [hr]
    exact (pins_of_fetched hp).trans (hlinks.pins.trans hm.pins)
  · exact Eq.trans (by rw [hp]) hpegs

theorem pwait_ran {s : State} {c : Ctx} {q : Strand} {w : BitVec 128} (h : Dispatches s.blk c q w) (ho : wOpc w.toNat = 0x08)
    (hpen : bitAt w.toNat 13 = false) :
    ∃ t, s.onLive (fun b => issue (fun w => wOpc w == 0x08) b c q) = .next t
      ∧ (∀ r, pegRole s.blk (wPeg w.toNat) c q = some r → pegCount t.blk (wPeg w.toNat) r + wPegN w.toNat = pegCount s.blk (wPeg w.toNat) r)
      ∧ ∀ p, p ≠ wPeg w.toNat → getPeg t.blk p = getPeg s.blk p := by
  have hi : issueOpc w.toNat := ⟨by omega, by omega⟩
  have hrun : ∀ m e, runIssue m e c q w.toNat = m := fun m e => by simp only [runIssue, ho]
  obtain ⟨d, e, f, hd, -, hf, ht, -, hpegs⟩ := issue_pegs (op := fun w => wOpc w == 0x08) h (by simp [ho]) (fun d _ => opUnit_issue hi d c q) hpen
    (fun m e => by rw [hrun]; exact .refl m)
  obtain ⟨r, hr⟩ := pwait_role h ho
  have hcount := dispatches_waits h (by simp [opWaits, ho] : (wPeg w.toNat, wPegN w.toNat) ∈ opWaits w.toNat) hr
  have hrd : pegRole { (fresh d).2 with rot := 4 * c.val + q.val } (wPeg w.toNat) c q = some r :=
    (pegRole_of_regs (by rw [hd]; rfl) _ c q).trans hr
  generalize prefetch (finishIssue f e) c q = x at ht hpegs
  rw [hf, hrun, atDispatch_pegs, takeWaits_pwait ho hrd] at hpegs
  have hpeg0 : ({ (fresh d).2 with rot := 4 * c.val + q.val } : Block).pegs = s.blk.pegs := by rw [hd]; rfl
  generalize ({ (fresh d).2 with rot := 4 * c.val + q.val } : Block) = m at hpegs hpeg0
  refine ⟨_, ht, fun r' hr' => ?_, fun p hp => ?_⟩
  · obtain rfl : r = r' := Option.some.inj (hr.symm.trans hr')
    rw [← pegCount_of_pegs hpeg0] at hcount ⊢
    rw [pegCount_of_pegs hpegs, pegCount_pegTake m _ r hcount]
  · rw [getPeg_of_pegs hpegs, getPeg_pegTake_ne m r _ hp, getPeg_of_pegs hpeg0]

/-- Settles O50: each changes its own strand, and PWAIT the peg it names. -/
theorem strandInstructions : Obligations.StrandInstructions := by
  refine ⟨fun s c q w i op hmem h ho => ?_, fun s c q w h ho hpen => pwait_ran h ho hpen, fun s c q hl hy hu => ?_⟩
  · have units : ∀ {b d : Block}, sameUnits b d → d.sram = b.sram ∧ d.arrays = b.arrays ∧ d.groups = b.groups := fun ⟨h1, _, h3, h4, _⟩ => ⟨h1, h3, h4⟩
    simp only [List.mem_cons, Prod.mk.injEq, List.not_mem_nil, or_false] at hmem
    obtain ⟨rfl, rfl⟩ | ⟨rfl, rfl⟩ | ⟨rfl, rfl⟩ | ⟨rfl, rfl⟩ | ⟨rfl, rfl⟩ | ⟨rfl, rfl⟩ := hmem
    · obtain ⟨t, ht, hs, hsame⟩ := strand_moves (op := fun w => wOpc w == 0x00) h (by simp [ho]) ⟨by omega, by omega⟩ (fun m e => by simp only [runIssue, ho])
      exact ⟨t, ht, hs, fun _ => hsame, units hsame⟩
    · obtain ⟨t, ht, hs, hsame⟩ := strand_ran (op := fun w => wOpc w == 0x06) (f := fun b x => { x with yielded := true, yieldUntil := arrNow b + bitsOf w.toNat 47 32 })
        h (by simp [ho]) ⟨by omega, by omega⟩ (fun m e => by simp only [runIssue, ho]) (fun m hm => by simp only [arrNow_issued hm])
      exact ⟨t, ht, by rw [hs, bitsOf_eq]; rfl, fun _ => hsame, units hsame⟩
    · obtain ⟨t, ht, hs, hsame⟩ := strand_ran (op := fun w => wOpc w == 0x07) (f := fun _ x => { x with halted := true })
        h (by simp [ho]) ⟨by omega, by omega⟩ (fun m e => by simp only [runIssue, ho]) (fun _ _ => rfl)
      exact ⟨t, ht, hs, fun _ => hsame, units hsame⟩
    · obtain ⟨t, ht, hs, hsame⟩ := strand_moves (op := fun w => wOpc w == 0x08) h (by simp [ho]) ⟨by omega, by omega⟩ (fun m e => by simp only [runIssue, ho])
      exact ⟨t, ht, hs, fun _ => hsame, units hsame⟩
    · obtain ⟨t, ht, hs, hrest⟩ := mark_ran h ho
      exact ⟨t, ht, hs, fun hne => absurd rfl hne, hrest⟩
    · obtain ⟨t, ht, hs, hsame⟩ := strand_moves (op := fun w => wOpc w == 0x0B) h (by simp [ho]) ⟨by omega, by omega⟩ (fun m e => by simp only [runIssue, ho])
      exact ⟨t, ht, hs, fun _ => hsame, units hsame⟩
  · have he : yieldExpiry s.blk c q = modStrand s.blk c q (fun x => { x with yielded := false }) := if_pos (by simp [hy, hu])
    refine ⟨_, onLive_pins (f := fun b => yieldExpiry b c q) hl (by rw [he]; rfl), ?_⟩
    simp only [he]
    exact ⟨getStrand_modStrand .., rfl, fun d q' hne => getStrand_modStrand_ne _ _ (by
      by_contra hc
      rw [not_or, not_not, not_not] at hc
      exact hne (by rw [hc.1, hc.2]))⟩

/-! ### PPOST to a side of this engine -/

/-- A count that a post leaves at 65,535 halts its pair's owner (R237). -/
theorem pegAdd_does (b : Block) (p : Peg) (r : Role) (n : Nat) :
    (let x := getPeg b p
     let old := match r with | .producer => x.full.toNat | .consumer => x.empty.toNat
     let v : BitVec 16 := BitVec.ofNat 16 (min 65535 (old + n))
     getPeg (pegAdd b p r n) p = (match r with | .producer => { x with full := v } | .consumer => { x with empty := v })
      ∧ (65535 < old + n → faultable b (pegOwner b p) = true → (getCtx (pegAdd b p r n) (pegOwner b p)).state = .faulted)
      ∧ (old + n ≤ 65535 → (pegAdd b p r n).ctxs = b.ctxs))
    ∧ ∀ p', p' ≠ p → getPeg (pegAdd b p r n) p' = getPeg b p' := by
  have hraise : ∀ (d : Block) (t : Site), (raise d .illegalInstr t).pegs = d.pegs := fun d t => (raise_readOnly d .illegalInstr t).pegs
  unfold pegAdd
  cases r <;> dsimp only
  all_goals
    split
    · rename_i hlt
      refine ⟨⟨?_, fun _ hf => raise_faults rfl (by decide) rfl hf, fun hle => absurd hlt (by omega)⟩, fun p' hp => ?_⟩
      · rw [getPeg_of_pegs (hraise _ _), getPeg_setPeg]
      · rw [getPeg_of_pegs (hraise _ _), getPeg_setPeg_ne _ _ hp]
    · rename_i hle
      exact ⟨⟨getPeg_setPeg .., fun hlt => absurd hlt (by omega), fun _ => rfl⟩, fun p' hp => getPeg_setPeg_ne _ _ hp⟩

theorem progress_state (b : Block) (c : Ctx) : (getCtx (progress b c) c).state = (getCtx b c).state := by
  show (getCtx (modCtx b c (fun x => { x with progressed := true, stall := 0 })) c).state = _
  rw [getCtx_modCtx]

theorem opUnit_ppost {b : Block} {c : Ctx} {q : Strand} {w : Nat} {r : Role} (ho : wOpc w = 0x09) (hr : pegRole b (wPeg w) c q = some r)
    (hn : postRemote b (wPeg w) r = false) : opUnit b c q w = .issue := by
  simp [opUnit, ho, hr, hn]

theorem pegOwner_of_role {b : Block} {p : Peg} {c : Ctx} {q : Strand} {r : Role} (h : pegRole b p c q = some r) : pegOwner b p = c := by
  by_contra hne
  simp [pegRole, hne] at h

/-- Settles O51: a local post adds to its count, and above 65,535 halts the context that owns the pair. -/
theorem localPostsCount : Obligations.LocalPostsCount := by
  intro s c q w r h ho hr hn hwen hpen
  obtain ⟨hrunning, hgoes⟩ := strandLive_runs h.strand
  have hrole : ∀ {b : Block}, b.regs = s.blk.regs → pegRole b (wPeg w.toNat) c q = some r := fun hb => (pegRole_of_regs hb ..).trans hr
  have hrun : ∀ m e, m.regs = s.blk.regs → runIssue m e c q w.toNat = pegAdd m (wPeg w.toNat) r (wPegN w.toNat) := fun m e hm => by
    simp only [runIssue, ho, hrole hm]
  have hlinks : ∀ m e, OnlyLinks m (runIssue m e c q w.toNat) := fun m e => by
    simp only [runIssue, ho]
    split
    · exact pegAdd_links ..
    · exact .refl m
  obtain ⟨d, e, f, hd, he, hf, ht, hp, hpegs⟩ := issue_pegs (op := fun w => wOpc w == 0x09) h (by simp [ho])
    (fun d hd => opUnit_ppost ho (hrole (by rw [hd])) ((postRemote_of_regs (by rw [hd]) ..).trans hn)) hpen hlinks
  have hm := (atDispatch_issued d c q w).of_fetched hd
  have hmpegs : (atDispatch d c q w).pegs = s.blk.pegs := by
    rw [atDispatch_pegs, takeWaits_none (by omega) hwen, hd]
    rfl
  generalize atDispatch d c q w = m at hm hmpegs hf
  have hmregs : m.regs = s.blk.regs := by rw [hm]; rfl
  have hmstate : (getCtx m c).state = .running := by
    have hctx : getCtx m c = getCtx (setPos s.blk c q ((getStrand s.blk c q).pos + 1)) c := by rw [hm]; rfl
    rw [hctx, setPos, modStrand, getCtx_modCtx]
    exact hrunning
  rw [hrun m e hmregs] at hf
  obtain ⟨⟨hcount, hsat, hfit⟩, hothers⟩ := pegAdd_does m (wPeg w.toNat) r (wPegN w.toNat)
  rw [pegOwner_of_role (hrole hmregs)] at hsat
  have hkept : Kept m f := hf ▸ (pegAdd_oneNotice m (wPeg w.toNat) r (wPegN w.toNat)).kept
  have hon : OnlyLinks m f := hf ▸ pegAdd_links m (wPeg w.toNat) r (wPegN w.toNat)
  have hec : e.ctx = c := he ▸ rfl
  have hew : wordPen e.word = false := he ▸ hpen
  have hgo : GoesOn f e.ctx q := hkept.goesOn (by
    obtain ⟨hs, hh⟩ := hgoes
    rw [hec]
    exact ⟨by rw [hm.getStrand]; exact hs, by rw [hm.getStrand]; exact hh⟩)
  have hstate : (getCtx (prefetch (finishIssue f e) c q) c).state = (getCtx f c).state := by
    have hpc : getCtx (prefetch (finishIssue f e) c q) c = getCtx (finishIssue f e) c := by rw [hp]; rfl
    rw [hpc, finishIssue_goesOn hgo, syncPost_none _ _ _ _ hew, hec, progress_state]
  have hall : Kept m (prefetch (finishIssue f e) c q) := (hkept.trans (finishIssue_kept f e)).trans (kept_of_fetched hp)
  have hunits : sameUnits s.blk (prefetch (finishIssue f e) c q) :=
    sameUnits_trans hm.units (sameUnits_trans (sameUnits_of_links (hon.trans (finishIssue_links f e))) (sameUnits_of_fetched hp))
  generalize prefetch (finishIssue f e) c q = x at ht hp hpegs hstate hall hunits
  have hpeg : ∀ p, getPeg x p = getPeg f p := getPeg_of_pegs hpegs
  have hold : ∀ p, getPeg m p = getPeg s.blk p := getPeg_of_pegs hmpegs
  simp only [← hf, hold] at hcount hsat hfit hothers
  refine ⟨_, ht, ⟨(hpeg _).trans hcount, fun hlt => ?_, fun hle => ?_⟩, fun p hne => (hpeg p).trans (hothers p hne), ?_, hunits⟩
  · exact hstate.trans (hsat hlt (by simp [faultable, hmstate]))
  · rw [hstate, getCtx, hfit hle]
    exact hmstate
  · rw [hall.getStrand, hm.getStrand]

end Sys2Proof.Proofs.Strands

/-! SUPPORT. The arrays' ramps and their clock gate (R67, R68). Settles O54. -/

namespace Sys2Proof.Proofs.Arrays

open Sys2Proof Sys2Proof.Machine Sys2Proof.Laws Sys2Proof.Proofs.IssueStage

/-- Clocks that run let a step of a ramp change its array, and nothing else (R67). -/
theorem rampStep_runs {b : Block} (h : UnitsRun b) (n : Arr) :
    rampStep b n = modArr b n (fun a =>
      let adv := if a.gate = .ramping then rampStep1 a.adv (rampLen b n) else a.adv
      { a with adv := adv, inp := rampStep1 a.inp (rampLen b n), gate := if a.gate = .ramping && rampDone adv then .running else a.gate }) := by
  obtain ⟨-, hcold, hcool, hawake⟩ := h
  exact if_neg (by simp [hcold, hcool, hawake])

/-- The gate's condition: the array runs, is idle, and was for HOLD_OFF cycles (R68). -/
def gateDue (b : Block) (n : Arr) : Prop :=
  (getArr b n).gate = .running ∧ arrIdle b n = true ∧ getFld b (.arrRamp n) 16 16 ≤ arrNow b - (getArr b n).idleSince

theorem clockGate_due {b : Block} {n : Arr} (h : gateDue b n) : clockGate b n = modArr b n (fun a => { a with gate := .gated }) := by
  obtain ⟨hrun, hidle, hlong⟩ := h
  exact if_pos (by simp [hrun, hidle, hlong])

theorem clockGate_not_due {b : Block} {n : Arr} (h : ¬ gateDue b n) : clockGate b n = b :=
  if_neg fun hc => h (by simpa [gateDue, and_assoc] using hc)

theorem rampStep_pins (b : Block) (n : Arr) : (rampStep b n).pins = b.pins := by
  unfold rampStep
  split <;> rfl

theorem clockGate_pins (b : Block) (n : Arr) : (clockGate b n).pins = b.pins := by
  unfold clockGate
  split <;> rfl

/-- Settles O54: a step of a ramp and the clock gate each change their own array only. -/
theorem rampsAndGating : Obligations.RampsAndGating := by
  refine ⟨fun s n hu => ⟨_, onLive_pins (f := fun b => rampStep b n) hu.live (rampStep_pins s.blk n), ?_⟩,
    fun s n hl => ⟨_, onLive_pins (f := fun b => clockGate b n) hl (clockGate_pins s.blk n), ?_⟩⟩
  · simp only [rampStep_runs hu]
    refine ⟨rfl, fun m hm => getArr_modArr_ne s.blk _ hm, ?_⟩
    rw [getArr_modArr]
    by_cases hr : (getArr s.blk n).gate = .ramping <;> simp [hr, rampStep1, rampLevel, rampLen, rampDone]
  · by_cases hd : gateDue s.blk n
    · simp only [clockGate_due hd]
      exact ⟨rfl, fun m hm => getArr_modArr_ne s.blk _ hm, by rw [getArr_modArr]; exact (if_pos hd).symm⟩
    · simp only [clockGate_not_due hd]
      exact ⟨trivial, fun _ _ => trivial, (if_neg hd).symm⟩

end Sys2Proof.Proofs.Arrays

/-! SUPPORT. How a dispatched instruction enters its unit's queue (R19, R21, R58, R103, R203, R258). Settles O52. -/

namespace Sys2Proof.Proofs.Enter

open Sys2Proof Sys2Proof.Machine Sys2Proof.Laws Sys2Proof.Proofs.IssueStage Sys2Proof.Proofs.EngReset Sys2Proof.Proofs.Fields
open Sys2Proof.Proofs.Reports Sys2Proof.Proofs.Sram Sys2Proof.Proofs.Strands

/-! ### The new entry, and what else changes with it -/

/-- From `b` to `d` only queues, streams, the arrays' and groups' records of what was dispatched, and the numbering have changed. -/
def OnlyQueues (b d : Block) : Prop :=
  d = { b with entries := d.entries, streams := d.streams, arrays := d.arrays, groups := d.groups, lastDispatch := d.lastDispatch }

theorem OnlyQueues.refl (b : Block) : OnlyQueues b b := rfl

theorem OnlyQueues.trans {b d e : Block} (h1 : OnlyQueues b d) (h2 : OnlyQueues d e) : OnlyQueues b e := Eq.trans h2 (by rw [h1])

/-- `y` is entry `x` with what its dispatch binds to it: operands, descriptors, its program, its drain. -/
def Bound (x y : Entry) : Prop :=
  y = { x with reads := y.reads, descs := y.descs, prog := y.prog, progNo := y.progNo, seed := y.seed, aux := y.aux, left := y.left }

section
variable {x y : Entry} (h : Bound x y)
include h
theorem Bound.word : y.word = x.word := by rw [h]
theorem Bound.ctx : y.ctx = x.ctx := by rw [h]
theorem Bound.gen : y.gen = x.gen := by rw [h]
theorem Bound.strand : y.strand = x.strand := by rw [h]
theorem Bound.pos : y.pos = x.pos := by rw [h]
theorem Bound.eunit : y.eunit = x.eunit := by rw [h]
theorem Bound.started : y.started = x.started := by rw [h]
theorem Bound.id : y.id = x.id := by rw [h]
end

/-- Entry `e`, with what its dispatch binds, is the last of the queues. -/
structure Entered (b d : Block) (e : Entry) : Prop where
  only : OnlyQueues b d
  last : ∃ y, Bound e y ∧ d.entries = b.entries ++ [y]

theorem addEntry_entered (b : Block) {e y : Entry} (h : Bound e y) : Entered b (addEntry b y) e := ⟨rfl, y, h, rfl⟩

/-- What else a dispatch does leaves the queues as they are. -/
theorem Entered.then {b d f : Block} {e : Entry} (h : Entered b d e) (k : OnlyQueues d f) (hf : f.entries = d.entries) : Entered b f e :=
  let ⟨y, hy, hl⟩ := h.last
  ⟨h.only.trans k, y, hy, hf.trans hl⟩

theorem Entered.after {b d f : Block} {e : Entry} (h : Entered d f e) (k : OnlyQueues b d) (hd : d.entries = b.entries) : Entered b f e :=
  let ⟨y, hy, hl⟩ := h.last
  ⟨k.trans h.only, y, hy, by rw [hl, hd]⟩

theorem dispatchTransfer_entered (b : Block) (e : Entry) : Entered b (dispatchTransfer b e) e := by
  have hbare : ∀ (d : Block) (x : Entry) (write : Bool) (idx quota : Nat) (peer : Option Nat) (segs : List Seg),
      OnlyQueues d (bareStream d x write idx quota peer segs) ∧ (bareStream d x write idx quota peer segs).entries = d.entries :=
    fun _ _ _ _ _ _ _ => ⟨rfl, rfl⟩
  have hadd : ∀ l, Entered b (addEntry b { e with descs := l }) e := fun l => addEntry_entered b (e := e) (y := { e with descs := l }) (by exact rfl)
  unfold dispatchTransfer
  dsimp only
  split
  · exact ((hadd _).then (hbare ..).1 (hbare ..).2).then (hbare ..).1 (hbare ..).2
  · exact (hadd _).then (hbare ..).1 (hbare ..).2

theorem dispatchShort_entered (b : Block) (e : Entry) : Entered b (dispatchShort b e) e := by
  have hadd : Entered b (addEntry b e) e := addEntry_entered b (e := e) (y := e) (by exact rfl)
  exact hadd.then rfl rfl

/-- What a dispatched PASS counts on one of its members (R99, R142). -/
theorem dispatchPass_entered (b : Block) (e : Entry) : Entered b (dispatchPass b e) e := by
  have hfold : ∀ (f : Block → Arr → Block) (l : List Arr) (d : Block), (∀ d n, OnlyQueues d (f d n) ∧ (f d n).entries = d.entries) →
      OnlyQueues d (l.foldl f d) ∧ (l.foldl f d).entries = d.entries := fun f l d hf =>
    l.foldlRecOn f (motive := fun x => OnlyQueues d x ∧ x.entries = d.entries) ⟨.refl d, rfl⟩
      (fun x ⟨h1, h2⟩ n _ => ⟨h1.trans (hf x n).1, (hf x n).2.trans h2⟩)
  unfold dispatchPass
  dsimp only
  refine Entered.after (addEntry_entered _ (by exact rfl)) (hfold _ _ b fun d n => ?_).1 (hfold _ _ b fun d n => ?_).2
  all_goals
    split
    · split <;> exact ⟨rfl, rfl⟩
    · split <;> exact ⟨rfl, rfl⟩

/-- The instructions that wait in a group's record enter by `dispatchClose`; each other one enters its queue with what its dispatch binds (R21). -/
theorem dispatchUnit_entered (b : Block) (e : Entry) (hb : wOpc e.word.toNat ≠ 0x2B) (hc : wOpc e.word.toNat ≠ 0x2C) :
    Entered b (dispatchUnit b e) e := by
  unfold dispatchUnit
  dsimp only
  split
  case h_10 heq | h_11 heq => omega
  case h_1 | h_2 | h_3 | h_4 => exact dispatchTransfer_entered b e
  case h_5 => exact dispatchShort_entered b e
  case h_6 | h_7 => exact dispatchPass_entered b e
  case h_8 =>
    have hadd : Entered b (addEntry b e) e := addEntry_entered b (e := e) (y := e) (by exact rfl)
    exact hadd.then rfl rfl
  case h_12 => exact (addEntry_entered _ (by exact rfl)).after rfl rfl
  all_goals exact addEntry_entered b (by exact rfl)

/-- Units that wake change registers and the power state alone (R347). -/
theorem wakeUnits_frame (b : Block) (u : EUnit) : ∃ r p, wakeUnits b u = { b with regs := r, power := p } := by
  unfold wakeUnits
  split
  · exact ⟨_, _, rfl⟩
  · exact ⟨b.regs, b.power, rfl⟩

/-- A block whose contexts differ from those of `b` in the pace of context `c` alone has its strands. -/
theorem getStrand_progress (b : Block) (c : Ctx) (c' : Ctx) (q' : Strand) : getStrand (progress b c) c' q' = getStrand b c' q' :=
  (progress_quiet b c).toKept.getStrand c' q'

/-- What stands once a word has entered a queue: its strand has moved on, and slots, SRAM, kiln records and requests are as they were; entries and
groups are those of `d`, and its entry is that of `b` (R19, R254, R258). -/
structure Enters (b d : Block) (c : Ctx) (q : Strand) (t : Block) : Prop where
  entries : t.entries = d.entries
  groups : t.groups = d.groups
  pos : (getStrand t c q).pos = (getStrand b c q).pos + 1
  slots : ∀ c' q' k', getSlot t c' q' k' = getSlot b c' q' k'
  sram : t.sram = b.sram
  kiln : t.kiln = b.kiln
  mp : t.mp = b.mp
  tlb : t.tlb = b.tlb
  chain : t.chain = b.chain

/-- A word of a unit that dispatches enters it: `m` is the block it enters from, `e` its entry (R19, R21, R254). -/
theorem issue_enters {s : State} {c : Ctx} {q : Strand} {w : BitVec 128} {op : Nat → Bool} {u : EUnit} (h : Dispatches s.blk c q w)
    (hop : op w.toNat = true) (hu : ∀ d, opUnit d c q w.toNat = u) (hne : u ≠ .issue) (hq : ∀ m e, e.word = w → OnlyQueues m (dispatchUnit m e)) :
    ∃ t m e, s.onLive (fun b => issue op b c q) = .next t ∧ Issued s.blk c q m ∧ Enters s.blk (dispatchUnit m e) c q t.blk
      ∧ e.word = w ∧ e.ctx = c ∧ e.gen = (getCtx s.blk c).gen ∧ e.strand = q ∧ e.pos = (getStrand s.blk c q).pos ∧ e.eunit = u ∧ e.started = false := by
  obtain ⟨d, hd, hr⟩ := issue_takes h hop
  rw [dispatch_enters (hu d) hne] at hr
  have hm := (atDispatch_issued d c q w).of_fetched hd
  have hgen : (entryOf d c q w).gen = (getCtx s.blk c).gen := by rw [hd]; rfl
  have hpos : (entryOf d c q w).pos = (getStrand s.blk c q).pos := by rw [hd]; rfl
  have hon := hq (atDispatch d c q w) (entryOf d c q w) rfl
  refine ⟨{ s with blk := issue op s.blk c q }, atDispatch d c q w, entryOf d c q w, ?_, hm, ?_, rfl, rfl, hgen, rfl, hpos, hu _, rfl⟩
  all_goals
    generalize atDispatch d c q w = m at *
    generalize dispatchUnit m (entryOf d c q w) = x at *
    obtain ⟨r, p, hw⟩ := wakeUnits_frame (progress x c) u
    obtain ⟨hpins, h1, h2, hsram, hkiln, hmp, htlb, hchain⟩ : x.pins = s.blk.pins ∧ x.ecc1 = s.blk.ecc1 ∧ x.ecc2 = s.blk.ecc2 ∧ x.sram = s.blk.sram
        ∧ x.kiln = s.blk.kiln ∧ x.mp = s.blk.mp ∧ x.tlb = s.blk.tlb ∧ x.chain = s.blk.chain := by
      rw [hon, hm]
      exact ⟨rfl, rfl, rfl, rfl, rfl, rfl, rfl, rfl⟩
    have hp : OnlyFetched (wakeUnits (progress x c) u) (issue op s.blk c q) := by
      rw [hr]
      exact prefetch_fetched _ c q (by rw [hw]; exact h1.trans h.ecc1) (by rw [hw]; exact h2.trans h.ecc2)
    rw [hw] at hp
    clear hr
  · exact onLive_pins (f := fun b => issue op b c q) h.live (by rw [hp]; exact hpins)
  · generalize issue op s.blk c q = t at hp
    have hstrand : ∀ c' q', getStrand t c' q' = getStrand m c' q' := fun c' q' => by
      have hprog : getStrand t c' q' = getStrand (progress x c) c' q' := by rw [hp]; rfl
      rw [hprog, getStrand_progress, hon]
      rfl
    refine ⟨by rw [hp]; rfl, by rw [hp]; rfl, by rw [hstrand, hm.getStrand], fun c' q' k' => ?_, ?_, ?_, ?_, ?_, ?_⟩
    · rw [← hm.getSlot]
      simp only [getSlot, hstrand]
    all_goals rw [hp]; assumption

theorem issued_entries {b m : Block} {c : Ctx} {q : Strand} (h : Issued b c q m) : m.entries = b.entries := by
  rw [h]
  rfl

theorem issued_groups {b m : Block} {c : Ctx} {q : Strand} (h : Issued b c q m) : m.groups = b.groups ∧ m.beat = b.beat := by
  rw [h]
  exact ⟨rfl, rfl⟩

/-- An instruction that waits in no group's record is the last of the queues once it has been dispatched (R21). -/
theorem enters_queue {s : State} {c : Ctx} {q : Strand} {w : BitVec 128} {op : Nat → Bool} {u : EUnit} (h : Dispatches s.blk c q w)
    (hop : op w.toNat = true) (hu : ∀ d, opUnit d c q w.toNat = u) (hne : u ≠ .issue) (hb : wOpc w.toNat ≠ 0x2B) (hc : wOpc w.toNat ≠ 0x2C) :
    ∃ (t : State) (e : Entry), s.onLive (fun b => issue op b c q) = .next t ∧ t.blk.entries = s.blk.entries ++ [e] ∧ e.word = w ∧ e.ctx = c
      ∧ e.gen = (getCtx s.blk c).gen ∧ e.strand = q ∧ e.pos = (getStrand s.blk c q).pos ∧ e.eunit = u ∧ e.started = false
      ∧ (getStrand t.blk c q).pos = (getStrand s.blk c q).pos + 1 ∧ (∀ c' q' k', getSlot t.blk c' q' k' = getSlot s.blk c' q' k')
      ∧ t.blk.sram = s.blk.sram ∧ t.blk.kiln = s.blk.kiln ∧ t.blk.mp = s.blk.mp ∧ t.blk.tlb = s.blk.tlb ∧ t.blk.chain = s.blk.chain := by
  have hent : ∀ m e, e.word = w → Entered m (dispatchUnit m e) e := fun m e he => dispatchUnit_entered m e (by rwa [he]) (by rwa [he])
  obtain ⟨t, m, e, ht, hm, henter, hword, hctx, hgen, hstr, hpos, hunit, hst⟩ := issue_enters h hop hu hne (fun m e he => (hent m e he).only)
  obtain ⟨y, hy, hl⟩ := (hent m e hword).last
  obtain ⟨hentries, -, hnext, hslots, hsram, hkiln, hmp, htlb, hchain⟩ := henter
  refine ⟨t, y, ht, by rw [hentries, hl, issued_entries hm], hy.word.trans hword, hy.ctx.trans hctx, hy.gen.trans hgen, hy.strand.trans hstr,
    hy.pos.trans hpos, hy.eunit.trans hunit, hy.started.trans hst, hnext, hslots, hsram, hkiln, hmp, htlb, hchain⟩

/-! ### GCLOSE and GMERGE -/

/-- The contributions of the group that `w` names are complete (R103). -/
def closeMet (b : Block) (w : Nat) : Prop := (getGrp b (kGrp w)).localCnt + (getGrp b (kGrp w)).remoteCnt = (getGrp b (kGrp w)).expect

/-- What a GCLOSE or GMERGE leaves at its dispatch: its entry, out of the queue while contributions are short, and its group's record (R98, R103). -/
structure Closes (b d : Block) (e : Entry) : Prop where
  only : OnlyQueues b d
  entry : ∃ y ∈ d.entries, Bound e { y with started := e.started } ∧ y.id = e.id ∧ (closeMet b e.word.toNat → y.started = e.started) ∧ (¬ closeMet b e.word.toNat → y.started = true)
  close : (getGrp d (kGrp e.word.toNat)).close = some e.id
  from_ : (getGrp d (kGrp e.word.toNat)).waitFrom = b.beat
  met : closeMet b e.word.toNat → (getGrp d (kGrp e.word.toNat)).state = (getGrp b (kGrp e.word.toNat)).state
  short : ¬ closeMet b e.word.toNat → (getGrp d (kGrp e.word.toNat)).state = .waiting
  others : ∀ g, g ≠ kGrp e.word.toNat → getGrp d g = getGrp b g

theorem closeDispatched_closes (b : Block) {e y : Entry} (h : Bound e y) : Closes b (closeDispatched (addEntry b y) y) e := by
  have hs := h.started
  have hid := h.id
  have hg : ∀ g, getGrp (addEntry b y) g = getGrp b g := fun _ => rfl
  unfold closeDispatched
  dsimp only
  rw [h.word, hid]
  by_cases hmet : closeMet b e.word.toNat
  · rw [hg, if_pos (beq_iff_eq.mpr hmet)]
    refine ⟨rfl, ⟨y, by simp [addEntry], ?_, hid, fun _ => hs, fun hn => absurd hmet hn⟩, ?_, ?_, fun _ => ?_, fun hn => absurd hmet hn, fun g hne => ?_⟩
    · rw [← hs]
      exact h
    · rw [getGrp_modGrp]
    · rw [getGrp_modGrp]
      rfl
    · rw [getGrp_modGrp]
      rfl
    · rw [getGrp_modGrp_ne _ _ hne]
      rfl
  · rw [hg, if_neg (fun h => hmet (beq_iff_eq.mp h))]
    have hgrp : ∀ (d : Block) (i : Nat) (g : Grp), getGrp (startEntry d i) g = getGrp d g := fun _ _ _ => rfl
    refine ⟨rfl, ⟨{ y with started := true, left := 1 }, ?_, ?_, hid, fun hm => absurd hm hmet, fun _ => rfl⟩, ?_, ?_, fun hm => absurd hm hmet, fun _ => ?_, fun g hne => ?_⟩
    · simp only [startEntry, modEntry, List.mem_map]
      exact ⟨y, by simp [addEntry, modGrp], by simp [hid]⟩
    · rw [← hs]
      unfold Bound at h ⊢
      rw [h]
    · rw [hgrp, getGrp_modGrp, getGrp_modGrp]
    · rw [hgrp, getGrp_modGrp, getGrp_modGrp]
      rfl
    · rw [hgrp, getGrp_modGrp]
    · rw [hgrp, getGrp_modGrp_ne _ _ hne, getGrp_modGrp_ne _ _ hne]
      rfl

theorem dispatchClose_closes (b : Block) (e : Entry) : Closes b (dispatchClose b e) e := by
  unfold dispatchClose
  dsimp only
  refine closeDispatched_closes b ?_
  split
  · exact rfl
  · split
    · exact rfl
    · split <;> exact rfl

/-- A GCLOSE or GMERGE that dispatches waits in its queue, or in its group's record (R21, R103). -/
theorem enters_close {s : State} {c : Ctx} {q : Strand} {w : BitVec 128} {op : Nat → Bool} (h : Dispatches s.blk c q w) (hop : op w.toNat = true)
    (hw : wOpc w.toNat = 0x2B ∨ wOpc w.toNat = 0x2C) :
    ∃ (t : State) (e : Entry), s.onLive (fun b => issue op b c q) = .next t
        ∧ (let g := kGrp w.toNat
           let met := (getGrp s.blk g).localCnt + (getGrp s.blk g).remoteCnt = (getGrp s.blk g).expect
           e ∈ t.blk.entries ∧ e.word = w ∧ e.ctx = c ∧ e.gen = (getCtx s.blk c).gen ∧ e.strand = q ∧ e.pos = (getStrand s.blk c q).pos ∧ e.eunit = .kiln
            ∧ (getGrp t.blk g).close = some e.id ∧ (getGrp t.blk g).waitFrom = s.blk.beat
            ∧ (met → e.started = false ∧ (getGrp t.blk g).state = (getGrp s.blk g).state)
            ∧ (¬ met → e.started = true ∧ (getGrp t.blk g).state = .waiting)
            ∧ ∀ g', g' ≠ g → getGrp t.blk g' = getGrp s.blk g')
        ∧ (getStrand t.blk c q).pos = (getStrand s.blk c q).pos + 1 ∧ (∀ c' q' k', getSlot t.blk c' q' k' = getSlot s.blk c' q' k')
        ∧ t.blk.sram = s.blk.sram ∧ t.blk.kiln = s.blk.kiln ∧ t.blk.mp = s.blk.mp ∧ t.blk.tlb = s.blk.tlb ∧ t.blk.chain = s.blk.chain := by
  have hcl : ∀ m e, e.word = w → Closes m (dispatchUnit m e) e := fun m e he => by
    have hd : dispatchUnit m e = dispatchClose m e := by
      unfold dispatchUnit
      rw [he]
      obtain hw | hw := hw <;> simp only [hw]
    rw [hd]
    exact dispatchClose_closes m e
  obtain ⟨t, m, e, ht, hm, henter, hword, hctx, hgen, hstr, hpos, hunit, hst⟩ := issue_enters (u := .kiln) h hop
    (fun d => by obtain hw | hw := hw <;> simp [opUnit, hw]) (by decide) (fun m e he => (hcl m e he).only)
  obtain ⟨-, ⟨y, hy, hbound, hid, hymet, hyshort⟩, hclose, hfrom, hmet, hshort, hothers⟩ := hcl m e hword
  obtain ⟨hentries, hgroups, hnext, hslots, hsram, hkiln, hmp, htlb, hchain⟩ := henter
  obtain ⟨hmg, hmb⟩ := issued_groups hm
  have hold : ∀ g, getGrp m g = getGrp s.blk g := fun g => by rw [getGrp, hmg, getGrp]
  have hnew : ∀ g, getGrp t.blk g = getGrp (dispatchUnit m e) g := fun g => by rw [getGrp, hgroups, getGrp]
  simp only [closeMet, hword, hold, ← hnew, hmb] at hclose hfrom hmet hshort hothers hymet hyshort
  exact ⟨t, y, ht, ⟨by rw [hentries]; exact hy, hbound.word.trans hword, hbound.ctx.trans hctx, hbound.gen.trans hgen, hbound.strand.trans hstr, hbound.pos.trans hpos, hbound.eunit.trans hunit,
    by rw [hid]; exact hclose, hfrom, fun hm => ⟨(hymet hm).trans hst, hmet hm⟩, fun hm => ⟨hyshort hm, hshort hm⟩, hothers⟩,
    hnext, hslots, hsram, hkiln, hmp, htlb, hchain⟩

/-- Settles O52: each unit's queue takes the instruction, and GCLOSE and GMERGE wait in their group's record while contributions are short. -/
theorem instructionsEnterTheirUnits : Obligations.InstructionsEnterTheirUnits := by
  refine ⟨fun s c q w i op act u hmem h ho hact => ?_, fun s c q w i op hmem h ho => ?_⟩
  · have hact : ∀ a, act = some a → bitsOf w.toNat 33 32 = a := fun a ha => (bitsOf_eq ..).trans (hact a ha)
    simp only [List.mem_cons, Prod.mk.injEq, List.not_mem_nil, or_false] at hmem
    rcases hmem with ⟨rfl, rfl, rfl, rfl⟩ | ⟨rfl, rfl, rfl, rfl⟩ | ⟨rfl, rfl, rfl, rfl⟩ | ⟨rfl, rfl, rfl, rfl⟩ | ⟨rfl, rfl, rfl, rfl⟩ | ⟨rfl, rfl, rfl, rfl⟩
      | ⟨rfl, rfl, rfl, rfl⟩ | ⟨rfl, rfl, rfl, rfl⟩ | ⟨rfl, rfl, rfl, rfl⟩ | ⟨rfl, rfl, rfl, rfl⟩ | ⟨rfl, rfl, rfl, rfl⟩ | ⟨rfl, rfl, rfl, rfl⟩
      | ⟨rfl, rfl, rfl, rfl⟩ | ⟨rfl, rfl, rfl, rfl⟩ | ⟨rfl, rfl, rfl, rfl⟩ | ⟨rfl, rfl, rfl, rfl⟩ | ⟨rfl, rfl, rfl, rfl⟩ | ⟨rfl, rfl, rfl, rfl⟩
      | ⟨rfl, rfl, rfl, rfl⟩ | ⟨rfl, rfl, rfl, rfl⟩ | ⟨rfl, rfl, rfl, rfl⟩ | ⟨rfl, rfl, rfl, rfl⟩ | ⟨rfl, rfl, rfl, rfl⟩ | ⟨rfl, rfl, rfl, rfl⟩
      | ⟨rfl, rfl, rfl, rfl⟩ | ⟨rfl, rfl, rfl, rfl⟩ | ⟨rfl, rfl, rfl, rfl⟩
    all_goals exact enters_queue h (by simp [ho, hact]) (fun d => by simp [opUnit, ho]) (by simp) (by omega) (by omega)
  · simp only [List.mem_cons, Prod.mk.injEq, List.not_mem_nil, or_false] at hmem
    obtain ⟨rfl, rfl⟩ | ⟨rfl, rfl⟩ := hmem
    · exact enters_close h (by simp [ho]) (.inl ho)
    · exact enters_close h (by simp [ho]) (.inr ho)

end Sys2Proof.Proofs.Enter

/-! SUPPORT. How an entry leaves the scoreboard (R22, R257, R319), and the completion of WALL, SWAP, CHKSEED and CHKCMP (R71, R248, R271, R313).
Settles O53. -/

namespace Sys2Proof.Proofs.Complete

open Sys2Proof Sys2Proof.Machine Sys2Proof.Laws Sys2Proof.Proofs.IssueStage Sys2Proof.Proofs.EngReset Sys2Proof.Proofs.Fields
open Sys2Proof.Proofs.Reports Sys2Proof.Proofs.Reads Sys2Proof.Proofs.Config Sys2Proof.Proofs.Strands

/-! ### Entries -/

theorem findEntry_id {b : Block} {i : Nat} {e : Entry} (h : findEntry b i = some e) : e.id = i := by
  simpa using List.find?_some h

/-- A change of entry `i` that keeps its number is found under it. -/
theorem findEntry_modEntry {b : Block} {i : Nat} {e : Entry} (f : Entry → Entry) (hf : ∀ x, (f x).id = x.id) (h : findEntry b i = some e) :
    findEntry (modEntry b i f) i = some (f e) := by
  have hid := findEntry_id h
  unfold findEntry modEntry at *
  dsimp only
  rw [List.find?_map]
  have hp : (fun x : Entry => x.id == i) ∘ (fun x => if x.id == i then f x else x) = fun x => x.id == i := by
    funext x
    by_cases hx : x.id = i <;> simp [hx, hf]
  rw [hp, h]
  simp [hid]

theorem findEntry_filter (l : List Entry) (i : Nat) : (l.filter (fun x => x.id != i)).find? (fun x => x.id == i) = none := by
  simp [List.find?_eq_none]

/-- An entry that its unit may run is of a RUNNING context (R249). -/
theorem faultable_running {b : Block} {c : Ctx} (h : (getCtx b c).state = .running) : faultable b c = true := by
  simp [faultable, h]

theorem arrHead_is {b : Block} {n : Arr} {e : Entry} (h : arrHead b n = some e) : e.eunit = .array ∧ e.started = false ∧ (getCtx b e.ctx).state = .running := by
  have hrun := List.find?_some h
  have hmem := List.mem_of_find?_eq_some h
  simp only [waitingArr, List.mem_filter, Bool.and_eq_true, decide_eq_true_eq, Bool.not_eq_true'] at hmem
  exact ⟨hmem.2.1.1, hmem.2.1.2, by simpa [eligible] using hrun⟩

theorem queueHead_is {b : Block} {u : EUnit} {e : Entry} (h : queueHead b u = some e) : e.eunit = u ∧ e.started = false ∧ (getCtx b e.ctx).state = .running := by
  have hrun := List.find?_some h
  have hmem := List.mem_of_find?_eq_some h
  simp only [waiting, List.mem_filter, Bool.and_eq_true, decide_eq_true_eq, Bool.not_eq_true'] at hmem
  exact ⟨hmem.2.1, hmem.2.2, by simpa [eligible] using hrun⟩

/-! ### Completion and failure -/

/-- An entry that posts nothing has left the scoreboard of `d`; beside it links alone have changed since `b`, and of strands and registers only
reports (R20, R22). -/
structure Left (b d : Block) (i : Nat) : Prop where
  entries : d.entries = b.entries.filter (fun x => x.id != i)
  links : OnlyLinks (dropEntry b i) d
  kept : Kept b d

theorem Left.gone {b d : Block} {i : Nat} (h : Left b d i) : findEntry d i = none := by
  rw [findEntry, h.entries, findEntry_filter]

theorem completeEntry_left {b : Block} {i : Nat} {e : Entry} (h : findEntry b i = some e) (hp : wordPen e.word = false) : Left b (completeEntry b i) i := by
  have hc : completeEntry b i = ctxDone (progress (dropEntry b i) e.ctx) e.ctx := by
    unfold completeEntry
    rw [h]
    simp only [syncPost_none b e.ctx e.strand e.gen hp]
  have hdrop : Kept b (dropEntry b i) := ⟨fun _ => rfl, fun _ _ => rfl⟩
  refine ⟨completeEntry_entries h hp, ?_, ?_⟩ <;> rw [hc]
  · exact (progress_links _ _).trans (ctxDone_links _ _)
  · exact (hdrop.trans (progress_quiet _ _).toKept).trans (ctxDone_kept _ _)

/-- The completion of an entry that has had its last effect. -/
theorem phaseOne_left {b d : Block} {i : Nat} {e : Entry} (h : findEntry b i = some e) (hp : wordPen e.word = false) (hd : d.entries = (phaseOne b i).entries) :
    Left d (completeEntry d i) i := by
  refine completeEntry_left (e := { e with started := true, phase := 1 }) ?_ hp
  rw [findEntry, hd]
  exact findEntry_modEntry (fun x => { x with started := true, phase := 1 }) (fun _ => rfl) h

theorem failEntry_kept (b : Block) (e : Entry) (code : Code) (t : Site) : Kept b (failEntry b e code t) := by
  have hmark : Kept b (modEntry b e.id (fun x => { x with phase := 255 })) := ⟨fun _ => rfl, fun _ _ => rfl⟩
  exact hmark.trans (raise_oneNotice _ code t).kept

/-- A code that an entry meets stops its context (R319). -/
theorem failEntry_faults {b : Block} {e : Entry} {code : Code} {t : Site} {c : Ctx} (he : code.isEvent = false) (ha : code ≠ .arrayRetired)
    (hc : t.ctx = some c) (hf : faultable b c = true) : (getCtx (failEntry b e code t) c).state = .faulted :=
  raise_faults he ha hc hf

theorem failEntry_units (b : Block) (e : Entry) (code : Code) (t : Site) : sameUnits b (failEntry b e code t) := by
  have h := sameUnits_of_links (failEntry_links b e code t)
  exact h

/-! ### The commands -/

/-- INSTRUCTION_COMPLETE of an entry that is under way (R22). -/
theorem instructionComplete_works {b : Block} {i : Nat} {e : Entry} (h : Works b i e) : instructionComplete b i = entryAdvance b e := by
  simp only [instructionComplete, h.found]

theorem entryAdvance_array {b : Block} {e : Entry} (hp : e.phase = 0) (hu : e.eunit = .array) :
    (wOpc e.word.toNat = 0x22 → entryAdvance b e = runWall b e) ∧ (wOpc e.word.toNat = 0x23 → entryAdvance b e = runSwap b e) := by
  constructor <;> intro ho <;> simp [entryAdvance, hp, hu, ho]

theorem entryAdvance_chk {b : Block} {e : Entry} {n : Chk} (hp : e.phase = 0) (hu : e.eunit = .chk n) : entryAdvance b e = chkAdvance b e := by
  simp [entryAdvance, hp, hu]

theorem arrTurn_head {b : Block} {n : Arr} {e : Entry} (h : arrHead b n = some e) (hr : liveResume b n = []) : arrTurn b n e = true := by
  simp [arrTurn, h, hr]

/-- WALL at its array's head (R71). -/
theorem runWall_turn {b : Block} {e : Entry} (ht : arrTurn b (arrAt e.word.toNat 33 32) e = true) (hd : earlierDone b (arrAt e.word.toNat 33 32) e = true) :
    runWall b e = if anyTileHeld b (arrAt e.word.toNat 33 32) = true then failEntry b e .groupState { e.site 4 with arr := some (arrAt e.word.toNat 33 32, 0) }
      else completeEntry (modArr (phaseOne b e.id) (arrAt e.word.toNat 33 32) (fun a => { a with wall := bitsOf e.word.toNat 35 34 })) e.id := by
  unfold runWall
  dsimp only
  rw [if_neg (by simp [ht, hd])]
  rfl

theorem runSwap_turn {b : Block} {e : Entry} (ht : arrTurn b (arrAt e.word.toNat 33 32) e = true) (hd : earlierDone b (arrAt e.word.toNat 33 32) e = true) :
    runSwap b e = completeEntry (phaseOne (setFld b .schFixed (8 * (arrAt e.word.toNat 33 32).val + 5) 1 (1 - fixedSide b (arrAt e.word.toNat 33 32))) e.id) e.id := by
  unfold runSwap
  dsimp only
  rw [if_neg (by simp [ht, hd])]
  rfl

theorem onLive_complete {s : State} {i : Nat} {e : Entry} {d : Block} (h : Works s.blk i e) (he : entryAdvance s.blk e = d) (hp : d.pins = s.blk.pins) :
    s.onLive (fun b => instructionComplete b i) = .next { s with blk := d } := by
  have hi : instructionComplete s.blk i = d := (instructionComplete_works h).trans he
  rw [onLive_pins (f := fun b => instructionComplete b i) h.live (by rw [hi, hp]), hi]

theorem wall_completes {s : State} {i : Nat} {e : Entry} {n : Arr} (h : Works s.blk i e) (ho : wOpc e.word.toNat = 0x22) (hn : n = arrAt e.word.toNat 33 32)
    (hph : e.phase = 0) (hh : arrHead s.blk n = some e) (hr : liveResume s.blk n = []) (hd : earlierDone s.blk n e = true) :
    ∃ t : State, s.onLive (fun b => instructionComplete b i) = .next t
        ∧ (if anyTileHeld s.blk n = true then (getCtx t.blk e.ctx).state = .faulted ∧ t.blk.arrays = s.blk.arrays
           else getArr t.blk n = { getArr s.blk n with wall := e.word.toNat / 2 ^ 34 % 4 } ∧ findEntry t.blk i = none ∧ ∀ m, m ≠ n → getArr t.blk m = getArr s.blk m)
        ∧ t.blk.sram = s.blk.sram ∧ t.blk.groups = s.blk.groups := by
  obtain ⟨hu, -, hrun⟩ := arrHead_is hh
  have hid := findEntry_id h.found
  have he := (entryAdvance_array (b := s.blk) hph hu).1 ho
  have ht := arrTurn_head hh hr
  subst hn
  rw [runWall_turn ht hd] at he
  by_cases hheld : anyTileHeld s.blk (arrAt e.word.toNat 33 32) = true
  · rw [if_pos hheld] at he
    have hl := failEntry_links s.blk e .groupState { e.site 4 with arr := some (arrAt e.word.toNat 33 32, 0) }
    refine ⟨_, onLive_complete h he hl.pins, ?_, hl.sram, hl.groups⟩
    rw [if_pos hheld]
    exact ⟨failEntry_faults rfl (by decide) rfl (faultable_running hrun), hl.arrays⟩
  · rw [if_neg hheld, hid] at he
    generalize hm : modArr (phaseOne s.blk i) (arrAt e.word.toNat 33 32) (fun a => { a with wall := bitsOf e.word.toNat 35 34 }) = m at he
    have hleft : Left m (completeEntry m i) i := phaseOne_left h.found h.noPost (by rw [← hm]; rfl)
    have harr : ∀ k, getArr (completeEntry m i) k = getArr m k := fun k => by
      rw [getArr, hleft.links.arrays]
      rfl
    refine ⟨_, onLive_complete h he (hleft.links.pins.trans (by rw [← hm]; rfl)), ?_, hleft.links.sram.trans (by rw [← hm]; rfl),
      hleft.links.groups.trans (by rw [← hm]; rfl)⟩
    rw [if_neg hheld]
    refine ⟨?_, hleft.gone, fun k hk => ?_⟩
    · rw [harr, ← hm, getArr_modArr, bitsOf_eq]
      rfl
    · rw [harr, ← hm, getArr_modArr_ne _ _ hk]
      rfl

theorem swap_completes {s : State} {i : Nat} {e : Entry} {n : Arr} (h : Works s.blk i e) (ho : wOpc e.word.toNat = 0x23) (hn : n = arrAt e.word.toNat 33 32)
    (hph : e.phase = 0) (hh : arrHead s.blk n = some e) (hr : liveResume s.blk n = []) (hd : earlierDone s.blk n e = true) :
    ∃ t : State, s.onLive (fun b => instructionComplete b i) = .next t
        ∧ getFld t.blk .schFixed (8 * n.val + 5) 1 = 1 - getFld s.blk .schFixed (8 * n.val + 5) 1 ∧ findEntry t.blk i = none
        ∧ (∀ m, m ≠ n → getFld t.blk .schFixed (8 * m.val) 6 = getFld s.blk .schFixed (8 * m.val) 6) ∧ sameUnits s.blk t.blk := by
  obtain ⟨hu, -, -⟩ := arrHead_is hh
  have hid := findEntry_id h.found
  have he := (entryAdvance_array (b := s.blk) hph hu).2 ho
  have ht := arrTurn_head hh hr
  subst hn
  rw [runSwap_turn ht hd, hid] at he
  generalize arrAt e.word.toNat 33 32 = n at he ht hd
  generalize hm : phaseOne (setFld s.blk .schFixed (8 * n.val + 5) 1 (1 - fixedSide s.blk n)) i = m at he
  have hleft : Left m (completeEntry m i) i := phaseOne_left h.found h.noPost (by rw [← hm]; rfl)
  have hreg : ∀ lo wid, getFld (completeEntry m i) .schFixed lo wid = fldAt (putFld s.blk.regs .schFixed (8 * n.val + 5) 1 (1 - fixedSide s.blk n)) .schFixed lo wid :=
    fun lo wid => (hleft.kept.getFld rfl lo wid).trans (by rw [← hm]; rfl)
  have hunits : sameUnits s.blk (completeEntry m i) := by
    refine sameUnits_trans (sameUnits_trans ?_ (sameUnits_of_links hleft.links : sameUnits (dropEntry m i) _)) (sameUnits_refl _)
    rw [← hm]
    exact sameUnits_refl s.blk
  have hlt := n.isLt
  refine ⟨_, onLive_complete h he (hleft.links.pins.trans (by rw [← hm]; rfl)), ?_, hleft.gone, fun k hk => ?_, hunits⟩
  · rw [hreg, fldAt_putFld _ _ _ (by omega), fixedSide]
    omega
  · have hk' : k.val ≠ n.val := fun hc => hk (Fin.ext hc)
    have hklt := k.isLt
    rw [hreg, fldAt_putFld_apart _ _ _ (by omega) (by omega)]
    rfl

/-! ### Check instructions -/

/-- A check instruction whose turn has come (R271, R313). -/
theorem chkAdvance_turn {b : Block} {e : Entry} {n : Chk} (hn : n = chkIx e.word.toNat) (hs : e.started = false) (hh : queueHead b (.chk n) = some e)
    (hb : chkBusy b n = false) (hf : feedsDone b e n = true) :
    chkAdvance b e = (if wOpc e.word.toNat = 0x50 then
        completeEntry (chkSet (setFld (phaseOne b e.id) (.chkCtl n) 0 1 (bitsOf e.word.toNat 34 34)) n (e.reads.getD 0 0#64).toNat) e.id
      else
        let d := setRaw (phaseOne b e.id) (.chkExpect n) (e.reads.getD 0 0#64)
        if chkMatch d n = true then
          completeEntry (if e.word.getLsbD 39 = true then setSlot d e.ctx e.strand (slotAt e.word.toNat 44 40) (BitVec.ofNat 64 (chkV d n)) else d) e.id
        else failEntry (bumpFld d (.chkCount n) 0 16 1) e .chkMismatch { e.site 0xB with obj := some (2, n.val) }) := by
  subst hn
  unfold chkAdvance
  dsimp only
  rw [if_neg (by simp [hs, hh, hb, hf])]
  simp only [beq_iff_eq, bitAt_toNat]
  rfl

theorem chkseed_completes {s : State} {i : Nat} {e : Entry} {n : Chk} (h : Works s.blk i e) (ho : wOpc e.word.toNat = 0x50) (hn : n = chkIx e.word.toNat)
    (hu : e.eunit = .chk n) (hph : e.phase = 0) (hh : queueHead s.blk (.chk n) = some e) (hb : chkBusy s.blk n = false) (hf : feedsDone s.blk e n = true) :
    ∃ t : State, s.onLive (fun b => instructionComplete b i) = .next t
        ∧ chkPoly t.blk n = e.word.toNat / 2 ^ 34 % 2 ∧ chkV t.blk n = (e.reads.getD 0 0#64).toNat % 2 ^ crcWidth (e.word.toNat / 2 ^ 34 % 2)
        ∧ findEntry t.blk i = none ∧ sameUnits s.blk t.blk := by
  obtain ⟨-, hst, -⟩ := queueHead_is hh
  have hid := findEntry_id h.found
  have he := entryAdvance_chk (b := s.blk) hph hu
  rw [chkAdvance_turn hn hst hh hb hf, if_pos ho, hid] at he
  have hbit : bitsOf e.word.toNat 34 34 = e.word.toNat / 2 ^ 34 % 2 := bitsOf_eq ..
  rw [hbit] at he
  have hlt : e.word.toNat / 2 ^ 34 % 2 < 2 := Nat.mod_lt _ (by decide)
  generalize e.word.toNat / 2 ^ 34 % 2 = p at he hlt
  generalize (e.reads.getD 0 0#64).toNat = v at he
  generalize hd : setFld (phaseOne s.blk i) (.chkCtl n) 0 1 p = d at he
  have hpoly : chkPoly d n = p := by
    rw [← hd, chkPoly, getFld_at, setFld_at, fldAt_putFld _ _ _ (by omega)]
    omega
  have hput := (chkPut_does d n (fun x => { x with preFold := none }) v).1
  have hp : chkPoly (chkSet d n v) n = p := (chkPoly_setChkV ..).trans hpoly
  rw [hpoly] at hput
  have hdent : (chkSet d n v).entries = (phaseOne s.blk i).entries := by rw [← hd]; rfl
  have hsame : sameUnits s.blk (chkSet d n v) := by rw [← hd]; exact sameUnits_refl s.blk
  have hpins : (chkSet d n v).pins = s.blk.pins := by rw [← hd]; rfl
  change chkV (chkSet d n v) n = v % 2 ^ crcWidth p at hput
  generalize chkSet d n v = m at *
  have hleft : Left m (completeEntry m i) i := phaseOne_left h.found h.noPost hdent
  have hpt : chkPoly (completeEntry m i) n = chkPoly m n := hleft.kept.getFld rfl 0 1
  refine ⟨_, onLive_complete h he (hleft.links.pins.trans hpins), hpt.trans hp, ?_, hleft.gone,
    sameUnits_trans hsame (sameUnits_of_links hleft.links : sameUnits (dropEntry m i) _)⟩
  show chkV (completeEntry m i) n = _
  unfold chkV at hput ⊢
  rw [hpt, hleft.kept.regs _ rfl, hput]

/-- Blocks that agree in the registers of a channel agree in its width and running value. -/
theorem chan_of_regs {b d : Block} {n : Chk} (hc : rawReg d (.chkCtl n) = rawReg b (.chkCtl n)) (hv : rawReg d (.chkValue n) = rawReg b (.chkValue n)) :
    chkPoly d n = chkPoly b n ∧ chkV d n = chkV b n := by
  have hp : chkPoly d n = chkPoly b n := by simp only [chkPoly, getFld, hc]
  exact ⟨hp, by rw [chkV, hp, hv, chkV]⟩

theorem chkcmp_completes {s : State} {i : Nat} {e : Entry} {n : Chk} (h : Works s.blk i e) (ho : wOpc e.word.toNat = 0x51) (hn : n = chkIx e.word.toNat)
    (hu : e.eunit = .chk n) (hph : e.phase = 0) (hh : queueHead s.blk (.chk n) = some e) (hb : chkBusy s.blk n = false) (hf : feedsDone s.blk e n = true) :
    ∃ t : State, s.onLive (fun b => instructionComplete b i) = .next t
        ∧ rawReg t.blk (.chkExpect n) = e.reads.getD 0 0#64 ∧ chkV t.blk n = chkV s.blk n
        ∧ (if chkV s.blk n = (e.reads.getD 0 0#64).toNat % 2 ^ crcWidth (chkPoly s.blk n) then
            findEntry t.blk i = none ∧ (e.word.getLsbD 39 = true → getSlot t.blk e.ctx e.strand (slotAt e.word.toNat 44 40) = BitVec.ofNat 64 (chkV s.blk n))
           else (getCtx t.blk e.ctx).state = .faulted ∧ getFld t.blk (.chkCount n) 0 16 = min (2 ^ 16 - 1) (getFld s.blk (.chkCount n) 0 16 + 1))
        ∧ sameUnits s.blk t.blk := by
  obtain ⟨-, hst, hrun⟩ := queueHead_is hh
  have hid := findEntry_id h.found
  have he := entryAdvance_chk (b := s.blk) hph hu
  rw [chkAdvance_turn hn hst hh hb hf, if_neg (by omega), hid] at he
  dsimp only at he
  generalize e.reads.getD 0 0#64 = v at he ⊢
  generalize hd : setRaw (phaseOne s.blk i) (.chkExpect n) v = d at he
  have hexp : rawReg d (.chkExpect n) = v := by rw [← hd, rawReg_setRaw]
  have hregs : ∀ r, r ≠ .chkExpect n → rawReg d r = rawReg s.blk r := fun r hr => by
    rw [← hd, rawReg_setRaw_ne _ _ hr]
    rfl
  obtain ⟨hpoly, hval⟩ := chan_of_regs (b := s.blk) (d := d) (n := n) (hregs _ (by simp)) (hregs _ (by simp))
  have hdent : d.entries = (phaseOne s.blk i).entries := by rw [← hd]; rfl
  have hdunits : sameUnits s.blk d := by rw [← hd]; exact sameUnits_refl s.blk
  have hdpins : d.pins = s.blk.pins := by rw [← hd]; rfl
  have hdfault : faultable d e.ctx = true := by
    refine faultable_running ?_
    rw [← hd]
    exact hrun
  have hcount : getFld d (.chkCount n) 0 16 = getFld s.blk (.chkCount n) 0 16 := by simp only [getFld, hregs (.chkCount n) (by simp)]
  have hmatch : chkMatch d n = true ↔ chkV s.blk n = v.toNat % 2 ^ crcWidth (chkPoly s.blk n) := by
    rw [chkMatch, beq_iff_eq, hexp, hpoly, hval]
  clear hd hregs
  by_cases hm : chkV s.blk n = v.toNat % 2 ^ crcWidth (chkPoly s.blk n)
  · rw [if_pos (hmatch.mpr hm)] at he
    generalize hf' : (if e.word.getLsbD 39 = true then setSlot d e.ctx e.strand (slotAt e.word.toNat 44 40) (BitVec.ofNat 64 (chkV d n)) else d) = f at he
    have hlinks : OnlyLinks d f := by
      rw [← hf']
      split
      · exact setSlot_links ..
      · exact .refl d
    have hfregs : f.regs = d.regs := by
      rw [← hf']
      split <;> rfl
    have hslot : e.word.getLsbD 39 = true → getSlot f e.ctx e.strand (slotAt e.word.toNat 44 40) = BitVec.ofNat 64 (chkV d n) := fun h39 => by
      rw [← hf', if_pos h39, getSlot_setSlot]
    have hleft : Left f (completeEntry f i) i := phaseOne_left h.found h.noPost (hlinks.entries.trans hdent)
    have hreg : ∀ r, reportReg r = false → rawReg (completeEntry f i) r = rawReg d r := fun r hr => (hleft.kept.regs r hr).trans (rawReg_congr hfregs r)
    obtain ⟨-, hv⟩ := chan_of_regs (b := d) (d := completeEntry f i) (n := n) (hreg _ rfl) (hreg _ rfl)
    refine ⟨_, onLive_complete h he (hleft.links.pins.trans (hlinks.pins.trans hdpins)), (hreg _ rfl).trans hexp, hv.trans hval, ?_, ?_⟩
    · rw [if_pos hm]
      exact ⟨hleft.gone, fun h39 => by rw [hleft.kept.getSlot, hslot h39, hval]⟩
    · exact sameUnits_trans hdunits (sameUnits_trans (sameUnits_of_links hlinks) (sameUnits_of_links hleft.links : sameUnits (dropEntry f i) _))
  · rw [if_neg (fun hc => hm (hmatch.mp hc))] at he
    have hkept := failEntry_kept (bumpFld d (.chkCount n) 0 16 1) e .chkMismatch { e.site 0xB with obj := some (2, n.val) }
    have hunits := failEntry_units (bumpFld d (.chkCount n) 0 16 1) e .chkMismatch { e.site 0xB with obj := some (2, n.val) }
    have hlinks := failEntry_links (bumpFld d (.chkCount n) 0 16 1) e .chkMismatch { e.site 0xB with obj := some (2, n.val) }
    have hstate := failEntry_faults (b := bumpFld d (.chkCount n) 0 16 1) (e := e) (code := .chkMismatch) (t := { e.site 0xB with obj := some (2, n.val) })
      (c := e.ctx) rfl (by decide) rfl hdfault
    generalize failEntry (bumpFld d (.chkCount n) 0 16 1) e .chkMismatch { e.site 0xB with obj := some (2, n.val) } = f at *
    have hreg : ∀ r, reportReg r = false → r ≠ .chkCount n → rawReg f r = rawReg d r := fun r hr hne => (hkept.regs r hr).trans (rawReg_setFld_ne _ _ _ _ hne)
    obtain ⟨-, hv⟩ := chan_of_regs (b := d) (d := f) (n := n) (hreg _ rfl (by simp)) (hreg _ rfl (by simp))
    refine ⟨_, onLive_complete h he (hlinks.pins.trans hdpins), (hreg _ rfl (by simp)).trans hexp, hv.trans hval, ?_, sameUnits_trans hdunits hunits⟩
    rw [if_neg hm]
    refine ⟨hstate, (hkept.getFld rfl 0 16).trans ?_⟩
    rw [getFld_bumpFld _ _ _ (by omega), hcount]

/-! ### The end of an instruction's streams -/

theorem dropStacks_keeps (b : Block) (e : Entry) : (dropStacks b e).entries = b.entries ∧ (dropStacks b e).sram = b.sram
    ∧ (dropStacks b e).arrays = b.arrays ∧ (dropStacks b e).pins = b.pins := by
  unfold dropStacks
  dsimp only
  split
  · exact ⟨rfl, rfl, rfl, rfl⟩
  · refine List.foldlRecOn (motive := fun (x : Block) => x.entries = b.entries ∧ x.sram = b.sram ∧ x.arrays = b.arrays ∧ x.pins = b.pins) _ _ ⟨rfl, rfl, rfl, rfl⟩
      (fun x hx n _ => ?_)
    split
    · split <;> exact hx
    · exact hx

/-- An instruction whose last stream has ended leaves the scoreboard (R22). -/
theorem finishEntry_left {b : Block} {i : Nat} {e : Entry} (h : findEntry b i = some e) (hp : wordPen e.word = false) (hs : entryStreamsDone b i = true) :
    findEntry (finishEntry b e) i = none ∧ (finishEntry b e).entries = b.entries.filter (fun y => y.id != i) ∧ (finishEntry b e).sram = b.sram
      ∧ (finishEntry b e).arrays = b.arrays ∧ (finishEntry b e).pins = b.pins := by
  have hid := findEntry_id h
  obtain ⟨hent, hsram, harr, hpins⟩ := dropStacks_keeps (dropEntryStreams b i) e
  have hfin : finishEntry b e = completeEntry (dropStacks (dropEntryStreams b i) e) i := by
    rw [finishEntry, hid, if_pos hs]
  have hleft : Left (dropStacks (dropEntryStreams b i) e) (finishEntry b e) i := by
    rw [hfin]
    exact completeEntry_left (by rw [findEntry, hent]; exact h) hp
  exact ⟨hleft.gone, by rw [hleft.entries, hent]; rfl, hleft.links.sram.trans hsram, hleft.links.arrays.trans harr, hleft.links.pins.trans hpins⟩

theorem entryAdvance_last {b : Block} {e : Entry} (h : e.phase = 1) : entryAdvance b e = finishEntry b e := by
  simp [entryAdvance, h]

/-- Settles O53: each check and array command ends as R71, R248 and R313 say, and the end of the last stream takes the entry off the scoreboard. -/
theorem instructionsComplete : Obligations.InstructionsComplete := by
  refine ⟨fun s i e n h ho hn hp hh hr hd => wall_completes h ho hn hp hh hr hd, fun s i e n h ho hn hp hh hr hd => swap_completes h ho hn hp hh hr hd,
    fun s i e n h ho hn hu hp hh hb hf => chkseed_completes h ho hn hu hp hh hb hf,
    fun s i e n h ho hn hu hp hh hb hf => chkcmp_completes h ho hn hu hp hh hb hf, fun s i e x hx h hp hs => ?_⟩
  obtain ⟨hgone, hent, hsram, harr, hpins⟩ := finishEntry_left h.found h.noPost hs
  have he := entryAdvance_last (b := s.blk) hp
  obtain rfl | ⟨rfl, ho⟩ := hx
  · exact ⟨_, onLive_complete h he hpins, hgone, hent, hsram, harr⟩
  · have hc : passComplete s.blk i = finishEntry s.blk e := by
      simp only [passComplete, h.found]
      exact if_pos (by simpa [hp] using ho)
    refine ⟨{ s with blk := finishEntry s.blk e }, ?_, hgone, hent, hsram, harr⟩
    have hl := onLive_pins (f := fun b => passComplete b i) h.live (by rw [hc, hpins])
    rwa [hc] at hl

end Sys2Proof.Proofs.Complete

/-! SUPPORT. Passes on an array (R56, R62, R65, R80, R141): what a step at one position leaves of the others. Settles O55. -/

namespace Sys2Proof.Proofs.Passes

open Sys2Proof Sys2Proof.Machine Sys2Proof.Laws Sys2Proof.Proofs.IssueStage Sys2Proof.Proofs.EngReset Sys2Proof.Proofs.Fields
open Sys2Proof.Proofs.Reports Sys2Proof.Proofs.Reads Sys2Proof.Proofs.Strands Sys2Proof.Proofs.Complete

/-! ### Positions and banks -/

@[simp] theorem getPos_modPos (b : Block) (n : Arr) (g : Sag) (f : PosSt → PosSt) : getPos (modPos b n g f) n g = f (getPos b n g) := by
  simp [getPos, modPos, get_at]

theorem getPos_modPos_ne (b : Block) (n : Arr) {g h : Sag} (f : PosSt → PosSt) (hn : h ≠ g) : getPos (modPos b n g f) n h = getPos b n h := by
  have : g.val ≠ h.val := fun e => hn (Fin.ext e.symm)
  simp [getPos, modPos, get_at, this]

/-- A change of an array that leaves its positions. -/
theorem getPos_modArr {f : ArraySt → ArraySt} (hf : ∀ a, (f a).pos = a.pos) (b : Block) (n m : Arr) (g : Sag) : getPos (modArr b n f) m g = getPos b m g := by
  unfold getPos
  by_cases hm : m = n
  · rw [hm, getArr_modArr, hf]
  · rw [getArr_modArr_ne _ _ hm]

@[simp] theorem bank_setBank (p : PosSt) (t : BankIx) (k : BankSt) : (p.setBank t k).bank t = k := by
  by_cases h : t = 0 <;> simp [PosSt.bank, PosSt.setBank, h]

@[simp] theorem run_setBank (p : PosSt) (t : BankIx) (k : BankSt) : (p.setBank t k).run = p.run := by
  by_cases h : t = 0 <;> simp [PosSt.setBank, h]

@[simp] theorem last_setBank (p : PosSt) (t : BankIx) (k : BankSt) : (p.setBank t k).last = p.last := by
  by_cases h : t = 0 <;> simp [PosSt.setBank, h]

/-! ### What a step at one position leaves -/

/-- From `b` to `d` the pins, the SRAM with its errors, the other arrays and the other positions of array `n` than `g` stand. -/
structure AtPos (n : Arr) (g : Sag) (b d : Block) : Prop where
  pins : d.pins = b.pins
  sram : d.sram = b.sram
  arrays : ∀ m, m ≠ n → getArr d m = getArr b m
  positions : ∀ h, h ≠ g → getPos d n h = getPos b n h

section
variable {n : Arr} {g : Sag}

theorem AtPos.refl (b : Block) : AtPos n g b b := ⟨rfl, rfl, fun _ _ => rfl, fun _ _ => rfl⟩

theorem AtPos.trans {b d e : Block} (h : AtPos n g b d) (k : AtPos n g d e) : AtPos n g b e :=
  ⟨k.pins.trans h.pins, k.sram.trans h.sram, fun m hm => (k.arrays m hm).trans (h.arrays m hm), fun p hp => (k.positions p hp).trans (h.positions p hp)⟩

theorem atPos_of_parts {b d : Block} (hp : d.pins = b.pins) (hs : d.sram = b.sram) (ha : d.arrays = b.arrays) : AtPos n g b d :=
  ⟨hp, hs, fun m _ => by rw [getArr, ha, getArr], fun h _ => by rw [getPos, getArr, ha, getPos, getArr]⟩

theorem modPos_atPos (b : Block) (f : PosSt → PosSt) : AtPos n g b (modPos b n g f) :=
  ⟨rfl, rfl, fun m hm => getArr_modArr_ne _ _ hm, fun h hn => getPos_modPos_ne b n f hn⟩

theorem modArr_atPos {f : ArraySt → ArraySt} (hf : ∀ a, (f a).pos = a.pos) (b : Block) : AtPos n g b (modArr b n f) :=
  ⟨rfl, rfl, fun m hm => getArr_modArr_ne _ _ hm, fun h _ => getPos_modArr hf b n n h⟩

end

theorem getPos_of_arrays {b d : Block} (h : d.arrays = b.arrays) (n : Arr) (g : Sag) : getPos d n g = getPos b n g := by
  rw [getPos, getArr, h, getPos, getArr]

/-! ### One row of a run -/

/-- What an input row leaves of its run: instruction, depth, types, bank, whether its input has ended, and where in K it stands. -/
def runKey (r : PassRun) : Nat × Nat × BankIx × Bool × Nat × Nat × Nat × Nat := (r.entry, r.k, r.bank, r.ended, r.ta, r.tb, r.kpos, r.split)

/-- A step at the position that leaves its run's key. -/
structure KeepsRun (n : Arr) (g : Sag) (b d : Block) : Prop extends AtPos n g b d where
  run : (getPos d n g).run.map runKey = (getPos b n g).run.map runKey

section
variable {n : Arr} {g : Sag}

theorem KeepsRun.refl (b : Block) : KeepsRun n g b b := ⟨.refl b, rfl⟩

theorem KeepsRun.trans {b d e : Block} (h : KeepsRun n g b d) (k : KeepsRun n g d e) : KeepsRun n g b e := ⟨h.toAtPos.trans k.toAtPos, k.run.trans h.run⟩

theorem keepsRun_of_parts {b d : Block} (hp : d.pins = b.pins) (hs : d.sram = b.sram) (ha : d.arrays = b.arrays) : KeepsRun n g b d :=
  ⟨atPos_of_parts hp hs ha, by rw [getPos_of_arrays ha]⟩

theorem mapRun_keeps (b : Block) (r : PassRun) (w : Nat) (f0 f1 : Nat → Nat → Cell → Cell) : KeepsRun n g b (mapRun b n g r w f0 f1) := by
  refine ⟨modPos_atPos b _, ?_⟩
  unfold mapRun
  rw [getPos_modPos]
  dsimp only
  split <;> simp

theorem modRun_run (b : Block) (f : PassRun → PassRun) : (getPos (modRun b n g f) n g).run = (getPos b n g).run.map f := by
  unfold modRun
  rw [getPos_modPos]

theorem modRun_keeps (b : Block) {f : PassRun → PassRun} (hf : ∀ r, runKey (f r) = runKey r) : KeepsRun n g b (modRun b n g f) := by
  refine ⟨modPos_atPos b _, ?_⟩
  rw [modRun_run, Option.map_map]
  congr 1
  funext r
  exact hf r

theorem modArr_keeps {f : ArraySt → ArraySt} (hf : ∀ a, (f a).pos = a.pos) (b : Block) : KeepsRun n g b (modArr b n f) :=
  ⟨modArr_atPos hf b, by rw [getPos_modArr hf]⟩

theorem modGrp_keeps (b : Block) (q : Grp) (f : GroupSt → GroupSt) : KeepsRun n g b (modGrp b q f) := keepsRun_of_parts rfl rfl rfl

theorem addCount_keeps (b : Block) (q : Grp) (k : Nat) : KeepsRun n g b (addCount b q k) := by
  unfold addCount
  dsimp only
  split
  · have hr := fun x => raise_readOnly x .boundLapsed (grpSite (modGrp b q (fun x => { x with nadd := min (2 ^ 32 - 1) ((getGrp b q).nadd + k) })) q 6)
    exact keepsRun_of_parts (hr _).pins (hr _).sram (hr _).arrays
  · exact modGrp_keeps ..

theorem countMet_keeps (b : Block) (q : Grp) : KeepsRun n g b (countMet b q) := by
  unfold countMet
  dsimp only
  split
  · exact modGrp_keeps ..
  · exact .refl b

theorem segmentEnd_keeps (b : Block) : KeepsRun n g b (segmentEnd b n g) := by
  unfold segmentEnd
  split
  · exact .refl b
  · split
    · exact .refl b
    · have hseg : KeepsRun n g b (modRun b n g (fun r => { r with segs := r.segs + 1, counted := max r.counted (r.segs + 1) })) := modRun_keeps b (fun _ => rfl)
      dsimp only
      split
      · split
        · exact ((hseg.trans (modGrp_keeps _ _ _)).trans (addCount_keeps _ _ _)).trans (countMet_keeps _ _)
        · exact hseg
      · exact hseg

theorem runLeafEnd_keeps (b : Block) (w : Nat) : KeepsRun n g b (runLeafEnd b n g w) := by
  unfold runLeafEnd
  split
  · exact .refl b
  · dsimp only
    rename_i r _
    generalize hm : mapRun b n g r w _ _ = m
    have hmap : KeepsRun n g b m := hm ▸ mapRun_keeps b r w _ _
    generalize hd : modRun m n g _ = d
    have hrun : KeepsRun n g m d := hd ▸ modRun_keeps m (fun _ => rfl)
    split
    · exact (hmap.trans hrun).trans (segmentEnd_keeps d)
    · exact hmap.trans hrun

/-- A run whose key is that of `r` is at the position after a step that keeps it. -/
theorem KeepsRun.some {b d : Block} {r : PassRun} (h : KeepsRun n g b d) (hr : (getPos b n g).run = some r) :
    ∃ x, (getPos d n g).run = some x ∧ runKey x = runKey r := by
  have hrun := h.run
  rw [hr] at hrun
  exact Option.map_eq_some_iff.mp hrun

theorem edgeTake_key (integer : Bool) (r : PassRun) (w h : Nat) (im neg : Bool) (sa sam sb sbm : W64) (av bv : List W64) :
    runKey (edgeTake integer r w h im neg sa sam sb sbm av bv) = runKey r := rfl

/-- One row of a type without split steps: the run goes on by one in K (R62). -/
theorem runRow_steps {b : Block} {r : PassRun} (h : (getPos b n g).run = some r) (hs : r.split = 0) (h1 : splitSteps r.ta = 1) :
    AtPos n g b (runRow b n g) ∧ ∃ x, (getPos (runRow b n g) n g).run = some x ∧ runKey x = runKey { r with kpos := r.kpos + 1 } := by
  unfold runRow
  rw [h]
  dsimp -zeta only
  extract_lets +lift ht w cfg av bv im put m va vb edge last d
  have hlast : last = true := by simp [last, hs, h1]
  have hedge : ∀ x, runKey (edge x) = runKey x := by
    intro x
    simp only [edge]
    cases x.checked
    · rfl
    · cases im.1 <;> cases im.2 <;> rfl
  have hmap : KeepsRun n g b m := mapRun_keeps ..
  obtain ⟨y, hy, hkey⟩ := hmap.some h
  have hd : AtPos n g m d := modPos_atPos m _
  obtain ⟨z, hz, hzkey⟩ : ∃ z, (getPos d n g).run = some z ∧ runKey z = runKey { r with kpos := r.kpos + 1 } := by
    refine ⟨_, (modRun_run m _).trans (congrArg (Option.map _) hy), ?_⟩
    have he := (hedge y).trans hkey
    simp only [runKey, Prod.mk.injEq] at he
    obtain ⟨h1, h2, h3, h4, h5, h6, h7, -⟩ := he
    simp [runKey, hlast, h1, h2, h3, h4, h5, h6, h7, hs]
  have hend : ∀ {f : Block}, KeepsRun n g d f → AtPos n g b f ∧ ∃ x, (getPos f n g).run = some x ∧ runKey x = runKey { r with kpos := r.kpos + 1 } :=
    fun hf => let ⟨x, hx, hxk⟩ := hf.some hz
      ⟨(hmap.toAtPos.trans hd).trans hf.toAtPos, x, hx, hxk.trans hzkey⟩
  rw [hlast]
  simp only [Bool.not_true, Bool.false_eq_true, if_false]
  split
  · split
    · exact hend ((mapRun_keeps ..).trans (segmentEnd_keeps _))
    · exact hend (.refl d)
  · split
    · split
      · exact hend (mapRun_keeps ..)
      · exact hend (.refl d)
    · split
      · exact hend (runLeafEnd_keeps d w)
      · exact hend (.refl d)

/-- Rows of one cycle follow one another (R62, R63). -/
theorem runRows_step {b : Block} {r : PassRun} (k : Nat) (h : (getPos b n g).run = some r) (hs : r.split = 0) (h1 : splitSteps r.ta = 1) :
    let d := (List.range k).foldl (fun b _ => runRow b n g) b
    AtPos n g b d ∧ ∃ x, (getPos d n g).run = some x ∧ runKey x = runKey { r with kpos := r.kpos + k } := by
  induction k with
  | zero => exact ⟨.refl b, r, h, rfl⟩
  | succ k ih =>
    obtain ⟨hat, x, hx, hk⟩ := ih
    simp only [runKey, Prod.mk.injEq] at hk
    obtain ⟨k1, k2, k3, k4, k5, k6, k7, k8⟩ := hk
    obtain ⟨hat', y, hy, hyk⟩ := runRow_steps hx (k8.trans hs) (by rw [k5, h1])
    rw [List.range_succ, List.foldl_append]
    refine ⟨hat.trans hat', y, hy, hyk.trans ?_⟩
    simp only [runKey, k1, k2, k3, k4, k5, k6, k7, k8]
    rfl

theorem countAct_parts (b : Block) (f : Acts → Acts) : KeepsRun n g b (countAct b f) := keepsRun_of_parts rfl rfl rfl

theorem touchArr_keeps (b : Block) : KeepsRun n g b (touchArr b n) := by
  unfold touchArr
  exact modArr_keeps (by intro; rfl) b

/-- An input cycle of a run that does not end with it (R62). -/
theorem inputTake_steps {b : Block} {r : PassRun} (h : (getPos b n g).run = some r) (hs : r.split = 0) (h1 : splitSteps r.ta = 1) (he : r.ended = false)
    (hk : r.kpos + rowsPerCycle r.ta r.tb < r.k) :
    AtPos n g b (inputTake b n g)
      ∧ ∃ x, (getPos (inputTake b n g) n g).run = some x ∧ runKey x = runKey { r with kpos := r.kpos + rowsPerCycle r.ta r.tb } := by
  have hrows : cycleRows r = rowsPerCycle r.ta r.tb := by
    unfold cycleRows
    omega
  unfold inputTake
  rw [h]
  dsimp only
  generalize hm : countAct (countMacs b (macClass r.ta) (cycleRows r * r.m * r.n)) (fun a => { a with inputs := a.inputs + 1 }) = m
  have hcount : KeepsRun n g b (touchArr m n) := (keepsRun_of_parts (by rw [← hm]; rfl) (by rw [← hm]; rfl) (by rw [← hm]; rfl)).trans (touchArr_keeps m)
  obtain ⟨y, hy, hyk⟩ := hcount.some h
  simp only [runKey, Prod.mk.injEq] at hyk
  obtain ⟨y1, y2, y3, y4, y5, y6, y7, y8⟩ := hyk
  obtain ⟨hat, x, hx, hxk⟩ := runRows_step (cycleRows r) hy (y8.trans hs) (by rw [y5, h1])
  have hxk' : runKey x = runKey { r with kpos := r.kpos + rowsPerCycle r.ta r.tb } := by
    rw [hxk, hrows]
    simp only [runKey, y1, y2, y3, y4, y5, y6, y7, y8]
  generalize (List.range (cycleRows r)).foldl (fun b _ => runRow b n g) (touchArr m n) = d at hat hx
  have hparts := hxk'
  simp only [runKey, Prod.mk.injEq] at hparts
  obtain ⟨x1, x2, x3, x4, x5, x6, x7, x8⟩ := hparts
  have hne : (x.kpos == x.k) = false := by
    rw [x7, x2, beq_eq_false_iff_ne]
    omega
  simp only [hx, hne, Bool.false_eq_true, if_false, x4.trans he]
  exact ⟨hcount.toAtPos.trans hat, x, rfl, hxk'⟩

theorem eccTouch_clean {b : Block} (h : eccClean b) (l : List Nat) : eccTouch b l = (countSram b (l.headD 0) l.length, false) := by
  obtain ⟨h1, h2⟩ := h
  simp [eccTouch, h1, h2]

theorem inputCycle_steps {b : Block} {r : PassRun} (h : (getPos b n g).run = some r) (hrun : arrRuns b n = true) (hg : r.gang = false ∨ r.replay = true)
    (hp : preemptHolds b r = false) (h1 : splitSteps r.ta = 1) (hs : r.split = 0) (he : r.ended = false)
    (hk : r.kpos + rowsPerCycle r.ta r.tb < r.k) (hc : eccClean b) :
    AtPos n g b (inputCycle b n g)
      ∧ ∃ x, (getPos (inputCycle b n g) n g).run = some x ∧ runKey x = runKey { r with kpos := r.kpos + rowsPerCycle r.ta r.tb } := by
  have hgang : (r.gang && !r.replay) = false := by
    obtain hg | hg := hg <;> simp [hg]
  have hone : inputCycle b n g = inputTake (countSram b ((operandAddrs b n r true (cycleRows r) ++ operandAddrs b n r false (cycleRows r)).headD 0)
      (operandAddrs b n r true (cycleRows r) ++ operandAddrs b n r false (cycleRows r)).length) n g := by
    unfold inputCycle
    rw [h]
    dsimp only
    rw [if_neg (by simp [hrun, hp]), hgang, Bool.false_and, if_neg Bool.false_ne_true]
    unfold inputOne
    rw [h]
    dsimp only
    rw [eccTouch_clean hc]
    exact if_neg Bool.false_ne_true
  rw [hone]
  generalize (operandAddrs b n r true (cycleRows r) ++ operandAddrs b n r false (cycleRows r)) = l
  have hcount : KeepsRun n g b (countSram b (l.headD 0) l.length) := keepsRun_of_parts rfl rfl rfl
  obtain ⟨hat, hx⟩ := inputTake_steps (b := countSram b (l.headD 0) l.length) (n := n) (g := g) h hs h1 he hk
  exact ⟨hcount.toAtPos.trans hat, hx⟩

/-- No cycle of an array that does not run, or of a run that has stopped, changes anything (R62, R80). -/
theorem inputCycle_bubble {b : Block} (h : arrRuns b n = false ∨ ∃ r, (getPos b n g).run = some r ∧ preemptHolds b r = true) : inputCycle b n g = b := by
  unfold inputCycle
  split
  · rfl
  · rename_i r hr
    refine if_pos ?_
    obtain hn | ⟨x, hx, hp⟩ := h
    · simp [hn]
    · obtain rfl : r = x := Option.some.inj (hr.symm.trans hx)
      simp [hp]

end

/-! ### The start of a pass -/

/-- Both banks of an idle position are empty. -/
structure PosFree (p : PosSt) : Prop where
  run : p.run = none
  b0 : p.b0.state = .empty
  b1 : p.b1.state = .empty

theorem pickBank_free {b : Block} {n : Arr} {g : Sag} {e : Nat} (h : PosFree (getPos b n g)) : pickBank b n g none false e = .bank (1 - (getPos b n g).last) := by
  obtain ⟨-, h0, h1⟩ := h
  have hf0 : bankFree (getPos b n g) 0 = true := by simp [bankFree, PosSt.bank, bankEmpty, h0, h1]
  have hf1 : bankFree (getPos b n g) 1 = true := by simp [bankFree, PosSt.bank, bankEmpty, h0, h1]
  simp [pickBank, hf0, hf1]

theorem pickBank_congr {b d : Block} {n : Arr} {g : Sag} (h : getPos d n g = getPos b n g) (e : Nat) (hf : PosFree (getPos b n g)) :
    pickBank d n g none false e = pickBank b n g none false e := by
  rw [pickBank_free hf, pickBank_free (by rwa [h]), h]

theorem checkPick_keeps (b : Block) (n : Arr) (g : Sag) (k : Nat) : KeepsRun n g b (checkPick b n k).1 ∧ getPos (checkPick b n k).1 n g = getPos b n g
    ∧ (checkPick b n k).1.groups = b.groups := by
  unfold checkPick
  dsimp only
  split
  · exact ⟨.refl b, rfl, rfl⟩
  · split
    · exact ⟨.refl b, rfl, rfl⟩
    · split
      · exact ⟨.refl b, rfl, rfl⟩
      · split
        · dsimp only
          exact ⟨modArr_keeps (by intro; rfl) b, getPos_modArr (by intro; rfl) b n n g, rfl⟩
        · exact ⟨.refl b, rfl, rfl⟩

theorem startAdvance_keeps (b : Block) (n : Arr) (g : Sag) : KeepsRun n g b (startAdvance b n) ∧ getPos (startAdvance b n) n g = getPos b n g := by
  unfold startAdvance
  exact ⟨modArr_keeps (by intro; rfl) b, getPos_modArr (by intro; rfl) b n n g⟩

theorem touchArr_pos (b : Block) (n : Arr) (g : Sag) : getPos (touchArr b n) n g = getPos b n g := by
  unfold touchArr
  exact getPos_modArr (by intro; rfl) b n n g

/-- An ungrouped run that uses one bank takes a free one (R56, R91). -/
theorem takeBank_free (b : Block) (n : Arr) (g : Sag) (t : BankIx) {r : PassRun} (hr : r.grp = none) (he : ((getPos b n g).bank t).state = .empty) :
    let d := takeBank b n g t r false
    AtPos n g b d ∧ d.groups = b.groups ∧ (getPos d n g).run = some { r with bank := t } ∧ (getPos d n g).last = t
      ∧ ((getPos d n g).bank t).state = .filling ∧ ((getPos d n g).bank t).cells = [] := by
  unfold takeBank
  dsimp only
  generalize hm : modPos b n g _ = m
  have hat : AtPos n g b m := hm ▸ modPos_atPos b _
  have hgr : m.groups = b.groups := by rw [← hm]; rfl
  have hpos : (getPos m n g).run = some { r with bank := t } ∧ (getPos m n g).last = t ∧ ((getPos m n g).bank t).state = .filling
      ∧ ((getPos m n g).bank t).cells = [] := by
    rw [← hm, getPos_modPos]
    simp only [Bool.false_eq_true, if_false, bankEmpty, he, decide_true, if_true]
    refine ⟨trivial, trivial, ?_, ?_⟩
    · show (((getPos b n g).setBank t _).bank t).state = _
      rw [bank_setBank]
    · show (((getPos b n g).setBank t _).bank t).cells = _
      rw [bank_setBank]
      rfl
  clear hm
  simp only [hr]
  split
  · obtain ⟨ha, hp⟩ := startAdvance_keeps m n g
    rw [touchArr_pos, hp]
    exact ⟨(hat.trans ha.toAtPos).trans (touchArr_keeps _).toAtPos, hgr, hr ▸ hpos⟩
  · rw [touchArr_pos]
    exact ⟨hat.trans (touchArr_keeps _).toAtPos, hgr, hr ▸ hpos⟩

theorem members_pass {w : Nat} (h : wOpc w = 0x20) : members w = [pArr w] ∧ isGang w = false := by
  simp [members, isGang, h]

/-- An ungrouped real PASS at the head of its array's queue starts in the bank not used last (R56). -/
theorem startPass_free {b : Block} {n : Arr} {e : Entry} (ho : wOpc e.word.toNat = 0x20) (hn : pArr e.word.toNat = n) (hg : pGrpEn e.word.toNat = false)
    (hc : typeIsComplex (pTA e.word.toNat) = false) (hh : arrHead b n = some e) (hrep : (getArr b n).replays = []) (hres : liveResume b n = [])
    (hf : PosFree (getPos b n (pSag e.word.toNat))) :
    ∃ (d : Block) (ck : Bool), AtPos n (pSag e.word.toNat) b d ∧ getPos d n (pSag e.word.toNat) = getPos b n (pSag e.word.toNat) ∧ d.groups = b.groups
      ∧ startPass b e = takeBank d n (pSag e.word.toNat) (1 - (getPos b n (pSag e.word.toNat)).last) (mkRun e n ck) false := by
  obtain ⟨hmem, -⟩ := members_pass ho
  rw [hn] at hmem
  have hgrp : ∀ p, memberGrp e.word.toNat p = none := fun p => by simp [memberGrp, hg]
  have hsingle : ∀ d, grpSingle d none (pTA e.word.toNat) = false := fun d => hc
  have hpick := pickBank_free (e := e.id) hf
  generalize hm : modEntry b e.id (fun x => { x with started := true, left := [n].length }) = m
  obtain ⟨hkeep, hpos, hgr⟩ := checkPick_keeps m n (pSag e.word.toNat) (pAbft e.word.toNat)
  have hmpos : getPos m n (pSag e.word.toNat) = getPos b n (pSag e.word.toNat) := by rw [← hm]; rfl
  have hmat : AtPos n (pSag e.word.toNat) b m := by
    rw [← hm]
    exact atPos_of_parts rfl rfl rfl
  refine ⟨(checkPick m n (pAbft e.word.toNat)).1, (checkPick m n (pAbft e.word.toNat)).2, hmat.trans hkeep.toAtPos, hpos.trans hmpos,
    hgr.trans (by rw [← hm]; rfl), ?_⟩
  have hpick' := (pickBank_congr (hpos.trans hmpos) e.id hf).trans hpick
  unfold startPass
  dsimp only
  rw [hmem, if_neg (by simp [hh, hrep, hres, posIdle, hf.run])]
  simp only [hgrp, hsingle, hpick, heldElsewhere, List.find?_cons, List.find?_nil, Bool.false_or, List.any_cons, List.any_nil]
  have hstuck : ∀ t, (Pick.bank t == Pick.stuck) = false := fun _ => rfl
  have hwait : ∀ t, (Pick.bank t == Pick.wait) = false := fun _ => rfl
  simp only [hstuck, hwait, Bool.or_false, Bool.false_eq_true, if_false, hm, List.foldl_cons, List.foldl_nil, hpick']

theorem passStart_head {b : Block} {n : Arr} {e : Entry} (hu : UnitsRun b) (hus : usable b n = true) (hrep : (getArr b n).replays = [])
    (hres : liveResume b n = []) (hh : arrHead b n = some e) (ho : wOpc e.word.toNat = 0x20) : passStart b n = startPass b e := by
  unfold passStart
  rw [if_neg (by simp [hu.cold, hu.cool, hu.awake, hus]), hrep]
  simp [hres, hh, ho]

theorem pass_starts {s : State} {n : Arr} {e : Entry} (hu : UnitsRun s.blk) (hus : usable s.blk n = true) (hrep : (getArr s.blk n).replays = [])
    (hres : liveResume s.blk n = []) (hh : arrHead s.blk n = some e) (ho : wOpc e.word.toNat = 0x20) (hn : pArr e.word.toNat = n)
    (hg : pGrpEn e.word.toNat = false) (hc : typeIsComplex (pTA e.word.toNat) = false) (hf : PosFree (getPos s.blk n (pSag e.word.toNat))) :
    ∃ (t : State) (r : PassRun), s.onLive (fun b => passStart b n) = .next t
        ∧ (getPos t.blk n (pSag e.word.toNat)).run = some r ∧ r.entry = e.id ∧ r.bank = 1 - (getPos s.blk n (pSag e.word.toNat)).last
        ∧ (getPos t.blk n (pSag e.word.toNat)).last = 1 - (getPos s.blk n (pSag e.word.toNat)).last
        ∧ r.m = pM e.word.toNat ∧ r.n = pN e.word.toNat ∧ r.k = pK e.word.toNat ∧ r.kpos = 0
        ∧ ((getPos t.blk n (pSag e.word.toNat)).bank r.bank).state = .filling ∧ ((getPos t.blk n (pSag e.word.toNat)).bank r.bank).cells = []
        ∧ (∀ g, g ≠ pSag e.word.toNat → getPos t.blk n g = getPos s.blk n g) ∧ (∀ m, m ≠ n → getArr t.blk m = getArr s.blk m)
        ∧ t.blk.sram = s.blk.sram ∧ t.blk.groups = s.blk.groups := by
  obtain ⟨d, ck, hat, hpos, hgr, hstart⟩ := startPass_free ho hn hg hc hh hrep hres hf
  rw [← passStart_head hu hus hrep hres hh ho] at hstart
  have hgrp : (mkRun e n ck).grp = none := by simp [mkRun, memberGrp, hg]
  have hempty : ((getPos d n (pSag e.word.toNat)).bank (1 - (getPos s.blk n (pSag e.word.toNat)).last)).state = .empty := by
    rw [hpos]
    unfold PosSt.bank
    split
    · exact hf.b0
    · exact hf.b1
  obtain ⟨htake, htg, hrun, hlast, hstate, hcells⟩ := takeBank_free d n (pSag e.word.toNat) (1 - (getPos s.blk n (pSag e.word.toNat)).last) hgrp hempty
  rw [← hstart] at htake htg hrun hlast hstate hcells
  obtain ⟨hpins, hsram, harr, hothers⟩ := hat.trans htake
  exact ⟨_, _, onLive_pins (f := fun b => passStart b n) hu.live hpins, hrun, rfl, rfl, hlast, rfl, rfl, rfl, rfl, hstate, hcells, hothers, harr, hsram,
    htg.trans hgr⟩

/-! ### The row path -/

/-- From `b` to `d` nothing but array `n` has changed, and of it neither positions nor what the row path reads. -/
structure RowKept (n : Arr) (b d : Block) : Prop where
  only : OnlyArrays b d
  pos : (getArr d n).pos = (getArr b n).pos
  reads : (getArr d n).reads = (getArr b n).reads
  rows : (getArr d n).rows = (getArr b n).rows

theorem RowKept.refl (n : Arr) (b : Block) : RowKept n b b := ⟨rfl, rfl, rfl, rfl⟩

theorem RowKept.trans {n : Arr} {b d e : Block} (h : RowKept n b d) (k : RowKept n d e) : RowKept n b e :=
  ⟨onlyArrays_trans h.only k.only, k.pos.trans h.pos, k.reads.trans h.reads, k.rows.trans h.rows⟩

theorem rowKept_modArr {n : Arr} (b : Block) {f : ArraySt → ArraySt} (h1 : ∀ a, (f a).pos = a.pos) (h2 : ∀ a, (f a).reads = a.reads)
    (h3 : ∀ a, (f a).rows = a.rows) : RowKept n b (modArr b n f) :=
  ⟨rfl, by rw [getArr_modArr, h1], by rw [getArr_modArr, h2], by rw [getArr_modArr, h3]⟩

/-- A row of an unchecked real tile goes from its bank to the drain (R65). -/
theorem rowRead_drain {b : Block} {n : Arr} {x : TileRead} {k : BankIx} (hrun : arrRuns b n = true) (hx : nextRead b n = some x) (hk : x.kind = .drain)
    (hc : x.checked = false) (him : x.complex = false) (hb : x.bank = some k) (hlast : x.next + 1 < x.m) :
    OnlyArrays b (rowRead b n)
      ∧ (getArr (rowRead b n) n).rows = (getArr b n).rows ++ [⟨x.tid, x.next,
             (List.range x.w).map (fun j => (cellGet ((getPos b n x.sag).bank k).cells (x.next * x.w + j)).total), []⟩]
      ∧ (getArr (rowRead b n) n).reads = (getArr b n).reads.map (fun y => if y.tid == x.tid then { y with next := y.next + 1 } else y)
      ∧ (getArr (rowRead b n) n).pos = (getArr b n).pos := by
  have hkiln : toKiln x = false := by simp [toKiln, hk]
  have hdrain : toDrain x = true := by simp [toDrain, hk]
  have hrows : (x.next + 1 == readRows x) = false := by simp [readRows, hk]; omega
  unfold rowRead
  rw [hx]
  dsimp -zeta only
  rw [if_neg (by simp [hrun]), if_neg (by simp [hkiln])]
  extract_lets +lift b0 i cell b1 inDrain b2 con b3 im row b4 b5
  have h0 : RowKept n b b0 := rowKept_modArr b (by intro; rfl) (by intro; rfl) (by intro; rfl)
  have h1 : b1 = b0 := by
    simp only [b1]
    split
    · simp [hkiln, hk]
    · rfl
  have h2 : RowKept n b1 b2 := by
    simp only [b2]
    split
    · exact rowKept_modArr b1 (by intro; rfl) (by intro; rfl) (by intro; rfl)
    · exact .refl n b1
  have h3 : RowKept n b2 b3 := by
    simp only [b3, hc, Bool.false_and, Bool.false_eq_true, if_false]
    split
    · exact rowKept_modArr b2 (by intro; rfl) (by intro; rfl) (by intro; rfl)
    · exact .refl n b2
  have hkept : RowKept n b b3 := (h1 ▸ h0).trans (h2.trans h3)
  have hpeer : im = false := by simp [im, hk]
  have hcells : (readCells b0 n x).1 = ((getPos b n x.sag).bank k).cells := by
    simp only [readCells, hb]
    rw [show getPos b0 n x.sag = getPos b n x.sag from touchArr_pos b n x.sag]
  have h4 : b4 = modArr b3 n (fun a => { a with rows := a.rows ++ [⟨x.tid, x.next,
      (List.range x.w).map (fun j => (cellGet ((getPos b n x.sag).bank k).cells (x.next * x.w + j)).total), []⟩] }) := by
    simp only [b4, hdrain, if_true, hpeer, Bool.false_eq_true, if_false, him, Bool.false_and, row, hcells, i]
  rw [if_neg (by rw [hrows]; exact Bool.false_ne_true)]
  have h5 : OnlyArrays b3 b5 := by
    simp only [b5, h4]
    rfl
  refine ⟨onlyArrays_trans hkept.only h5, ?_, ?_, ?_⟩ <;> simp only [b5, modRead, getArr_modArr, h4, hkept.rows, hkept.reads, hkept.pos]

/-! ### Pre-emption -/

/-- A new read joins those of the row path, and leaves positions, groups and memory (R65). -/
theorem mkRead_joins (b : Block) (n : Arr) (g : Sag) (r : PassRun) (kind : ReadKind) (checked thenPark : Bool) :
    let d := mkRead b n g r kind checked thenPark
    d.pins = b.pins ∧ d.groups = b.groups ∧ (∀ h, getPos d n h = getPos b n h)
      ∧ ∃ x, (getArr d n).reads = (getArr b n).reads ++ [x] ∧ x.kind = kind ∧ x.grp = r.grp ∧ x.sag = g ∧ x.run = some r := by
  unfold mkRead
  dsimp only
  refine ⟨rfl, rfl, fun h => getPos_modArr (by intro; rfl) _ n n h, ?_⟩
  rw [getArr_modArr]
  exact ⟨_, rfl, rfl, rfl, rfl, rfl⟩

theorem bankRead_joins (b : Block) (n : Arr) (g : Sag) (k : BankIx) (q : Grp) (kind : ReadKind) :
    let d := bankRead b n g k q kind 0 0 [] 0#64 0
    d.pins = b.pins ∧ d.groups = b.groups ∧ getPos d n g = (getPos b n g).setBank k { (getPos b n g).bank k with state := .reading }
      ∧ ∃ x, (getArr d n).reads = (getArr b n).reads ++ [x] ∧ x.kind = kind ∧ x.grp = some q ∧ x.sag = g ∧ x.bank = some k := by
  unfold bankRead
  dsimp only
  refine ⟨rfl, rfl, ?_, ?_⟩
  · rw [getPos_modArr (by intro; rfl), modBank, getPos_modPos]
    rfl
  · rw [getArr_modArr, modBank, modPos, getArr_modArr]
    exact ⟨_, rfl, rfl, rfl, rfl, rfl⟩

theorem held_parks {s : State} {n : Arr} {g : Sag} {k : BankIx} {q : Grp} (hl : live s.blk = true) (ha : arrAwake s.blk n = true)
    (hr : (getPos s.blk n g).run = none) (hh : heldOf s.blk n g = some (k, q)) :
    ∃ (t : State) (x : TileRead), s.onLive (fun b => preemptStop b n g) = .next t ∧ (getArr t.blk n).reads = (getArr s.blk n).reads ++ [x]
        ∧ x.kind = .park ∧ x.grp = some q ∧ x.sag = g ∧ x.bank = some k
        ∧ ((getPos t.blk n g).bank k).state = .reading ∧ ((getPos t.blk n g).bank k).cells = ((getPos s.blk n g).bank k).cells ∧ t.blk.groups = s.blk.groups := by
  have hstop : preemptStop s.blk n g = bankRead (if decide ((getArr s.blk n).gate = .gated) then startAdvance s.blk n else s.blk) n g k q .park 0 0 [] 0#64 0 := by
    unfold preemptStop
    rw [hr]
    dsimp only
    rw [hh]
    exact if_pos ha
  generalize hm : (if decide ((getArr s.blk n).gate = .gated) then startAdvance s.blk n else s.blk) = m at hstop
  have hpos : getPos m n g = getPos s.blk n g ∧ m.pins = s.blk.pins ∧ m.groups = s.blk.groups ∧ (getArr m n).reads = (getArr s.blk n).reads := by
    rw [← hm]
    split
    · exact ⟨(startAdvance_keeps s.blk n g).2, rfl, rfl, by rw [startAdvance, getArr_modArr]⟩
    · exact ⟨rfl, rfl, rfl, rfl⟩
  obtain ⟨hmp, hmpins, hmg, hmr⟩ := hpos
  obtain ⟨hpins, hgrp, hp, x, hx, hkind, hxg, hsag, hbank⟩ := bankRead_joins m n g k q .park
  rw [← hstop] at hpins hgrp hp hx
  refine ⟨_, x, onLive_pins (f := fun b => preemptStop b n g) hl (hpins.trans hmpins), by rw [hx, hmr], hkind, hxg, hsag, hbank, ?_, ?_, hgrp.trans hmg⟩
  · rw [hp, bank_setBank]
  · rw [hp, bank_setBank, hmp]

theorem run_stops {s : State} {n : Arr} {g : Sag} {r : PassRun} (hl : live s.blk = true) (ha : arrRuns s.blk n = true) (hr : (getPos s.blk n g).run = some r)
    (hc : (getCtx s.blk r.ctx).state = .preempting) (hg : r.grp ≠ none) (hrep : r.replay = false) (hs : stopPoint s.blk r = true) :
    ∃ (t : State) (x : TileRead), s.onLive (fun b => preemptStop b n g) = .next t ∧ (getPos t.blk n g).run = none
        ∧ (getArr t.blk n).reads = (getArr s.blk n).reads ++ [x] ∧ x.kind = .preempt ∧ x.grp = r.grp ∧ x.sag = g ∧ x.run = some r
        ∧ ((getPos t.blk n g).bank r.bank).state = .reading ∧ ((getPos t.blk n g).bank r.bank).cells = ((getPos s.blk n g).bank r.bank).cells
        ∧ t.blk.groups = s.blk.groups := by
  have hhold : preemptHolds s.blk r = true := by simp [preemptHolds, hc, Option.isSome_iff_ne_none, hg, hrep, hs]
  have hstop : preemptStop s.blk n g = mkRead (modBank (modPos s.blk n g (fun p => { p with run := none })) n g r.bank (fun k => { k with state := .reading }))
      n g r .preempt r.checked false := by
    unfold preemptStop
    rw [hr]
    exact if_pos (by rw [hhold, ha]; rfl)
  generalize hm : modBank (modPos s.blk n g (fun p => { p with run := none })) n g r.bank (fun k => { k with state := .reading }) = m at hstop
  have hpos : getPos m n g = ({ getPos s.blk n g with run := none } : PosSt).setBank r.bank { (getPos s.blk n g).bank r.bank with state := .reading } := by
    rw [← hm, modBank, getPos_modPos, getPos_modPos]
    rfl
  have hreads : (getArr m n).reads = (getArr s.blk n).reads := by
    rw [← hm, modBank, modPos, getArr_modArr, modPos, getArr_modArr]
  obtain ⟨hpins, hgrp, hp, x, hx, hkind, hxg, hsag, hrun⟩ := mkRead_joins m n g r .preempt r.checked false
  rw [← hstop] at hpins hgrp hp hx
  refine ⟨_, x, onLive_pins (f := fun b => preemptStop b n g) hl (hpins.trans (by rw [← hm]; rfl)), ?_, by rw [hx, hreads], hkind, hxg, hsag, hrun, ?_, ?_,
    hgrp.trans (by rw [← hm]; rfl)⟩
  · rw [hp, hpos, run_setBank]
  · rw [hp, hpos, bank_setBank]
  · rw [hp, hpos, bank_setBank]

/-! ### Programs -/

/-- A GLZCFG at its array's head whose context has a slot left takes it and completes (R141). -/
theorem glzcfg_loads {s : State} {n : Arr} {e : Entry} (hh : arrHead s.blk n = some e) (hr : liveResume s.blk n = []) (hw : Works s.blk e.id e)
    (ho : wOpc e.word.toNat = 0x30)
    (hslots : ((getArr s.blk n).slots.filter (fun x => decide (x.ctx = e.ctx) && x.close == e.word.getLsbD 50)).length < 2) :
    ∃ t : State, s.onLive (fun b => glzcfgLoad b n) = .next t
        ∧ (getArr t.blk n).slots = (getArr s.blk n).slots ++ [⟨e.ctx, e.word.getLsbD 50, e.progNo⟩] ∧ findEntry t.blk e.id = none
        ∧ (getArr t.blk n).pos = (getArr s.blk n).pos ∧ t.blk.sram = s.blk.sram ∧ t.blk.groups = s.blk.groups := by
  have hload : ∃ m, glzcfgLoad s.blk n = completeEntry (phaseOne m e.id) e.id ∧ OnlyArrays s.blk m ∧ (getArr m n).pos = (getArr s.blk n).pos
      ∧ (getArr m n).slots = (getArr s.blk n).slots ++ [⟨e.ctx, e.word.getLsbD 50, e.progNo⟩] := by
    unfold glzcfgLoad
    rw [hh]
    dsimp only
    rw [if_neg (by simp [ho, arrTurn_head hh hr]), bitAt_toNat, if_pos hslots]
    refine ⟨_, rfl, rfl, ?_, ?_⟩ <;> rw [getArr_modArr]
  obtain ⟨m, hm, honly, hpos, hsl⟩ := hload
  have hleft : Left (phaseOne m e.id) (glzcfgLoad s.blk n) e.id := by
    rw [hm]
    exact phaseOne_left (b := m) (by rw [honly]; exact hw.found) hw.noPost rfl
  have harr : getArr (glzcfgLoad s.blk n) n = getArr m n := by
    rw [getArr, hleft.links.arrays]
    rfl
  refine ⟨_, onLive_pins (f := fun b => glzcfgLoad b n) hw.live (hleft.links.pins.trans (show m.pins = _ from onlyArrays_pins honly)), ?_, hleft.gone, ?_, ?_, ?_⟩
  · rw [harr, hsl]
  · rw [harr, hpos]
  · exact hleft.links.sram.trans (by rw [honly]; rfl)
  · exact hleft.links.groups.trans (by rw [honly]; rfl)

/-- Settles O55: each step changes its own position of its own array. -/
theorem passesRunOnArrays : Obligations.PassesRunOnArrays := by
  refine ⟨?_, ?_, ?_, ?_, ?_, ?_, ?_⟩
  · intro s n e hu hus hrep hres hh ho hn hg hc p hr h0 h1
    exact pass_starts hu hus hrep hres hh ho hn hg hc ⟨hr, h0, h1⟩
  · intro s n g r hl hr hrun hg hp h1 hs he hk hc
    obtain ⟨⟨hpins, hsram, harr, hpos⟩, x, hx, hkey⟩ := inputCycle_steps hr hrun hg hp h1 hs he hk hc
    simp only [runKey, Prod.mk.injEq] at hkey
    obtain ⟨k1, k2, k3, k4, -, -, k7, -⟩ := hkey
    exact ⟨_, x, onLive_pins (f := fun b => inputCycle b n g) hl hpins, hx, k7, k2, k1, k3, k4.trans he, hpos, harr, hsram⟩
  · intro s n g hl h
    have hb := inputCycle_bubble h
    exact ⟨_, onLive_pins (f := fun b => inputCycle b n g) hl (by rw [hb]), hb⟩
  · intro s n x k hl hrun hx hk hc him hb hlast
    obtain ⟨honly, hrows, hreads, hpos⟩ := rowRead_drain hrun hx hk hc him hb hlast
    exact ⟨_, onLive_pins (f := fun b => rowRead b n) hl (onlyArrays_pins honly), hrows, hreads, hpos, by rw [honly]⟩
  · exact fun s n g k q hl ha hr hh => held_parks hl ha hr hh
  · exact fun s n g r hl ha hr hc hg hrep hs => run_stops hl ha hr hc hg hrep hs
  · exact fun s n e hh hr hw ho hslots => glzcfg_loads hh hr hw ho hslots

end Sys2Proof.Proofs.Passes

/-! SUPPORT. The kiln's events (R100, R103, R105, R107, R111, R112, R250). Settles O56. -/

namespace Sys2Proof.Proofs.Kiln

open Sys2Proof Sys2Proof.Machine Sys2Proof.Laws Sys2Proof.Proofs.IssueStage Sys2Proof.Proofs.EngReset Sys2Proof.Proofs.Fields
open Sys2Proof.Proofs.Reports Sys2Proof.Proofs.Reads Sys2Proof.Proofs.Strands Sys2Proof.Proofs.Complete Sys2Proof.Proofs.Passes

/-! ### A waiting group meets its timeout (R103) -/

theorem peerTimeout_due {b : Block} {g : Grp} {i : Nat} {e : Entry} (hw : (getGrp b g).state = .waiting)
    (ht : getFld b .fabPeerTimeout 0 32 ≤ b.beat - (getGrp b g).waitFrom) (hc : (getGrp b g).close = some i) (he : findEntry b i = some e) (hp : e.phase ≠ 255) :
    peerTimeout b g = failEntry b e .peerTimeout (kSite e g) := by
  unfold peerTimeout
  dsimp only
  rw [if_pos (by simp [hw, ht]), hc]
  simp [he, hp]

theorem timeout_halts {s : State} {g : Grp} {i : Nat} {e : Entry} (hl : live s.blk = true) (hw : (getGrp s.blk g).state = .waiting)
    (ht : getFld s.blk .fabPeerTimeout 0 32 ≤ s.blk.beat - (getGrp s.blk g).waitFrom) (hc : (getGrp s.blk g).close = some i)
    (he : findEntry s.blk i = some e) (hp : e.phase ≠ 255) (hf : faultable s.blk e.ctx = true) :
    ∃ t : State, s.onLive (fun b => peerTimeout b g) = .next t ∧ (getCtx t.blk e.ctx).state = .faulted
      ∧ getFld t.blk (.engEventCnt 0x07) 0 32 = min (2 ^ 32 - 1) (getFld s.blk (.engEventCnt 0x07) 0 32 + 1) ∧ sameUnits s.blk t.blk := by
  have hd := peerTimeout_due hw ht hc he hp
  have hlinks := failEntry_links s.blk e .peerTimeout (kSite e g)
  have hstate := failEntry_faults (b := s.blk) (e := e) (code := .peerTimeout) (t := kSite e g) rfl (by decide) rfl hf
  have hcount := raise_count (modEntry s.blk e.id (fun x => { x with phase := 255 })) .peerTimeout (kSite e g)
  have hunits := failEntry_units s.blk e .peerTimeout (kSite e g)
  change getFld (failEntry s.blk e .peerTimeout (kSite e g)) _ 0 32 = _ at hcount
  rw [← hd] at hstate hcount hunits hlinks
  exact ⟨_, onLive_pins (f := fun b => peerTimeout b g) hl hlinks.pins, hstate, hcount, hunits⟩

/-! ### The end of an eviction (R111, R112) -/

/-- COUNT_MET leaves every group but its own, and of that only the state changes, from WAITING to DRAINING with its contributions complete (R99). -/
theorem countMet_does (b : Block) (g : Grp) :
    (∃ st, getGrp (countMet b g) g = { getGrp b g with state := st } ∧ ((getGrp b g).state ≠ .waiting → st = (getGrp b g).state)
        ∧ ((getGrp b g).state = .waiting → st = .waiting ∨ (st = .draining ∧ (getGrp b g).localCnt + (getGrp b g).remoteCnt = (getGrp b g).expect)))
      ∧ (∀ h, h ≠ g → getGrp (countMet b g) h = getGrp b h) ∧ countMet b g = { b with groups := (countMet b g).groups } := by
  unfold countMet
  dsimp only
  split
  · rename_i hc
    simp only [Bool.and_eq_true, decide_eq_true_eq, beq_iff_eq] at hc
    obtain ⟨⟨⟨hw, hmet⟩, -⟩, -⟩ := hc
    exact ⟨⟨.draining, getGrp_modGrp .., fun hn => absurd hw hn, fun _ => .inr ⟨rfl, hmet⟩⟩, fun h hn => getGrp_modGrp_ne _ _ hn, rfl⟩
  · exact ⟨⟨_, rfl, fun _ => rfl, .inl⟩, fun _ _ => rfl, rfl⟩

/-- The end of an eviction for no entry: its record and its transfer are gone, it is counted, and its group lies at its unit (R111, R112). -/
theorem spill_ends {s : State} {i : Nat} {x : Xfer} (hl : live s.blk = true) (hx : findXfer s.blk i = some x) (hk : x.kind = .spill) (he : x.entry = 0)
    (hm : xferMoved s.blk i = true) :
    ∃ t : State, s.onLive (fun b => transferDone b i) = .next t ∧ findXfer t.blk i = none ∧ findRec t.blk x.rec_ = none
        ∧ getFld t.blk .klnSpills 0 32 = min (2 ^ 32 - 1) (getFld s.blk .klnSpills 0 32 + 1)
        ∧ (∃ st, getGrp t.blk x.grp = { getGrp s.blk x.grp with state := st, loc := .spill x.unit_ }
            ∧ ((getGrp s.blk x.grp).state ≠ .waiting → st = .spilled)
            ∧ ((getGrp s.blk x.grp).state = .waiting → st = .waiting
                ∨ (st = .draining ∧ (getGrp s.blk x.grp).localCnt + (getGrp s.blk x.grp).remoteCnt = (getGrp s.blk x.grp).expect)))
        ∧ (∀ g, g ≠ x.grp → getGrp t.blk g = getGrp s.blk g) ∧ t.blk.arrays = s.blk.arrays := by
  have hid : x.id = i := by simpa using List.find?_some hx
  generalize hd : bumpFld (dropXferStreams (dropXfer (dropRec s.blk x.rec_) x.id) x.id) .klnSpills 0 32 1 = d
  have hdone : transferDone s.blk i = countMet (modGrp d x.grp (fun y => { y with state := if y.state = .waiting then .waiting else .spilled, loc := .spill x.unit_ })) x.grp := by
    unfold transferDone
    rw [hx]
    dsimp only
    rw [hk]
    dsimp only
    rw [hid, if_pos hm]
    unfold spillDone
    dsimp only
    rw [hd, he]
    rfl
  generalize hf : modGrp d x.grp (fun y => { y with state := if y.state = .waiting then .waiting else .spilled, loc := .spill x.unit_ }) = f at hdone
  obtain ⟨⟨st, hst, hother, hwait⟩, hothers, hframe⟩ := countMet_does f x.grp
  have hdg : ∀ g, getGrp d g = getGrp s.blk g := fun g => by rw [← hd]; rfl
  have hfg : getGrp f x.grp = { getGrp s.blk x.grp with state := if (getGrp s.blk x.grp).state = .waiting then .waiting else .spilled, loc := .spill x.unit_ } := by
    rw [← hf, getGrp_modGrp, hdg]
  rw [← hdone] at hst hothers hframe
  have hparts : ∀ {α : Type} (p : Block → α), (∀ y q, p { y with groups := q } = p y) → p (transferDone s.blk i) = p d := fun p hp => by
    rw [hframe, hp, ← hf]
    exact hp d _
  have hxf : (transferDone s.blk i).xfers = s.blk.xfers.filter (fun y => y.id != i) := (hparts (·.xfers) (fun _ _ => rfl)).trans (by rw [← hd, ← hid]; rfl)
  have hrec : (transferDone s.blk i).kiln = s.blk.kiln.filter (fun y => y.id != x.rec_) := (hparts (·.kiln) (fun _ _ => rfl)).trans (by rw [← hd]; rfl)
  have harr : (transferDone s.blk i).arrays = s.blk.arrays := (hparts (·.arrays) (fun _ _ => rfl)).trans (by rw [← hd]; rfl)
  have hpins : (transferDone s.blk i).pins = s.blk.pins := (hparts (·.pins) (fun _ _ => rfl)).trans (by rw [← hd]; rfl)
  have hcount : getFld (transferDone s.blk i) .klnSpills 0 32 = min (2 ^ 32 - 1) (getFld s.blk .klnSpills 0 32 + 1) := by
    rw [getFld_at, hparts (·.regs) (fun _ _ => rfl), ← hd, ← getFld_at, getFld_bumpFld _ _ _ (by omega)]
    rfl
  refine ⟨_, onLive_pins (f := fun b => transferDone b i) hl hpins, ?_, ?_, hcount, ⟨st, hst.trans (by rw [hfg]), fun hn => ?_, fun hw => ?_⟩, fun g hg => ?_, harr⟩
  · simp [findXfer, hxf, List.find?_eq_none]
  · simp [findRec, hrec, List.find?_eq_none]
  · have hs : (getGrp f x.grp).state = .spilled := by rw [hfg]; exact if_neg hn
    rw [hother (by rw [hs]; decide), hs]
  · have hs : (getGrp f x.grp).state = .waiting := by rw [hfg]; exact if_pos hw
    have h := hwait hs
    rw [hfg] at h
    exact h
  · exact (hothers g hg).trans (by rw [← hf, getGrp_modGrp_ne _ _ hg, hdg])

/-! ### Merges in rank order (R93, R94, R100) -/

/-- From `b` to `d` only the activity that the estimator counts has changed (R352). -/
def OnlyActs (b d : Block) : Prop := d = { b with acts := d.acts }

theorem OnlyActs.refl (b : Block) : OnlyActs b b := rfl

theorem OnlyActs.trans {b d e : Block} (h1 : OnlyActs b d) (h2 : OnlyActs d e) : OnlyActs b e := Eq.trans h2 (by rw [h1])

/-- Records without errors are read with no effect but their count (R16, R341). -/
theorem recEcc_clean {b : Block} (h : eccClean b) (l : List KRec) : ∃ d, OnlyActs b d ∧ recEcc b l = (d, false) := by
  unfold recEcc
  induction l.flatMap recRanges generalizing b with
  | nil => exact ⟨b, rfl, rfl⟩
  | cons q r ih =>
    have hc : OnlyActs b (countSram b q.1 q.2) := rfl
    obtain ⟨d, hd, hr⟩ := ih (b := countSram b q.1 q.2) h
    refine ⟨d, hc.trans hd, ?_⟩
    rw [List.foldl_cons]
    simpa only [eccRead_clean b _ _ _ h.1 h.2, Bool.or_false] using hr

/-- The groups whose additions are bounded: neither integer nor P1 (R93). -/
def floats (x : GroupSt) : Prop := x.kind ≠ 2 ∧ x.mode ≠ 2

/-- The addition count passes 2^22 for the first time (R93). -/
def firstLapse (x : GroupSt) (k : Nat) : Prop := floats x ∧ x.lapsed = false ∧ 2 ^ 22 < x.nadd + k

/-- What a count of additions leaves: the count, LAPSED and its event when it passes 2^22 for the first time, and every other group (R93, R94). -/
structure Counts (b d : Block) (g : Grp) (k : Nat) : Prop where
  readOnly : ReadOnly { b with groups := d.groups } d
  others : ∀ h, h ≠ g → getGrp d h = getGrp b h
  grp : ∃ l, getGrp d g = { getGrp b g with nadd := min (2 ^ 32 - 1) ((getGrp b g).nadd + k), lapsed := l }
    ∧ (l = true ↔ (getGrp b g).lapsed = true ∨ firstLapse (getGrp b g) k)
  event : (firstLapse (getGrp b g) k → getFld d (.engEventCnt 0x10) 0 32 = min (2 ^ 32 - 1) (getFld b (.engEventCnt 0x10) 0 32 + 1))
    ∧ (¬ firstLapse (getGrp b g) k → d.regs = b.regs)

theorem addCount_counts (b : Block) (g : Grp) (k : Nat) : Counts b (addCount b g k) g k := by
  have hiff : (2 ^ 22 < min (2 ^ 32 - 1) ((getGrp b g).nadd + k) && !(getGrp b g).lapsed && (getGrp b g).kind != 2 && (getGrp b g).mode != 2) = true
      ↔ firstLapse (getGrp b g) k := by
    have hmin : 2 ^ 22 < min (2 ^ 32 - 1) ((getGrp b g).nadd + k) ↔ 2 ^ 22 < (getGrp b g).nadd + k := by omega
    simp only [Bool.and_eq_true, decide_eq_true_eq, Bool.not_eq_true', bne_iff_ne, hmin, firstLapse, floats]
    tauto
  unfold addCount
  dsimp only
  by_cases hf : firstLapse (getGrp b g) k
  · rw [if_pos (hiff.mpr hf)]
    generalize hm : modGrp (modGrp b g (fun x => { x with nadd := min (2 ^ 32 - 1) ((getGrp b g).nadd + k) })) g (fun x => { x with lapsed := true }) = m
    generalize hs : grpSite _ g 6 = site
    have hr := raise_readOnly m .boundLapsed site
    have hcount := raise_count m .boundLapsed site
    have hg : ∀ h, getGrp (raise m .boundLapsed site) h = getGrp m h := fun h => by rw [getGrp, hr.groups, getGrp]
    have hframe : m = { b with groups := m.groups } := by rw [← hm]; rfl
    refine ⟨?_, fun h hn => ?_, ⟨true, ?_, by simp [hf]⟩, fun _ => ?_, fun hn => absurd hf hn⟩
    · rw [hr.groups, ← hframe]
      exact hr
    · rw [hg, ← hm, getGrp_modGrp_ne _ _ hn, getGrp_modGrp_ne _ _ hn]
    · rw [hg, ← hm, getGrp_modGrp, getGrp_modGrp]
    · have hold : getFld m (.engEventCnt 0x10) 0 32 = getFld b (.engEventCnt 0x10) 0 32 := by rw [hframe]; rfl
      rw [← hold]
      exact hcount
  · rw [if_neg (fun hc => hf (hiff.mp hc))]
    refine ⟨.refl _, fun h hn => getGrp_modGrp_ne _ _ hn, ⟨(getGrp b g).lapsed, getGrp_modGrp .., by simp [hf]⟩, fun hc => absurd hc hf, fun _ => rfl⟩

/-- From `b` to `d` only groups have changed. -/
def OnlyGroups (b d : Block) : Prop := d = { b with groups := d.groups }

theorem copyLapsed_does (b : Block) (g : Grp) (p : Bool) :
    (∃ l, getGrp (copyLapsed b g p) g = { getGrp b g with lapsed := l } ∧ (l = true ↔ (getGrp b g).lapsed = true ∨ (floats (getGrp b g) ∧ p = true)))
      ∧ (∀ h, h ≠ g → getGrp (copyLapsed b g p) h = getGrp b h) ∧ OnlyGroups b (copyLapsed b g p) := by
  have hiff : (p && (getGrp b g).kind != 2 && (getGrp b g).mode != 2) = true ↔ floats (getGrp b g) ∧ p = true := by
    simp only [Bool.and_eq_true, bne_iff_ne, floats]
    tauto
  unfold copyLapsed
  dsimp only
  by_cases hc : floats (getGrp b g) ∧ p = true
  · rw [if_pos (hiff.mpr hc)]
    exact ⟨⟨true, getGrp_modGrp .., by simp [hc]⟩, fun h hn => getGrp_modGrp_ne _ _ hn, rfl⟩
  · rw [if_neg (fun h => hc (hiff.mp h))]
    exact ⟨⟨_, rfl, ⟨.inl, fun h => h.resolve_right hc⟩⟩, fun _ _ => rfl, rfl⟩

theorem startMerge_does (b : Block) (g : Grp) : (∃ k, getGrp (startMerge b g) g = { getGrp b g with merging := k })
      ∧ (∀ h, h ≠ g → getGrp (startMerge b g) h = getGrp b h) ∧ OnlyGroups b (startMerge b g) := by
  unfold startMerge
  dsimp only
  split
  · exact ⟨⟨_, getGrp_modGrp ..⟩, fun h hn => getGrp_modGrp_ne _ _ hn, rfl⟩
  · exact ⟨⟨_, rfl⟩, fun _ _ => rfl, rfl⟩

/-- The record whose tile has been merged is gone, or empty for the next one (R100, R102). -/
def clearSource (b : Block) (r : KRec) : Block :=
  match r.role with
  | .arrival _ => dropRec b r.id
  | _ => modRec b r.id (fun r => { r with cells := [], cellsIm := [] })

/-- It is another record than M's. -/
theorem clearSource_does (b : Block) (r : KRec) {i : Nat} (h : r.id ≠ i) :
    findRec (clearSource b r) i = findRec b i ∧ clearSource b r = { b with kiln := (clearSource b r).kiln } := by
  unfold clearSource
  split
  · refine ⟨?_, rfl⟩
    unfold findRec dropRec
    dsimp only
    rw [List.find?_filter]
    congr 1
    funext x
    by_cases hx : x.id = i <;> simp [hx, Ne.symm h]
  · refine ⟨?_, rfl⟩
    unfold findRec modRec
    dsimp only
    rw [List.find?_map]
    have hp : (fun x : KRec => x.id == i) ∘ (fun x => if x.id == r.id then { x with cells := [], cellsIm := [] } else x) = fun x => x.id == i := by
      funext x
      by_cases hx : x.id = r.id <;> simp [hx]
    rw [hp]
    cases hf : b.kiln.find? (fun x => x.id == i) with
    | none => rfl
    | some y =>
      have hy : y.id = i := by simpa using List.find?_some hf
      simp [hy, Ne.symm h]

theorem findRec_modRec {b : Block} {i : Nat} {m : KRec} {f : KRec → KRec} (hf : ∀ x, (f x).id = x.id) (h : findRec b i = some m) :
    findRec (modRec b i f) i = some (f m) := by
  have hid : m.id = i := by simpa using List.find?_some h
  unfold findRec modRec at *
  dsimp only
  rw [List.find?_map]
  have hp : (fun x : KRec => x.id == i) ∘ (fun x => if x.id == i then f x else x) = fun x => x.id == i := by
    funext x
    by_cases hx : x.id = i <;> simp [hx, hf]
  rw [hp, h]
  simp [hid]

/-- What a merge of `r` into `m` leaves of the kiln's records (R93, R100). -/
def mergedM (b : Block) (g : Grp) (m r : KRec) : Block :=
  modRec b m.id (fun k => { k with cells := cellsAdd (getGrp b g) k.cells r.cells, cellsIm := if (getGrp b g).kind == 1 then cellsAdd (getGrp b g) k.cellsIm r.cellsIm else [] })

/-- The steps of a merge whose rank is there (R100). -/
theorem mergeComplete_steps {b : Block} {g : Grp} {rank : Nat} {m r : KRec} (hf : frozenV b = false) (hc : eccClean b) (hm : (getGrp b g).merging = some rank)
    (hrec : (getGrp b g).mRec = some m.id) (hfind : findRec b m.id = some m) (hr : mergeSource b g rank = some r) :
    ∃ d, OnlyActs b d ∧ mergeComplete b g = startMerge (modGrp (clearSource (copyLapsed (addCount (mergedM d g m r) g (r.nadd + 1)) g r.lapsed) r) g
      (fun x => { x with merging := none, nextRank := rank + 1 })) g := by
  have hs : startMerge b g = b := if_neg (by simp [hm])
  have hb : (some m.id).bind (findRec b) = some m := hfind
  obtain ⟨d, hd, hecc⟩ := recEcc_clean hc [m, r]
  refine ⟨d, hd, ?_⟩
  have hg : getGrp d g = getGrp b g := by rw [hd]; rfl
  unfold mergeComplete
  dsimp -zeta only
  rw [hs]
  extract_lets b' x
  rw [show x.merging = some rank from hm, show x.mRec = some m.id from hrec, show b' = b from rfl, hb]
  dsimp -zeta only
  rw [hf, hr]
  dsimp -zeta only
  rw [hecc]
  dsimp -zeta only
  rw [if_neg Bool.false_ne_true, if_neg Bool.false_ne_true]
  extract_lets e1 e2
  have he1 : e1 = mergedM d g m r := by
    unfold mergedM
    rw [hg]
  have he2 : e2 = copyLapsed (addCount (mergedM d g m r) g (r.nadd + 1)) g r.lapsed := by
    rw [← he1]
  rw [← he2]
  rfl

/-- A merge that ends adds its rank to M and goes on to the next rank (R93, R94, R100). -/
theorem merge_ends {s : State} {g : Grp} {rank : Nat} {m r : KRec} (hl : live s.blk = true) (hf : frozenV s.blk = false) (hc : eccClean s.blk)
    (hm : (getGrp s.blk g).merging = some rank) (hrec : (getGrp s.blk g).mRec = some m.id) (hfind : findRec s.blk m.id = some m) (hr : mergeSource s.blk g rank = some r)
    (hne : r.id ≠ m.id) :
    ∃ t : State, s.onLive (fun b => mergeComplete b g) = .next t
      ∧ (getGrp t.blk g).nextRank = rank + 1 ∧ (getGrp t.blk g).nadd = min (2 ^ 32 - 1) ((getGrp s.blk g).nadd + (r.nadd + 1))
      ∧ (findRec t.blk m.id).map (·.cells) = some (cellsAdd (getGrp s.blk g) m.cells r.cells)
      ∧ (((getGrp t.blk g).lapsed = true ↔ (getGrp s.blk g).lapsed = true ∨ (floats (getGrp s.blk g) ∧ r.lapsed = true) ∨ firstLapse (getGrp s.blk g) (r.nadd + 1))
        ∧ (firstLapse (getGrp s.blk g) (r.nadd + 1) → getFld t.blk (.engEventCnt 0x10) 0 32 = min (2 ^ 32 - 1) (getFld s.blk (.engEventCnt 0x10) 0 32 + 1))
        ∧ (¬ firstLapse (getGrp s.blk g) (r.nadd + 1) → getFld t.blk (.engEventCnt 0x10) 0 32 = getFld s.blk (.engEventCnt 0x10) 0 32))
      ∧ (∀ h, h ≠ g → getGrp t.blk h = getGrp s.blk h) ∧ t.blk.arrays = s.blk.arrays ∧ t.blk.sram = s.blk.sram := by
  obtain ⟨d, hd, hdone⟩ := mergeComplete_steps hf hc hm hrec hfind hr
  generalize ha : mergedM d g m r = a at hdone
  obtain ⟨hro, hothers, ⟨l, hgrp, hl1⟩, hevent, hquiet⟩ := addCount_counts a g (r.nadd + 1)
  generalize hn : addCount a g (r.nadd + 1) = n at hdone hro hothers hgrp hevent hquiet
  obtain ⟨⟨l', hcopy, hl2⟩, hothers2, hframe2⟩ := copyLapsed_does n g r.lapsed
  generalize hp : copyLapsed n g r.lapsed = p at hdone hcopy hothers2 hframe2
  obtain ⟨hclear, hframe3⟩ := clearSource_does p r hne
  generalize hq : clearSource p r = q at hdone hclear hframe3
  generalize hu : modGrp q g (fun x => { x with merging := none, nextRank := rank + 1 }) = u at hdone
  obtain ⟨⟨k, hk⟩, hothers4, hframe4⟩ := startMerge_does u g
  rw [← hdone] at hk hothers4 hframe4
  have hgd : ∀ h, getGrp a h = getGrp s.blk h := fun h => by rw [← ha, hd]; rfl
  have hgq : ∀ h, getGrp q h = getGrp p h := fun h => by rw [hframe3]; rfl
  have hu' : getGrp u g = { getGrp p g with merging := none, nextRank := rank + 1 } := by rw [← hu, getGrp_modGrp, hgq]
  have hgrp' : getGrp (mergeComplete s.blk g) g = { getGrp s.blk g with
      nadd := min (2 ^ 32 - 1) ((getGrp s.blk g).nadd + (r.nadd + 1)), lapsed := l', merging := k, nextRank := rank + 1 } := by
    rw [hk, hu', hcopy, hgrp, hgd]
  have hfl : floats (getGrp n g) ↔ floats (getGrp s.blk g) := by rw [hgrp, hgd]; rfl
  have hlap : l' = true ↔ (getGrp s.blk g).lapsed = true ∨ (floats (getGrp s.blk g) ∧ r.lapsed = true) ∨ firstLapse (getGrp s.blk g) (r.nadd + 1) := by
    rw [hl2, hfl, hgrp]
    rw [hgd] at hl1
    exact (or_congr_left hl1).trans (or_assoc.trans (or_congr_right or_comm))
  have hparts : ∀ {α : Type} (π : Block → α), (∀ y w, π { y with groups := w } = π y) → (∀ y w, π { y with kiln := w } = π y) → π (mergeComplete s.blk g) = π n :=
    fun π h1 h2 => by
      have hpq : π u = π q := by rw [← hu]; exact h1 q _
      rw [hframe4, h1, hpq, hframe3, h2, hframe2, h1]
  have hregs : (mergeComplete s.blk g).regs = n.regs := hparts (·.regs) (fun _ _ => rfl) (fun _ _ => rfl)
  have hold : a.regs = s.blk.regs := by rw [← ha, hd]; rfl
  have hpins : (mergeComplete s.blk g).pins = s.blk.pins :=
    (hparts (·.pins) (fun _ _ => rfl) (fun _ _ => rfl)).trans (hro.pins.trans (by rw [← ha, hd]; rfl))
  have harr : (mergeComplete s.blk g).arrays = s.blk.arrays :=
    (hparts (·.arrays) (fun _ _ => rfl) (fun _ _ => rfl)).trans (hro.arrays.trans (by rw [← ha, hd]; rfl))
  have hsram : (mergeComplete s.blk g).sram = s.blk.sram :=
    (hparts (·.sram) (fun _ _ => rfl) (fun _ _ => rfl)).trans (hro.sram.trans (by rw [← ha, hd]; rfl))
  have hkiln : findRec (mergeComplete s.blk g) m.id = findRec a m.id := by
    have h1 : findRec u m.id = findRec q m.id := by rw [← hu]; rfl
    have h2 : findRec p m.id = findRec n m.id := by rw [hframe2]; rfl
    have h3 : findRec n m.id = findRec a m.id := by unfold findRec; rw [hro.kiln]
    rw [hframe4]
    exact (h1.trans hclear).trans (h2.trans h3)
  have hcells : findRec a m.id = some { m with
      cells := cellsAdd (getGrp s.blk g) m.cells r.cells, cellsIm := if (getGrp s.blk g).kind == 1 then cellsAdd (getGrp s.blk g) m.cellsIm r.cellsIm else [] } := by
    have hfd : findRec d m.id = some m := by rw [hd]; exact hfind
    have hgg : getGrp d g = getGrp s.blk g := by rw [hd]; rfl
    rw [← ha]
    unfold mergedM
    rw [hgg]
    exact findRec_modRec (by intro; rfl) hfd
  refine ⟨_, onLive_pins (f := fun b => mergeComplete b g) hl hpins, congrArg (·.nextRank) hgrp', congrArg (·.nadd) hgrp', ?_,
    ⟨?_, fun h => ?_, fun h => ?_⟩, fun h hh => ?_, harr, hsram⟩
  · exact congrArg (Option.map (·.cells)) (hkiln.trans hcells)
  · exact (Eq.to_iff (congrArg (·.lapsed = true) hgrp')).trans hlap
  · refine ((getFld_congr hregs _ _ _).trans (hevent (by rwa [hgd]))).trans ?_
    rw [getFld_congr hold]
  · exact getFld_congr (hregs.trans ((hquiet (by rwa [hgd])).trans hold)) _ _ _
  · refine (hothers4 h hh).trans ?_
    rw [← hu, getGrp_modGrp_ne _ _ hh, hgq, hothers2 h hh, hothers h hh, hgd]

/-! ### A GMERGE is granted (R105) -/

/-- An array that is woken keeps its positions, its resume entries and its reads (R67, R68). -/
theorem wakeArr_does (b : Block) (n : Arr) : ∃ f : ArraySt → ArraySt, wakeArr b n = modArr b n f ∧ ∀ a, (f a).pos = a.pos ∧ (f a).resume = a.resume ∧ (f a).reads = a.reads := by
  unfold wakeArr
  split
  · exact ⟨_, rfl, fun _ => ⟨rfl, rfl, rfl⟩⟩
  · exact ⟨_, rfl, fun _ => ⟨rfl, rfl, rfl⟩⟩

/-- The transfer of T of group `g` into record `r` of `d`, where the kiln path takes it from a bank only once it has been read (R105, R107). -/
def granted (b : Block) (e : Entry) (g d : Grp) (rank r : Nat) : Block :=
  modEntry (modXfer (addXfer b .gmerge g e.id r 0 0 0 0).2 (addXfer b .gmerge g e.id r 0 0 0 0).1 (fun x => { x with target := d.val, rank := rank })) e.id (fun y => { y with phase := 3 })

theorem offerT_grants {b : Block} {e : Entry} {g d : Grp} {rank r : Nat} (hg : kGrp e.word.toNat = g) (hd : d.val = e.word.toNat / 2 ^ 38 % 2 ^ 6)
    (hrank : rank = e.word.toNat / 2 ^ 44 % 2 ^ 12) (ha : offerAnswer b d rank none = .grantReserve)
    (hr : (if rank = 0 then (getGrp b d).mRec else (getGrp b d).resRec) = some r) :
    offerT b e = match bankOf b g with
      | some (n, s, t) => bankRead (wakeArr (granted b e g d rank r) n) n s t g .merge e.id (b.lastDispatch + 1) [] 0#64 0
      | none => setReady (granted b e g d rank r) (b.lastDispatch + 1) := by
  have hdw : (Fin.ofNat 64 (bitsOf e.word.toNat 43 38) : Grp) = d := Fin.ext (by rw [hd]; simp [bitsOf, Nat.shiftRight_eq_div_pow])
  have hrw : bitsOf e.word.toNat 55 44 = rank := by rw [hrank, bitsOf, Nat.shiftRight_eq_div_pow]
  have hrec : grantRec b d rank .grantReserve = (b, some r) := by
    unfold grantRec
    simpa using hr
  unfold offerT
  dsimp only
  rw [hdw, hrw, hg, ha]
  dsimp only
  rw [hrec]
  rfl

/-- The transfer that a grant starts. -/
theorem granted_xfer (b : Block) (e : Entry) (g d : Grp) (rank r : Nat) :
    ∃ x ∈ (granted b e g d rank r).xfers, x.kind = .gmerge ∧ x.grp = g ∧ x.entry = e.id ∧ x.rec_ = r ∧ x.target = d.val ∧ x.rank = rank ∧ x.id = b.lastDispatch + 1 := by
  refine ⟨_, List.mem_map_of_mem (List.mem_append_right _ (List.mem_singleton_self _)), ?_⟩
  rw [if_pos (by exact beq_self_eq_true _)]
  exact ⟨rfl, rfl, rfl, rfl, rfl, rfl, rfl⟩

theorem bankRead_reads (b : Block) (n : Arr) (g : Sag) (k : BankIx) (q : Grp) (e i : Nat) :
    let d := bankRead b n g k q .merge e i [] 0#64 0
    d.pins = b.pins ∧ d.groups = b.groups ∧ d.kiln = b.kiln ∧ d.xfers = b.xfers ∧ ∃ y ∈ (getArr d n).reads, y.kind = .merge ∧ y.grp = some q ∧ y.xfer = i := by
  unfold bankRead
  dsimp only
  refine ⟨rfl, rfl, rfl, rfl, ?_⟩
  rw [getArr_modArr]
  exact ⟨_, List.mem_append_right _ (List.mem_singleton_self _), rfl, rfl, rfl⟩

theorem reoffer_grants {s : State} {g d : Grp} {rank rec_ : Nat} {e : Entry} (hl : live s.blk = true) (hf : frozenV s.blk = false)
    (he : s.blk.entries.find? (fun e => wOpc e.word.toNat == 0x2C && decide (kGrp e.word.toNat = g) && e.phase == 2 && e.started) = some e)
    (hd : d.val = e.word.toNat / 2 ^ 38 % 2 ^ 6) (hrank : rank = e.word.toNat / 2 ^ 44 % 2 ^ 12) (ha : offerAnswer s.blk d rank none = .grantReserve)
    (hr : (if rank = 0 then (getGrp s.blk d).mRec else (getGrp s.blk d).resRec) = some rec_) :
    ∃ (t : State) (x : Xfer), s.onLive (fun b => reoffer b g) = .next t
      ∧ x ∈ t.blk.xfers ∧ x.kind = .gmerge ∧ x.grp = g ∧ x.entry = e.id ∧ x.rec_ = rec_ ∧ x.target = d.val ∧ x.rank = rank
      ∧ (bankOf s.blk g = none → x.ready = true)
      ∧ (∀ n sg k, bankOf s.blk g = some (n, sg, k) → ∃ y ∈ (getArr t.blk n).reads, y.kind = .merge ∧ y.grp = some g ∧ y.xfer = x.id)
      ∧ t.blk.groups = s.blk.groups ∧ t.blk.kiln = s.blk.kiln := by
  have hg : kGrp e.word.toNat = g := by
    have h := List.find?_some he
    simp only [Bool.and_eq_true, decide_eq_true_eq] at h
    exact h.1.1.2
  have hre : reoffer s.blk g = offerT s.blk e := by
    unfold reoffer
    rw [he]
    exact if_neg (by simp [hf])
  have hoffer := hre.trans (offerT_grants hg hd hrank ha hr)
  obtain ⟨x, hx, hkind, hgrp, hent, hrec, htgt, hrk, hid⟩ := granted_xfer s.blk e g d rank rec_
  cases hb : bankOf s.blk g with
  | none =>
    rw [hb] at hoffer
    have hpins : (reoffer s.blk g).pins = s.blk.pins := by rw [hoffer]; rfl
    refine ⟨_, { x with ready := true }, onLive_pins (f := fun b => reoffer b g) hl hpins, ?_, hkind, hgrp, hent, hrec, htgt, hrk, fun _ => rfl, fun _ _ _ h => (nomatch h), ?_, ?_⟩
    · show _ ∈ (reoffer s.blk g).xfers
      rw [hoffer]
      exact List.mem_map.mpr ⟨x, hx, if_pos (by simpa using hid)⟩
    · exact (congrArg (·.groups) hoffer).trans rfl
    · exact (congrArg (·.kiln) hoffer).trans rfl
  | some q =>
    obtain ⟨n, sg, k⟩ := q
    rw [hb] at hoffer
    obtain ⟨f, hwake, -⟩ := wakeArr_does (granted s.blk e g d rank rec_) n
    obtain ⟨hp, hgr, hk, hxs, hreads⟩ := bankRead_reads (wakeArr (granted s.blk e g d rank rec_) n) n sg k g e.id (s.blk.lastDispatch + 1)
    dsimp only at hoffer
    rw [← hoffer] at hp hgr hk hxs hreads
    rw [hwake] at hp hgr hk hxs
    refine ⟨_, x, onLive_pins (f := fun b => reoffer b g) hl hp, hxs.symm ▸ hx, hkind, hgrp, hent, hrec, htgt, hrk, fun h => (nomatch h), fun n' sg' k' h => ?_, hgr, hk⟩
    cases h
    rw [hid]
    exact hreads

/-! ### Resume entries (R106, R107, R250) -/

/-- The first resume entry leaves its array's queue. -/
def popResume (b : Block) (n : Arr) (q : ResumeEnt) : Block := modArr b n (fun a => { a with resume := a.resume.erase q })

theorem runResumeEntry_wall {b : Block} {n : Arr} {q : ResumeEnt} {rest : List ResumeEnt} (ha : arrAwake b n = true) (hq : liveResume b n = q :: rest)
    (hm : moving b q.grp = false) (hb : loadBusy b n = false) (hw : q.wall ≠ (getArr b n).wall) :
    runResumeEntry b n = raise (popResume b n q) .groupState { ctx := some q.ctx, gen := (getCtx b q.ctx).gen, unit := 4, arr := some (n, q.sag), grp := some q.grp } := by
  unfold runResumeEntry
  rw [hq]
  dsimp only
  rw [ha, hm, hb, if_neg (by decide), if_pos (by simpa using hw)]
  rfl

/-- A resume entry of another wall mode halts its context (R250). -/
theorem resume_halts {s : State} {n : Arr} {q : ResumeEnt} {rest : List ResumeEnt} (hl : live s.blk = true) (ha : arrAwake s.blk n = true)
    (hq : liveResume s.blk n = q :: rest) (hm : moving s.blk q.grp = false) (hb : loadBusy s.blk n = false) (hw : q.wall ≠ (getArr s.blk n).wall) :
    ∃ t : State, s.onLive (fun b => runResumeEntry b n) = .next t
      ∧ (getArr t.blk n).resume = (getArr s.blk n).resume.erase q
      ∧ (getCtx t.blk q.ctx).state = .faulted ∧ (getArr t.blk n).pos = (getArr s.blk n).pos ∧ t.blk.groups = s.blk.groups := by
  have hrun := runResumeEntry_wall ha hq hm hb hw
  generalize hs : ({ ctx := some q.ctx, gen := (getCtx s.blk q.ctx).gen, unit := 4, arr := some (n, q.sag), grp := some q.grp } : Site) = site at hrun
  have hro := raise_readOnly (popResume s.blk n q) .groupState site
  have hlive : q ∈ liveResume s.blk n := by rw [hq]; exact List.mem_cons_self
  have hf : faultable (popResume s.blk n q) q.ctx = true := by
    have h : (getCtx s.blk q.ctx).state = .running ∨ (getCtx s.blk q.ctx).state = .preempting := by simpa using (List.mem_filter.mp hlive).2
    show faultable s.blk q.ctx = true
    rcases h with h | h <;> simp [faultable, h]
  have hfault := raise_faults (b := popResume s.blk n q) (code := .groupState) (t := site) (c := q.ctx) rfl (by decide) (by rw [← hs]) hf
  rw [← hrun] at hro hfault
  have harr : getArr (runResumeEntry s.blk n) n = { getArr s.blk n with resume := (getArr s.blk n).resume.erase q } := by
    rw [getArr, hro.arrays]
    exact getArr_modArr ..
  exact ⟨_, onLive_pins (f := fun b => runResumeEntry b n) hl hro.pins, congrArg (·.resume) harr, hfault, congrArg (·.pos) harr, hro.groups⟩

/-- A tile's bank is chosen among two empty ones (R55, R56). -/
theorem pickLoad_empty {b : Block} {n : Arr} {g : Sag} {q : Grp} (h0 : (getPos b n g).b0.state = .empty) (h1 : (getPos b n g).b1.state = .empty) :
    pickLoad b n g q 0 = .bank (if singleMode (getGrp b q) = true then 0 else 1 - (getPos b n g).last) := by
  have hf0 : bankFree (getPos b n g) 0 = true := by simp [bankFree, PosSt.bank, bankEmpty, h0, h1]
  have hf1 : bankFree (getPos b n g) 1 = true := by simp [bankFree, PosSt.bank, bankEmpty, h0, h1]
  unfold pickLoad
  cases hs : singleMode (getGrp b q)
  · simp [pickBank, hf0, hf1, PosSt.bank, bankEmpty, h0, h1]
  · simp [pickBank, PosSt.bank, bankEmpty, h0, h1]

/-- A load into an empty bank (R106, R107). -/
theorem startLoad_does {b : Block} {q : Grp} {n : Arr} {g : Sag} {k : BankIx} (he : ((getPos b n g).bank k).state = .empty) :
    let d := startLoad b q n g k 0
    d.pins = b.pins ∧ d.groups = b.groups ∧ (getArr d n).resume = (getArr b n).resume ∧ (getPos d n g).bank k = loadingBank b q
      ∧ ∃ x ∈ d.xfers, x.kind = .resume ∧ x.grp = q ∧ x.arr = n ∧ x.sag = g ∧ x.bank = k := by
  obtain ⟨f, hwake, hkeep⟩ := wakeArr_does b n
  have hpos : ∀ c, getPos (modArr b n f) n c = getPos b n c := fun c => getPos_modArr (fun a => (hkeep a).1) b n n c
  generalize hp : modPos (modArr b n f) n g (fun p => { (if bankEmpty (p.bank k) then p.setBank k (loadingBank (modArr b n f) q) else p) with last := k }) = p
  have hbank : (getPos p n g).bank k = loadingBank b q := by
    have hempty : bankEmpty ((getPos b n g).bank k) = true := by simp [bankEmpty, he]
    rw [← hp, getPos_modPos, hpos, if_pos hempty]
    exact bank_setBank ..
  have hres : (getArr p n).resume = (getArr b n).resume := by
    rw [← hp, modPos, getArr_modArr, getArr_modArr]
    exact (hkeep _).2.1
  have hparts : p.pins = b.pins ∧ p.groups = b.groups := by rw [← hp]; exact ⟨rfl, rfl⟩
  have hload : (∃ r, startLoad b q n g k 0 = setReady (addXfer p .resume q 0 r 0 n g k).2 (addXfer p .resume q 0 r 0 n g k).1)
      ∨ startLoad b q n g k 0 = startReturn p .resume q 0 n g k := by
    unfold startLoad
    dsimp only
    rw [hwake, hp]
    split
    · exact .inl ⟨_, rfl⟩
    · exact .inl ⟨_, rfl⟩
    · exact .inr rfl
  dsimp only
  rcases hload with ⟨r, h⟩ | h
  · rw [h]
    refine ⟨hparts.1, hparts.2, hres, hbank, _, List.mem_map_of_mem (List.mem_append_right _ (List.mem_singleton_self _)), ?_⟩
    rw [if_pos (by exact beq_self_eq_true _)]
    exact ⟨rfl, rfl, rfl, rfl, rfl⟩
  · rw [h]
    exact ⟨hparts.1, hparts.2, hres, hbank, _, List.mem_append_right _ (List.mem_singleton_self _), rfl, rfl, rfl, rfl, rfl⟩

/-- A resume entry starts the load of its tile into a free bank (R106, R250). -/
theorem resume_loads {s : State} {n : Arr} {q : ResumeEnt} {rest : List ResumeEnt} {k : BankIx} (hl : live s.blk = true) (ha : arrAwake s.blk n = true)
    (hq : liveResume s.blk n = q :: rest) (hm : moving s.blk q.grp = false) (hb : loadBusy s.blk n = false) (hw : q.wall = (getArr s.blk n).wall)
    (hst : (getGrp s.blk q.grp).state = .parked ∨ (getGrp s.blk q.grp).state = .spilled ∨ (getGrp s.blk q.grp).state = .parkedStack ∨ (getGrp s.blk q.grp).state = .waiting)
    (hk : k = if singleMode (getGrp s.blk q.grp) = true then 0 else 1 - (getPos s.blk n q.sag).last) (hrun : (getPos s.blk n q.sag).run = none)
    (h0 : (getPos s.blk n q.sag).b0.state = .empty) (h1 : (getPos s.blk n q.sag).b1.state = .empty) :
    ∃ t : State, s.onLive (fun b => runResumeEntry b n) = .next t ∧ (getArr t.blk n).resume = (getArr s.blk n).resume.erase q
      ∧ ((getPos t.blk n q.sag).bank k).state = .loading ∧ ((getPos t.blk n q.sag).bank k).grp = some q.grp
      ∧ (∃ x ∈ t.blk.xfers, x.kind = .resume ∧ x.grp = q.grp ∧ x.arr = n ∧ x.sag = q.sag ∧ x.bank = k) ∧ t.blk.groups = s.blk.groups := by
  have hpick : pickLoad s.blk n q.sag q.grp 0 = .bank k := by rw [hk]; exact pickLoad_empty h0 h1
  have hpos : getPos (popResume s.blk n q) n q.sag = getPos s.blk n q.sag := getPos_modArr (by intro; rfl) s.blk n n q.sag
  have hempty : ((getPos (popResume s.blk n q) n q.sag).bank k).state = .empty := by
    rw [hpos]
    rcases (by decide : ∀ k : BankIx, k = 0 ∨ k = 1) k with h | h <;> rw [h] <;> assumption
  have hd : runResumeEntry s.blk n = startLoad (popResume s.blk n q) q.grp n q.sag k 0 := by
    unfold runResumeEntry
    rw [hq]
    dsimp only
    rw [ha, hm, hb, if_neg (by decide), if_neg (by simp [hw]), if_neg (by simp [hst]), if_neg (by simp [posIdle, hrun]), hpick]
    rfl
  obtain ⟨hp, hg, hres, hbank, hx⟩ := startLoad_does (q := q.grp) hempty
  rw [← hd] at hp hg hres hbank hx
  have hpop : (getArr (popResume s.blk n q) n).resume = (getArr s.blk n).resume.erase q := by
    unfold popResume
    rw [getArr_modArr]
  exact ⟨_, onLive_pins (f := fun b => runResumeEntry b n) hl hp, hres.trans hpop, (congrArg (·.state) hbank).trans rfl, (congrArg (·.grp) hbank).trans rfl, hx, hg⟩

end Sys2Proof.Proofs.Kiln

namespace Sys2Proof

open Machine Proofs.Kiln

/-- Settles O56: each event does what its step of the kiln says; a spill counts when its last byte is written (log 37). -/
theorem kilnEvents : Obligations.KilnEvents := by
  unfold Obligations.KilnEvents
  refine ⟨fun s g i e hl hw ht hc he hp hf => timeout_halts hl hw ht hc he hp hf, fun s i x hl hx hk he hm => spill_ends hl hx hk he hm,
    fun s g rank m r hl hf hc hm hrec hfind hr hne => ?_, fun s g d rank rec_ e hl hf he hd hrank ha hr => reoffer_grants hl hf he hd hrank ha hr,
    fun s n q rest hl ha hq hm hb hw hst hrun h0 h1 => resume_loads hl ha hq hm hb hw hst rfl hrun h0 h1,
    fun s n q rest hl ha hq hm hb hw => resume_halts hl ha hq hm hb hw⟩
  obtain ⟨t, ht, hnext, hnadd, hcells, ⟨hlap, hfirst, hnot⟩, hothers, harr, hsram⟩ := merge_ends hl hf hc hm hrec hfind hr hne
  refine ⟨t, ht, hnext, hnadd, hcells, ⟨hlap, ?_⟩, hothers, harr, hsram⟩
  split
  · exact hfirst ‹_›
  · exact hnot ‹_›

end Sys2Proof

/-! SUPPORT. The compares, the rows that leave stage 9, and the wheels (R76, R153, R156, R407). Settles part of O57. -/

namespace Sys2Proof.Proofs.Drains

open Sys2Proof Sys2Proof.Machine Sys2Proof.Laws Sys2Proof.Proofs.IssueStage Sys2Proof.Proofs.EngReset Sys2Proof.Proofs.Fields
open Sys2Proof.Proofs.Reports Sys2Proof.Proofs.Reads Sys2Proof.Proofs.Strands Sys2Proof.Proofs.Complete Sys2Proof.Proofs.Passes Sys2Proof.Proofs.Sram
open Sys2Proof.Proofs.Kiln (OnlyActs)

/-! ### The compare (R76, R156) -/

theorem compareResult_is {b : Block} {n : Arr} {d : DTile} {r : PassRun} (hu : UnitsRun b) (hn : usable b n = true)
    (hd : (getArr b n).tiles.find? (fun d => !d.checkDone && !(getArr b n).reads.any (fun t => t.tid == d.tid)) = some d) (hr : d.src.run = some r) :
    (∀ k, mismatch b n d r = some k → compareResult b n = compareFails b n d r k) ∧ (mismatch b n d r = none → compareResult b n = comparePasses b n d r) := by
  obtain ⟨-, hcold, -, hawake⟩ := hu
  unfold compareResult
  rw [hd]
  dsimp only
  rw [if_neg (by simp [hcold, hawake, hn]), hr]
  dsimp only
  refine ⟨fun k h => ?_, fun h => ?_⟩ <;> rw [h]

/-- What a failed tile leaves of its array (R76). -/
theorem discardTile_keeps (b : Block) (n : Arr) (d : DTile) :
    getArr (discardTile b n d) n = { getArr b n with
        tiles := (getArr b n).tiles.filter (fun t => t.tid != d.tid), rows := (getArr b n).rows.filter (fun r => r.tid != d.tid)
        reads := (getArr b n).reads.filter (fun t => t.tid != d.tid) }
      ∧ (discardTile b n d).pins = b.pins ∧ (discardTile b n d).regs = b.regs := by
  generalize hm : modArr b n (fun a => { a with
    tiles := a.tiles.filter (fun t => t.tid != d.tid), rows := a.rows.filter (fun r => r.tid != d.tid), reads := a.reads.filter (fun t => t.tid != d.tid) }) = m
  have hma : getArr m n = { getArr b n with
      tiles := (getArr b n).tiles.filter (fun t => t.tid != d.tid), rows := (getArr b n).rows.filter (fun r => r.tid != d.tid)
      reads := (getArr b n).reads.filter (fun t => t.tid != d.tid) } := by
    rw [← hm]
    exact getArr_modArr ..
  have ha : ∀ e : Block, e.arrays = m.arrays → getArr e n = _ := fun e he => (congrArg (·.get n) he).trans hma
  have hp : m.pins = b.pins := by rw [← hm]; rfl
  have hg : m.regs = b.regs := by rw [← hm]; rfl
  unfold discardTile
  rw [hm]
  dsimp only
  split
  · split
    · exact ⟨ha _ (by rfl), hp, hg⟩
    · exact ⟨ha _ (by rfl), hp, hg⟩
  · exact ⟨hma, hp, hg⟩

/-- The record of a mismatch is a register (R86). -/
theorem abftLast_is (b : Block) (n : Arr) (g : Sag) (r : PassRun) (k : Nat × Nat) : ∃ w, abftLast b n g r k = setRaw b (.arrAbftLast n) w := ⟨_, rfl⟩

theorem restoreBank_keeps (b : Block) (n : Arr) (g : Sag) (r : PassRun) :
    (getArr (restoreBank b n g r) n).tiles = (getArr b n).tiles ∧ (getArr (restoreBank b n g r) n).replays = (getArr b n).replays := by
  unfold restoreBank modPos
  rw [getArr_modArr]
  exact ⟨rfl, rfl⟩

/-- A compare that fails for the first time is counted and its pass goes to the array's replays (R76). -/
theorem compareFails_first (b : Block) (n : Arr) (d : DTile) {r : PassRun} (k : Nat × Nat) (hr : r.replay = false) :
    let t := compareFails b n d r k
    t.pins = b.pins ∧ getFld t (.arrAbftFirst n) 0 32 = min (2 ^ 32 - 1) (getFld b (.arrAbftFirst n) 0 32 + 1)
      ∧ (∃ r', (getArr t n).replays = (getArr b n).replays ++ [(d.src.sag, r')] ∧ r'.replay = true) ∧ ∀ x ∈ (getArr t n).tiles, x.tid ≠ d.tid := by
  obtain ⟨harr, hpins, hregs⟩ := discardTile_keeps b n d
  obtain ⟨w, hw⟩ := abftLast_is (discardTile b n d) n d.src.sag r k
  generalize hl : setRaw (discardTile b n d) (.arrAbftLast n) w = l
  have hla : getArr l n = getArr (discardTile b n d) n := by rw [← hl]; rfl
  have hlp : l.pins = (discardTile b n d).pins := by rw [← hl]; rfl
  have hold : getFld l (.arrAbftFirst n) 0 32 = getFld b (.arrAbftFirst n) 0 32 := by
    have hraw : rawReg l (.arrAbftFirst n) = rawReg (discardTile b n d) (.arrAbftFirst n) := by
      rw [← hl]
      exact rawReg_setRaw_ne _ _ (fun h => nomatch h)
    rw [getFld, hraw, ← getFld, getFld_congr hregs]
  generalize hm : bumpFld l (.arrAbftFirst n) 0 32 1 = m
  have hcount : getFld m (.arrAbftFirst n) 0 32 = min (2 ^ 32 - 1) (getFld b (.arrAbftFirst n) 0 32 + 1) := by
    rw [← hm, getFld_bumpFld _ _ _ (by omega), hold]
  have hma : getArr m n = getArr (discardTile b n d) n := by rw [← hm, ← hla]; rfl
  have hmp : m.pins = b.pins := by rw [← hpins, ← hlp, ← hm]; rfl
  obtain ⟨htiles, hreplays⟩ := restoreBank_keeps m n d.src.sag r
  have hres : (restoreBank m n d.src.sag r).pins = m.pins ∧ (restoreBank m n d.src.sag r).regs = m.regs := ⟨rfl, rfl⟩
  generalize hq : restoreBank m n d.src.sag r = q at htiles hreplays hres
  have hdone : compareFails b n d r k = modArr q n (fun a => { a with replays := a.replays ++ [(d.src.sag, restartRun q r)] }) := by
    unfold compareFails
    dsimp only
    rw [hw, hl, hr, if_pos (by decide), hm, hq]
  dsimp only
  rw [hdone]
  refine ⟨hres.1.trans hmp, (getFld_congr (b' := m) hres.2 _ _ _).trans hcount, ⟨restartRun q r, ?_, rfl⟩, ?_⟩
  · rw [getArr_modArr, hreplays, hma, harr]
  · rw [getArr_modArr, htiles, hma, harr]
    simp

/-- The compare of a drain's tile that passes releases its rows (R77, R156). -/
theorem comparePasses_drain (b : Block) (n : Arr) (d : DTile) (r : PassRun) (hk : d.src.kind = .drain) :
    let t := comparePasses b n d r
    t.pins = b.pins ∧ t.regs = b.regs ∧ (getArr t n).tiles = (getArr b n).tiles.map (fun x => if x.tid == d.tid then { x with checkDone := true } else x) := by
  generalize hm : modTile b n d.tid (fun x => { x with checkDone := true }) = m
  have hmt : (getArr m n).tiles = (getArr b n).tiles.map (fun x => if x.tid == d.tid then { x with checkDone := true } else x) := by
    rw [← hm, modTile, getArr_modArr]
  have hmp : m.pins = b.pins ∧ m.regs = b.regs := by rw [← hm]; exact ⟨rfl, rfl⟩
  have hclear : ∀ k, (getArr (clearBank m n d.src.sag k) n).tiles = (getArr m n).tiles := fun k => by
    unfold clearBank modPos
    rw [getArr_modArr]
  have hdone : comparePasses b n d r = readOut m n d.src := by
    unfold comparePasses
    dsimp only
    rw [hk, hm]
  dsimp only
  rw [hdone]
  unfold readOut
  rw [hk]
  dsimp only
  cases d.src.bank with
  | none =>
    cases d.src.grp with
    | none => exact ⟨hmp.1, hmp.2, hmt⟩
    | some g => exact ⟨hmp.1, hmp.2, hmt⟩
  | some k =>
    cases d.src.grp with
    | none => exact ⟨hmp.1, hmp.2, (hclear k).trans hmt⟩
    | some g => exact ⟨hmp.1, hmp.2, (hclear k).trans hmt⟩

theorem compare_decides {s : State} {n : Arr} {d : DTile} {r : PassRun} (hu : UnitsRun s.blk) (hn : usable s.blk n = true)
    (hd : (getArr s.blk n).tiles.find? (fun d => !d.checkDone && !(getArr s.blk n).reads.any (fun t => t.tid == d.tid)) = some d) (hr : d.src.run = some r) :
    ∃ t : State, s.onLive (fun b => compareResult b n) = .next t
      ∧ (∀ k, mismatch s.blk n d r = some k → r.replay = false →
          getFld t.blk (.arrAbftFirst n) 0 32 = min (2 ^ 32 - 1) (getFld s.blk (.arrAbftFirst n) 0 32 + 1)
            ∧ (∃ r', (getArr t.blk n).replays = (getArr s.blk n).replays ++ [(d.src.sag, r')] ∧ r'.replay = true) ∧ (∀ x ∈ (getArr t.blk n).tiles, x.tid ≠ d.tid))
      ∧ (mismatch s.blk n d r = none → d.src.kind = .drain →
          (getArr t.blk n).tiles = (getArr s.blk n).tiles.map (fun x => if x.tid == d.tid then { x with checkDone := true } else x) ∧ t.blk.regs = s.blk.regs) := by
  obtain ⟨hfail, hpass⟩ := compareResult_is hu hn hd hr
  refine ⟨_, onLive_live (fun b => compareResult b n) hu.live, fun k hk hrep => ?_, fun hno hkind => ?_⟩
  · have h := compareFails_first s.blk n d k hrep
    rw [← hfail k hk] at h
    exact h.2
  · have h := comparePasses_drain s.blk n d r hkind
    rw [← hpass hno] at h
    exact ⟨h.2.2, h.2.1⟩

/-! ### Rows that leave stage 9 (R153) -/

/-- From `b` to `d`, where no word holds an error in either, the pins, the arrays and the groups stand. -/
structure Clean (b d : Block) : Prop where
  pins : d.pins = b.pins
  arrays : d.arrays = b.arrays
  groups : d.groups = b.groups
  ecc : eccClean d

theorem Clean.refl {b : Block} (h : eccClean b) : Clean b b := ⟨rfl, rfl, rfl, h⟩

theorem Clean.trans {b d e : Block} (h : Clean b d) (k : Clean d e) : Clean b e :=
  ⟨k.pins.trans h.pins, k.arrays.trans h.arrays, k.groups.trans h.groups, k.ecc⟩

/-- A step that leaves `b` clean and meets no error. -/
def Passes (b : Block) (s : Block × Bool) : Prop := Clean b s.1 ∧ s.2 = false

theorem Clean.passes {b d : Block} (h : Clean b d) {s : Block × Bool} (k : Passes d s) : Passes b s := ⟨h.trans k.1, k.2⟩

theorem Clean.stays {b d : Block} (h : Clean b d) : Passes b (d, false) := ⟨h, rfl⟩

theorem Passes.andThen {b : Block} {s : Block × Bool} {f : Block → Block × Bool} (h : Passes b s) (hf : ∀ c, eccClean c → Passes c (f c)) : Passes b (andThen s f) :=
  ⟨h.1.trans (hf _ h.1.ecc).1, by simp [Machine.andThen, h.2, (hf _ h.1.ecc).2]⟩

theorem Clean.bump {b d : Block} (h : Clean b d) (r : Reg) (lo wid n : Nat) : Clean b (bumpFld d r lo wid n) := h.trans ⟨rfl, rfl, rfl, h.ecc⟩

theorem hwSet_clean {b : Block} (h : eccClean b) (r : Reg) (lo : Nat) : Clean b (hwSet b r lo) := ⟨rfl, rfl, rfl, h⟩

theorem hwFold_clean {b : Block} (h : eccClean b) (n : Chk) (l : List Byte) : Clean b (hwFold b n l) := ⟨rfl, rfl, rfl, h⟩

theorem chkHold_clean {b : Block} (h : eccClean b) (n : Chk) (x : Holder) (who : Option (Nat × Nat)) (l : List Byte) : Clean b (chkHold b n x who l) := by
  unfold chkHold
  split
  · exact ⟨rfl, rfl, rfl, h⟩
  · exact ⟨rfl, rfl, rfl, h⟩

/-- Bytes that reach words without errors meet none (R16). -/
theorem scatter_clean {b : Block} (h : eccClean b) (l : List (ByteRef × Byte)) :
    ∃ d, OnlyActs b d ∧ scatter b l = ({ d with sram := l.foldl (fun m p => putRef m p.1 p.2) b.sram }, false) := by
  obtain ⟨h1, h2⟩ := h
  have hb : { b with ecc1 := ([] : List Nat), ecc2 := [] } = b := by
    obtain ⟨⟩ := b
    cases h1
    cases h2
    rfl
  have hkeep : ∀ (a n : Nat) (r : ByteRef), (refAddrs r).any (fun x => (countSram b a n).ecc2.contains (x / 8)) = false := fun a n r => by
    show (refAddrs r).any (fun x => b.ecc2.contains (x / 8)) = false
    simp [h2]
  unfold scatter
  dsimp only
  rw [h1, h2, List.filter_nil, hb, eccTouch_clean ⟨h1, h2⟩]
  dsimp only
  simp only [hkeep, Bool.false_eq_true, if_false]
  exact ⟨countSram b _ _, rfl, rfl⟩

theorem onlyActs_clean {b d : Block} (h : OnlyActs b d) (hc : eccClean b) : Clean b d := by
  rw [h]
  exact ⟨rfl, rfl, rfl, hc⟩

theorem scatter_passes {b : Block} (h : eccClean b) (l : List (ByteRef × Byte)) : Passes b (scatter b l) := by
  obtain ⟨d, hd, hs⟩ := scatter_clean h l
  have hc := onlyActs_clean hd h
  rw [hs]
  exact ⟨⟨hc.pins, hc.arrays, hc.groups, hc.ecc⟩, rfl⟩

theorem writeLocal_passes {b : Block} (h : eccClean b) (t : TileRead) (ot base wk i : Nat) (o : List (Nat × List Byte) × List (Nat × Byte) × Bool) :
    Passes b (writeLocal b t ot base wk i o) := scatter_passes h _

theorem redWrite_passes {b : Block} (h : eccClean b) (p : List W64) (off : Nat) (r : List F32) : Passes b (redWrite b p off r) := by
  unfold redWrite
  dsimp only
  rw [sramWrite_clean _ _ h]
  exact ⟨⟨rfl, rfl, rfl, h⟩, rfl⟩

theorem feedStream_clean {b : Block} (h : eccClean b) (t : TileRead) (i : Nat) (d : Desc) (l : List Seg) : Clean b (feedStream b t i d l) := by
  unfold feedStream
  split
  · exact ⟨rfl, rfl, rfl, h⟩
  · exact ⟨rfl, rfl, rfl, h⟩

/-- One row through stages 2 to 10: its tile has one row more out (R153). -/
theorem glazeRow_does {b : Block} (hc : eccClean b) (n : Arr) (d : DTile) (row : DRow) :
    ∃ c f, Clean b c ∧ Clean (modTile c n d.tid f) (glazeRow b n d row).1 ∧ (glazeRow b n d row).2 = false
      ∧ ∀ x : DTile, (f x).tid = x.tid ∧ (f x).rowsOut = x.rowsOut + 1 := by
  unfold glazeRow
  dsimp -zeta only
  extract_lets +lift t p ot gr all es main second kept parts nan posI negI b0 b1 r0 red dd segs r1 r2
  have h0 : Clean b b1 := by
    have hb : Clean b b0 := (((Clean.refl hc).bump ..).bump ..).bump ..
    simp only [b1]
    split
    · exact hb.trans (hwSet_clean hb.ecc ..)
    · exact hb
  have hr0 : Passes b r0 := by
    simp only [r0]
    split
    · exact h0.passes (redWrite_passes h0.ecc ..)
    · exact h0.stays
  have hr1 : Passes b r1 := by
    refine hr0.andThen fun c hcc => ?_
    dsimp only
    split
    · have hf := feedStream_clean hcc t (gpOut p) dd segs
      split
      · exact (hf.trans (feedStream_clean hf.ecc ..)).stays
      · exact hf.stays
    · refine (writeLocal_passes hcc ..).andThen fun e he => ?_
      split
      · exact writeLocal_passes he ..
      · exact (Clean.refl he).stays
    · refine (writeLocal_passes hcc ..).andThen fun e he => ?_
      split
      · exact writeLocal_passes he ..
      · exact (Clean.refl he).stays
    · exact (Clean.refl hcc).stays
  have hr2 : Passes b r2 := by
    refine hr1.andThen fun c hcc => ?_
    split
    · exact writeLocal_passes hcc ..
    · exact (Clean.refl hcc).stays
  generalize r2 = r at hr2
  obtain ⟨hclean, hfine⟩ := hr2
  unfold onFst
  dsimp -zeta only
  extract_lets +lift bytes held folded out
  have hheld : Clean b held := by
    simp only [held]
    split
    · exact hclean.trans (chkHold_clean hclean.ecc ..)
    · exact hclean
  have hfolded : Clean b folded := by
    simp only [folded]
    split
    · exact hheld
    · exact hheld.trans (hwFold_clean hheld.ecc ..)
  have hout : Clean b out := hfolded.trans ⟨rfl, rfl, rfl, hfolded.ecc⟩
  have hkeep : ∀ f, eccClean (modTile out n d.tid f) := fun _ => hout.ecc
  have htick : ∀ f, Clean (modTile out n d.tid f) (tickFree (modTile out n d.tid f)) := fun f => ⟨rfl, rfl, rfl, hkeep f⟩
  clear_value out
  refine ⟨out, fun x => { x with rowsOut := x.rowsOut + 1, nan := x.nan + nan, pos := x.pos + posI, negc := x.negc + negI, folded := x.folded || !bytes.isEmpty, red := red },
    hout, ?_, hfine, fun _ => ⟨rfl, rfl⟩⟩
  split
  · exact .refl (hkeep _)
  · exact htick _

theorem readsEcc_clean {b : Block} (h : eccClean b) (l : List (Nat × Nat)) : readsEcc b l = (b, false) := if_pos (by simp [h.1, h.2])

/-- What a row takes of its port leaves the array's rows, tiles and positions (R153, R154). -/
theorem takePort_keeps (b : Block) (n : Arr) (d : DTile) (h : eccClean b) :
    (takePort b n d).pins = b.pins ∧ (takePort b n d).groups = b.groups ∧ eccClean (takePort b n d) ∧ (∀ m, m ≠ n → getArr (takePort b n d) m = getArr b m)
      ∧ (getArr (takePort b n d) n).pos = (getArr b n).pos ∧ (getArr (takePort b n d) n).tiles = (getArr b n).tiles := by
  unfold takePort
  dsimp only
  split
  · exact ⟨rfl, rfl, h, fun m hm => getArr_modArr_ne _ _ hm, by rw [getArr_modArr], by rw [getArr_modArr]⟩
  · exact ⟨rfl, rfl, h, fun _ _ => rfl, rfl, rfl⟩
  · exact ⟨rfl, rfl, h, fun _ _ => rfl, rfl, rfl⟩

/-- The tile of a number, after a change of that tile. -/
theorem find_tile_map {l : List DTile} {i : Nat} {d : DTile} {f : DTile → DTile} (hf : ∀ x, (f x).tid = x.tid) (h : l.find? (fun t => t.tid == i) = some d) :
    (l.map (fun t => if t.tid == i then f t else t)).find? (fun t => t.tid == i) = some (f d) := by
  have hid : d.tid = i := by simpa using List.find?_some h
  rw [List.find?_map]
  have hp : (fun x : DTile => x.tid == i) ∘ (fun x => if x.tid == i then f x else x) = fun x => x.tid == i := by
    funext x
    by_cases hx : x.tid = i <;> simp [hx, hf]
  rw [hp, h]
  simp [hid]

/-- A row that may leave is handed to its destination (R153 to R157). -/
theorem rowOutStep_does {b : Block} {n : Arr} {x : DRow} {rest : List DRow} {d : DTile} (hu : UnitsRun b) (hc : eccClean b) (hn : usable b n = true)
    (hrows : (getArr b n).rows = x :: rest) (hd : (getArr b n).tiles.find? (fun d => d.tid == x.tid) = some d) (hk : d.src.kind ≠ .peer) (hm : rowMay b n d = true)
    (hlast : d.rowsOut + 1 ≠ readRows d.src) :
    rowOutStep b n = touchArr (modArr (glazeRow (takePort b n d) n d x).1 n (fun a => { a with rows := rest })) n := by
  obtain ⟨-, hcold, -, hawake⟩ := hu
  have hfine : (glazeRow (takePort b n d) n d x).2 = false := by
    obtain ⟨-, -, -, -, hfine, -⟩ := glazeRow_does (takePort_keeps b n d hc).2.2.1 n d x
    exact hfine
  generalize hg : glazeRow (takePort b n d) n d x = g at hfine
  obtain ⟨g, bad⟩ := g
  cases hfine
  unfold rowOutStep
  rw [hrows]
  dsimp only
  rw [if_neg (by simp [hcold, hawake, hn]), hd]
  dsimp only
  rw [readsEcc_clean hc, ite_self, if_neg (by simp), if_neg hk, if_pos hm, hg]
  dsimp only
  rw [if_neg (by simpa using hlast)]

theorem row_leaves {s : State} {n : Arr} {x : DRow} {rest : List DRow} {d : DTile} (hu : UnitsRun s.blk) (hc : eccClean s.blk) (hn : usable s.blk n = true)
    (hrows : (getArr s.blk n).rows = x :: rest) (hd : (getArr s.blk n).tiles.find? (fun d => d.tid == x.tid) = some d) (hk : d.src.kind ≠ .peer)
    (hm : rowMay s.blk n d = true) (hlast : d.rowsOut + 1 ≠ readRows d.src) :
    ∃ t : State, s.onLive (fun b => rowOutStep b n) = .next t ∧ (getArr t.blk n).rows = rest
      ∧ ((getArr t.blk n).tiles.find? (fun d => d.tid == x.tid)).map (·.rowsOut) = some (d.rowsOut + 1)
      ∧ (getArr t.blk n).pos = (getArr s.blk n).pos ∧ (∀ m, m ≠ n → getArr t.blk m = getArr s.blk m) ∧ t.blk.groups = s.blk.groups := by
  have hdone := rowOutStep_does hu hc hn hrows hd hk hm hlast
  have hid : d.tid = x.tid := by simpa using List.find?_some hd
  obtain ⟨hp0, hg0, hc0, ho0, hpos0, ht0⟩ := takePort_keeps s.blk n d hc
  obtain ⟨c, f, hc1, hc2, -, hf⟩ := glazeRow_does hc0 n d x
  generalize (glazeRow (takePort s.blk n d) n d x).1 = g at hdone hc2
  generalize hm : modTile c n d.tid f = m at hc2
  have hg : getArr g n = { getArr c n with tiles := (getArr c n).tiles.map (fun t => if t.tid == d.tid then f t else t) } := by
    have hgm : getArr g n = getArr m n := congrArg (·.get n) hc2.arrays
    rw [hgm, ← hm]
    exact getArr_modArr ..
  have hcn : getArr c n = getArr (takePort s.blk n d) n := congrArg (·.get n) hc1.arrays
  have hgo : ∀ k, k ≠ n → getArr g k = getArr s.blk k := fun k hkn => by
    have h1 : getArr g k = getArr m k := congrArg (·.get k) hc2.arrays
    have h2 : getArr c k = getArr (takePort s.blk n d) k := congrArg (·.get k) hc1.arrays
    rw [h1, ← hm, modTile, getArr_modArr_ne _ _ hkn, h2, ho0 k hkn]
  have hgr : g.groups = s.blk.groups := hc2.groups.trans ((show m.groups = c.groups by rw [← hm]; rfl).trans (hc1.groups.trans hg0))
  have hgp : g.pins = s.blk.pins := hc2.pins.trans ((show m.pins = c.pins by rw [← hm]; rfl).trans (hc1.pins.trans hp0))
  have harr : getArr (rowOutStep s.blk n) n = { getArr g n with rows := rest, idleSince := arrNow g } := by
    rw [hdone, touchArr, getArr_modArr, getArr_modArr]
    rfl
  have hpins : (rowOutStep s.blk n).pins = s.blk.pins := (congrArg (·.pins) hdone).trans hgp
  refine ⟨_, onLive_pins (f := fun b => rowOutStep b n) hu.live hpins, congrArg (·.rows) harr, ?_, ?_, fun k hkn => ?_, (congrArg (·.groups) hdone).trans hgr⟩
  · refine (congrArg (fun a : ArraySt => (a.tiles.find? (fun d => d.tid == x.tid)).map (·.rowsOut)) harr).trans ?_
    dsimp only
    rw [hg, hcn, ht0, hid, find_tile_map (fun x => (hf x).1) hd]
    exact congrArg some (hf d).2
  · refine (congrArg (·.pos) harr).trans ?_
    dsimp only
    rw [hg, hcn, hpos0]
  · refine (congrArg (getArr · k) hdone).trans ?_
    rw [touchArr, getArr_modArr_ne _ _ hkn, getArr_modArr_ne _ _ hkn, hgo k hkn]

/-! ### The wheels (R407) -/

/-- The user that waits first from where the rotation goes on. -/
theorem nextUser_first {k n : Nat} {l : List Nat} (hn : n ∈ l)
    (h : ∀ u ∈ l, u ≠ n → (k ≤ n ∧ (u < k ∨ n < u)) ∨ (n < k ∧ u < k ∧ n < u)) : nextUser k l = some n := by
  have hmin : ∀ {m : List Nat}, n ∈ m → (∀ u ∈ m, n ≤ u) → m.min? = some n := fun hm hle => List.min?_eq_some_iff.mpr ⟨hm, hle⟩
  unfold nextUser
  by_cases hk : k ≤ n
  · have hf : (l.filter (fun u => decide (k ≤ u))).min? = some n := by
      refine hmin (List.mem_filter.mpr ⟨hn, by simpa using hk⟩) fun u hu => ?_
      obtain ⟨hul, hku⟩ := List.mem_filter.mp hu
      have hku : k ≤ u := by simpa using hku
      by_cases hun : u = n
      · exact hun.ge
      · rcases h u hul hun with h' | h' <;> omega
    rw [hf]
  · have hf : l.filter (fun u => decide (k ≤ u)) = [] := by
      refine List.filter_eq_nil_iff.mpr fun u hu => ?_
      rw [decide_eq_true_eq]
      by_cases hun : u = n
      · omega
      · rcases h u hu hun with h' | h' <;> omega
    rw [hf]
    refine hmin hn fun u hu => ?_
    by_cases hun : u = n
    · exact hun.ge
    · rcases h u hu hun with h' | h' <;> omega

theorem drain_uses {b : Block} {w : Fin 2} {n : Arr} (h : drainWaits b w n = true) : n.val ∈ wheelUsers b w :=
  List.mem_append_left _ (List.mem_map_of_mem (List.mem_filter.mpr ⟨List.mem_finRange n, h⟩))

/-- A wheel serves the drain whose turn is next: its credit grows by 1,024 B (R407). -/
theorem wheel_serves_drain {s : State} {w : Fin 2} {n : Arr} (hl : live s.blk = true) (hw : drainWaits s.blk w n = true)
    (h : ∀ u ∈ wheelUsers s.blk w, u ≠ n.val → (s.blk.wheelNext.get w ≤ n.val ∧ (u < s.blk.wheelNext.get w ∨ n.val < u))
      ∨ (n.val < s.blk.wheelNext.get w ∧ u < s.blk.wheelNext.get w ∧ n.val < u)) :
    ∃ t : State, s.onLive (fun b => wheelServe b w) = .next t
      ∧ getArr t.blk n = { getArr s.blk n with credit := (getArr s.blk n).credit.set w.val ((getArr s.blk n).credit.get w + 1024) w.isLt }
      ∧ (∀ m, m ≠ n → getArr t.blk m = getArr s.blk m) ∧ t.blk.wheelNext.get w = n.val + 1 ∧ t.blk = { s.blk with
          arrays := t.blk.arrays, wheelNext := t.blk.wheelNext, acts := t.blk.acts, ecc1 := t.blk.ecc1, ecc2 := t.blk.ecc2 } := by
  have hnext := nextUser_first (drain_uses hw) h
  have hfin : (Fin.ofNat 4 n.val : Arr) = n := Fin.ext (Nat.mod_eq_of_lt n.isLt)
  have hdone : wheelServe s.blk w = passWheel (modArr { s.blk with wheelNext := s.blk.wheelNext.set w.val (n.val + 1) w.isLt } n
      (fun a => { a with credit := a.credit.set w.val (a.credit.get w + 1024) w.isLt })) w 1024 := by
    unfold wheelServe
    rw [hnext]
    dsimp only
    rw [if_pos n.isLt, hfin]
  have hpins : (wheelServe s.blk w).pins = s.blk.pins := by rw [hdone]; rfl
  have harr : ∀ c m, getArr (passWheel c w 1024) m = getArr c m := fun _ _ => rfl
  refine ⟨_, onLive_pins (f := fun b => wheelServe b w) hl hpins, (congrArg (getArr · n) hdone).trans ((harr _ n).trans (getArr_modArr ..)),
    fun m hm => (congrArg (getArr · m) hdone).trans ((harr _ m).trans (getArr_modArr_ne _ _ hm)), (congrArg (·.wheelNext.get w) hdone).trans (Vector.getElem_set_self ..), ?_⟩
  show wheelServe s.blk w = _
  rw [hdone]
  rfl

/-- Bytes of plain addresses cross the wheel together, up to 1,024 of them (R123). -/
theorem wheelTake_all {l : List (ByteRef × Byte)} (hl : ∀ p ∈ l, ∃ a, p.1 = .mem a) {n : Nat} (hn : l.length ≤ n) : wheelTake n l = (l, []) := by
  induction l generalizing n with
  | nil => cases n <;> rfl
  | cons p l ih =>
    obtain ⟨r, v⟩ := p
    obtain ⟨a, rfl⟩ := hl (r, v) List.mem_cons_self
    obtain ⟨m, rfl⟩ : ∃ m, n = m + 1 := ⟨n - 1, by simp only [List.length_cons] at hn; omega⟩
    have hm := ih (fun p hp => hl p (List.mem_cons_of_mem _ hp)) (n := m) (by simp only [List.length_cons] at hn; omega)
    unfold wheelTake
    rw [hm]

/-- Bytes put at one address after another. -/
theorem putRefs_mem (m : Mem) (a k : Nat) (f : Nat → Byte) :
    ((List.range k).map (fun i => ((.mem (a + i) : ByteRef), f i))).foldl (fun m p => putRef m p.1 p.2) m = memPutBytes m a ((List.range k).map f) := by
  rw [← foldl_memPut, List.foldl_map, List.length_map, List.length_range]
  refine List.foldl_ext _ _ _ fun x i hi => ?_
  simp [putRef, List.getD_eq_getElem?_getD, List.getElem?_range (List.mem_range.mp hi)]

theorem passWheel_clean {b : Block} (h : eccClean b) (w : Fin 2) (n : Nat) : OnlyActs b (passWheel b w n) := by
  obtain ⟨h1, h2⟩ := h
  unfold OnlyActs passWheel freshEcc countSram
  simp [h1, h2]

/-- A wheel turns the bytes that a LOAD has read into its staging (R123, R407). -/
theorem wheel_turns {s : State} {w : Fin 2} {x : Stream} {a k : Nat} {f : Nat → Byte} (hl : live s.blk = true) (hc : eccClean s.blk)
    (hx : findStream s.blk x.id = some x) (hone : ∀ y ∈ s.blk.streams, y.turned = true → y.turnNo = x.turnNo → y = x) (ht : x.turned = true)
    (hw : x.write = false) (hwheel : x.wheel = some w) (hu : wheelUsers s.blk w = [4 + x.turnNo]) (hk : k ≤ 1024)
    (hq : x.wq = (List.range k).map (fun i => (.mem (a + i), f i))) :
    ∃ t : State, s.onLive (fun b => wheelServe b w) = .next t
      ∧ (∀ i < k, memGet t.blk.sram (a + i) = f i) ∧ (∀ y, (y < a ∨ a + k ≤ y) → memGet t.blk.sram y = memGet s.blk.sram y)
      ∧ (findStream t.blk x.id).map (·.wq) = some [] ∧ t.blk.wheelNext.get w = 5 + x.turnNo ∧ t.blk.arrays = s.blk.arrays := by
  have hmem : x ∈ s.blk.streams := List.mem_of_find?_eq_some hx
  have hready : turnReady x = true := by
    have hin : 4 + x.turnNo ∈ wheelUsers s.blk w := by rw [hu]; exact List.mem_singleton_self _
    rcases List.mem_append.mp hin with h | h
    · obtain ⟨n, -, hn⟩ := List.mem_map.mp h
      exact absurd hn (by have := n.isLt; omega)
    · obtain ⟨y, hy, hno⟩ := List.mem_map.mp h
      obtain ⟨hys, hcond⟩ := List.mem_filter.mp hy
      simp only [Bool.and_eq_true] at hcond
      obtain ⟨⟨⟨hyt, -⟩, -⟩, hyr⟩ := hcond
      rwa [hone y hys hyt (by omega)] at hyr
  have hnext : nextUser (s.blk.wheelNext.get w) (wheelUsers s.blk w) = some (4 + x.turnNo) :=
    nextUser_first (by rw [hu]; exact List.mem_singleton_self _) (fun u hin hne => absurd (by rw [hu] at hin; exact List.mem_singleton.mp hin) hne)
  generalize hb : ({ s.blk with wheelNext := s.blk.wheelNext.set w.val (4 + x.turnNo + 1) w.isLt } : Block) = b
  have hbs : b.streams = s.blk.streams ∧ b.arrays = s.blk.arrays ∧ b.sram = s.blk.sram ∧ b.pins = s.blk.pins ∧ eccClean b := by
    rw [← hb]
    exact ⟨rfl, rfl, rfl, rfl, hc⟩
  obtain ⟨hstr, harr, hsram, hpin, hcb⟩ := hbs
  have hfind : s.blk.streams.find? (fun y => y.turned && decide (y.wheel = some w) && 4 + y.turnNo == 4 + x.turnNo && turnReady y) = some x := by
    cases hf : s.blk.streams.find? (fun y => y.turned && decide (y.wheel = some w) && 4 + y.turnNo == 4 + x.turnNo && turnReady y) with
    | none =>
      have h := List.find?_eq_none.mp hf x hmem
      simp [ht, hwheel, hready] at h
    | some y =>
      have h := List.find?_some hf
      simp only [Bool.and_eq_true, beq_iff_eq] at h
      obtain ⟨⟨⟨hyt, -⟩, hno⟩, -⟩ := h
      rw [hone y (List.mem_of_find?_eq_some hf) hyt (by omega)]
  have htake : wheelTake 1024 x.wq = (x.wq, []) := by
    refine wheelTake_all (fun p hp => ?_) (by rw [hq]; simpa using hk)
    rw [hq] at hp
    obtain ⟨i, -, rfl⟩ := List.mem_map.mp hp
    exact ⟨a + i, rfl⟩
  have hpw := passWheel_clean hcb w x.wq.length
  generalize hm : modStream (passWheel b w x.wq.length) x.id (fun y => { y with wq := [] }) = m
  have hmp : m.streams = s.blk.streams.map (fun y => if y.id == x.id then { y with wq := [] } else y) ∧ m.arrays = s.blk.arrays ∧ m.sram = s.blk.sram ∧ m.pins = s.blk.pins
      ∧ m.wheelNext = b.wheelNext ∧ eccClean m := by
    rw [← hm, hpw, modStream, hstr, ← harr, ← hsram, ← hpin]
    exact ⟨rfl, rfl, rfl, rfl, rfl, hcb⟩
  obtain ⟨hms, hma, hmm, hmpin, hmw, hmc⟩ := hmp
  obtain ⟨d, hd, hscatter⟩ := scatter_clean hmc x.wq
  rw [hq, putRefs_mem, ← hq, hmm] at hscatter
  generalize hv : ({ d with sram := memPutBytes s.blk.sram a ((List.range k).map f) } : Block) = v at hscatter
  have hdone : wheelServe s.blk w = progress v x.ctx := by
    unfold wheelServe
    rw [hnext]
    dsimp only
    rw [hb, if_neg (by omega), hfind]
    dsimp only
    rw [if_neg (by simp [hw]), htake]
    dsimp only
    rw [hm, hscatter]
    rfl
  have hvp : v.streams = m.streams ∧ v.arrays = m.arrays ∧ v.pins = m.pins ∧ v.wheelNext = m.wheelNext ∧ v.sram = memPutBytes s.blk.sram a ((List.range k).map f) := by
    rw [← hv, hd]
    exact ⟨rfl, rfl, rfl, rfl, rfl⟩
  obtain ⟨hvs, hva, hvpin, hvw, hvm⟩ := hvp
  have hts : (wheelServe s.blk w).sram = memPutBytes s.blk.sram a ((List.range k).map f) := (congrArg (·.sram) hdone).trans hvm
  have hlen : ((List.range k).map f).length = k := by simp
  refine ⟨_, onLive_pins (f := fun b => wheelServe b w) hl ((congrArg (·.pins) hdone).trans (hvpin.trans hmpin)), fun i hi => ?_, fun y hy => ?_, ?_, ?_,
    (congrArg (·.arrays) hdone).trans (hva.trans hma)⟩
  · refine (congrArg (memGet · (a + i)) hts).trans ?_
    rw [memGet_memPutBytes_in _ _ _ _ (by rw [hlen]; exact hi)]
    simp
  · refine (congrArg (memGet · y) hts).trans ?_
    exact memGet_memPutBytes_out _ _ _ _ (by rw [hlen]; exact hy)
  · have hfs : findStream (wheelServe s.blk w) x.id = some { x with wq := [] } := by
      unfold findStream at hx ⊢
      rw [(congrArg (·.streams) hdone).trans (hvs.trans hms), List.find?_map]
      have hp : (fun y : Stream => y.id == x.id) ∘ (fun y => if y.id == x.id then { y with wq := [] } else y) = fun y => y.id == x.id := by
        funext y
        by_cases hy : y.id = x.id <;> simp [hy]
      rw [hp, hx]
      simp
    exact congrArg (Option.map (·.wq)) hfs
  · refine (congrArg (·.wheelNext.get w) hdone).trans ?_
    show v.wheelNext.get w = _
    rw [hvw, hmw, ← hb]
    exact (Vector.getElem_set_self ..).trans (by omega)

/-! ### The line (R199) -/

/-- A LINE whose halted weight stream was resumed reads its strip again (R199). -/
theorem line_restarts {s : State} {l : LineRun} {e : Entry} (hl : live s.blk = true) (hf : frozenV s.blk = false) (hline : s.blk.line = some l) (hwait : l.waitFault = true)
    (he : findEntry s.blk l.entry = some e)
    (hs : ∀ x ∈ s.blk.streams, x.owner = .entry l.entry → x.write = false → x.halted = none ∧ streamOut s.blk x.id = 0) :
    ∃ t : State, s.onLive lineRestart = .next t
      ∧ (let todo := lineTodo (parseDesc (e.descs.getD 0 [])) l.entry l.v
         t.blk = { s.blk with
          line := some { l with waitFault := false, step := 0, leaf := [], tot := [], taken := (todo 0).length - (todo l.strip).length }
          streams := s.blk.streams.map (fun x => if decide (x.owner = .entry l.entry) && !x.write then { x with todo := todo l.strip } else x) }) := by
  have hall : s.blk.streams.all (fun x => !(decide (x.owner = .entry l.entry) && !x.write) || (x.halted.isNone && streamOut s.blk x.id == 0)) = true := by
    refine List.all_eq_true.mpr fun x hx => ?_
    by_cases ho : x.owner = .entry l.entry
    · cases hw : x.write
      · obtain ⟨h1, h2⟩ := hs x hx ho hw
        simp [h1, h2]
      · simp
    · simp [ho]
  have hdone : lineRestart s.blk = { s.blk with
      line := some { l with
        waitFault := false, step := 0, leaf := [], tot := []
        taken := (lineTodo (parseDesc (e.descs.getD 0 [])) l.entry l.v 0).length - (lineTodo (parseDesc (e.descs.getD 0 [])) l.entry l.v l.strip).length }
      streams := s.blk.streams.map (fun x => if decide (x.owner = .entry l.entry) && !x.write then
        { x with todo := lineTodo (parseDesc (e.descs.getD 0 [])) l.entry l.v l.strip } else x) } := by
    unfold lineRestart
    rw [hline]
    dsimp only [Option.bind_some]
    rw [he]
    dsimp only
    rw [hwait, hf, hall]
    rfl
  exact ⟨_, onLive_pins hl (by rw [hdone]), hdone⟩

end Sys2Proof.Proofs.Drains

/-! SUPPORT. The sequencer: the end of a layer and the rule passes (R166, R167, R179). Settles O57. -/

namespace Sys2Proof.Proofs.Sequencer

open Sys2Proof Sys2Proof.Machine Sys2Proof.Laws Sys2Proof.Proofs.IssueStage Sys2Proof.Proofs.EngReset Sys2Proof.Proofs.Fields
open Sys2Proof.Proofs.Reports Sys2Proof.Proofs.Reads Sys2Proof.Proofs.Strands Sys2Proof.Proofs.Complete Sys2Proof.Proofs.Passes Sys2Proof.Proofs.Sram
open Sys2Proof.Proofs.Kiln (OnlyActs)
open Sys2Proof.Proofs.Power (length_leBytes)

/-! ### Header words (R168) -/

theorem leNat_leBytes (n v : Nat) : leNat (leBytes n v) = v % 256 ^ n := by
  induction n generalizing v with
  | zero => simp [leBytes, leNat, Nat.mod_one]
  | succ n ih =>
    have hb : (BitVec.ofNat 8 v).toNat = v % 256 := rfl
    rw [leBytes, leNat, ih, hb, Nat.pow_succ', Nat.mod_mul]

/-- A word that was written reads back. -/
theorem word_written (m : Mem) (a : Nat) (v : W64) : BitVec.ofNat 64 (leNat (memBytes (memPutBytes m a (leBytes 8 v.toNat)) a 8)) = v := by
  have hlen := length_leBytes 8 v.toNat
  have hbytes : memBytes (memPutBytes m a (leBytes 8 v.toNat)) a 8 = leBytes 8 v.toNat := by
    refine List.ext_getElem (by simp [memBytes, hlen]) fun i h1 h2 => ?_
    simp only [memBytes, List.getElem_map, List.getElem_range]
    exact memGet_memPutBytes_in _ _ _ _ h2
  rw [hbytes, leNat_leBytes]
  apply BitVec.eq_of_toNat_eq
  have := v.isLt
  rw [BitVec.toNat_ofNat]
  omega

theorem word_unwritten {m : Mem} {a x : Nat} (v : Nat) (h : x + 8 ≤ a ∨ a + 8 ≤ x) : memBytes (memPutBytes m a (leBytes 8 v)) x 8 = memBytes m x 8 := by
  unfold memBytes
  refine List.map_congr_left fun i hi => memGet_memPutBytes_out _ _ _ _ ?_
  have := List.mem_range.mp hi
  rw [length_leBytes]
  omega

/-- From `b` to `d` only words of the SRAM and the activity have changed, and no word holds an error. -/
structure Writes (b d : Block) : Prop where
  frame : d = { b with sram := d.sram, acts := d.acts }
  ecc : eccClean d

theorem Writes.trans {b d e : Block} (h : Writes b d) (k : Writes d e) : Writes b e := by
  refine ⟨?_, k.ecc⟩
  have h1 := h.frame
  have k1 := k.frame
  rw [h1] at k1
  exact k1

theorem setH_is {b : Block} (hc : eccClean b) (h w lo wid v : Nat) : ∃ a, setH b h w lo wid v = { b with
    acts := a, sram := memPutBytes b.sram (hdrAddr h + 8 * w) (leBytes 8 (insertBits (sramWord b (hdrAddr h + 8 * w)) lo wid v).toNat) } := by
  unfold setH
  rw [sramWrite_clean _ _ hc]
  exact ⟨_, rfl⟩

theorem setH_writes {b : Block} (hc : eccClean b) (h w lo wid v : Nat) : Writes b (setH b h w lo wid v) := by
  obtain ⟨a, ha⟩ := setH_is hc h w lo wid v
  rw [ha]
  exact ⟨rfl, hc⟩

theorem sramWord_setH {b : Block} (hc : eccClean b) (h w lo wid v : Nat) :
    sramWord (setH b h w lo wid v) (hdrAddr h + 8 * w) = insertBits (sramWord b (hdrAddr h + 8 * w)) lo wid v := by
  obtain ⟨a, ha⟩ := setH_is hc h w lo wid v
  rw [ha]
  exact word_written ..

theorem sramWord_setH_ne {b : Block} (hc : eccClean b) (h : Nat) {w k : Nat} (lo wid v : Nat) (hk : k ≠ w) :
    sramWord (setH b h w lo wid v) (hdrAddr h + 8 * k) = sramWord b (hdrAddr h + 8 * k) := by
  obtain ⟨a, ha⟩ := setH_is hc h w lo wid v
  rw [ha]
  unfold sramWord sramBytes
  dsimp only
  rw [word_unwritten _ (by omega)]

theorem hF_congr {b d : Block} (h : d.sram = b.sram) (x w hi lo : Nat) : hF d x w hi lo = hF b x w hi lo := by
  unfold hF sramWord sramBytes
  rw [h]

theorem hStep_setH_ne {b : Block} (hc : eccClean b) (h : Nat) {w : Nat} (lo wid v : Nat) (hw : 0 ≠ w) : hStep (setH b h w lo wid v) h = hStep b h := by
  unfold hStep hF
  rw [sramWord_setH_ne hc h lo wid v hw]

/-- The step counter as it is written (R168). -/
theorem hStep_setH {b : Block} (hc : eccClean b) (h v : Nat) : hStep (setH b h 0 32 32 v) h = v % 2 ^ 32 := by
  unfold hStep hF
  rw [sramWord_setH hc]
  exact fld_insertBits _ v (by omega)

theorem hStep_setPhase {b : Block} (hc : eccClean b) (h v : Nat) : hStep (setPhase b h v) h = hStep b h := by
  unfold hStep hF setPhase
  rw [sramWord_setH hc]
  exact fld_insertBits_apart _ v (by omega) (by omega)

/-! ### The end of a layer (R179) -/

/-- An event that is raised stops nothing. -/
theorem raise_event_frame (b : Block) {code : Code} (t : Site) (he : code.isEvent = true) :
    ∃ (n : NoticeOut) (k : Nat), raise b code t = { n.on b with recNext := k } := by
  unfold raise
  dsimp only
  generalize hd : bumpFld b (.engEventCnt (Fin.ofNat 26 code.num)) 0 32 1 = d
  obtain ⟨r, c, hr⟩ : ∃ r c, d = { b with regs := r, coins := c } := ⟨_, _, hd.symm⟩
  rw [if_pos he]
  split
  · obtain ⟨n, k, h⟩ := ringRecord_frame d code.num (recordWords d code.num 0 t d.recNext) t.ctx true
    rw [h, hr]
    exact ⟨n, k, rfl⟩
  · rw [hr]
    exact ⟨⟨r, c, b.notices, b.noticeNew⟩, b.recNext, rfl⟩

/-- From `b` to `d` nothing but registers and notices has changed. -/
def Tells (b d : Block) : Prop := d = { b with regs := d.regs, coins := d.coins, notices := d.notices, noticeNew := d.noticeNew, recNext := d.recNext }

theorem Tells.trans {b d e : Block} (h : Tells b d) (k : Tells d e) : Tells b e := by
  unfold Tells at *
  rw [h] at k
  exact k

theorem raise_tells (b : Block) {code : Code} (t : Site) (he : code.isEvent = true) : Tells b (raise b code t) := by
  obtain ⟨n, k, h⟩ := raise_event_frame b t he
  rw [h]
  rfl

theorem bump_tells (b : Block) (r : Reg) (lo wid n : Nat) : Tells b (bumpFld b r lo wid n) := rfl

/-- What the end of a layer leaves (R179): its job and its rule are gone, its step has counted. -/
structure LayerEnded (b d : Block) (j : Job) : Prop where
  pins : d.pins = b.pins
  jobs : d.jobs = b.jobs.filter (fun x => x.id != j.id)
  rule : findRule d j.ctx j.hdr = none
  step : hStep d j.hdr = (hStep b j.hdr + 1) % 2 ^ 32
  arrays : d.arrays = b.arrays

theorem finishLayer_ends {b : Block} {j : Job} (hc : eccClean b) (hh : j.held = false) (hp : hF b j.hdr 6 62 62 = 0) : LayerEnded b (finishLayer b j) j := by
  have w1 := setH_writes hc j.hdr 6 0 32 (emaNext b j.hdr).toNat
  have s1 := hStep_setH_ne hc j.hdr (w := 6) 0 32 (emaNext b j.hdr).toNat (by decide)
  generalize h1 : setH b j.hdr 6 0 32 (emaNext b j.hdr).toNat = b1 at w1 s1
  have w2 := setH_writes w1.ecc j.hdr 7 49 15 (min 32767 (hAccepted b j.hdr + 1))
  have s2 := hStep_setH_ne w1.ecc j.hdr (w := 7) 49 15 (min 32767 (hAccepted b j.hdr + 1)) (by decide)
  generalize h2 : setH b1 j.hdr 7 49 15 (min 32767 (hAccepted b j.hdr + 1)) = b2 at w2 s2
  have w3 := setH_writes w2.ecc j.hdr 0 32 32 ((hStep b2 j.hdr + 1) % 2 ^ 32)
  have s3 := hStep_setH w2.ecc j.hdr ((hStep b2 j.hdr + 1) % 2 ^ 32)
  generalize h3 : setH b2 j.hdr 0 32 32 ((hStep b2 j.hdr + 1) % 2 ^ 32) = b3 at w3 s3
  have w4 : Writes b3 (setPhase b3 j.hdr 0) := setH_writes w3.ecc ..
  have s4 := hStep_setPhase w3.ecc j.hdr 0
  generalize h4 : setPhase b3 j.hdr 0 = b4 at w4 s4
  have hdone : finishLayer b j = dropJob (dropRule b4 j.ctx j.hdr) j.id := by
    unfold finishLayer
    dsimp only
    rw [hp, hh, if_neg (by decide), if_neg (by decide), h1, h2, h3, h4]
  have hw := ((w1.trans w2).trans w3).trans w4
  have hframe := hw.frame
  rw [hdone]
  refine ⟨?_, ?_, ?_, ?_, ?_⟩
  · show b4.pins = b.pins
    rw [hframe]
  · show b4.jobs.filter _ = _
    rw [hframe]
  · unfold findRule dropJob dropRule
    dsimp only
    refine List.find?_eq_none.mpr fun x hx hq => ?_
    have hn := (List.mem_filter.mp hx).2
    rw [hq] at hn
    exact absurd hn (by decide)
  · show hStep b4 j.hdr = _
    rw [s4, s3, s2, s1, Nat.mod_mod]
  · show b4.arrays = b.arrays
    rw [hframe]

/-- A layer end of RULE 0 or 1 that holds nothing (R179). -/
theorem layerEnd_ends {b : Block} {j : Job} (hc : eccClean b) (hh : j.held = false) (hr : hRule b j.hdr < 2) (hhold : hHold b j.hdr = false)
    (hp : hF b j.hdr 6 62 62 = 0) : LayerEnded b (layerEnd b j) j := by
  unfold layerEnd
  extract_lets +lift h gd b1 b2
  have hgd : gd.held = false := by simp [gd, guardOf, h, hhold]
  have ht1 : Tells b b1 := by
    simp only [b1]
    split
    · exact (bump_tells ..).trans (raise_tells _ _ rfl)
    · exact rfl
  have ht2 : Tells b b2 := by
    refine ht1.trans ?_
    simp only [b2]
    split
    · exact (bump_tells ..).trans (raise_tells _ _ rfl)
    · exact rfl
  clear_value b2
  clear ht1 b1
  have hsram : b2.sram = b.sram := by rw [ht2]
  have hrule : ¬ 2 ≤ hRule b2 j.hdr := by unfold hRule at *; rw [hF_congr hsram]; omega
  have hhold2 : hHold b2 j.hdr = false := by unfold hHold at *; rw [hF_congr hsram]; exact hhold
  rw [hgd, hhold2, if_neg (by decide), if_neg hrule, if_pos (by decide)]
  have hend := finishLayer_ends (b := b2) (j := j) (by rw [ht2]; exact hc) hh (by rw [hF_congr hsram]; exact hp)
  refine ⟨hend.pins.trans (by rw [ht2]), hend.jobs.trans (by rw [ht2]), hend.rule, hend.step.trans ?_, hend.arrays.trans (by rw [ht2])⟩
  unfold hStep
  rw [hF_congr hsram]

theorem jobAdvance_idle {b : Block} (h : jobRunning b = none) : jobAdvance b = b := by
  have hn : ∀ n, jobAdvanceN n b = b := fun n => by
    cases n with
    | zero => rfl
    | succ n => rw [jobAdvanceN, h]
  exact hn 4096

theorem vecReads_clean {b : Block} (hc : eccClean b) (l : List (Nat × Nat)) : ∃ d, OnlyActs b d ∧ vecReads b l = (d, false) := by
  unfold vecReads
  induction l generalizing b with
  | nil => exact ⟨b, rfl, rfl⟩
  | cons q r ih =>
    have hq : OnlyActs b (countSram b q.1 q.2) := rfl
    obtain ⟨d, hd, hr⟩ := ih (b := countSram b q.1 q.2) hc
    refine ⟨d, hq.trans hd, ?_⟩
    rw [List.foldl_cons]
    simpa only [eccRead_clean b _ _ _ hc.1 hc.2, Bool.or_false] using hr

/-- The next held job starts; a layer end of RULE 0 or 1 without commit ends at once (R166, R179). -/
theorem layer_ends {s : State} {j : Job} (hu : UnitsRun s.blk) (hc : eccClean s.blk) (hrun : jobRunning s.blk = none)
    (hj : s.blk.jobs.find? (fun j => jobRuns s.blk j.ctx) = some j) (hst : entryStreamsDone s.blk j.entry = true) (hk : j.kind = .layerEnd) (hh : j.held = false)
    (hr : hRule s.blk j.hdr < 2) (hhold : hHold s.blk j.hdr = false) (hp : hF s.blk j.hdr 6 62 62 = 0) :
    ∃ t : State, s.onLive jobStart = .next t ∧ (∀ x ∈ t.blk.jobs, x.id ≠ j.id) ∧ findRule t.blk j.ctx j.hdr = none
      ∧ hStep t.blk j.hdr = (hStep s.blk j.hdr + 1) % 2 ^ 32 ∧ t.blk.arrays = s.blk.arrays := by
  obtain ⟨hl, hcold, -, hawake⟩ := hu
  generalize hm : modJob s.blk j.id (fun x => { x with running := true }) = m
  have hmc : eccClean m := by rw [← hm]; exact hc
  obtain ⟨d, hd, hreads⟩ := vecReads_clean hmc [(hdrAddr j.hdr, 64)]
  have hds : d.sram = s.blk.sram := by rw [hd, ← hm]; rfl
  have hend := layerEnd_ends (b := d) (j := { j with running := true }) (by rw [hd]; exact hmc) hh
    (by unfold hRule at *; rw [hF_congr hds]; exact hr) (by unfold hHold at *; rw [hF_congr hds]; exact hhold) (by rw [hF_congr hds]; exact hp)
  generalize hf : layerEnd d { j with running := true } = f at hend
  have hjobs : f.jobs = s.blk.jobs.filter (fun x => x.id != j.id) := by
    refine hend.jobs.trans ?_
    have hdj : d.jobs = s.blk.jobs.map (fun x => if x.id == j.id then { x with running := true } else x) := by rw [hd, ← hm]; rfl
    rw [hdj, List.filter_map]
    have hp : (fun x : Job => x.id != j.id) ∘ (fun x => if x.id == j.id then { x with running := true } else x) = fun x => x.id != j.id := by
      funext x
      by_cases hx : x.id = j.id <;> simp [hx]
    refine (congrArg (fun p => (s.blk.jobs.filter p).map _) hp).trans ?_
    refine (List.map_congr_left fun x hx => ?_).trans (List.map_id _)
    have hx : x.id ≠ j.id := by simpa using (List.mem_filter.mp hx).2
    simp [hx]
  have hidle : jobRunning f = none := by
    unfold jobRunning at *
    rw [hjobs]
    exact List.find?_eq_none.mpr fun x hx => List.find?_eq_none.mp hrun x (List.mem_filter.mp hx).1
  have hdone : jobStart s.blk = f := by
    unfold jobStart
    rw [hrun, hcold, hawake, hj]
    dsimp only
    rw [hst, if_neg (by decide), if_neg (by decide), hm]
    unfold underHeader
    rw [hreads]
    dsimp only
    rw [if_neg (by decide)]
    split
    · rw [hf]
      exact jobAdvance_idle hidle
    · rename_i hne
      exact absurd hk hne
  have hstep : hStep f j.hdr = (hStep s.blk j.hdr + 1) % 2 ^ 32 := by
    have h := hend.step
    rwa [show hStep d j.hdr = hStep s.blk j.hdr from hF_congr hds ..] at h
  refine ⟨_, onLive_pins (f := jobStart) hl ((congrArg (·.pins) hdone).trans (hend.pins.trans (by rw [hd, ← hm]; rfl))), fun x hx => ?_,
    (congrArg (findRule · j.ctx j.hdr) hdone).trans hend.rule, (congrArg (hStep · j.hdr) hdone).trans hstep,
    (congrArg (·.arrays) hdone).trans (hend.arrays.trans (by rw [hd, ← hm]; rfl))⟩
  have hx' : x ∈ f.jobs := hdone ▸ hx
  rw [hjobs] at hx'
  simpa using (List.mem_filter.mp hx').2

/-! ### Rule passes (R167) -/

/-- The run at the first position of array `n`, where there is one, belongs to no group. -/
def Ungrouped (n : Arr) (b : Block) : Prop := ∀ r, (getPos b n 0).run = some r → r.grp = none

/-- From `b` to `d` nothing but the SRAM with its errors and array `n` has changed, of which the other positions stand; a run of no group stays one. -/
structure AtFirst (n : Arr) (b d : Block) : Prop where
  frame : d = { b with arrays := d.arrays, sram := d.sram, ecc1 := d.ecc1, ecc2 := d.ecc2 }
  others : ∀ m, m ≠ n → getArr d m = getArr b m
  positions : ∀ g, g ≠ 0 → getPos d n g = getPos b n g

section
variable {n : Arr}

theorem AtFirst.refl (b : Block) : AtFirst n b b := ⟨rfl, fun _ _ => rfl, fun _ _ => rfl⟩

theorem AtFirst.trans {b d e : Block} (h : AtFirst n b d) (k : AtFirst n d e) : AtFirst n b e := by
  refine ⟨?_, fun m hm => (k.others m hm).trans (h.others m hm), fun g hg => (k.positions g hg).trans (h.positions g hg)⟩
  have h1 := h.frame
  have k1 := k.frame
  rw [h1] at k1
  exact k1

theorem modPos_first (b : Block) (f : PosSt → PosSt) : AtFirst n b (modPos b n 0 f) :=
  ⟨rfl, fun m hm => getArr_modArr_ne _ _ hm, fun _ hg => getPos_modPos_ne b n f hg⟩

theorem modArr_first {f : ArraySt → ArraySt} (hf : ∀ a, (f a).pos = a.pos) (b : Block) : AtFirst n b (modArr b n f) :=
  ⟨rfl, fun m hm => getArr_modArr_ne _ _ hm, fun g _ => getPos_modArr hf b n n g⟩

/-- A step of a run of no group. -/
structure Runs (n : Arr) (b d : Block) : Prop extends AtFirst n b d where
  alone : Ungrouped n b → Ungrouped n d

theorem Runs.refl (b : Block) : Runs n b b := ⟨.refl b, id⟩

theorem Runs.trans {b d e : Block} (h : Runs n b d) (k : Runs n d e) : Runs n b e := ⟨h.toAtFirst.trans k.toAtFirst, fun hu => k.alone (h.alone hu)⟩

theorem mapRun_run (b : Block) (r : PassRun) (w : Nat) (f0 f1 : Nat → Nat → Cell → Cell) : (getPos (mapRun b n 0 r w f0 f1) n 0).run = (getPos b n 0).run := by
  unfold mapRun
  rw [getPos_modPos]
  dsimp only
  split <;> simp

theorem mapRun_runs (b : Block) (r : PassRun) (w : Nat) (f0 f1 : Nat → Nat → Cell → Cell) : Runs n b (mapRun b n 0 r w f0 f1) :=
  ⟨modPos_first b _, fun hu x hx => hu x (by rwa [mapRun_run] at hx)⟩

theorem modRun_runs {f : PassRun → PassRun} (hf : ∀ r, (f r).grp = r.grp) (b : Block) : Runs n b (modRun b n 0 f) := by
  refine ⟨modPos_first b _, fun hu x hx => ?_⟩
  rw [modRun_run] at hx
  obtain ⟨r, hr, rfl⟩ := Option.map_eq_some_iff.mp hx
  rw [hf, hu r hr]

/-- A segment of a run of no group counts in the run alone (R99). -/
theorem segmentEnd_runs {b : Block} (hu : Ungrouped n b) : Runs n b (segmentEnd b n 0) := by
  unfold segmentEnd
  split
  · exact .refl b
  · rename_i r hr
    split
    · exact .refl b
    · dsimp only
      rw [hu r hr]
      exact modRun_runs (by intro; rfl) b

theorem runLeafEnd_runs {b : Block} (hu : Ungrouped n b) (w : Nat) : Runs n b (runLeafEnd b n 0 w) := by
  unfold runLeafEnd
  split
  · exact .refl b
  · dsimp only
    rename_i r _
    generalize hm : mapRun b n 0 r w _ _ = m
    have hmap : Runs n b m := hm ▸ mapRun_runs b r w _ _
    generalize hd : modRun m n 0 _ = d
    have hrun : Runs n b d := hmap.trans (hd ▸ modRun_runs (by intro; rfl) m)
    split
    · exact hrun.trans (segmentEnd_runs (hrun.alone hu))
    · exact hrun

theorem runRow_runs {b : Block} (hu : Ungrouped n b) : Runs n b (runRow b n 0) := by
  unfold runRow
  split
  · exact .refl b
  · rename_i r hr
    extract_lets +lift ht w cfg av bv im put m va vb edge last d
    have hedge : ∀ x, (edge x).grp = x.grp := by
      intro x
      simp only [edge]
      cases x.checked
      · rfl
      · cases im.1 <;> cases im.2 <;> rfl
    have hmap : Runs n b m := mapRun_runs ..
    have hd : Runs n b d := hmap.trans (modRun_runs (by intro x; exact hedge x) m)
    clear_value d
    split
    · exact hd
    · split
      · split
        · exact (hd.trans (mapRun_runs ..)).trans (segmentEnd_runs ((hd.trans (mapRun_runs ..)).alone hu))
        · exact hd
      · split
        · split
          · exact hd.trans (mapRun_runs ..)
          · exact hd
        · split
          · exact hd.trans (runLeafEnd_runs (hd.alone hu) w)
          · exact hd

theorem subPassEnd_runs {b : Block} (hu : Ungrouped n b) : Runs n b (subPassEnd b n 0) := by
  unfold subPassEnd
  split
  · exact .refl b
  · rename_i r hr
    extract_lets +lift w cfg c d
    have hc : Runs n b c := by
      simp only [c]
      split
      · exact runLeafEnd_runs hu w
      · exact .refl b
    have hd : Runs n b d := by
      simp only [d]
      split
      · split
        · exact (mapRun_runs ..).trans (segmentEnd_runs ((mapRun_runs ..).alone hu))
        · exact .refl b
      · split
        · exact (mapRun_runs ..).trans (segmentEnd_runs ((mapRun_runs ..).alone hu))
        · split
          · split
            · exact (hc.trans (mapRun_runs ..)).trans (segmentEnd_runs ((hc.trans (mapRun_runs ..)).alone hu))
            · exact hc
          · exact hc
    refine hd.trans (modRun_runs (fun x => ?_) d)
    split <;> rfl

theorem checkPick_first (b : Block) (k : Nat) : AtFirst n b (checkPick b n k).1 := by
  unfold checkPick
  dsimp only
  split
  · exact .refl b
  · split
    · exact .refl b
    · split
      · exact .refl b
      · split
        · dsimp only
          exact modArr_first (by intro; rfl) b
        · exact .refl b

theorem startAdvance_first (b : Block) : AtFirst n b (startAdvance b n) := modArr_first (by intro; rfl) b

theorem touchArr_first (b : Block) : AtFirst n b (touchArr b n) := modArr_first (by intro; rfl) b

/-- A run of no group takes its bank (R56). -/
theorem takeBank_first (b : Block) (t : BankIx) {r : PassRun} (hr : r.grp = none) : AtFirst n b (takeBank b n 0 t r false) ∧ Ungrouped n (takeBank b n 0 t r false) := by
  unfold takeBank
  dsimp only
  generalize hm : modPos b n 0 _ = m
  have hfirst : AtFirst n b m := hm ▸ modPos_first b _
  have hrun : (getPos m n 0).run = some { r with bank := t } := by rw [← hm, getPos_modPos]
  have halone : ∀ d, getPos d n 0 = getPos m n 0 → Ungrouped n d := fun d hd x hx => by
    rw [hd, hrun] at hx
    cases hx
    exact hr
  rw [hr]
  dsimp only
  split
  · exact ⟨(hfirst.trans (startAdvance_first m)).trans (touchArr_first _), halone _ ((touchArr_pos ..).trans (startAdvance_keeps m n 0).2)⟩
  · exact ⟨hfirst.trans (touchArr_first _), halone _ (touchArr_pos ..)⟩

/-- One part of a tile entry stays at the first position of its array (R167). -/
theorem rulePart_first (b : Block) (j : Job) (t : BankIx) (p : Prod) (tile : Nat × Nat × Nat × Nat) (k0 k1 : Nat) : AtFirst n b (rulePart b j n t p tile k0 k1).1 := by
  unfold rulePart
  dsimp only
  generalize hm : freshEcc _ _ _ = m
  have hmem : AtFirst n b m := hm ▸ ⟨rfl, fun _ _ => rfl, fun _ _ => rfl⟩
  generalize hc : checkPick m n 0 = c
  obtain ⟨c, ck⟩ := c
  have hcheck : AtFirst n m c := by
    have h := checkPick_first (n := n) m 0
    rwa [hc] at h
  dsimp only
  generalize hrun : ruleRun j n t p _ _ _ ck _ _ = run
  have hnone : run.grp = none := by rw [← hrun]; rfl
  generalize ht : takeBank c n 0 t run false = d
  obtain ⟨htake, halone⟩ := takeBank_first (n := n) c t hnone
  rw [ht] at htake halone
  have hrows : ∀ k, Runs n d ((List.range k).foldl (fun b _ => runRow b n 0) d) := fun k =>
    List.foldlRecOn (motive := fun (x : Block) => Runs n d x) _ _ (.refl d) fun x hx _ _ => hx.trans (runRow_runs (hx.alone halone))
  generalize hr : (List.range ((k1 - k0) * splitSteps run.ta)).foldl (fun b _ => runRow b n 0) d = e
  have hrow : Runs n d e := hr ▸ hrows _
  have hend := subPassEnd_runs (hrow.alone halone)
  generalize subPassEnd e n 0 = f at hend
  have hall : AtFirst n b f := ((hmem.trans hcheck).trans htake).trans (hrow.trans hend).toAtFirst
  split
  · exact hall
  · refine hall.trans ?_
    dsimp only
    exact modPos_first f _

theorem ruleTile_first (b : Block) (j : Job) (t : BankIx) (p : Prod) (tile : Nat × Nat × Nat × Nat) : AtFirst n b (ruleTile b j n t p tile).1 := by
  unfold ruleTile
  refine List.foldlRecOn (motive := fun (x : Block × Option (Nat × Nat × PassRun)) => AtFirst n b x.1) _ _ (.refl b) fun x hx q _ => ?_
  split
  · exact hx
  · exact hx.trans (rulePart_first ..)

end

/-- The running job after a change that leaves it running. -/
theorem jobRunning_modJob {b : Block} {j : Job} {f : Job → Job} (hf : ∀ x, (f x).running = x.running) (h : jobRunning b = some j) :
    jobRunning (modJob b j.id f) = some (f j) := by
  unfold jobRunning modJob at *
  dsimp only
  rw [List.find?_map]
  have hp : (fun x : Job => x.running) ∘ (fun x => if x.id == j.id then f x else x) = fun x => x.running := by
    funext x
    by_cases hx : x.id = j.id <;> simp [hx, hf]
  rw [hp, h]
  simp

/-- A running job with products left waits for its arrays (R166). -/
theorem jobAdvance_waits {b : Block} {j : Job} (h : jobRunning b = some j) (hp : j.prods ≠ []) : jobAdvance b = b := by
  have hn : ∀ n, jobAdvanceN n b = b := fun n => by
    cases n with
    | zero => rfl
    | succ n =>
      rw [jobAdvanceN, h]
      dsimp only
      rw [if_pos (by simp [hp])]
  exact hn 4096

theorem popTile_prods {j : Job} {p : Prod} {ps : List Prod} (h : j.prods = p :: ps) (hl : 2 ≤ p.tiles.length) :
    (popTile j).prods = { p with tiles := p.tiles.drop 1 } :: ps := by
  unfold popTile
  rw [h]
  dsimp only
  rw [if_neg (by omega)]

theorem popTile_running (j : Job) : (popTile j).running = j.running := by
  unfold popTile
  split
  · rfl
  · split <;> rfl

/-- What the entry leaves of its array when its tile is done: the position as it stood, but for the bank used last, and the SRAM but for the rule window. -/
def tileDone (b c : Block) (j : Job) (n : Arr) (t : BankIx) : Block :=
  touchArr (openWindow { modPos c n 0 (fun _ => { getPos b n 0 with last := t }) with sram := b.sram } j n) n

theorem tileDone_keeps {b c : Block} {j : Job} {n : Arr} {t : BankIx} (h : AtFirst n b c) :
    let d := tileDone b c j n t
    getPos d n 0 = { getPos b n 0 with last := t } ∧ (∀ g, g ≠ 0 → getPos d n g = getPos b n g) ∧ (∀ m, m ≠ n → getArr d m = getArr b m)
      ∧ d.groups = b.groups ∧ d.pins = b.pins ∧ d.jobs = b.jobs ∧ d.ctxs = b.ctxs := by
  generalize hm : modPos c n 0 (fun _ => { getPos b n 0 with last := t }) = m
  have hfirst : AtFirst n b m := h.trans (hm ▸ modPos_first c _)
  have hpos : getPos m n 0 = { getPos b n 0 with last := t } := by rw [← hm, getPos_modPos]
  generalize hw : openWindow { m with sram := b.sram } j n = w
  have hwm : w.arrays = m.arrays ∧ w.groups = m.groups ∧ w.pins = m.pins ∧ w.jobs = m.jobs ∧ w.ctxs = m.ctxs := by
    rw [← hw]
    exact ⟨rfl, rfl, rfl, rfl, rfl⟩
  obtain ⟨ha, hg, hp, hj, hc⟩ := hwm
  have hframe := hfirst.frame
  have hd : tileDone b c j n t = touchArr w n := by
    unfold tileDone
    rw [hm, hw]
  dsimp only
  rw [hd]
  refine ⟨?_, fun g hg => ?_, fun k hk => ?_, hg.trans (by rw [hframe]), hp.trans (by rw [hframe]), hj.trans (by rw [hframe]), hc.trans (by rw [hframe])⟩
  · rw [touchArr_pos, getPos_of_arrays ha, hpos]
  · rw [touchArr_pos, getPos_of_arrays ha, hfirst.positions g hg]
  · rw [touchArr, getArr_modArr_ne _ _ hk, getArr, ha, ← getArr, hfirst.others k hk]

/-- How a rule pass ends: its tile goes to its job, or its mismatch stops the job's context (R76, R167). -/
theorem rulePassEntry_is {b : Block} {n : Arr} {j : Job} {p : Prod} {ps : List Prod} (hcold : frozenV b = false) (hcool : stoppedT b = false) (hawake : awake b = true)
    (hrun : jobRunning b = some j) (hp : j.prods = p :: ps) (hl : 2 ≤ p.tiles.length) (ha : (ruleArrays b j.cfg).contains n = true) (hf : fixedEn b n = false)
    (hj : jobRuns b j.ctx = true) (hs : jobStreamsDone b j.id = true) (hw : (getArr b n).wall = 0) (hr : (getArr b n).replays = [])
    (ht : tokenBlocked b j.ctx (jobWindow b j n) = false) (hfree : PosFree (getPos b n 0)) :
    ∃ c, AtFirst n b c ∧ ((∃ m, rulePassEntry b n = jobAdvance (modJob (tileDone b c j n (1 - (getPos b n 0).last)) j.id (fun x => popTile (x.setMat p.c m))))
      ∨ ∃ r r' k, rulePassEntry b n = raise (raise (abftLast (bumpFld (abftLast (bumpFld (tileDone b c j n (1 - (getPos b n 0).last)) (.arrAbftFirst n) 0 32 1) n 0 r k)
          (.arrAbftStrikes n) 0 16 1) n 0 r' k) .abftMismatch { jobSite j with unit := 5, arr := some (n, 0) }) .groupState { jobSite j with unit := 5, arr := some (n, 0) }) := by
  obtain ⟨tile, ts, hts⟩ : ∃ tile ts, p.tiles = tile :: ts := by
    cases hc : p.tiles with
    | nil => simp [hc] at hl
    | cons x xs => exact ⟨x, xs, rfl⟩
  have hfirst := ruleTile_first (n := n) b j (1 - (getPos b n 0).last) p tile
  have hin : n ∈ ruleArrays b j.cfg := by simpa using ha
  have hidle : posIdle b n 0 = true := by simp [posIdle, hfree.1]
  generalize hcb : ruleTile b j n (1 - (getPos b n 0).last) p tile = cb at hfirst
  obtain ⟨c, bad⟩ := cb
  refine ⟨c, hfirst, ?_⟩
  unfold rulePassEntry
  rw [hrun]
  dsimp only
  rw [hp]
  dsimp only
  rw [hts]
  dsimp only
  rw [if_neg (by simp [hin, hf, hcold, hcool, hawake, hj, hs, hw, hidle, hr, ht]), pickBank_free hfree]
  dsimp only
  rw [hcb]
  cases bad with
  | none => exact .inl ⟨_, rfl⟩
  | some q => exact .inr ⟨_, _, _, rfl⟩

/-- A mismatch that no replay has cleared stops the job's context (R76, R167). -/
theorem mismatch_stops {b : Block} {j : Job} {n : Arr} (r r' : PassRun) (k : Nat × Nat) (hj : jobRuns b j.ctx = true) :
    let site : Site := { jobSite j with unit := 5, arr := some (n, 0) }
    let d := raise (raise (abftLast (bumpFld (abftLast (bumpFld b (.arrAbftFirst n) 0 32 1) n 0 r k) (.arrAbftStrikes n) 0 16 1) n 0 r' k) .abftMismatch site) .groupState site
    (getCtx d j.ctx).state = .faulted ∧ d.arrays = b.arrays ∧ d.groups = b.groups ∧ d.pins = b.pins := by
  dsimp only
  generalize hs : ({ jobSite j with unit := 5, arr := some (n, 0) } : Site) = site
  have hctx : site.ctx = some j.ctx := by rw [← hs]; rfl
  obtain ⟨w, hw⟩ := Drains.abftLast_is (bumpFld b (.arrAbftFirst n) 0 32 1) n 0 r k
  rw [hw]
  obtain ⟨w', hw'⟩ := Drains.abftLast_is (bumpFld (setRaw (bumpFld b (.arrAbftFirst n) 0 32 1) (.arrAbftLast n) w) (.arrAbftStrikes n) 0 16 1) n 0 r' k
  rw [hw']
  generalize hm : setRaw (bumpFld (setRaw (bumpFld b (.arrAbftFirst n) 0 32 1) (.arrAbftLast n) w) (.arrAbftStrikes n) 0 16 1) (.arrAbftLast n) w' = m
  have hparts : m.arrays = b.arrays ∧ m.groups = b.groups ∧ m.pins = b.pins ∧ m.ctxs = b.ctxs := by rw [← hm]; exact ⟨rfl, rfl, rfl, rfl⟩
  obtain ⟨ha, hg, hp, hc⟩ := hparts
  have hr1 := raise_readOnly m .abftMismatch site
  have hc1 := raise_event_ctxs m .abftMismatch site rfl
  generalize raise m .abftMismatch site = x at hr1 hc1
  have hr2 := raise_readOnly x .groupState site
  have hf : faultable x j.ctx = true := by
    have h : (getCtx b j.ctx).state = .running ∨ (getCtx b j.ctx).state = .done := by simpa [jobRuns] using hj
    have hx : getCtx x j.ctx = getCtx b j.ctx := congrArg (·.get j.ctx) (hc1.trans hc)
    unfold faultable
    rw [hx]
    rcases h with h | h <;> rw [h]
  exact ⟨raise_faults rfl (by decide) hctx hf, hr2.arrays.trans (hr1.arrays.trans ha), hr2.groups.trans (hr1.groups.trans hg), hr2.pins.trans (hr1.pins.trans hp)⟩

/-- A rule pass takes the first tile of the running job's product and leaves the position of its array as it stood (R167). -/
theorem rule_pass {s : State} {n : Arr} {j : Job} {p : Prod} {ps : List Prod} (hu : UnitsRun s.blk) (hrun : jobRunning s.blk = some j) (hp : j.prods = p :: ps)
    (hl : 2 ≤ p.tiles.length) (ha : (ruleArrays s.blk j.cfg).contains n = true) (hf : fixedEn s.blk n = false) (hj : jobRuns s.blk j.ctx = true)
    (hs : jobStreamsDone s.blk j.id = true) (hw : (getArr s.blk n).wall = 0) (hr : (getArr s.blk n).replays = [])
    (ht : tokenBlocked s.blk j.ctx (jobWindow s.blk j n) = false) (hfree : PosFree (getPos s.blk n 0)) :
    ∃ t : State, s.onLive (fun b => rulePassEntry b n) = .next t
      ∧ getPos t.blk n 0 = { getPos s.blk n 0 with last := 1 - (getPos s.blk n 0).last } ∧ (∀ g, g ≠ 0 → getPos t.blk n g = getPos s.blk n g)
      ∧ (∀ m, m ≠ n → getArr t.blk m = getArr s.blk m) ∧ t.blk.groups = s.blk.groups
      ∧ ((jobRunning t.blk).map (·.prods) = some ({ p with tiles := p.tiles.drop 1 } :: ps) ∨ (getCtx t.blk j.ctx).state = .faulted) := by
  obtain ⟨hlive, hcold, hcool, hawake⟩ := hu
  obtain ⟨c, hc, hdone⟩ := rulePassEntry_is hcold hcool hawake hrun hp hl ha hf hj hs hw hr ht hfree
  have hkeep := tileDone_keeps (j := j) (t := 1 - (getPos s.blk n 0).last) hc
  generalize tileDone s.blk c j n (1 - (getPos s.blk n 0).last) = d at hdone hkeep
  obtain ⟨hpos, hothers, harr, hgrp, hpins, hjobs, hctxs⟩ := hkeep
  have hjd : jobRunning d = some j := by
    unfold jobRunning
    rw [hjobs]
    exact hrun
  have hend : ∀ e : Block, rulePassEntry s.blk n = e → e.arrays = d.arrays → e.groups = d.groups → e.pins = d.pins →
      ((jobRunning e).map (·.prods) = some ({ p with tiles := p.tiles.drop 1 } :: ps) ∨ (getCtx e j.ctx).state = .faulted) →
      ∃ t : State, s.onLive (fun b => rulePassEntry b n) = .next t
        ∧ getPos t.blk n 0 = { getPos s.blk n 0 with last := 1 - (getPos s.blk n 0).last } ∧ (∀ g, g ≠ 0 → getPos t.blk n g = getPos s.blk n g)
        ∧ (∀ m, m ≠ n → getArr t.blk m = getArr s.blk m) ∧ t.blk.groups = s.blk.groups
        ∧ ((jobRunning t.blk).map (·.prods) = some ({ p with tiles := p.tiles.drop 1 } :: ps) ∨ (getCtx t.blk j.ctx).state = .faulted) :=
    fun e he h1 h2 h3 h4 => by
      have hl := onLive_pins (f := fun b => rulePassEntry b n) hlive ((congrArg (·.pins) he).trans (h3.trans hpins))
      rw [he] at hl
      refine ⟨_, hl, (getPos_of_arrays h1 n 0).trans hpos, fun g hg => (getPos_of_arrays h1 n g).trans (hothers g hg),
        fun m hm => (congrArg (·.get m) h1).trans (harr m hm), h2.trans hgrp, h4⟩
  rcases hdone with ⟨m, hm⟩ | ⟨r, r', k, hm⟩
  · have hrun' := jobRunning_modJob (f := fun x => popTile (x.setMat p.c m)) (fun x => popTile_running _) hjd
    have hprods := popTile_prods (j := j.setMat p.c m) hp hl
    rw [jobAdvance_waits hrun' (by rw [hprods]; simp)] at hm
    refine hend _ hm rfl rfl rfl (.inl ?_)
    rw [hrun']
    exact congrArg some hprods
  · obtain ⟨h1, h2, h3, h4⟩ := mismatch_stops (b := d) (j := j) (n := n) r r' k (by unfold jobRuns getCtx; rw [hctxs]; exact hj)
    exact hend _ hm h2 h3 h4 (.inr h1)

end Sys2Proof.Proofs.Sequencer

namespace Sys2Proof

open Machine Proofs.Drains Proofs.Sequencer

/-- Settles O57, event by event; a wheel grants a drain 1,024 bytes of credit at a time (log 34), and a rule pass runs a whole tile entry in one
command, with its operands, window and replay as logs 57, 116 and 126 have them. -/
theorem drainsSequencerAndLine : Obligations.DrainsSequencerAndLine := by
  unfold Obligations.DrainsSequencerAndLine
  exact ⟨fun s n d r hu hn hd hr => compare_decides hu hn hd hr, fun s n x rest d hu hc hn hrows hd hk hm hlast => row_leaves hu hc hn hrows hd hk hm hlast,
    fun s w n hl hw h => wheel_serves_drain hl hw h, fun s w x a k f hl hc hx hone ht hw hwheel hu hk hq => wheel_turns hl hc hx hone ht hw hwheel hu hk hq,
    fun s j hu hc hrun hj hst hk hh hr hhold hp => layer_ends hu hc hrun hj hst hk hh hr hhold hp,
    fun s n j p ps hu hrun hp hl ha hf hj hs hw hr ht h0 h1 h2 => rule_pass hu hrun hp hl ha hf hj hs hw hr ht ⟨h0, h1, h2⟩,
    fun s l e hl hf hline hwait he hs => line_restarts hl hf hline hwait he hs⟩

end Sys2Proof

/-! SUPPORT. Requests of the streams, walks, responses and timeouts (R216 to R222, R328, R376, R377). Settles O58. -/

namespace Sys2Proof.Proofs.Streams

open Sys2Proof Sys2Proof.Machine Sys2Proof.Laws Sys2Proof.Proofs.IssueStage Sys2Proof.Proofs.EngReset Sys2Proof.Proofs.Fields
open Sys2Proof.Proofs.Reports Sys2Proof.Proofs.Reads Sys2Proof.Proofs.Strands Sys2Proof.Proofs.Complete Sys2Proof.Proofs.Passes Sys2Proof.Proofs.Sram
open Sys2Proof.Proofs.Kiln (OnlyActs)
open Sys2Proof.Proofs.Drains (scatter_clean onlyActs_clean putRefs_mem)
open Sys2Proof.Proofs.Sequencer (jobAdvance_idle)

/-! ### A request goes out (R216 to R219) -/

theorem findStream_id {b : Block} {i : Nat} {x : Stream} (h : findStream b i = some x) : x.id = i := by simpa using List.find?_some h

/-- The stream of a number, after a change of that stream. -/
theorem findStream_modStream {b : Block} {i : Nat} {x : Stream} {f : Stream → Stream} (hf : ∀ y, (f y).id = y.id) (h : findStream b i = some x) :
    findStream (modStream b i f) i = some (f x) := by
  have hid := findStream_id h
  unfold findStream modStream at *
  dsimp only
  rw [List.find?_map]
  have hp : (fun y : Stream => y.id == i) ∘ (fun y => if y.id == i then f y else y) = fun y => y.id == i := by
    funext y
    by_cases hy : y.id = i <;> simp [hy, hf]
  rw [hp, h]
  simp [hid]

theorem foldWritten_none {b : Block} {i : Nat} {x : Stream} (h : findStream b i = some x) (hf : x.feed = none) : foldWritten b i = b := by
  unfold foldWritten
  rw [h]
  dsimp only
  rw [hf]

theorem foldRead_none {b : Block} {i : Nat} {x : Stream} (h : findStream b i = some x) (hf : x.feed = none) : foldRead b i = b := by
  unfold foldRead
  rw [h]
  dsimp only
  rw [hf]

/-- A stream of no entry that neither writes nor feeds goes on with its request (R216). -/
theorem streamIssue_local {b : Block} {i : Nat} {x : Stream} {g : Seg} {rest : List Seg} (hx : findStream b i = some x) (ho : ∀ e, x.owner ≠ .entry e)
    (hh : x.halted = none) (ht : x.todo = g :: rest) (hf : frozenV b = false) (hfeed : x.feed = none) (hp : x.peer = none) (hw : x.write = false)
    (hs : sharesZero b x.ctx = false) : streamIssue b i = sendLocal b x := by
  have hline : lineWaits b x = false := by
    unfold lineWaits
    split
    · simp [ho]
    · rfl
  have hcopy : copyWaits b x = false := by simp [copyWaits, hw]
  have htake : takeChannel b x = some b := by
    unfold takeChannel
    rw [hfeed]
  unfold streamIssue
  rw [hx]
  dsimp -zeta only
  extract_lets ent free
  have hent : ent = none := by
    unfold ent
    split
    · exact absurd ‹_› (ho _)
    · rfl
  clear_value free ent
  subst hent
  rw [hh, hline, hf, if_neg (by simp)]
  dsimp only
  simp only [hx]
  rw [if_neg (by simp [ht]), hcopy, if_neg (by decide), htake]
  dsimp only
  rw [hx]
  dsimp only
  rw [if_neg (by simp [ht]), if_neg (by simp [hs]), hp]

theorem takeReq_head {g : Seg} {rest : List Seg} : ∃ l, (takeReq (g.va / 256) (g :: rest)).1 = g :: l := by
  unfold takeReq
  dsimp only
  rw [if_pos (by simp)]
  exact ⟨_, rfl⟩

/-- The request of an issued read (R216 to R219). -/
structure IsRead (b : Block) (x : Stream) (req : List Seg) (k pa : Nat) (r : MpReq) : Prop where
  tag : r.tag = k
  stream : r.stream = x.id
  ctx : r.ctx = x.ctx
  gen : r.gen = x.gen
  write : r.write = false
  va : r.va = (req.headD ⟨0, .const 0⟩).va / 256 * 256
  pa_ : r.pa = pa / 256 * 256
  segs : r.segs = req
  beats : r.beats = (unitsOf req).length
  issued : r.issued = b.beat
  turned : r.turned = x.turned

/-- A read is charged before it goes out (R218). -/
def readCharged (b : Block) (x : Stream) (req : List Seg) : Block :=
  chargeClass (countAct b (fun a => { a with mport := a.mport + (unitsOf req).length })) x.ctx false (256 * (unitsOf req).length)

theorem sendMp_is {b : Block} {x : Stream} (hw : x.write = false) (req rest : List Seg) (k pa : Nat) : ∃ r, IsRead b x req k pa r ∧ sendMp b x req rest k pa
    = foldWritten (hotCheck (modStream { readCharged b x req with mp := b.mp ++ [r] } x.id
        (fun y => { y with todo := rest, tail := none, wcredit := y.wcredit - elemCount req })) r) x.id := by
  unfold sendMp readCharged
  dsimp only
  rw [hw]
  exact ⟨_, ⟨rfl, rfl, rfl, rfl, rfl, rfl, rfl, rfl, rfl, rfl, rfl⟩, rfl⟩

/-- What an issued read leaves (R216 to R219). -/
theorem sendMp_does {b : Block} {x : Stream} (hx : findStream b x.id = some x) (hw : x.write = false) (hf : x.feed = none) (req rest : List Seg) (k pa : Nat) :
    let d := sendMp b x req rest k pa
    ∃ r, IsRead b x req k pa r ∧ d.mp = b.mp ++ [r] ∧ (findStream d x.id).map (·.todo) = some rest
      ∧ (getCtx d x.ctx).regRead = (getCtx b x.ctx).regRead - 256 * (unitsOf req).length ∧ d.sram = b.sram ∧ d.pins = b.pins := by
  obtain ⟨r, hr, hd⟩ := sendMp_is hw req rest k pa (b := b)
  have hcharge : (getCtx (readCharged b x req) x.ctx).regRead = (getCtx b x.ctx).regRead - 256 * (unitsOf req).length := by
    unfold readCharged chargeClass
    rw [getCtx_modCtx]
    rfl
  have hparts : (readCharged b x req).streams = b.streams ∧ (readCharged b x req).sram = b.sram ∧ (readCharged b x req).pins = b.pins := ⟨rfl, rfl, rfl⟩
  generalize readCharged b x req = c at hd hcharge hparts
  obtain ⟨hcs, hcm, hcp⟩ := hparts
  have hcx : findStream { c with mp := b.mp ++ [r] } x.id = some x := by
    unfold findStream
    rw [hcs]
    exact hx
  have hmx := findStream_modStream (f := fun y => { y with todo := rest, tail := none, wcredit := y.wcredit - elemCount req }) (fun _ => rfl) hcx
  generalize hm : modStream { c with mp := b.mp ++ [r] } x.id (fun y => { y with todo := rest, tail := none, wcredit := y.wcredit - elemCount req }) = m at hd hmx
  have hmparts : m.mp = b.mp ++ [r] ∧ m.sram = c.sram ∧ m.pins = c.pins ∧ m.ctxs = c.ctxs := by rw [← hm]; exact ⟨rfl, rfl, rfl, rfl⟩
  obtain ⟨hmm, hms, hmp, hmc⟩ := hmparts
  have hhot : HotOnly m (hotCheck m r) := hotRaise_hotOnly ..
  have hframe := hhot.frame
  have hhx : findStream (hotCheck m r) x.id = findStream m x.id := by
    have h : (hotCheck m r).streams = m.streams := by rw [hframe]
    unfold findStream
    rw [h]
  rw [foldWritten_none (hhx.trans hmx) hf] at hd
  dsimp only
  rw [hd]
  refine ⟨r, hr, ?_, ?_, ?_, hhot.sram.trans (hms.trans hcm), hhot.pins.trans (hmp.trans hcp)⟩
  · rw [hframe]
    exact hmm
  · rw [hhx, hmx]
    rfl
  · have h : getCtx (hotCheck m r) x.ctx = getCtx c x.ctx := congrArg (·.get x.ctx) (hhot.ctxs.trans hmc)
    rw [h, hcharge]

/-- What the streams see of a stream that no entry waits for and that reads (R216). -/
structure Reads (b : Block) (x : Stream) (g : Seg) (rest : List Seg) : Prop where
  live : live b = true
  found : findStream b x.id = some x
  owner : ∀ e, x.owner ≠ .entry e
  halted : x.halted = none
  todo : x.todo = g :: rest
  cold : frozenV b = false
  feed : x.feed = none
  peer : x.peer = none
  write : x.write = false
  shares : sharesZero b x.ctx = false
  root : getFld b (.xltRoot x.ctx) 0 1 = 1
  va : g.va < 2 ^ 49

theorem Reads.issue {b : Block} {x : Stream} {g : Seg} {rest : List Seg} (h : Reads b x g rest) : streamIssue b x.id = sendLocal b x :=
  streamIssue_local h.found h.owner h.halted h.todo h.cold h.feed h.peer h.write h.shares

/-- A translated request goes out (R216, R217, R218, R221). -/
theorem sendLocal_hit {b : Block} {x : Stream} {g : Seg} {rest : List Seg} (h : Reads b x g rest) {e : TlbEnt} {k : Nat}
    (he : b.tlb.find? (fun e => tlbHit e x.ctx (g.va / 256 * 256)) = some e) (hk : freeTag b x = some k)
    (hr : 256 * (unitsOf (takeReq (g.va / 256) x.todo).1).length ≤ (getCtx b x.ctx).regRead) :
    sendLocal b x = sendMp (tlbUse b e) x (takeReq (g.va / 256) x.todo).1 (takeReq (g.va / 256) x.todo).2 k (tlbPa e (g.va / 256 * 256)) := by
  have hline : ∀ req, lineSpace b x req = true := fun req => by
    unfold lineSpace
    split
    · simp [h.owner]
    · rfl
  have hva := h.va
  rw [h.todo] at hr ⊢
  unfold sendLocal
  rw [h.todo]
  dsimp only
  rw [if_neg (by simp [h.root]; omega), he]
  dsimp only
  rw [h.write, hline, hk]
  dsimp only
  rw [if_neg (by simp), if_neg (by simp), if_neg (by decide), if_neg (by unfold classRegulator; simpa using hr)]

theorem sendLocal_miss {b : Block} {x : Stream} {g : Seg} {rest : List Seg} (h : Reads b x g rest)
    (he : b.tlb.find? (fun e => tlbHit e x.ctx (g.va / 256 * 256)) = none) : sendLocal b x = startWalk b x (g.va / 256 * 256) := by
  have hva := h.va
  unfold sendLocal
  rw [h.todo]
  dsimp only
  rw [if_neg (by simp [h.root]; omega), he]

/-- A stream's next read goes out (R216 to R218, R221). -/
theorem read_issues {s : State} {x : Stream} {g : Seg} {rest : List Seg} (h : Reads s.blk x g rest) {e : TlbEnt} {k : Nat}
    (he : s.blk.tlb.find? (fun e => tlbHit e x.ctx (g.va / 256 * 256)) = some e) (hk : freeTag s.blk x = some k)
    (hr : 256 * (unitsOf (takeReq (g.va / 256) x.todo).1).length ≤ (getCtx s.blk x.ctx).regRead) :
    ∃ (t : State) (r : MpReq), s.onLive (fun b => streamIssue b x.id) = .next t
      ∧ t.blk.mp = s.blk.mp ++ [r] ∧ r.tag = k ∧ r.stream = x.id ∧ r.ctx = x.ctx ∧ r.gen = x.gen ∧ r.write = false ∧ r.va = g.va / 256 * 256
      ∧ r.pa = tlbPa e (g.va / 256 * 256) / 256 * 256 ∧ r.segs = (takeReq (g.va / 256) x.todo).1 ∧ r.beats = (unitsOf r.segs).length ∧ r.issued = s.blk.beat ∧ r.turned = x.turned
      ∧ (findStream t.blk x.id).map (·.todo) = some (takeReq (g.va / 256) x.todo).2
      ∧ (getCtx t.blk x.ctx).regRead = (getCtx s.blk x.ctx).regRead - 256 * r.beats ∧ t.blk.sram = s.blk.sram := by
  have hdone := h.issue.trans (sendLocal_hit h he hk hr)
  obtain ⟨r, hr, hmp, htodo, hreg, hsram, hpins⟩ := sendMp_does (b := tlbUse s.blk e) (x := x) h.found h.write h.feed (takeReq (g.va / 256) x.todo).1
    (takeReq (g.va / 256) x.todo).2 k (tlbPa e (g.va / 256 * 256))
  have hva : r.va = g.va / 256 * 256 := by
    obtain ⟨l, hl⟩ := takeReq_head (g := g) (rest := rest)
    rw [hr.va, h.todo, hl]
    rfl
  rw [← hdone] at hmp htodo hreg hsram hpins
  refine ⟨_, r, onLive_pins (f := fun b => streamIssue b x.id) h.live hpins, hmp, hr.tag, hr.stream, hr.ctx, hr.gen, hr.write, hva, hr.pa_, hr.segs,
    by rw [hr.beats, hr.segs], hr.issued, hr.turned, htodo, ?_, hsram⟩
  rw [hr.beats]
  exact hreg

/-! ### Walks (R218, R220 to R222) -/

/-- A walk issues the read of its next entry (R218, R219, R221). -/
theorem walkRead_does (b : Block) (w : Walk) :
    ∃ v : Walk, (walkRead b w).walks = b.walks.filter (fun u => u.idx != w.idx) ++ [v] ∧ v = { w with issued := b.beat, port := v.port, key := v.key }
      ∧ (getCtx (walkRead b w) w.ctx).regRead = (getCtx b w.ctx).regRead - 256 ∧ HotOnly { b with walks := (walkRead b w).walks, ctxs := (walkRead b w).ctxs } (walkRead b w) := by
  unfold walkRead
  dsimp only
  generalize hc : chargeClass _ w.ctx false 256 = c
  have hcw : c.walks = b.walks.filter (fun u => u.idx != w.idx) ++ [{ w with issued := b.beat, port := portOf b w.pa, key := bankKey b w.pa }] := by rw [← hc]; rfl
  have hcr : (getCtx c w.ctx).regRead = (getCtx b w.ctx).regRead - 256 := by
    rw [← hc, chargeClass, getCtx_modCtx]
    rfl
  have hcf : { b with walks := c.walks, ctxs := c.ctxs } = c := by rw [← hc]; rfl
  have hhot := hotRaise_hotOnly c (bankKey b w.pa) (some w.ctx) w.gen 0xC
  have hw : (hotRaise c (bankKey b w.pa) (some w.ctx) w.gen 0xC).walks = c.walks := by rw [hhot.frame]
  refine ⟨_, hw.trans hcw, rfl, ?_, ?_⟩
  · have h : getCtx (hotRaise c (bankKey b w.pa) (some w.ctx) w.gen 0xC) w.ctx = getCtx c w.ctx := congrArg (·.get w.ctx) hhot.ctxs
    rw [h, hcr]
  · rw [hw, hhot.ctxs, hcf]
    exact hhot

theorem lowestFree_unused {n k : Nat} {l : List Nat} (h : lowestFree n l = some k) : k ∉ l := by
  have := List.find?_some h
  simpa using this

/-- A page that the cache misses is counted and walked (R218, R220, R221). -/
theorem startWalk_does {b : Block} {x : Stream} {va k : Nat} (hno : ∀ w ∈ b.walks, w.ctx = x.ctx → w.va / 0x200000 ≠ va / 0x200000)
    (hk : lowestFree 16 (b.walks.map (·.idx)) = some k) (hr : 256 ≤ (getCtx b x.ctx).regRead) :
    startWalk b x va = walkRead (bumpFld b .xltMiss 0 32 1)
      ⟨k, x.ctx, x.gen, va, x.write, x.id, b.beat, 3, pteAddr (getFld b (.xltRoot x.ctx) 13 35 * 2 ^ 13) 3 va, 0, 0, false, false⟩ := by
  unfold startWalk
  rw [if_neg, hk]
  · dsimp only
    rw [if_neg (by omega)]
  · rw [Bool.not_eq_true, List.any_eq_false]
    intro w hw hc
    simp only [Bool.and_eq_true, decide_eq_true_eq, beq_iff_eq] at hc
    exact hno w hw hc.1 hc.2

theorem pteAddr_root (base va : Nat) : pteAddr base 3 va = base + 8 * (va / 2 ^ 39 % 2 ^ 10) := by
  unfold pteAddr bitsOf
  rw [Nat.shiftRight_eq_div_pow]
  rfl

theorem miss_walks {s : State} {x : Stream} {g : Seg} {rest : List Seg} (h : Reads s.blk x g rest) {k : Nat}
    (he : s.blk.tlb.find? (fun e => tlbHit e x.ctx (g.va / 256 * 256)) = none)
    (hno : ∀ w ∈ s.blk.walks, w.ctx = x.ctx → w.va / 0x200000 ≠ g.va / 256 * 256 / 0x200000)
    (hk : lowestFree 16 (s.blk.walks.map (·.idx)) = some k) (hr : 256 ≤ (getCtx s.blk x.ctx).regRead) :
    ∃ (t : State) (w : Walk), s.onLive (fun b => streamIssue b x.id) = .next t
      ∧ t.blk.walks = s.blk.walks ++ [w] ∧ w.idx = k ∧ w.ctx = x.ctx ∧ w.gen = x.gen ∧ w.va = g.va / 256 * 256 ∧ w.write = false ∧ w.stream = x.id ∧ w.issued = s.blk.beat
      ∧ w.lvl = 3 ∧ w.pa = getFld s.blk (.xltRoot x.ctx) 13 35 * 2 ^ 13 + 8 * (w.va / 2 ^ 39 % 2 ^ 10) ∧ w.stale = false ∧ w.denied = false
      ∧ getFld t.blk .xltMiss 0 32 = min (2 ^ 32 - 1) (getFld s.blk .xltMiss 0 32 + 1) ∧ (getCtx t.blk x.ctx).regRead = (getCtx s.blk x.ctx).regRead - 256
      ∧ t.blk.mp = s.blk.mp ∧ t.blk.streams = s.blk.streams := by
  have hdone := (h.issue.trans (sendLocal_miss h he)).trans (startWalk_does hno hk hr)
  generalize hc : bumpFld s.blk .xltMiss 0 32 1 = c at hdone
  have hcount : getFld c .xltMiss 0 32 = min (2 ^ 32 - 1) (getFld s.blk .xltMiss 0 32 + 1) := by rw [← hc]; exact getFld_bumpFld _ _ _ (by omega)
  have hcp : c.pins = s.blk.pins ∧ c.walks = s.blk.walks ∧ c.beat = s.blk.beat ∧ c.mp = s.blk.mp ∧ c.streams = s.blk.streams ∧ c.ctxs = s.blk.ctxs := by
    rw [← hc]
    exact ⟨rfl, rfl, rfl, rfl, rfl, rfl⟩
  obtain ⟨hcpin, hcw, hcb, hcm, hcs, hcc⟩ := hcp
  generalize hw : (⟨k, x.ctx, x.gen, g.va / 256 * 256, x.write, x.id, s.blk.beat, 3, pteAddr (getFld s.blk (.xltRoot x.ctx) 13 35 * 2 ^ 13) 3 (g.va / 256 * 256), 0, 0, false,
    false⟩ : Walk) = w at hdone
  obtain ⟨v, hwalks, hv, hreg, hhot⟩ := walkRead_does c w
  have hwk : w.idx = k ∧ w.ctx = x.ctx := by rw [← hw]; exact ⟨rfl, rfl⟩
  have hfil : s.blk.walks.filter (fun u => u.idx != w.idx) = s.blk.walks := by
    refine List.filter_eq_self.mpr fun u hu => ?_
    have hne : u.idx ≠ k := fun e => lowestFree_unused hk (e ▸ List.mem_map_of_mem hu)
    simpa [hwk.1] using hne
  rw [hcw, hfil] at hwalks
  rw [hwk.2] at hreg
  rw [← hdone] at hwalks hreg hhot
  refine ⟨_, v, onLive_pins (f := fun b => streamIssue b x.id) h.live (hhot.pins.trans hcpin), hwalks, by rw [hv, ← hw], by rw [hv, ← hw], by rw [hv, ← hw], by rw [hv, ← hw],
    by rw [hv, ← hw]; exact h.write, by rw [hv, ← hw], by rw [hv, ← hcb], by rw [hv, ← hw], ?_, by rw [hv, ← hw], by rw [hv, ← hw], ?_, hreg.trans ?_, ?_, ?_⟩
  · rw [hv, ← hw]
    exact pteAddr_root ..
  · exact (hhot.getFld (r := .xltMiss) rfl (fun h => nomatch h) 0 32).trans hcount
  · rw [getCtx, hcc, getCtx]
  · exact (congrArg (·.mp) hhot.frame).trans hcm
  · exact (congrArg (·.streams) hhot.frame).trans hcs

/-- A walk that is over leaves the walks and its bank key alone (R219, R221). -/
theorem walkOver_frame (b : Block) (w : Walk) : ∃ l, walkOver b w = { b with walks := b.walks.filter (fun v => v.idx != w.idx), hotKeys := l } := by
  obtain ⟨l, h⟩ := keyFreed_frame { b with walks := b.walks.filter (fun v => v.idx != w.idx) } w.key
  exact ⟨l, h⟩

theorem walkDone_reads {b : Block} {i : Nat} {w : Walk} (hw : b.walks.find? (fun w => w.idx == i) = some w) (hg : w.gen = (getCtx b w.ctx).gen) (l : List W64) :
    walkDone b i l false = walkReads b w l := by
  unfold walkDone
  rw [hw]
  dsimp only
  rw [if_neg (by simp [hg]), if_neg (by decide)]

/-- An entry that is present and well formed (R220). -/
structure Present (p : W64) : Prop where
  valid : p.getLsbD 0 = true
  low : p.toNat / 2 ^ 3 % 2 ^ 9 = 0
  high : p.toNat / 2 ^ 48 % 2 ^ 8 = 0

theorem bitAt_eq (p : W64) (i : Nat) : bitAt p.toNat i = p.getLsbD i := by
  rw [BitVec.getLsbD, Nat.testBit, bitAt, Nat.and_comm, Nat.and_one_is_mod]
  rcases Nat.mod_two_eq_zero_or_one (p.toNat >>> i) with h | h <;> simp [h]

theorem bitsOf_div (v hi lo : Nat) : bitsOf v hi lo = v / 2 ^ lo % 2 ^ (hi + 1 - lo) := by rw [bitsOf, Nat.shiftRight_eq_div_pow]

theorem Present.pteBad {p : W64} (h : Present p) : pteBad p.toNat = false := by
  have h1 : bitsOf p.toNat 11 3 = 0 := (bitsOf_div ..).trans h.low
  have h2 : bitsOf p.toNat 55 48 = 0 := (bitsOf_div ..).trans h.high
  simp [Machine.pteBad, h1, h2]

theorem walkStep_leaf {p : W64} (h : Present p) (hl : p.getLsbD 1 = true) {lvl : Nat}
    (ha : (lvl = 1 ∧ p.toNat / 2 ^ 12 % 2 ^ 9 = 0) ∨ (lvl = 2 ∧ p.toNat / 2 ^ 12 % 2 ^ 18 = 0)) :
    walkStep lvl p = .leaf (p.toNat / 2 ^ 12 % 2 ^ 36 * 4096) (decide (lvl = 2)) := by
  have ht : bitsOf p.toNat 47 12 = p.toNat / 2 ^ 12 % 2 ^ 36 := bitsOf_div ..
  unfold walkStep
  dsimp only
  rw [bitAt_eq, h.valid, h.pteBad, bitAt_eq, hl, if_neg (by decide), if_neg (by decide), if_pos rfl]
  rcases ha with ⟨rfl, h0⟩ | ⟨rfl, h0⟩
  · have hz : bitsOf p.toNat 20 12 = 0 := (bitsOf_div ..).trans h0
    simp [hz, ht]
  · have hz : bitsOf p.toNat 29 12 = 0 := (bitsOf_div ..).trans h0
    simp [hz, ht]

theorem walkStep_table {p : W64} (h : Present p) (hl : p.getLsbD 1 = false) {lvl : Nat} (ha : lvl = 2 ∨ lvl = 3) :
    walkStep lvl p = .table (p.toNat / 2 ^ 12 % 2 ^ 36 * 4096) := by
  have ht : bitsOf p.toNat 47 12 = p.toNat / 2 ^ 12 % 2 ^ 36 := bitsOf_div ..
  unfold walkStep
  dsimp only
  rw [bitAt_eq, h.valid, h.pteBad, bitAt_eq, hl, if_neg (by decide), if_neg (by decide), if_neg (by decide), if_neg (by rcases ha with rfl | rfl <;> decide), ht]

/-- A leaf fills the cache (R221). -/
theorem walk_fills {s : State} {i : Nat} {p : W64} {w : Walk} (hl : live s.blk = true) (hw : s.blk.walks.find? (fun w => w.idx == i) = some w)
    (hg : w.gen = (getCtx s.blk w.ctx).gen) (hp : Present p) (hleaf : p.getLsbD 1 = true)
    (ha : (w.lvl = 1 ∧ p.toNat / 2 ^ 12 % 2 ^ 9 = 0) ∨ (w.lvl = 2 ∧ p.toNat / 2 ^ 12 % 2 ^ 18 = 0)) (hs : w.stale = false)
    (hwr : w.write = true → w.denied = false ∧ p.getLsbD 2 = true) (rest : List W64) :
    ∃ t : State, s.onLive (fun b => walkDone b i (p :: rest) false) = .next t
      ∧ t.blk.walks = s.blk.walks.filter (fun v => v.idx != i)
      ∧ t.blk.tlb.head? = some ⟨w.ctx, w.va / (if w.lvl = 2 then 0x40000000 else 0x200000), decide (w.lvl = 2), p.toNat / 2 ^ 12 % 2 ^ 36 * 4096, !w.denied && p.getLsbD 2⟩
      ∧ t.blk.mp = s.blk.mp ∧ t.blk.streams = s.blk.streams ∧ t.blk.regs = s.blk.regs ∧ t.blk.ctxs = s.blk.ctxs := by
  have hid : w.idx = i := by simpa using List.find?_some hw
  have hdone : walkDone s.blk i (p :: rest) false
      = tlbFill (walkOver s.blk w) w.ctx w.va (p.toNat / 2 ^ 12 % 2 ^ 36 * 4096) (decide (w.lvl = 2)) (!w.denied && p.getLsbD 2) := by
    have hdeny : ¬ (w.write && !(!w.denied && p.getLsbD 2)) = true := by
      cases hwrite : w.write
      · simp
      · simp [hwr hwrite]
    rw [walkDone_reads hw hg, walkReads, walkStep_leaf hp hleaf ha]
    dsimp only
    rw [hs, bitAt_eq, if_neg (by decide), if_neg hdeny]
  obtain ⟨l, hover⟩ := walkOver_frame s.blk w
  rw [hover, hid] at hdone
  refine ⟨_, onLive_pins (f := fun b => walkDone b i (p :: rest) false) hl (congrArg (·.pins) hdone), congrArg (·.walks) hdone, (congrArg (·.tlb.head?) hdone).trans ?_,
    congrArg (·.mp) hdone, congrArg (·.streams) hdone, congrArg (·.regs) hdone, congrArg (·.ctxs) hdone⟩
  show some _ = some _
  simp only [decide_eq_true_eq]

theorem pteAddr_next {lvl : Nat} (base va : Nat) (h : lvl = 2 ∨ lvl = 3) :
    pteAddr base (lvl - 1) va = base + 8 * (if lvl = 3 then va / 2 ^ 30 % 2 ^ 9 else va / 2 ^ 21 % 2 ^ 9) := by
  unfold pteAddr
  rw [bitsOf_div, bitsOf_div, bitsOf_div]
  rcases h with rfl | rfl
  · rfl
  · rfl

/-- A walk goes on through a table (R220, R221). -/
theorem walk_goes_on {s : State} {i : Nat} {p : W64} {w : Walk} (hl : live s.blk = true) (hw : s.blk.walks.find? (fun w => w.idx == i) = some w)
    (hg : w.gen = (getCtx s.blk w.ctx).gen) (hp : Present p) (htab : p.getLsbD 1 = false) (hlvl : w.lvl = 2 ∨ w.lvl = 3) (hr : 256 ≤ (getCtx s.blk w.ctx).regRead) :
    ∃ (t : State) (v : Walk), s.onLive (fun b => walkDone b i [p] false) = .next t
      ∧ t.blk.walks = s.blk.walks.filter (fun u => u.idx != i) ++ [v] ∧ v.idx = w.idx ∧ v.va = w.va ∧ v.lvl = w.lvl - 1 ∧ v.issued = s.blk.beat
      ∧ v.pa = p.toNat / 2 ^ 12 % 2 ^ 36 * 4096 + 8 * (if w.lvl = 3 then w.va / 2 ^ 30 % 2 ^ 9 else w.va / 2 ^ 21 % 2 ^ 9) ∧ v.denied = (w.denied || !p.getLsbD 2)
      ∧ (getCtx t.blk w.ctx).regRead = (getCtx s.blk w.ctx).regRead - 256 ∧ t.blk.tlb = s.blk.tlb ∧ t.blk.mp = s.blk.mp ∧ t.blk.streams = s.blk.streams := by
  have hid : w.idx = i := by simpa using List.find?_some hw
  obtain ⟨l, hover⟩ := walkOver_frame s.blk w
  rw [hid] at hover
  generalize hn : ({ w with
    lvl := w.lvl - 1, pa := pteAddr (p.toNat / 2 ^ 12 % 2 ^ 36 * 4096) (w.lvl - 1) w.va, denied := w.denied || !p.getLsbD 2 } : Walk) = n
  have hdone : walkDone s.blk i [p] false = walkRead (walkOver s.blk w) n := by
    rw [walkDone_reads hw hg, walkReads, walkStep_table hp htab hlvl]
    dsimp only
    rw [if_neg (by omega), walkReads, bitAt_eq, hn]
    rfl
  obtain ⟨v, hwalks, hv, hreg, hhot⟩ := walkRead_does (walkOver s.blk w) n
  have hnk : n.idx = w.idx ∧ n.ctx = w.ctx ∧ n.va = w.va ∧ n.lvl = w.lvl - 1 ∧ n.pa = pteAddr (p.toNat / 2 ^ 12 % 2 ^ 36 * 4096) (w.lvl - 1) w.va
      ∧ n.denied = (w.denied || !p.getLsbD 2) := by
    rw [← hn]
    exact ⟨rfl, rfl, rfl, rfl, rfl, rfl⟩
  obtain ⟨hnidx, hnctx, hnva, hnlvl, hnpa, hnden⟩ := hnk
  rw [← hdone, hover] at hwalks hhot
  rw [← hdone, hnctx] at hreg
  have hbeat : (walkOver s.blk w).beat = s.blk.beat := by rw [hover]
  have hctx : (getCtx (walkOver s.blk w) w.ctx).regRead = (getCtx s.blk w.ctx).regRead := by rw [hover]; rfl
  have hframe := hhot.frame
  have hpins : (walkDone s.blk i [p] false).pins = s.blk.pins := hhot.pins
  have hrun := onLive_pins (f := fun b => walkDone b i [p] false) hl hpins
  refine ⟨_, v, hrun, hwalks.trans ?_, (congrArg (·.idx) hv).trans hnidx, (congrArg (·.va) hv).trans hnva, (congrArg (·.lvl) hv).trans hnlvl,
    (congrArg (·.issued) hv).trans hbeat, (congrArg (·.pa) hv).trans (hnpa.trans (pteAddr_next _ _ hlvl)), (congrArg (·.denied) hv).trans hnden, hreg.trans (congrArg (· - 256) hctx), congrArg (·.tlb) hframe, congrArg (·.mp) hframe, congrArg (·.streams) hframe⟩
  rw [hnidx, hid]
  simp

theorem streamPage_entry {x : Stream} {e : Nat} (ho : x.owner = .entry e) (b : Block) (va : Nat) : streamPage b x va = raise { b with
      streams := b.streams.filter (fun y => y.id != x.id) ++ [{ x with halted := some va }]
      line := b.line.map (fun l => if decide (x.owner = .entry l.entry) && !x.write then { l with waitFault := true } else l) } .pageFault (streamSite b x va) := by
  unfold streamPage
  split
  · rename_i h
    exact nomatch ho.symm.trans h
  · rename_i h
    exact nomatch ho.symm.trans h
  · rfl

/-- An entry that is not present halts its stream at its first byte (R222). -/
theorem walk_halts {s : State} {i : Nat} {p : W64} {w : Walk} {x : Stream} {e : Nat} {g : Seg} {l : List Seg} (hl : live s.blk = true)
    (hw : s.blk.walks.find? (fun w => w.idx == i) = some w) (hg : w.gen = (getCtx s.blk w.ctx).gen) (hp : p.getLsbD 0 = false)
    (hx : findStream s.blk w.stream = some x) (ho : x.owner = .entry e) (ht : x.todo = g :: l) (rest : List W64) :
    ∃ (t : State) (y : Stream), s.onLive (fun b => walkDone b i (p :: rest) false) = .next t ∧ t.blk.walks = s.blk.walks.filter (fun v => v.idx != i)
      ∧ t.blk.streams = s.blk.streams.filter (fun y => y.id != x.id) ++ [y] ∧ y = { x with halted := some g.va } ∧ t.blk.tlb = s.blk.tlb ∧ t.blk.sram = s.blk.sram := by
  have hid : w.idx = i := by simpa using List.find?_some hw
  obtain ⟨k, hover⟩ := walkOver_frame s.blk w
  rw [hid] at hover
  generalize hv : walkOver s.blk w = v at hover
  have hvx : findStream v w.stream = some x := by rw [hover]; exact hx
  have hfirst : (x.todo.headD ⟨w.va, .const 0⟩).va = g.va := by rw [ht]; rfl
  have hstep : walkStep w.lvl p = .page := by
    unfold walkStep
    dsimp only
    rw [bitAt_eq, hp, if_pos (by decide)]
  generalize hm : ({ v with
    streams := v.streams.filter (fun y => y.id != x.id) ++ [{ x with halted := some g.va }]
    line := v.line.map (fun l => if decide (x.owner = .entry l.entry) && !x.write then { l with waitFault := true } else l) } : Block) = m
  have hdone : walkDone s.blk i (p :: rest) false = raise m .pageFault (streamSite v x g.va) := by
    rw [walkDone_reads hw hg, walkReads, hstep]
    dsimp only
    rw [hv, hvx]
    dsimp only
    rw [hfirst, streamPage_entry ho, hm]
  have hro := raise_readOnly m .pageFault (streamSite v x g.va)
  rw [← hdone] at hro
  have hframe := hro.frame
  have hms : m.walks = s.blk.walks.filter (fun v => v.idx != i) ∧ m.streams = s.blk.streams.filter (fun y => y.id != x.id) ++ [{ x with halted := some g.va }]
      ∧ m.tlb = s.blk.tlb ∧ m.sram = s.blk.sram ∧ m.pins = s.blk.pins := by
    rw [← hm, hover]
    exact ⟨rfl, rfl, rfl, rfl, rfl⟩
  obtain ⟨h1, h2, h3, h4, h5⟩ := hms
  exact ⟨_, _, onLive_pins (f := fun b => walkDone b i (p :: rest) false) hl (hro.pins.trans h5), (congrArg (·.walks) hframe).trans h1,
    (congrArg (·.streams) hframe).trans h2, rfl, (congrArg (·.tlb) hframe).trans h3, hro.sram.trans h4⟩

/-! ### Responses and timeouts (R328, R376, R377) -/

/-- The walks, the tags that are out, the arrays, the groups and the jobs: what the end of a request does not touch beside its own tag. -/
def held (b : Block) : List Walk × List Nat × Vector ArraySt 4 × Vector GroupSt 64 × List Job := (b.walks, b.mp.map (·.tag), b.arrays, b.groups, b.jobs)

theorem held_readOnly {b d : Block} (h : ReadOnly b d) : held d = held b := by
  rw [h.frame]
  rfl

theorem held_raise (b : Block) (code : Code) (t : Site) : held (raise b code t) = held b := held_readOnly (raise_readOnly ..)

theorem held_foldl {β : Type} {f : Block → β → Block} (hf : ∀ b x, held (f b x) = held b) (l : List β) (b : Block) : held (l.foldl f b) = held b :=
  List.foldlRecOn (motive := fun (x : Block) => held x = held b) l f rfl fun d h x _ => (hf d x).trans h

theorem held_notify (b : Block) (k : Nat) (c : Option Ctx) (d e : Nat) (j : Bool) : held (notify b k c d e j) = held b := by
  obtain ⟨n, h⟩ := notify_frame b k c d e j
  rw [h]
  rfl

theorem held_quarantineEnd (b : Block) (c : Ctx) : held (quarantineEnd b c) = held b := by
  unfold quarantineEnd
  split
  · exact held_notify ..
  · rfl

theorem held_stopStream (b : Block) (x : Stream) : held (stopStream b x) = held b := by
  unfold stopStream
  extract_lets +lift c m
  have hc : held c = held b := by
    simp only [c]
    split
    · split <;> rfl
    · rfl
  have hm : held m = held b := hc
  clear_value m
  split
  · exact hm
  · split
    · split <;> exact hm
    · exact hm
  · exact hm

theorem stopStream_ctxs (b : Block) (x : Stream) : (stopStream b x).ctxs = b.ctxs := by
  unfold stopStream
  extract_lets +lift c m
  have hc : c.ctxs = b.ctxs := by
    simp only [c]
    split
    · split <;> rfl
    · rfl
  have hm : m.ctxs = b.ctxs := hc
  clear_value m
  split
  · exact hm
  · split
    · split <;> exact hm
    · exact hm
  · exact hm

theorem held_sendAnswer (b : Block) (h : BitVec 512) : held (sendAnswer b h) = held b := by
  unfold sendAnswer
  dsimp only
  split <;> rfl

theorem held_refuseInbound (b : Block) (x : Stream) (h : BitVec 512) (va : Nat) (f : Bool) : held (refuseInbound b x h va f) = held b := by
  obtain ⟨w, a, hw⟩ : ∃ w a, refuseInbound b x h va f
      = sendAnswer (freeInbuf (dropStream (bumpFld (hwSet (setRaw b .fabRxpf w) .fabRxpf 63) .fabRxcount 48 16 1) x.id) x.ctx h) a := ⟨_, _, rfl⟩
  rw [hw]
  exact (held_sendAnswer ..).trans rfl

theorem held_streamXlate (b : Block) (x : Stream) (va : Nat) : held (streamXlate b x va) = held b := by
  unfold streamXlate
  split
  · rfl
  · exact held_refuseInbound ..
  · exact (held_raise ..).trans (held_stopStream ..)

theorem held_requestFailed (b : Block) (r : MpReq) : held (requestFailed b r) = held b := by
  unfold requestFailed
  split
  · rfl
  · exact held_streamXlate ..

theorem held_moveAgain (b : Block) (x : Stream) (l : List Seg) : held (moveAgain b x l) = held b := by
  unfold moveAgain
  extract_lets +lift hit cur ended inFeed c
  have hc : held c = held b := by
    unfold c
    generalize cur = o
    cases o <;> rfl
  clear_value c
  exact hc

theorem held_refetch (b : Block) (x : Stream) (l : List Seg) : held (refetch b x l) = held b := by
  unfold refetch
  dsimp only
  exact (held_foldl (fun c y => held_moveAgain c y _) _ _).trans ((held_moveAgain ..).trans (held_raise ..))

theorem held_hazardScan (b : Block) (x : Stream) (l : List Seg) : held (hazardScan b x l) = held b := by
  unfold hazardScan
  extract_lets op c
  clear_value op
  split
  · rfl
  · refine (held_foldl (fun c y => ?_) _ _).trans ?_
    · split
      · dsimp only
        split
        · rfl
        · exact held_refetch ..
      · rfl
    · have htags : ∀ f : MpReq → MpReq, (∀ r, (f r).tag = r.tag) → held { b with mp := b.mp.map f } = held b := fun f hf => by
        unfold held
        simp [List.map_map, Function.comp_def, hf]
      refine htags _ fun r => ?_
      split
      · split <;> rfl
      · rfl

theorem held_streamEnd (b : Block) (i : Nat) : held (streamEnd b i) = held b := by
  unfold streamEnd
  split
  · split
    · split
      · rfl
      · exact held_sendAnswer ..
      · rfl
    · rfl
  · rfl

/-- A tag that is freed leaves the requests that are out (R376). -/
theorem tagFreed_frame (b : Block) (r : MpReq) : ∃ l, tagFreed b r = { b with invalBusy := b.invalBusy.erase r.tag, hotKeys := l } := keyFreed_frame { b with invalBusy := _ } r.key

/-- The block after a response or a timeout has freed tag `k`. -/
def freed (b : Block) (k : Nat) (r : MpReq) : Block := tagFreed { b with mp := b.mp.filter (fun q => q.tag != k) } r

theorem freed_frame (b : Block) (k : Nat) (r : MpReq) : ∃ v l, freed b k r = { b with mp := b.mp.filter (fun q => q.tag != k), invalBusy := v, hotKeys := l } := by
  obtain ⟨l, h⟩ := tagFreed_frame { b with mp := b.mp.filter (fun q => q.tag != k) } r
  exact ⟨_, l, h⟩

/-- What holds of a block after which tag `k` is free. -/
theorem mpFree_of_held {b d : Block} {k : Nat} {r : MpReq} (h : held d = held (freed b k r)) : mpFree d k := by
  obtain ⟨v, l, hf⟩ := freed_frame b k r
  have htags : d.mp.map (·.tag) = (b.mp.filter (fun q => q.tag != k)).map (·.tag) := by
    have h2 : (held d).2.1 = (held (freed b k r)).2.1 := by rw [h]
    rw [hf] at h2
    exact h2
  intro y hy hk
  have hin : k ∈ d.mp.map (·.tag) := hk ▸ List.mem_map_of_mem hy
  rw [htags] at hin
  obtain ⟨q, hq, hqk⟩ := List.mem_map.mp hin
  exact absurd hqk (by simpa using (List.mem_filter.mp hq).2)

theorem held_freed (b : Block) (k : Nat) (r : MpReq) : (held (freed b k r)).1 = b.walks ∧ (held (freed b k r)).2.2 = (b.arrays, b.groups, b.jobs) := by
  obtain ⟨v, l, hf⟩ := freed_frame b k r
  rw [hf]
  exact ⟨rfl, rfl⟩

/-- A block whose units are those of a block that freed a tag. -/
theorem parts_of_held {b d : Block} {k : Nat} {r : MpReq} (h : held d = held (freed b k r)) : d.walks = b.walks ∧ d.arrays = b.arrays ∧ d.groups = b.groups ∧ d.jobs = b.jobs := by
  obtain ⟨h1, h2⟩ := held_freed b k r
  rw [← h] at h1 h2
  simp only [held, Prod.mk.injEq] at h2
  exact ⟨h1, h2.1, h2.2.1, h2.2.2⟩

theorem jobRunning_nil {b : Block} (h : b.jobs = []) : jobRunning b = none := by
  unfold jobRunning
  rw [h]
  rfl

/-- The bytes of a response reach the engine, or the wheel that turns them (R123, R376). -/
theorem readResponse_does {b : Block} {k : Nat} {r : MpReq} {x : Stream} (data : List Byte) (hc : eccClean b) (hr : b.mp.find? (fun r => r.tag == k && !r.write) = some r)
    (hz : r.zombie = false) (hd : r.redo = false) (hg : r.gen = (getCtx b r.ctx).gen) (hx : findStream b r.stream = some x) (hf : x.feed = none) (hfed : x.fed = [])
    (hl : x.later = []) :
    let got := r.segs.map (fun s => (s.ref, data.getD (s.va - r.va) 0))
    let d := readResponse b k 0 data
    held d = held (freed b k r) ∧ d.pins = b.pins
      ∧ (r.turned = false → d.sram = got.foldl (fun m p => putRef m p.1 p.2) b.sram)
      ∧ (r.turned = true → (findStream d x.id).map (·.wq) = some (x.wq ++ got) ∧ d.sram = b.sram) := by
  obtain ⟨v, l, hfr⟩ := freed_frame b k r
  have hid := findStream_id hx
  generalize hfb : freed b k r = f at hfr
  have hparts : f.sram = b.sram ∧ f.pins = b.pins ∧ eccClean f ∧ findStream f x.id = some x ∧ (getCtx f r.ctx).gen = (getCtx b r.ctx).gen := by
    rw [hfr, hid]
    exact ⟨rfl, rfl, hc, hx, rfl⟩
  obtain ⟨hfs, hfp, hfc, hfx, hfg⟩ := hparts
  have hfeeds : x.feeds = false := by simp [Stream.feeds, hf, hfed, hl]
  have hstep : ∀ p : Block × Bool, (if r.turned then (modStream f x.id (fun y => { y with wq := y.wq ++ r.segs.map (fun s => (s.ref, data.getD (s.va - r.va) 0)) }), false)
      else scatter f (r.segs.map (fun s => (s.ref, data.getD (s.va - r.va) 0)))) = p → p.2 = false → readResponse b k 0 data = progress (foldRead p.1 x.id) r.ctx := by
    intro p hp hb
    unfold readResponse
    rw [hr]
    dsimp only
    rw [show tagFreed _ r = f from hfb, if_neg (by simp [hz, hfg, hg]), if_neg (by decide), ← hid, hfx]
    dsimp only
    rw [hd, if_neg (by decide), hp, hb, hfeeds]
    rfl
  have hprog : ∀ c : Block, held (progress c r.ctx) = held c ∧ (progress c r.ctx).pins = c.pins ∧ (progress c r.ctx).sram = c.sram ∧ (progress c r.ctx).streams = c.streams :=
    fun c => ⟨rfl, rfl, rfl, rfl⟩
  dsimp only
  cases ht : r.turned with
  | false =>
    obtain ⟨a, ha, hsc⟩ := scatter_clean hfc (r.segs.map (fun s => (s.ref, data.getD (s.va - r.va) 0)))
    have hdone := hstep _ (by rw [ht, if_neg (by decide), hsc]) rfl
    generalize hm : ({ a with sram := (r.segs.map (fun s => (s.ref, data.getD (s.va - r.va) 0))).foldl (fun m p => putRef m p.1 p.2) f.sram } : Block) = m at hdone
    have hmp : held m = held f ∧ m.pins = f.pins ∧ m.streams = f.streams
        ∧ m.sram = (r.segs.map (fun s => (s.ref, data.getD (s.va - r.va) 0))).foldl (fun m p => putRef m p.1 p.2) b.sram := by
      rw [← hm, ha, ← hfs]
      exact ⟨rfl, rfl, rfl, rfl⟩
    obtain ⟨h1, h2, h3, h4⟩ := hmp
    have hmx : findStream m x.id = some x := by
      unfold findStream at hfx ⊢
      rw [h3]
      exact hfx
    dsimp only at hdone
    rw [foldRead_none hmx hf] at hdone
    obtain ⟨p1, p2, p3, -⟩ := hprog m
    rw [hdone]
    exact ⟨p1.trans h1, p2.trans (h2.trans hfp), fun _ => p3.trans h4, fun h => nomatch h⟩
  | true =>
    have hdone := hstep _ (by rw [ht, if_pos rfl]) rfl
    have hmx := findStream_modStream (f := fun y => { y with wq := y.wq ++ r.segs.map (fun s => (s.ref, data.getD (s.va - r.va) 0)) }) (fun _ => rfl) hfx
    generalize hm : modStream f x.id (fun y => { y with wq := y.wq ++ r.segs.map (fun s => (s.ref, data.getD (s.va - r.va) 0)) }) = m at hdone hmx
    have hmp : held m = held f ∧ m.pins = f.pins ∧ m.sram = f.sram := by rw [← hm]; exact ⟨rfl, rfl, rfl⟩
    obtain ⟨h1, h2, h3⟩ := hmp
    dsimp only at hdone
    rw [foldRead_none hmx hf] at hdone
    obtain ⟨p1, p2, p3, p4⟩ := hprog m
    rw [hdone]
    refine ⟨p1.trans h1, p2.trans (h2.trans hfp), fun h => (nomatch h), fun _ => ⟨?_, p3.trans (h3.trans hfs)⟩⟩
    have hpx : findStream (progress m r.ctx) x.id = findStream m x.id := by
      unfold findStream
      rw [p4]
    rw [hpx, hmx]
    rfl

theorem read_lands {s : State} {tag : BitVec 13} {data : List Byte} {r : MpReq} {x : Stream} (hlive : live s.blk = true) (hjobs : s.blk.jobs = []) (hc : eccClean s.blk)
    (htag : tag ≠ 0x1840#13) (hr : s.blk.mp.find? (fun r => r.tag == tag.toNat && !r.write) = some r) (hz : r.zombie = false) (hd : r.redo = false)
    (hg : r.gen = (getCtx s.blk r.ctx).gen) (hx : findStream s.blk r.stream = some x) (hf : x.feed = none) (hfed : x.fed = []) (hl : x.later = []) :
    ∃ t : State, exec (.mpReadResponse tag 0#2 data) s = .next t ∧ mpFree t.blk tag.toNat
      ∧ (∀ a n, r.turned = false → r.segs = (List.range n).map (fun i => ⟨r.va + i, .mem (a + i)⟩) →
          (∀ i < n, memGet t.blk.sram (a + i) = data.getD i 0) ∧ (∀ y, (y < a ∨ a + n ≤ y) → memGet t.blk.sram y = memGet s.blk.sram y))
      ∧ (r.turned = true → (findStream t.blk x.id).map (·.wq) = some (x.wq ++ r.segs.map (fun s => (s.ref, data.getD (s.va - r.va) 0))) ∧ t.blk.sram = s.blk.sram)
      ∧ t.blk.arrays = s.blk.arrays ∧ t.blk.groups = s.blk.groups := by
  obtain ⟨hheld, hpins, hplain, hturned⟩ := readResponse_does data hc hr hz hd hg hx hf hfed hl
  obtain ⟨-, harr, hgrp, hjob⟩ := parts_of_held hheld
  have hdone : (fun b => if tag = 0x1840#13 then launchResponse b ((0#2 : BitVec 2) != 0#2) data else jobAdvance (readResponse b tag.toNat (0#2 : BitVec 2).toNat data)) s.blk
      = readResponse s.blk tag.toNat 0 data := by
    dsimp only
    rw [if_neg htag]
    exact jobAdvance_idle (jobRunning_nil (hjob.trans hjobs))
  generalize hfun : (fun b => if tag = 0x1840#13 then launchResponse b ((0#2 : BitVec 2) != 0#2) data else jobAdvance (readResponse b tag.toNat (0#2 : BitVec 2).toNat data)) = F at hdone
  have hrun : exec (.mpReadResponse tag 0#2 data) s = .next { s with blk := readResponse s.blk tag.toNat 0 data } := by
    rw [← hdone]
    refine (congrArg s.onLive hfun).trans (onLive_pins hlive ?_)
    rw [hdone]
    exact hpins
  refine ⟨_, hrun, mpFree_of_held hheld, fun a n ht hs => ?_, hturned, harr, hgrp⟩
  have hsram := hplain ht
  have hgot : r.segs.map (fun s => (s.ref, data.getD (s.va - r.va) 0)) = (List.range n).map (fun i => ((.mem (a + i) : ByteRef), data.getD i 0)) := by
    rw [hs, List.map_map]
    refine List.map_congr_left fun i _ => ?_
    simp
  rw [hgot, putRefs_mem s.blk.sram a n (fun i => data.getD i 0)] at hsram
  have hlen : ((List.range n).map (fun i => data.getD i 0)).length = n := by simp
  refine ⟨fun i hi => ?_, fun y hy => ?_⟩
  · refine (congrArg (memGet · (a + i)) hsram).trans ?_
    rw [memGet_memPutBytes_in _ _ _ _ (by rw [hlen]; exact hi)]
    simp
  · refine (congrArg (memGet · y) hsram).trans (memGet_memPutBytes_out _ _ _ _ ?_)
    rw [hlen]
    exact hy

/-- A write completion frees its tag and lets its stream go on (R376). -/
theorem write_completes {s : State} {tag : BitVec 13} {r : MpReq} {x : Stream} (hlive : live s.blk = true) (hjobs : s.blk.jobs = [])
    (hr : s.blk.mp.find? (fun r => r.tag == tag.toNat && r.write) = some r) (hz : r.zombie = false) (hx : findStream s.blk r.stream = some x) :
    ∃ t : State, s.onLive (fun b => jobAdvance (writeCompletion b tag.toNat (0#2 : BitVec 2).toNat)) = .next t ∧ mpFree t.blk tag.toNat
      ∧ t.blk.sram = s.blk.sram ∧ t.blk.arrays = s.blk.arrays ∧ t.blk.groups = s.blk.groups := by
  have hdone : ∃ f : Block, writeCompletion s.blk tag.toNat 0 = streamEnd (progress (hazardScan (freed s.blk tag.toNat r) x r.segs) r.ctx) x.id := by
    obtain ⟨v, l, hfr⟩ := freed_frame s.blk tag.toNat r
    have hfx : findStream (freed s.blk tag.toNat r) r.stream = some x := by rw [hfr]; exact hx
    refine ⟨s.blk, ?_⟩
    unfold writeCompletion
    rw [hr]
    dsimp only
    rw [hz, if_neg (by decide), if_neg (by decide)]
    change (match findStream (freed s.blk tag.toNat r) r.stream with | none => _ | some x => _) = _
    rw [hfx]
    rfl
  obtain ⟨-, hdone⟩ := hdone
  have hheld : held (writeCompletion s.blk tag.toNat 0) = held (freed s.blk tag.toNat r) := by
    rw [hdone]
    refine (held_streamEnd ..).trans ?_
    show held (hazardScan _ _ _) = _
    exact held_hazardScan ..
  have hstore := Store.store_writeCompletion s.blk tag.toNat 0
  obtain ⟨-, harr, hgrp, hjob⟩ := parts_of_held hheld
  have hadv : jobAdvance (writeCompletion s.blk tag.toNat (0#2 : BitVec 2).toNat) = writeCompletion s.blk tag.toNat 0 :=
    jobAdvance_idle (jobRunning_nil (hjob.trans hjobs))
  have hrun := onLive_pins (f := fun b => jobAdvance (writeCompletion b tag.toNat (0#2 : BitVec 2).toNat)) hlive ((congrArg (·.pins) hadv).trans (congrArg (·.2.2) hstore))
  rw [hadv] at hrun
  exact ⟨_, hrun, mpFree_of_held hheld, congrArg (·.1) hstore, harr, hgrp⟩

/-- A request without a response frees its tag and halts its stream's context (R328, R377). -/
theorem request_times_out {s : State} {tag : BitVec 13} {r : MpReq} (hlive : live s.blk = true) (htag : tag.toNat < 0x1840)
    (hr : s.blk.mp.find? (fun r => r.tag == tag.toNat) = some r) (ht : max 1 (getFld s.blk .engTagTimeout 0 32) ≤ s.blk.beat - r.issued) :
    ∃ t : State, exec (.tagTimeout tag) s = .next t ∧ mpFree t.blk tag.toNat
      ∧ (∀ x e, r.zombie = false → findStream s.blk r.stream = some x → x.owner = .entry e → faultable s.blk x.ctx = true → (getCtx t.blk x.ctx).state = .faulted)
      ∧ t.blk.sram = s.blk.sram := by
  have hne : tag ≠ 0x1840#13 := fun h => by
    rw [h] at htag
    exact absurd htag (by decide)
  have hdone : tagTimedOut s.blk tag.toNat = if r.zombie then quarantineEnd (freed s.blk tag.toNat r) r.ctx else requestFailed (freed s.blk tag.toNat r) r := by
    unfold tagTimedOut
    rw [if_neg (by simp; omega), hr]
    dsimp only
    rw [if_pos (show tagTimeoutLimit s.blk ≤ _ from ht)]
    rfl
  have hheld : held (tagTimedOut s.blk tag.toNat) = held (freed s.blk tag.toNat r) := by
    rw [hdone]
    split
    · exact held_quarantineEnd ..
    · exact held_requestFailed ..
  have hstore := Store.store_tagTimedOut s.blk tag.toNat
  generalize hfun : (fun b => if tag = 0x1840#13 then
      (if b.launchRead.any (fun q => decide (tagTimeoutLimit b ≤ b.beat - q.issued)) then launchResponse b true [] else b) else tagTimedOut b tag.toNat) = F
  have hF : F s.blk = tagTimedOut s.blk tag.toNat := by
    rw [← hfun]
    exact if_neg hne
  have hrun : exec (.tagTimeout tag) s = .next { s with blk := tagTimedOut s.blk tag.toNat } := by
    rw [← hF]
    refine (congrArg s.onLive hfun).trans (onLive_pins hlive ?_)
    rw [hF]
    exact congrArg (·.2.2) hstore
  refine ⟨_, hrun, mpFree_of_held hheld, fun x e hz hx ho hf => ?_, congrArg (·.1) hstore⟩
  obtain ⟨v, l, hfr⟩ := freed_frame s.blk tag.toNat r
  rw [hz, if_neg (by decide)] at hdone
  generalize freed s.blk tag.toNat r = f at hdone hfr
  have hfx : findStream f r.stream = some x := by rw [hfr]; exact hx
  have hfail : tagTimedOut s.blk tag.toNat = raise (stopStream f x) .translation (streamSite f x r.va) := by
    rw [hdone]
    unfold requestFailed
    rw [hfx]
    dsimp only
    unfold streamXlate
    split
    · rename_i h
      exact nomatch ho.symm.trans h
    · rename_i h
      exact nomatch ho.symm.trans h
    · rfl
  have hsite : (streamSite f x r.va).ctx = some x.ctx := by
    unfold streamSite
    dsimp only
    (repeat' split) <;> rfl
  have hctxs : (stopStream f x).ctxs = s.blk.ctxs := by
    have h : (stopStream f x).ctxs = f.ctxs := stopStream_ctxs f x
    rw [h, hfr]
  show (getCtx (tagTimedOut s.blk tag.toNat) x.ctx).state = .faulted
  rw [hfail]
  refine raise_faults rfl (by decide) hsite ?_
  rw [← hf]
  unfold faultable getCtx
  rw [hctxs]

/-- A walk without a response ends (R328, R377). -/
theorem walk_times_out {s : State} {tag : BitVec 13} {w : Walk} (hlive : live s.blk = true) (hlo : 0x1841 ≤ tag.toNat) (hhi : tag.toNat ≤ 0x1850)
    (hw : s.blk.walks.find? (fun w => w.idx == tag.toNat - 0x1841) = some w) (ht : max 1 (getFld s.blk .engTagTimeout 0 32) ≤ s.blk.beat - w.issued) :
    ∃ t : State, exec (.tagTimeout tag) s = .next t ∧ t.blk.walks = s.blk.walks.filter (fun v => v.idx != w.idx) ∧ t.blk.sram = s.blk.sram := by
  have hid : w.idx = tag.toNat - 0x1841 := by simpa using List.find?_some hw
  have hne : tag ≠ 0x1840#13 := fun h => by
    rw [h] at hlo
    exact absurd hlo (by decide)
  have hover : (walkOver s.blk w).walks = s.blk.walks.filter (fun v => v.idx != w.idx) := by
    obtain ⟨l, h⟩ := walkOver_frame s.blk w
    rw [h]
  have hdone : (tagTimedOut s.blk tag.toNat).walks = s.blk.walks.filter (fun v => v.idx != w.idx) := by
    unfold tagTimedOut
    rw [if_pos (by simp [hlo, hhi]), hw]
    dsimp only
    rw [if_pos (show tagTimeoutLimit s.blk ≤ _ from ht)]
    unfold walkDone
    rw [hid, hw]
    dsimp only
    rw [← hid]
    split
    · exact hover
    · rw [if_pos rfl]
      split
      · exact (congrArg (·.1) (held_streamXlate ..)).trans hover
      · exact hover
  have hstore := Store.store_tagTimedOut s.blk tag.toNat
  generalize hfun : (fun b => if tag = 0x1840#13 then
      (if b.launchRead.any (fun q => decide (tagTimeoutLimit b ≤ b.beat - q.issued)) then launchResponse b true [] else b) else tagTimedOut b tag.toNat) = F
  have hF : F s.blk = tagTimedOut s.blk tag.toNat := by
    rw [← hfun]
    exact if_neg hne
  have hrun : exec (.tagTimeout tag) s = .next { s with blk := tagTimedOut s.blk tag.toNat } := by
    rw [← hF]
    refine (congrArg s.onLive hfun).trans (onLive_pins hlive ?_)
    rw [hF]
    exact congrArg (·.2.2) hstore
  exact ⟨_, hrun, hdone, congrArg (·.1) hstore⟩

end Sys2Proof.Proofs.Streams

namespace Sys2Proof

open Machine Proofs.Streams

/-- Settles O58, event by event; the lowest free tag is taken (log 13), and each read of a walk is charged 256 bytes at its issue (log 23). -/
theorem streamsAndPorts : Obligations.StreamsAndPorts := by
  unfold Obligations.StreamsAndPorts
  refine ⟨fun s i x g rest hl hx ho hh ht hf hfeed hp hw hs hroot hva => ?_, fun s i p rest w hl hw hg hv hlow hhigh => ⟨fun hleaf ha hs hwr => ?_, fun htab hlvl hrest hr => ?_⟩,
    fun s i p rest w x e g l hl hw hg hp hx ho ht => walk_halts hl hw hg hp hx ho ht rest,
    fun s tag data r x hl hj hc ht hr hz hd hg hx hf hfed hlater => read_lands hl hj hc ht hr hz hd hg hx hf hfed hlater,
    fun s tag r x hl hj hr hz hx => write_completes hl hj hr hz hx, fun s tag r hl ht hr hlim => request_times_out hl ht hr hlim,
    fun s tag w hl hlo hhi hw hlim => walk_times_out hl hlo hhi hw hlim⟩
  · obtain rfl := findStream_id hx
    have hreads : Reads s.blk x g rest := ⟨hl, hx, ho, hh, ht, hf, hfeed, hp, hw, hs, hroot, hva⟩
    exact ⟨fun e k he hk hr => read_issues hreads he hk hr, fun k he hno hk hr => miss_walks hreads he hno hk hr⟩
  · exact walk_fills hl hw hg ⟨hv, hlow, hhigh⟩ hleaf ha hs hwr rest
  · subst hrest
    exact walk_goes_on hl hw hg ⟨hv, hlow, hhigh⟩ htab hlvl hr

end Sys2Proof

/-! SUPPORT. The chain unit: what follows a change of the ring, frames that arrive, go on, are re-read and are cut through (R280 to R289). Settles O59. -/

namespace Sys2Proof.Proofs.Chain

open Sys2Proof Sys2Proof.Machine Sys2Proof.Laws Sys2Proof.Proofs.Fields Sys2Proof.Proofs.Reports Sys2Proof.Proofs.Reads
open Sys2Proof.Proofs.Complete Sys2Proof.Proofs.Sram Sys2Proof.Proofs.IssueStage
open Sys2Proof.Proofs.Kiln (OnlyActs)
open Sys2Proof.Proofs.Streams (bitsOf_div)

/-! ### What follows a change of the ring (R282, R287) -/

/-- From `c` to `d` frames and tiles have been kept, dropped or freed: the links, the numbering and CUT stand. -/
def Settles (c d : ChainSt) : Prop :=
  d = { c with ring := d.ring, keep := d.keep, tiles := d.tiles, creditsOut := d.creditsOut, holdFrom := d.holdFrom }

theorem Settles.refl (c : ChainSt) : Settles c c := rfl

theorem Settles.trans {c d e : ChainSt} (h : Settles c d) (k : Settles d e) : Settles c e := by
  unfold Settles at h k ⊢
  rw [h] at k
  exact k

theorem Settles.foldl {β : Type} {f : Block → β → Block} (hf : ∀ b x, Settles b.chain (f b x).chain) (l : List β) (b : Block) : Settles b.chain (l.foldl f b).chain :=
  l.foldlRecOn f (motive := fun d => Settles b.chain d.chain) (.refl _) (fun d h x _ => h.trans (hf d x))

theorem keepFrame_chain (b : Block) (f : Frame) : ∃ l, (keepFrame b f).chain = { b.chain with keep := l } := by
  have hread := (eccRead_readOnly b (slotAddr f.slot) f.len false).chain_eq
  change (slotRead b f).1.chain = _ at hread
  unfold keepFrame
  generalize slotRead b f = p at hread
  obtain ⟨d, bad⟩ := p
  dsimp only at hread ⊢
  generalize hraised : (if bad = true then raise (tickFree d) .sramUncorrectable { ctx := some (chnCtx d), gen := (getCtx d (chnCtx d)).gen, unit := 9 } else d) = r
  have hr : r.chain = b.chain := by
    rw [← hraised, ← hread]
    split
    · exact (raise_readOnly (tickFree d) _ _).chain_eq
    · rfl
  exact ⟨_, by rw [← hr]; rfl⟩

theorem keepFrames_ring (l : List Frame) (b : Block) : (l.foldl keepFrame b).chain.ring = b.chain.ring :=
  l.foldlRecOn keepFrame (motive := fun d => d.chain.ring = b.chain.ring) rfl (fun d h f _ => by
    obtain ⟨k, hk⟩ := keepFrame_chain d f
    rw [hk]
    exact h)

theorem keepFrame_settles (b : Block) (f : Frame) : Settles b.chain (keepFrame b f).chain := by
  obtain ⟨l, h⟩ := keepFrame_chain b f
  rw [h]
  rfl

theorem cutTile_settles (b : Block) (t : ChTile) : Settles b.chain (cutTile b t).chain := by
  unfold cutTile
  dsimp only
  split
  · rfl
  · split
    · exact (Settles.foldl keepFrame_settles _ b).trans rfl
    · rfl

theorem chainSettle_settles (b : Block) : Settles b.chain (chainSettle b).chain := by
  have hcut : Settles b.chain (if b.chain.cut then b.chain.tiles.foldl cutTile b else b).chain := by
    split
    · exact Settles.foldl cutTile_settles _ b
    · rfl
  exact hcut.trans rfl

/-- Outside cut-through only slots free and the hold timer moves. -/
theorem chainSettle_uncut {b : Block} (h : b.chain.cut = false) : chainSettle b = holdUpdate (freeSlots b) := by
  rw [chainSettle, h]
  rfl

theorem settled_ring (b : Block) (f : Frame) : f ∈ (holdUpdate (freeSlots b)).chain.ring ↔ f ∈ b.chain.ring ∧ (f.fwd || !f.copied) = true :=
  List.mem_filter

/-- No tile is kept or dropped whose frame has still to go on: the frame stays. -/
theorem cutTile_forward {b : Block} (t : ChTile) {f : Frame} (hf : f ∈ b.chain.ring) (hw : f.fwd = true) : f ∈ (cutTile b t).chain.ring := by
  unfold cutTile
  dsimp only
  split
  · exact hf
  · rename_i hcut
    have honly : onlyCopy b.chain t = true := by
      simp only [Bool.or_eq_true, Bool.not_eq_true', not_or, Bool.not_eq_false] at hcut
      exact hcut.2
    have hne : f.tile ≠ t.id := by
      intro he
      have h := List.all_eq_true.mp honly f (List.mem_filter.mpr ⟨hf, by simp [he]⟩)
      simp [hw] at h
    split
    · refine List.mem_map.mpr ⟨f, ?_, by simp [hne]⟩
      rw [keepFrames_ring]
      exact hf
    · exact List.mem_map.mpr ⟨f, hf, by simp [hne]⟩

theorem chainSettle_forward {b : Block} {f : Frame} (hf : f ∈ b.chain.ring) (hw : f.fwd = true) : f ∈ (chainSettle b).chain.ring := by
  refine (settled_ring _ f).mpr ⟨?_, by simp [hw]⟩
  split
  · exact b.chain.tiles.foldlRecOn cutTile (motive := fun d => f ∈ d.chain.ring) hf (fun d h t _ => cutTile_forward t h hw)
  · exact hf

/-! ### In clean memory -/

/-- From `b` to `d` the chain unit alone has worked, and met no error of memory. -/
structure Works (b d : Block) : Prop where
  frame : d = { b with chain := d.chain, acts := d.acts }

theorem Works.refl (b : Block) : Works b b := ⟨rfl⟩

theorem Works.trans {b d e : Block} (h : Works b d) (k : Works d e) : Works b e := by
  have h1 := h.frame
  have k1 := k.frame
  rw [h1] at k1
  exact ⟨k1⟩

theorem Works.clean {b d : Block} (h : Works b d) (hc : eccClean b) : eccClean d := by
  rw [h.frame]
  exact hc

theorem Works.foldl {β : Type} {f : Block → β → Block} (hf : ∀ b x, eccClean b → Works b (f b x)) (l : List β) {b : Block} (hc : eccClean b) : Works b (l.foldl f b) :=
  l.foldlRecOn f (motive := Works b) (.refl b) (fun d h x _ => h.trans (hf d x (h.clean hc)))

theorem freshEcc_clean {b : Block} (h : eccClean b) (a n : Nat) : freshEcc b a n = b := by
  obtain ⟨h1, h2⟩ := h
  unfold freshEcc
  dsimp only
  rw [h1, h2, List.filter_nil]
  obtain ⟨⟩ := b
  cases h1
  cases h2
  rfl

theorem slotRead_clean {b : Block} (h : eccClean b) (f : Frame) : slotRead b f = (countSram b (slotAddr f.slot) f.len, false) := eccRead_clean b _ _ _ h.1 h.2

theorem modChain_works (b : Block) (f : ChainSt → ChainSt) : Works b (modChain b f) := ⟨rfl⟩

theorem slotWrite_works {b : Block} (h : eccClean b) (f : Frame) : Works b (slotWrite b f) := by
  rw [slotWrite, freshEcc_clean h]
  exact ⟨rfl⟩

theorem keepFrame_works (b : Block) (f : Frame) (h : eccClean b) : Works b (keepFrame b f) := by
  have hread : Works b (countSram b (slotAddr f.slot) f.len) := ⟨rfl⟩
  unfold keepFrame
  rw [slotRead_clean h]
  simp only [Bool.false_eq_true, if_false]
  exact hread.trans (Works.trans (modChain_works _ _) (slotWrite_works (by exact hread.clean h) _))

theorem cutTile_works (b : Block) (t : ChTile) (h : eccClean b) : Works b (cutTile b t) := by
  unfold cutTile
  dsimp only
  split
  · exact .refl b
  · split
    · exact (Works.foldl keepFrame_works _ h).trans ⟨rfl⟩
    · exact ⟨rfl⟩

theorem chainSettle_works {b : Block} (h : eccClean b) : Works b (chainSettle b) := by
  have hcut : Works b (if b.chain.cut then b.chain.tiles.foldl cutTile b else b) := by
    split
    · exact Works.foldl cutTile_works _ h
    · exact .refl b
  exact hcut.trans ⟨rfl⟩

/-! ### Arrival (R280, R283, R284, R289) -/

theorem bypass_passes {s : State} (hdr : BitVec 192) (data : List Byte) (h : bypassed s.blk = true) :
    exec (.chainFrameArrival hdr data) s = .next { s with blk := { s.blk with chain := { s.blk.chain with out := some (frameOf s.blk hdr data) } } } := by
  have hdone : chainArrive s.blk hdr data = modChain s.blk (fun c => { c with out := some (frameOf s.blk hdr data) }) := if_pos h
  show s.onBlk (fun b => chainArrive b hdr data) = _
  rw [onBlk_eq, hdone]
  rfl

theorem frame_fields (b : Block) (hdr : BitVec 192) (data : List Byte) : (frameOf b hdr data).seq.toNat = hdr.toNat % 2 ^ 32
    ∧ (frameOf b hdr data).chainId.toNat = hdr.toNat / 2 ^ 32 % 2 ^ 16 ∧ (frameOf b hdr data).fidx = hdr.toNat / 2 ^ 48 % 2 ^ 10
    ∧ (frameOf b hdr data).nfr = hdr.toNat / 2 ^ 58 % 2 ^ 11 ∧ (frameOf b hdr data).hops = hdr.toNat / 2 ^ 69 % 2 ^ 8
    ∧ (frameOf b hdr data).crc.toNat = hdr.toNat / 2 ^ 128 % 2 ^ 32 := by
  simp [frameOf, bitsOf_div]

/-- The frames that fail their check are counted (R284). -/
def checked (b : Block) (f : Frame) : Block := if f.good then b else bumpFld b .chnCount 32 16 1

theorem checked_def (b : Block) (f : Frame) : (if f.good = true then b else bumpFld b .chnCount 32 16 1) = checked b f := rfl

theorem checked_counts (b : Block) (f : Frame) :
    getFld (checked b f) .chnCount 32 16 = (if f.good = true then getFld b .chnCount 32 16 else min (2 ^ 16 - 1) (getFld b .chnCount 32 16 + 1))
    ∧ getFld (checked b f) .chnCount 48 16 = getFld b .chnCount 48 16 := by
  unfold checked
  split
  · exact ⟨rfl, rfl⟩
  · exact ⟨getFld_bumpFld b .chnCount 1 (by decide), getFld_bumpFld_apart b .chnCount 1 (by decide) (by decide)⟩

theorem checked_frame (b : Block) (f : Frame) : ∃ l k, checked b f = { b with regs := l, coins := k } := by
  unfold checked
  split
  · exact ⟨b.regs, b.coins, rfl⟩
  · exact ⟨_, _, rfl⟩

theorem checked_cfg (b : Block) (f : Frame) (lo wid : Nat) : getFld (checked b f) .chnCfg lo wid = getFld b .chnCfg lo wid := by
  unfold checked
  split
  · rfl
  · exact getFld_setFld_ne b 32 16 _ lo wid (by decide)

theorem checked_takes (b : Block) (f : Frame) : chnTake (checked b f) = chnTake b := by rw [chnTake, checked_cfg, chnTake]

theorem ringFrame_chainOnly (b : Block) (f : Frame) : ChainOnly b (ringFrame b f) := (modChain_chainOnly b _).trans (slotWrite_chainOnly _ _)

theorem ringFrame_joins (b : Block) (f : Frame) : { f with slot := ringSlot b } ∈ (ringFrame b f).chain.ring := List.mem_append_right _ List.mem_cons_self

theorem storeFrame_chainOnly (b : Block) (f : Frame) (t : ChTile) : ChainOnly b (storeFrame b f t) := by
  unfold storeFrame
  dsimp only
  refine (ringFrame_chainOnly _ _).after ?_
  split
  · exact (modChain_chainOnly b _).trans (slotWrite_chainOnly _ _)
  · exact .refl b

theorem startTile_chainOnly (b : Block) (f : Frame) (n : Nat) (x : Bool) : ChainOnly b (startTile b f n x) := by
  unfold startTile
  extract_lets i t b1 b2
  have h1 : ChainOnly b b1 := modChain_chainOnly ..
  have h2 : ChainOnly b1 b2 := by
    unfold b2
    split
    · exact cutTile_chainOnly ..
    · exact .refl b1
  exact (h1.trans h2).trans (storeFrame_chainOnly ..)

/-- What every arrival leaves as it is. -/
structure Stands (b d : Block) : Prop where
  sram : d.sram = b.sram
  entries : d.entries = b.entries
  faults : getFld d .chnCount 32 16 = getFld b .chnCount 32 16

theorem Stands.of {b d : Block} (h : ChainOnly b d) : Stands b d := ⟨h.sram, h.entries, h.getFld rfl 32 16⟩

theorem Stands.trans {b d e : Block} (h : Stands b d) (k : Stands d e) : Stands b e := ⟨k.sram.trans h.sram, k.entries.trans h.entries, k.faults.trans h.faults⟩

theorem frameArrives_stands (b : Block) (hdr : BitVec 192) (data : List Byte) : Stands (checked b (frameOf b hdr data)) (frameArrives b hdr data) := by
  unfold frameArrives
  extract_lets f c
  change Stands c _
  clear_value c f
  have settle : ∀ d, Stands c d → Stands c (chainSettle d) := fun d h => h.trans (.of (chainSettle_chainOnly d))
  split
  · exact settle _ (.of (ringFrame_chainOnly _ _))
  · dsimp only
    apply settle
    split
    · exact .of (startTile_chainOnly _ _ _ _)
    · split
      · exact .of (startTile_chainOnly _ _ _ _)
      · split
        · exact ⟨rfl, rfl, getFld_bumpFld_apart _ .chnCount 1 (by decide) (by decide)⟩
        · exact .of ((modTileC_chainOnly c _ _).trans (storeFrame_chainOnly _ _ _))

theorem passed_on {b : Block} (hdr : BitVec 192) (data : List Byte) (h : chnTake b = false) :
    { frameOf b hdr data with slot := ringSlot b } ∈ (frameArrives b hdr data).chain.ring := by
  have hdone : frameArrives b hdr data = chainSettle (ringFrame (checked b (frameOf b hdr data)) (frameOf b hdr data)) := by
    refine if_pos ?_
    show (!chnTake (checked b (frameOf b hdr data))) = true
    rw [checked_takes, h]
    rfl
  have hslot : ringSlot (checked b (frameOf b hdr data)) = ringSlot b := by
    obtain ⟨l, k, hl⟩ := checked_frame b (frameOf b hdr data)
    have hring : (checked b (frameOf b hdr data)).chain = b.chain := by rw [hl]
    rw [ringSlot, ringSlot, chnIntake, chnIntake, checked_cfg, hring]
  rw [hdone, ← hslot]
  exact chainSettle_forward (ringFrame_joins _ _) rfl

/-- The tile that a first frame opens (R284). -/
def opened (b : Block) (f : Frame) (n : Nat) (broken : Bool) : ChTile :=
  { id := b.chain.tileNo + 1, seq := f.seq, nfr := f.nfr, hops := n, last := f.fidx, lastSeq := f.seq, done := 0, broken := broken, kept := false, dropped := false, taken := false }

/-- Outside cut-through a first frame opens its tile and joins the ring. -/
theorem startTile_opens {b : Block} (f : Frame) (n : Nat) (broken : Bool) (hcut : b.chain.cut = false) :
    opened b f n broken ∈ (startTile b f n broken).chain.tiles
    ∧ (∃ k, { f with tile := b.chain.tileNo + 1, copied := false, slot := k } ∈ (startTile b f n broken).chain.ring) ∧ (startTile b f n broken).chain.cut = false := by
  have hdone : startTile b f n broken = ringFrame (modChain b (fun c => { c with tiles := c.tiles.filter (fun t => !t.taken) ++ [opened b f n broken], tileNo := b.chain.tileNo + 1 }))
      { f with tile := b.chain.tileNo + 1, copied := false } := by
    unfold startTile
    dsimp only
    rw [if_neg (by simp [modChain, hcut])]
    simp only [curTile, modChain, List.getLast?_append, List.getLast?_singleton, Option.some_or, Option.getD_some]
    rfl
  rw [hdone]
  exact ⟨List.mem_append_right _ List.mem_cons_self, ⟨_, ringFrame_joins _ _⟩, hcut⟩

theorem first_opens {b : Block} (hdr : BitVec 192) (data : List Byte) (h : chnTake b = true) (h0 : (frameOf b hdr data).fidx = 0) (hcut : b.chain.cut = false) :
    opened b (frameOf b hdr data) (frameOf b hdr data).hops false ∈ (frameArrives b hdr data).chain.tiles
    ∧ ∃ k, { frameOf b hdr data with hops := (frameOf b hdr data).hops - 1, fwd := decide (2 ≤ (frameOf b hdr data).hops), tile := b.chain.tileNo + 1, copied := false, slot := k }
        ∈ (frameArrives b hdr data).chain.ring := by
  generalize hf : frameOf b hdr data = f at *
  obtain ⟨l, k, hl⟩ := checked_frame b f
  have hchain : (checked b f).chain = b.chain := by rw [hl]
  have hdone : frameArrives b hdr data = chainSettle (startTile (checked b f) { f with hops := f.hops - 1, fwd := decide (1 ≤ f.hops - 1) } f.hops false) := by
    unfold frameArrives
    dsimp only
    simp only [hf, checked_def]
    rw [if_neg (by simp [checked_takes, h]), if_pos (by simp [h0])]
  obtain ⟨htile, ⟨k, hring⟩, hc⟩ := startTile_opens (b := checked b f) { f with hops := f.hops - 1, fwd := decide (1 ≤ f.hops - 1) } f.hops false (by rw [hchain, hcut])
  have hfwd : decide (2 ≤ f.hops) = decide (1 ≤ f.hops - 1) := decide_eq_decide.mpr (by omega)
  rw [hdone, chainSettle_uncut hc, hfwd]
  rw [hchain] at hring
  have hopened : opened (checked b f) { f with hops := f.hops - 1, fwd := decide (1 ≤ f.hops - 1) } f.hops false = opened b f f.hops false := by
    unfold opened
    rw [hchain]
  rw [hopened] at htile
  exact ⟨htile, k, (settled_ring _ _).mpr ⟨hring, by simp⟩⟩

theorem duplicate_counts {b : Block} (hdr : BitVec 192) (data : List Byte) {x : ChTile} (h : chnTake b = true) (h0 : (frameOf b hdr data).fidx ≠ 0)
    (hx : curTile b = some x) (hle : (frameOf b hdr data).fidx ≤ x.last) :
    getFld (frameArrives b hdr data) .chnCount 48 16 = min (2 ^ 16 - 1) (getFld b .chnCount 48 16 + 1) := by
  have hcount := (checked_counts b (frameOf b hdr data)).2
  generalize hf : frameOf b hdr data = f at *
  obtain ⟨l, k, hl⟩ := checked_frame b f
  have hcur : curTile (checked b f) = some x := by rw [curTile, hl]; exact hx
  have hdone : frameArrives b hdr data = chainSettle (bumpFld (modChain (checked b f) (fun c => { c with creditsOut := c.creditsOut + 1, holdFrom := none })) .chnCount 48 16 1) := by
    unfold frameArrives
    dsimp only
    simp only [hf, checked_def]
    rw [if_neg (by simp [checked_takes, h]), if_neg (by simp [h0]), hcur]
    dsimp only
    rw [if_pos hle]
  rw [hdone, (chainSettle_chainOnly _).getFld rfl, getFld_bumpFld _ _ _ (by decide)]
  exact congrArg (fun n => min (2 ^ 16 - 1) (n + 1)) hcount

theorem frame_arrives {s : State} (hdr : BitVec 192) (data : List Byte) (h : bypassed s.blk = false) : ∃ t : State, exec (.chainFrameArrival hdr data) s = .next t
    ∧ (let f := frameOf s.blk hdr data
       (getFld t.blk .chnCount 32 16 = if f.good = true then getFld s.blk .chnCount 32 16 else min (2 ^ 16 - 1) (getFld s.blk .chnCount 32 16 + 1))
        ∧ (chnTake s.blk = false → { f with slot := ringSlot s.blk } ∈ t.blk.chain.ring)
        ∧ (chnTake s.blk = true → f.fidx = 0 → s.blk.chain.cut = false →
            (∃ x ∈ t.blk.chain.tiles, x.id = s.blk.chain.tileNo + 1 ∧ x.seq = f.seq ∧ x.nfr = f.nfr ∧ x.hops = f.hops)
              ∧ ∃ y ∈ t.blk.chain.ring, y.tile = s.blk.chain.tileNo + 1 ∧ y.seq = f.seq ∧ y.data = f.data ∧ y.hops = f.hops - 1 ∧ y.fwd = decide (2 ≤ f.hops) ∧ y.copied = false)
        ∧ (∀ x, chnTake s.blk = true → f.fidx ≠ 0 → curTile s.blk = some x → f.fidx ≤ x.last →
            getFld t.blk .chnCount 48 16 = min (2 ^ 16 - 1) (getFld s.blk .chnCount 48 16 + 1)))
    ∧ t.blk.sram = s.blk.sram ∧ t.blk.entries = s.blk.entries := by
  have hdone : chainArrive s.blk hdr data = frameArrives s.blk hdr data := if_neg (by simp [h])
  have hstands := frameArrives_stands s.blk hdr data
  obtain ⟨l, k, hl⟩ := checked_frame s.blk (frameOf s.blk hdr data)
  refine ⟨_, onBlk_eq s (fun b => chainArrive b hdr data), ?_⟩
  dsimp only
  rw [hdone]
  refine ⟨⟨hstands.faults.trans (checked_counts ..).1, passed_on hdr data, fun ht h0 hcut => ?_, fun x => duplicate_counts hdr data⟩,
    hstands.sram.trans (by rw [hl]), hstands.entries.trans (by rw [hl])⟩
  obtain ⟨htile, k, hring⟩ := first_opens hdr data ht h0 hcut
  exact ⟨⟨_, htile, rfl, rfl, rfl, rfl⟩, _, hring, rfl, rfl, rfl, rfl, rfl, rfl⟩

/-! ### Sending and credits (R282, R283, R285) -/

theorem present {b : Block} (hl : live b = true) (ha : b.pins.absent = false) : bypassed b = false := by
  simp only [live, Bool.and_eq_true] at hl
  simp_all [bypassed]

theorem forward_sends {s : State} {f : Frame} (hl : live s.blk = true) (ha : s.blk.pins.absent = false) (h0 : s.blk.chain.credits ≠ 0)
    (hown : s.blk.chain.ownTile = false) (hf : nextForward s.blk = some f) (hc : eccClean s.blk) : ∃ t : State, exec .chainFrameSend s = .next t
    ∧ t.blk.chain.credits = s.blk.chain.credits - 1 ∧ t.blk.chain.out = some f ∧ t.blk.chain.fwdTile = decide (f.fidx + 1 < f.nfr)
    ∧ t.blk = { s.blk with chain := t.blk.chain, acts := t.blk.acts } := by
  have hsend : chainSend s.blk = sendForward s.blk f := by
    simp [chainSend, present hl ha, h0, hown, hf]
  obtain ⟨c, hdone, hcr, hout, hfwd⟩ : ∃ c : ChainSt, sendForward s.blk f = countBeats (chainSettle { countSram s.blk (slotAddr f.slot) f.len with chain := c }) f
      ∧ c.credits = s.blk.chain.credits - 1 ∧ c.out = some f ∧ c.fwdTile = decide (f.fidx + 1 < f.nfr) := by
    unfold sendForward
    rw [slotRead_clean hc]
    exact ⟨_, rfl, rfl, rfl, rfl⟩
  have hset := chainSettle_settles { countSram s.blk (slotAddr f.slot) f.len with chain := c }
  have hwork : Works s.blk (countBeats (chainSettle { countSram s.blk (slotAddr f.slot) f.len with chain := c }) f) := by
    refine Works.trans (d := { countSram s.blk (slotAddr f.slot) f.len with chain := c }) ⟨rfl⟩ (Works.trans (chainSettle_works ?_) ⟨rfl⟩)
    exact hc
  rw [← hdone, ← hsend] at hwork
  have hchain : (chainSend s.blk).chain = (chainSettle { countSram s.blk (slotAddr f.slot) f.len with chain := c }).chain := by
    rw [hsend, hdone]
    rfl
  refine ⟨_, onLive_live chainSend hl, ?_, ?_, ?_, ?_⟩
  · exact ((congrArg (·.credits) hchain).trans (congrArg (·.credits) hset)).trans hcr
  · exact ((congrArg (·.out) hchain).trans (congrArg (·.out) hset)).trans hout
  · exact ((congrArg (·.fwdTile) hchain).trans (congrArg (·.fwdTile) hset)).trans hfwd
  · exact congrArg (fun b : Block => { b with pins := s.blk.pins }) hwork.frame

/-- A frame of a CHSEND, as it is sent on. -/
def sentOwn (b : Block) (e : Entry) (f : Frame) : Block :=
  countBeats (modEntry (modChain b (fun c => { c with credits := c.credits - 1, out := some f, ownTile := decide (f.fidx + 1 < f.nfr) })) e.id (fun x => { x with aux := x.aux + 1 })) f

theorem sentOwn_frame (b : Block) (e : Entry) (f : Frame) (a n : Nat) : ∃ x y, sentOwn (countSram b a n) e f = { b with
    chain := x, acts := y, entries := b.entries.map (fun x => if x.id == e.id then { x with aux := x.aux + 1 } else x) } := by
  unfold sentOwn countBeats countAct modEntry modChain
  exact ⟨_, _, rfl⟩

theorem sendOwn_clean {b : Block} {e : Entry} (hc : eccClean b) : ∃ a n, sendOwn b e = sentOwn (countSram b a n) e (ownFrame b e e.aux) := by
  have hframe : ∀ a n, ownFrame (countSram b a n) e e.aux = ownFrame b e e.aux := fun _ _ => rfl
  unfold sendOwn
  dsimp only
  rw [eccRead_clean _ _ _ _ hc.1 hc.2, if_neg Bool.false_ne_true, hframe]
  exact ⟨_, _, rfl⟩

theorem own_sends {s : State} {e : Entry} (hl : live s.blk = true) (ha : s.blk.pins.absent = false) (h0 : s.blk.chain.credits ≠ 0)
    (he : sendingEntry s.blk = some e) (hown : s.blk.chain.ownTile = true ∨ (nextForward s.blk = none ∧ s.blk.chain.fwdTile = false)) (hc : eccClean s.blk) :
    ∃ (t : State) (f : Frame), exec .chainFrameSend s = .next t
    ∧ t.blk.chain = { s.blk.chain with credits := s.blk.chain.credits - 1, out := some f, ownTile := decide (f.fidx + 1 < f.nfr) } ∧ f = ownFrame s.blk e e.aux
    ∧ t.blk = { s.blk with
        chain := t.blk.chain, acts := t.blk.acts, entries := s.blk.entries.map (fun x => if x.id == e.id then { x with aux := x.aux + 1 } else x) } := by
  have hsend : chainSend s.blk = sendOwn s.blk e := by
    unfold chainSend
    rw [if_neg (by simp [present hl ha, h0])]
    obtain h | ⟨h1, h2⟩ := hown
    · rw [if_pos h, he]
    · split
      · rw [he]
      · rw [h1]
        dsimp only
        rw [h2, he]
        rfl
  obtain ⟨a, n, hdone⟩ := sendOwn_clean (e := e) hc
  rw [← hsend] at hdone
  have hchain := congrArg (·.chain) hdone
  refine ⟨_, ownFrame s.blk e e.aux, onLive_live chainSend hl, hchain, rfl, ?_⟩
  obtain ⟨x, y, hframe⟩ := sentOwn_frame s.blk e (ownFrame s.blk e e.aux) a n
  have hframe : chainSend s.blk = { s.blk with
      chain := (chainSend s.blk).chain, acts := (chainSend s.blk).acts, entries := s.blk.entries.map (fun x => if x.id == e.id then { x with aux := x.aux + 1 } else x) } := by
    rw [hdone, hframe]
  exact congrArg (fun b : Block => { b with pins := s.blk.pins }) hframe

theorem credits_return (s : State) {n : BitVec 11} (hn : n ≠ 0#11) : ∃ t : State, exec (.chainCreditReturn n) s = .next t ∧ t = { s with blk := { s.blk with chain := t.blk.chain } }
    ∧ t.blk.chain = (if bypassed s.blk = true then { s.blk.chain with creditsOut := s.blk.chain.creditsOut + n.toNat }
      else { s.blk.chain with credits := s.blk.chain.credits + n.toNat, linkUp := true }) := by
  have h0 : (n.toNat == 0) = false := by
    have : n.toNat ≠ 0 := fun h => hn (BitVec.eq_of_toNat_eq h)
    simpa using this
  refine ⟨_, onBlk_eq s (fun b => chainCredit b n.toNat), ?_⟩
  dsimp only
  rw [chainCredit, h0, if_neg Bool.false_ne_true]
  split <;> exact ⟨rfl, rfl⟩

theorem link_resets (s : State) (d : Bool) : ∃ t : State, exec (.chainLinkReset d) s = .next t ∧ t = { s with blk := { s.blk with chain := t.blk.chain } }
    ∧ t.blk.chain = (if bypassed s.blk = true then
        (if d = true then { s.blk.chain with lrstUp := portNow s.blk + 8 } else { s.blk.chain with lrstDown := portNow s.blk + 8 })
      else if d = true then { s.blk.chain with credits := 0, linkUp := false }
      else { s.blk.chain with creditsOut := getFld s.blk .chnCfg 6 10, holdFrom := none }) := by
  refine ⟨_, onBlk_eq s (fun b => chainLinkReset b d), ?_⟩
  dsimp only
  rw [chainLinkReset]
  split <;> cases d <;> exact ⟨rfl, rfl⟩

/-! ### The hold limit (R287) -/

theorem hold_cuts {s : State} {τ : Nat} (hl : live s.blk = true) (hh : s.blk.chain.holdFrom = some τ) (hm : max 1 (getFld s.blk .chnHoldLimit 0 32) ≤ portNow s.blk - τ) :
    ∃ t : State, exec .chainHoldLimit s = .next t ∧ t.blk.chain.cut = true
    ∧ getFld t.blk .chnCount 0 16 = (if s.blk.chain.cut = true then getFld s.blk .chnCount 0 16 else min (2 ^ 16 - 1) (getFld s.blk .chnCount 0 16 + 1))
    ∧ t.blk.sram = s.blk.sram ∧ t.blk.entries = s.blk.entries := by
  obtain ⟨c, hdone, hcount, hsram, hent⟩ : ∃ c, chainHold s.blk = chainSettle (modChain c (fun x => { x with cut := true }))
      ∧ getFld c .chnCount 0 16 = (if s.blk.chain.cut = true then getFld s.blk .chnCount 0 16 else min (2 ^ 16 - 1) (getFld s.blk .chnCount 0 16 + 1))
      ∧ c.sram = s.blk.sram ∧ c.entries = s.blk.entries := by
    unfold chainHold
    rw [hh]
    dsimp only
    rw [if_pos hm]
    refine ⟨_, rfl, ?_⟩
    split
    · exact ⟨rfl, rfl, rfl⟩
    · exact ⟨getFld_bumpFld _ _ _ (by decide), rfl, rfl⟩
  have hset := chainSettle_settles (modChain c (fun x => { x with cut := true }))
  have honly := chainSettle_chainOnly (modChain c (fun x => { x with cut := true }))
  rw [← hdone] at hset honly
  refine ⟨_, onLive_live chainHold hl, ?_, ?_, ?_, ?_⟩
  · exact congrArg (·.cut) hset
  · exact (honly.getFld rfl 0 16).trans hcount
  · exact honly.sram.trans hsram
  · exact honly.entries.trans hent

/-! ### A re-read frame (R286, R288) -/

/-- From `b` to `d` a re-read has been placed: the count of re-reads and the streams stand. -/
structure Placed (b d : Block) : Prop where
  count : getFld d .chnCount 16 16 = getFld b .chnCount 16 16
  streams : d.streams = b.streams

theorem Placed.trans {b d e : Block} (h : Placed b d) (k : Placed d e) : Placed b e := ⟨k.count.trans h.count, k.streams.trans h.streams⟩

theorem placed_of {b d : Block} (h : ChainOnly b d) : Placed b d := ⟨h.getFld rfl 16 16, h.streams⟩

theorem sramWrite_placed (b : Block) (a : Nat) (bs : List Byte) : Placed b (sramWrite b a bs).1 := by
  have h : ReadOnly (freshEcc b a bs.length) (eccRead (freshEcc b a bs.length) a bs.length false).1 := eccRead_readOnly ..
  exact ⟨(h.getFld rfl 16 16).trans rfl, h.streams⟩

theorem failEntry_placed (b : Block) (e : Entry) (code : Code) (t : Site) : Placed b (failEntry b e code t) := by
  have h := raise_readOnly (modEntry b e.id (fun x => { x with phase := 255 })) code t
  exact ⟨(h.getFld rfl 16 16).trans rfl, h.streams⟩

theorem copyFrame_placed (b : Block) (e : Entry) (x : ChTile) (data : List Byte) : Placed b (copyFrame b e x data) := by
  have hwrite := sramWrite_placed b (loadAddr b (crArr e.word.toNat) (crOff e.word.toNat + 4096 * x.done)) data
  unfold copyFrame
  dsimp only
  generalize sramWrite b _ data = p at hwrite
  refine hwrite.trans ?_
  split
  · exact (placed_of (takeTile_chainOnly _ _)).trans (failEntry_placed _ _ _ _)
  · exact placed_of (((modTileC_chainOnly _ _ _).trans (modChain_chainOnly _ _)).trans (chainSettle_chainOnly _))

/-- From `b` to `d` the re-read for entry `e` and tile `x` is counted, its streams are gone, and no bad frame stands at its index of a tile that was not dropped. -/
structure Repaired (b : Block) (e : Entry) (x : ChTile) (d : Block) : Prop where
  count : getFld d .chnCount 16 16 = min (2 ^ 16 - 1) (getFld b .chnCount 16 16 + 1)
  streams : d.streams = b.streams.filter (fun s => !decide (s.owner = .entry e.id))
  good : x.dropped = false → (∃ f ∈ b.chain.ring, f.tile = x.id ∧ f.fidx = refetchIx b x ∧ f.good = false) →
    ∀ f ∈ d.chain.ring, f.tile = x.id → f.fidx = refetchIx b x → f.good = true

theorem chainRepair_repairs {b : Block} {e : Entry} {x : ChTile} (he : b.entries.find? (fun e => wOpc e.word.toNat == 0x49 && e.phase == 4) = some e)
    (hx : oldestTile b = some x) (hd : entryStreamsDone b e.id = true) : Repaired b e x (chainRepair b) := by
  unfold chainRepair
  rw [he, hx]
  dsimp -zeta only
  rw [if_neg (by simp [hd])]
  extract_lets k d data b1 b2 b3 fix b4
  have h3 : getFld b3 .chnCount 16 16 = min (2 ^ 16 - 1) (getFld b .chnCount 16 16 + 1) := getFld_bumpFld (tickFree b) _ _ (by decide)
  have hstr : b3.streams = b.streams.filter (fun s => !decide (s.owner = .entry e.id)) := rfl
  have hring : b3.chain = b.chain := rfl
  clear_value b3
  have hcopy : ∀ c : Block, getFld c .chnCount 16 16 = getFld b3 .chnCount 16 16 → c.streams = b3.streams →
      (x.dropped = false → (∃ f ∈ b.chain.ring, f.tile = x.id ∧ f.fidx = k ∧ f.good = false) → False) → Repaired b e x (copyFrame c e x data) := fun c h1 h2 h =>
    ⟨((copyFrame_placed c e x data).count.trans h1).trans h3, ((copyFrame_placed c e x data).streams.trans h2).trans hstr, fun h0 hf => (h h0 hf).elim⟩
  split
  · split
    case isTrue hdrop => exact hcopy b4 rfl rfl (fun h0 _ => by simp [h0] at hdrop)
    case isFalse =>
      refine ⟨h3, hstr, fun _ _ f hf ht hi => ?_⟩
      obtain ⟨y, -, rfl⟩ := List.mem_map.mp (show f ∈ b3.chain.ring.map fix from hf)
      by_cases hy : (y.tile == x.id && y.fidx == k && !y.good) = true
      · simp only [fix, if_pos hy, repairFrame]
      · simp only [fix, if_neg hy] at ht hi ⊢
        have hk : y.fidx = k := hi
        simpa [ht, hk] using hy
  case isFalse hno =>
    refine hcopy b3 rfl rfl (fun _ ⟨f, hf, ht, hi, hg⟩ => hno ?_)
    rw [hring]
    exact List.any_eq_true.mpr ⟨f, List.mem_append_left _ hf, by simp [ht, hg, hi]⟩

theorem frame_repaired {s : State} {e : Entry} {x : ChTile} (hl : live s.blk = true)
    (he : s.blk.entries.find? (fun e => wOpc e.word.toNat == 0x49 && e.phase == 4) = some e) (hx : oldestTile s.blk = some x) (hd : entryStreamsDone s.blk e.id = true) :
    ∃ t : State, exec .chainFrameRepair s = .next t ∧ getFld t.blk .chnCount 16 16 = min (2 ^ 16 - 1) (getFld s.blk .chnCount 16 16 + 1)
    ∧ (∀ y ∈ t.blk.streams, y.owner ≠ .entry e.id)
    ∧ (x.dropped = false → (∃ f ∈ s.blk.chain.ring, f.tile = x.id ∧ f.fidx = refetchIx s.blk x ∧ f.good = false) →
        ∀ f ∈ t.blk.chain.ring, f.tile = x.id → f.fidx = refetchIx s.blk x → f.good = true) := by
  have h := chainRepair_repairs he hx hd
  refine ⟨_, onLive_live chainRepair hl, h.count, fun y hy => ?_, h.good⟩
  have hy' : y ∈ s.blk.streams.filter (fun s => !decide (s.owner = .entry e.id)) := h.streams ▸ hy
  simpa using (List.mem_filter.mp hy').2

end Sys2Proof.Proofs.Chain

namespace Sys2Proof

open Machine Proofs.Chain

/-- Settles O59, event by event: a frame that has still to go on stays in the ring through what follows an arrival, and in clean memory the chain unit
changes nothing but its own state and what the estimator counts. -/
theorem chainPort : Obligations.ChainPort := by
  refine ⟨fun s hdr data hb => ?_, fun s hdr data hb => frame_arrives hdr data hb, fun s f hl ha h0 hown hf hc => forward_sends hl ha h0 hown hf hc,
    fun s e hl ha h0 he hown hc => own_sends hl ha h0 he hown hc, fun s n hn => credits_return s hn, fun s e x hl he hx hd => frame_repaired hl he hx hd,
    fun s τ hl hh hm => hold_cuts hl hh hm, fun s d => link_resets s d⟩
  exact ⟨_, _, bypass_passes hdr data hb, rfl, frame_fields s.blk hdr data⟩

end Sys2Proof

/-! SUPPORT. The fabric port: requests that peers send, answers to this engine's own, revokes, resends and timeouts (R101, R238, R292 to R299). Settles O60. -/

namespace Sys2Proof.Proofs.Fabric

open Sys2Proof Sys2Proof.Machine Sys2Proof.Laws Sys2Proof.Proofs.Fields Sys2Proof.Proofs.Reports Sys2Proof.Proofs.Reads
open Sys2Proof.Proofs.Complete Sys2Proof.Proofs.IssueStage Sys2Proof.Proofs.Strands
open Sys2Proof.Proofs.Kiln (wakeArr_does)
open Sys2Proof.Proofs.Streams (bitsOf_div bitAt_eq jobRunning_nil)
open Sys2Proof.Proofs.Sequencer (jobAdvance_idle)

/-! ### Arriving requests (R292, R295) -/

theorem live_lanes {b : Block} (h : live b = true) : inP3 b = false := by
  simp only [live, Bool.and_eq_true] at h
  simpa [inP3] using h.2

/-- A request in its right form, with room for its answer, is met. -/
theorem rxRequest_meets {b : Block} {hdr : BitVec 512} {k len : Nat} (h : RxMeets b hdr k len) (n : Bool) (f : Block → Nat → Block) :
    rxRequest b k hdr len n f = f b hdr.toNat := by
  obtain ⟨hl, hk, hb, hr⟩ := h
  simp [rxRequest, live_lanes hl, hk, ← hb, hr]

/-- From `b` to `d` the registers that name this engine stand (R291). -/
structure SameSelf (b d : Block) : Prop where
  self : rawReg d .fabSelf = rawReg b .fabSelf
  config : rawReg d .engConfig = rawReg b .engConfig

theorem SameSelf.of_regs {b d : Block} (h : d.regs = b.regs) : SameSelf b d := ⟨by simp only [rawReg, h], by simp only [rawReg, h]⟩

theorem SameSelf.isLoop {b d : Block} (h : SameSelf b d) (hdr : BitVec 512) : isLoop d hdr = isLoop b hdr := by
  simp only [Machine.isLoop, getFld, h.self, h.config]

theorem bitAt_testBit (n i : Nat) : bitAt n i = n.testBit i := by simp [bitAt, Nat.testBit, Nat.one_and_eq_mod_two]

theorem sendAnswer_frame (b : Block) (hdr : BitVec 512) : ∃ l k, sendAnswer b hdr = { b with fabLoop := l, fabTx := k } := by
  unfold sendAnswer
  dsimp only
  split
  · exact ⟨_, b.fabTx, rfl⟩
  · exact ⟨b.fabLoop, _, rfl⟩

theorem sendAnswer_answers {b d : Block} (h : SameSelf b d) (hdr : BitVec 512) : answered b (sendAnswer d hdr) hdr := by
  refine ⟨⟨hdr, [], pickLane d⟩, rfl, rfl, ?_⟩
  rw [← h.isLoop, sendAnswer]
  split
  · exact List.mem_append_right _ List.mem_cons_self
  · simp

/-- An event that is none of a pin leaves the pins as the integration holds them (R368). -/
theorem answered_pins {b d : Block} {hdr : BitVec 512} (h : answered b d hdr) (p : Pins) : answered b { d with pins := p } hdr := h

theorem sameUnits_pins {b d : Block} (h : sameUnits b d) (p : Pins) : sameUnits b { d with pins := p } := h

/-- A request that is turned away is answered with its status, and counted by it (R295). -/
theorem answer_answers (b : Block) (h st arg : Nat) : answered b (answer b h st arg) (ansHdr h (pkKind h + 1) st arg) ∧ sameUnits b (answer b h st arg) := by
  obtain ⟨d, hd, hself, hunits⟩ : ∃ d, answer b h st arg = sendAnswer d (ansHdr h (pkKind h + 1) st arg) ∧ SameSelf b d ∧ ∃ l k, d = { b with regs := l, coins := k } := by
    have hbump : ∀ lo wid n, SameSelf b (bumpFld b .fabRxcount lo wid n) := fun lo wid n =>
      ⟨rawReg_setFld_ne b _ _ _ (by decide), rawReg_setFld_ne b _ _ _ (by decide)⟩
    refine ⟨_, rfl, ?_⟩
    split
    · exact ⟨hbump .., _, _, rfl⟩
    · split
      · exact ⟨hbump .., _, _, rfl⟩
      · split
        · exact ⟨hbump .., _, _, rfl⟩
        · exact ⟨.of_regs rfl, b.regs, b.coins, rfl⟩
  obtain ⟨l, k, rfl⟩ := hunits
  obtain ⟨u, v, hs⟩ := sendAnswer_frame { b with regs := l, coins := k } (ansHdr h (pkKind h + 1) st arg)
  rw [hd]
  refine ⟨sendAnswer_answers hself _, ?_⟩
  rw [hs]
  exact ⟨rfl, rfl, rfl, rfl, rfl, rfl, rfl, rfl, rfl, rfl, rfl, rfl⟩

/-- A request that the tests of the entry and of the context turn away. -/
theorem request_turned_away {s : State} {hdr : BitVec 512} {i : Instr} {k len st : Nat}
    (hi : (∃ data, i = .fabRxWrite hdr data ∧ k = 1 ∧ len = data.length) ∨ (i = .fabRxOffer hdr ∧ k = 3 ∧ len = 0) ∨ (i = .fabRxPost hdr ∧ k = 7 ∧ len = 0))
    (hm : RxMeets s.blk hdr k len) (ht : rxTest s.blk hdr.toNat = some st) :
    ∃ t : State, exec i s = .next t ∧ answered s.blk t.blk (ansHdr hdr.toNat (k + 1) st 0) ∧ sameUnits s.blk t.blk := by
  have hkind : pkKind hdr.toNat = k := hm.isKind
  have key := answer_answers s.blk hdr.toNat st 0
  rw [hkind] at key
  obtain ⟨data, rfl, rfl, rfl⟩ | ⟨rfl, rfl, rfl⟩ | ⟨rfl, rfl, rfl⟩ := hi
  · have hdone : rxWrite s.blk hdr data = answer s.blk hdr.toNat st 0 := by
      rw [rxWrite, rxRequest_meets hm, ht]
    exact ⟨_, onLive_live (fun b => rxWrite b hdr data) hm.live, by rw [hdone]; exact answered_pins key.1 _, by rw [hdone]; exact sameUnits_pins key.2 _⟩
  · have hdone : rxOffer s.blk hdr = answer s.blk hdr.toNat st 0 := by
      rw [rxOffer, rxRequest_meets hm, ht]
    exact ⟨_, onLive_live (fun b => rxOffer b hdr) hm.live, by rw [hdone]; exact answered_pins key.1 _, by rw [hdone]; exact sameUnits_pins key.2 _⟩
  · have hdone : rxPost s.blk hdr = answer s.blk hdr.toNat st 0 := by
      rw [rxPost, rxRequest_meets hm, ht]
    exact ⟨_, onLive_live (fun b => rxPost b hdr) hm.live, by rw [hdone]; exact answered_pins key.1 _, by rw [hdone]; exact sameUnits_pins key.2 _⟩

/-- A WRITE within its quota becomes a stream of the receiving context. -/
theorem write_streams {s : State} {hdr : BitVec 512} {data : List Byte} (hm : RxMeets s.blk hdr 1 data.length) (ht : rxTest s.blk hdr.toNat = none)
    (hq : inHeld s.blk (pkDstCtx hdr.toNat) + data.length ≤ inQuota s.blk) (ha : inAll s.blk + data.length ≤ 262144) (hs : inSegs hdr.toNat data ≠ []) :
    ∃ (t : State) (x : Stream), exec (.fabRxWrite hdr data) s = .next t
    ∧ t.blk.streams = s.blk.streams ++ [x] ∧ x.owner = .inbound hdr ∧ x.ctx = pkDstCtx hdr.toNat ∧ x.write = true ∧ x.todo = inSegs hdr.toNat data
    ∧ t.blk.inbuf = s.blk.inbuf ++ [(pkDstCtx hdr.toNat, data.length)] ∧ t.blk.sram = s.blk.sram ∧ t.blk.regs = s.blk.regs := by
  obtain ⟨x, n, hdone, ho, hc, hw, htodo⟩ : ∃ x n, rxWrite s.blk hdr data = { s.blk with
      streams := s.blk.streams ++ [x], inbuf := s.blk.inbuf ++ [(pkDstCtx hdr.toNat, data.length)], lastDispatch := n }
      ∧ x.owner = .inbound hdr ∧ x.ctx = pkDstCtx hdr.toNat ∧ x.write = true ∧ x.todo = inSegs hdr.toNat data := by
    rw [rxWrite, rxRequest_meets hm, ht]
    dsimp only
    rw [if_neg (by simp only [Bool.or_eq_true, decide_eq_true_eq]; omega), if_neg (by simpa using hs), addStream, if_neg (by simpa using hs)]
    exact ⟨_, _, rfl, rfl, rfl, rfl, rfl⟩
  refine ⟨_, x, onLive_live (fun b => rxWrite b hdr data) hm.live, ?_, ho, hc, hw, htodo, ?_, ?_, ?_⟩ <;> dsimp only <;> rw [hdone]

/-- The grant that an OFFER of the next rank is given (R101, R297). -/
def grantOf (b : Block) (h : Nat) (g : Grp) (rank k r : Nat) : Grant where
  slot := k
  grp := g
  rank := rank
  rec_ := r
  peer := pkBack h
  tag := pkTag h
  rows := []
  last := b.beat
  nadd := pkArg h / 2 ^ 48 % 2 ^ 32
  lapsed := (pkArg h).testBit 36

theorem offer_granted {s : State} {hdr : BitVec 512} {g : Grp} {rank k rec_ : Nat} (hm : RxMeets s.blk hdr 3 0) (ht : rxTest s.blk hdr.toNat = none)
    (hg : g.val = pkArg hdr.toNat % 2 ^ 6) (hr : rank = pkArg hdr.toNat / 2 ^ 6 % 2 ^ 12)
    (ha : offerAnswer s.blk g rank (some (BitVec.ofNat 16 (pkArg hdr.toNat / 2 ^ 18))) = .grantReserve)
    (hrec : (if rank = 0 then (getGrp s.blk g).mRec else (getGrp s.blk g).resRec) = some rec_) (hk : lowestFree 1024 (s.blk.grants.map (·.slot)) = some k) :
    ∃ (t : State) (x : Grant), exec (.fabRxOffer hdr) s = .next t
    ∧ t.blk.grants = s.blk.grants ++ [x] ∧ x.slot = k ∧ x.grp = g ∧ x.rank = rank ∧ x.rec_ = rec_ ∧ x.peer = pkBack hdr.toNat ∧ x.tag = pkTag hdr.toNat ∧ x.rows = []
    ∧ x.nadd = pkArg hdr.toNat / 2 ^ 48 % 2 ^ 32 ∧ x.lapsed = (pkArg hdr.toNat).testBit 36
    ∧ answered s.blk t.blk (ansHdr hdr.toNat 4 stOK k) ∧ t.blk.groups = s.blk.groups ∧ t.blk.kiln = s.blk.kiln ∧ t.blk.regs = s.blk.regs := by
  have hgrp : (Fin.ofNat 64 (bitsOf (pkArg hdr.toNat) 5 0) : Grp) = g := by
    apply Fin.ext
    rw [hg, bitsOf_div]
    simp [Fin.ofNat]
  have hrank : bitsOf (pkArg hdr.toNat) 17 6 = rank := by rw [hr, bitsOf_div]
  have hround : BitVec.ofNat 16 (bitsOf (pkArg hdr.toNat) 33 18) = BitVec.ofNat 16 (pkArg hdr.toNat / 2 ^ 18) := by
    apply BitVec.eq_of_toNat_eq
    rw [bitsOf_div, BitVec.toNat_ofNat, BitVec.toNat_ofNat, Nat.mod_mod]
  have hland : grantRec s.blk g rank .grantReserve = (s.blk, some rec_) := by
    rw [← hrec]
    simp [grantRec]
  obtain ⟨x, hx⟩ : ∃ x, x = grantOf s.blk hdr.toNat g rank k rec_ := ⟨_, rfl⟩
  have hdone : rxOffer s.blk hdr = sendAnswer { s.blk with grants := s.blk.grants ++ [x] } (ansHdr hdr.toNat 4 stOK k) := by
    rw [rxOffer, rxRequest_meets hm, ht]
    dsimp only
    rw [hgrp, hrank, hround, ha]
    dsimp only
    rw [hland, hk, bitAt_testBit, bitsOf_div]
    dsimp only
    rw [answer, hm.isKind, hx]
    rfl
  have hself : SameSelf s.blk { s.blk with grants := s.blk.grants ++ [x] } := .of_regs rfl
  have hans := sendAnswer_answers hself (ansHdr hdr.toNat 4 stOK k)
  obtain ⟨u, v, hs⟩ := sendAnswer_frame { s.blk with grants := s.blk.grants ++ [x] } (ansHdr hdr.toNat 4 stOK k)
  rw [← hdone] at hans
  rw [hs] at hdone
  refine ⟨_, x, onLive_live (fun b => rxOffer b hdr) hm.live, congrArg (·.grants) hdone, congrArg (·.slot) hx, congrArg (·.grp) hx, congrArg (·.rank) hx, congrArg (·.rec_) hx,
    congrArg (·.peer) hx, congrArg (·.tag) hx, congrArg (·.rows) hx, congrArg (·.nadd) hx, congrArg (·.lapsed) hx, answered_pins hans _, congrArg (·.groups) hdone,
    congrArg (·.kiln) hdone, congrArg (·.regs) hdone⟩

theorem row_landed {s : State} {hdr : BitVec 512} {data : List Byte} {x : Grant} (hm : RxMeets s.blk hdr 5 data.length) (ht : rxTest s.blk hdr.toNat = none)
    (hx : s.blk.grants.find? (fun y => y.slot == pkArg hdr.toNat % 2 ^ 10) = some x) (hp : x.peer = pkBack hdr.toNat) (htag : x.tag = pkTag hdr.toNat)
    (hkind : (getGrp s.blk x.grp).kind ≠ 1) {row h : Nat} (hrow : row = pkArg hdr.toNat / 2 ^ 10 % 2 ^ 10) (hh : h = wallH (getGrp s.blk x.grp).shape)
    (hlen : data.length = 8 * wallW (getGrp s.blk x.grp).shape) (hlt : row < h) (hnew : row ∉ x.rows) (hmore : x.rows.length + 1 < h) :
    ∃ t : State, exec (.fabRxCdata hdr data) s = .next t
    ∧ t.blk.grants = s.blk.grants.map (fun y => if y.slot == x.slot then { y with rows := row :: x.rows, last := s.blk.beat } else y)
    ∧ t.blk.kiln = s.blk.kiln.map (fun r => if r.id == x.rec_ then landRow r row h (wallW (getGrp s.blk x.grp).shape) (wordsOf (wallW (getGrp s.blk x.grp).shape) data) else r)
    ∧ t.blk.regs = s.blk.regs ∧ t.blk.groups = s.blk.groups := by
  have hslot : x.slot = pkArg hdr.toNat % 2 ^ 10 := by simpa using List.find?_some hx
  have hs9 : bitsOf (pkArg hdr.toNat) 9 0 = x.slot := by rw [hslot, bitsOf_div, Nat.pow_zero, Nat.div_one]
  have hr19 : bitsOf (pkArg hdr.toNat) 19 10 = row := by rw [hrow, bitsOf_div]
  rw [← hslot] at hx
  have hdone : rxCdata s.blk hdr data = { modRec s.blk x.rec_ (fun r => landRow r row h (wallW (getGrp s.blk x.grp).shape) (wordsOf (wallW (getGrp s.blk x.grp).shape) data)) with
      grants := s.blk.grants.map (fun y => if y.slot == x.slot then { y with rows := row :: x.rows, last := s.blk.beat } else y) } := by
    rw [rxCdata, rxRequest_meets hm, ht]
    dsimp only
    rw [if_neg (by simp), hs9, hr19, hx]
    dsimp only
    rw [if_neg (by simp [hp]), if_neg (by simp [htag]), if_neg (by simpa [hlen, hkind, ← hh] using hlt), if_neg (by simp [hnew] : ¬ x.rows.contains row = true),
      if_neg (by simp [hkind, ← hh]; omega), ← hh]
    rfl
  refine ⟨_, onLive_live (fun b => rxCdata b hdr data) hm.live, ?_, ?_, ?_, ?_⟩ <;> dsimp only <;> rw [hdone] <;> rfl

/-- A POST that its pair takes (R295 rows 12 and 13). -/
theorem rxPost_posts {s : State} {hdr : BitVec 512} {p : Peg} {r : Role} (hm : RxMeets s.blk hdr 7 0) (ht : rxTest s.blk hdr.toNat = none)
    (hp : p.val = pkArg hdr.toNat % 2 ^ 8) (hr : r = (if (pkArg hdr.toNat).testBit 8 = true then .consumer else .producer)) (hen : pegEn s.blk p = true)
    (hposter : (match r with | .producer => pegProd s.blk p | .consumer => pegCons s.blk p) = 4) (hpeer : pegPeer s.blk p = pkBack hdr.toNat)
    (hact : activeCtx s.blk (pegOwner s.blk p) = true) :
    rxPost s.blk hdr = sendAnswer (progress (pegAdd s.blk p r (pkArg hdr.toNat / 2 ^ 9 % 2 ^ 16)) (pegOwner s.blk p)) (ansHdr hdr.toNat 8 stOK 0) := by
  have hpeg : (Fin.ofNat 256 (bitsOf (pkArg hdr.toNat) 7 0) : Peg) = p := by
    apply Fin.ext
    rw [hp, bitsOf_div]
    simp [Fin.ofNat]
  have hrole : (if bitAt (pkArg hdr.toNat) 8 = true then Role.consumer else .producer) = r := by
    rw [hr, bitAt_testBit]
  have hfence : ¬ ((getCtx s.blk (pegOwner s.blk p)).state = .fencing ∨ (getCtx s.blk (pegOwner s.blk p)).state = .quarantine) := by
    rintro (h | h) <;> simp [activeCtx, h] at hact
  rw [rxPost, rxRequest_meets hm, ht]
  dsimp only
  rw [hpeg, hrole]
  rw [if_neg (by cases r <;> simp_all), if_neg hfence, if_neg (by simp [hact]), bitsOf_div, answer, hm.isKind]
  rfl

theorem ReadOnly.sameSelf {b d : Block} (h : ReadOnly b d) : SameSelf b d := ⟨h.regs _ rfl, h.regs _ rfl⟩

theorem SameSelf.trans {b d e : Block} (h : SameSelf b d) (k : SameSelf d e) : SameSelf b e := ⟨k.self.trans h.self, k.config.trans h.config⟩

theorem setFld_sameSelf (b : Block) {r : Reg} (lo wid v : Nat) (h1 : .fabSelf ≠ r) (h2 : .engConfig ≠ r) : SameSelf b (setFld b r lo wid v) :=
  ⟨rawReg_setFld_ne b _ _ _ h1, rawReg_setFld_ne b _ _ _ h2⟩

theorem pegAdd_sameSelf (b : Block) (p : Peg) (r : Role) (n : Nat) : SameSelf b (pegAdd b p r n) := by
  have hset : ∀ x t, SameSelf b (raise (setPeg b p x) .illegalInstr t) := fun x t =>
    (SameSelf.of_regs (b := b) (d := setPeg b p x) rfl).trans (ReadOnly.sameSelf (raise_readOnly (setPeg b p x) _ t))
  unfold pegAdd
  cases r <;> dsimp only
  all_goals
    split
    · exact hset _ _
    · exact .of_regs rfl

theorem progress_sameSelf (b : Block) (c : Ctx) : SameSelf b (progress b c) :=
  (SameSelf.of_regs (b := b) (d := modCtx b c (fun x => { x with progressed := true, stall := 0 })) rfl).trans
    (setFld_sameSelf _ (r := .mgtProgress) (16 + c.val) 1 0 (by decide) (by decide))

/-- A POST counts at its peg, and is acknowledged (R238). -/
theorem post_counts {s : State} {hdr : BitVec 512} {p : Peg} {r : Role} {n : Nat} (hl : live s.blk = true)
    (hdone : rxPost s.blk hdr = sendAnswer (progress (pegAdd s.blk p r n) (pegOwner s.blk p)) (ansHdr hdr.toNat 8 stOK 0)) :
    ∃ t : State, exec (.fabRxPost hdr) s = .next t
    ∧ getPeg t.blk p = getPeg (pegAdd s.blk p r n) p ∧ (∀ q, q ≠ p → getPeg t.blk q = getPeg s.blk q) ∧ answered s.blk t.blk (ansHdr hdr.toNat 8 stOK 0) ∧ sameUnits s.blk t.blk := by
  have hlinks : OnlyLinks s.blk (progress (pegAdd s.blk p r n) (pegOwner s.blk p)) := (pegAdd_links ..).trans (progress_links ..)
  have hself : SameSelf s.blk (progress (pegAdd s.blk p r n) (pegOwner s.blk p)) := (pegAdd_sameSelf ..).trans (progress_sameSelf ..)
  have hpegs : (progress (pegAdd s.blk p r n) (pegOwner s.blk p)).pegs = (pegAdd s.blk p r n).pegs := rfl
  generalize progress (pegAdd s.blk p r n) (pegOwner s.blk p) = d at *
  have hans := sendAnswer_answers hself (ansHdr hdr.toNat 8 stOK 0)
  obtain ⟨u, v, hs⟩ := sendAnswer_frame d (ansHdr hdr.toNat 8 stOK 0)
  rw [← hdone] at hans
  rw [hs] at hdone
  have hp : (rxPost s.blk hdr).pegs = (pegAdd s.blk p r n).pegs := (congrArg (·.pegs) hdone).trans hpegs
  have hunits : sameUnits s.blk (rxPost s.blk hdr) := by
    rw [hdone]
    have hd := sameUnits_of_links hlinks
    exact hd
  exact ⟨_, onLive_live (fun b => rxPost b hdr) hl, getPeg_of_pegs hp p, fun q hq => (getPeg_of_pegs hp q).trans ((pegAdd_does s.blk p r n).2 q hq),
    answered_pins hans _, sameUnits_pins hunits _⟩

/-! ### A request of this engine that fails (R296, R299) -/

/-- From `b` to `d` a context may have been halted or freed: the tags, the grants, the memory and all registers but those of faults stand. -/
structure Halts (b d : Block) : Prop where
  tags : d.fabTags = b.fabTags
  grants : d.grants = b.grants
  sram : d.sram = b.sram
  regs : ∀ r, faultReg r = false → rawReg d r = rawReg b r

theorem Halts.refl (b : Block) : Halts b b := ⟨rfl, rfl, rfl, fun _ _ => rfl⟩

theorem Halts.trans {b d e : Block} (h : Halts b d) (k : Halts d e) : Halts b e :=
  ⟨k.tags.trans h.tags, k.grants.trans h.grants, k.sram.trans h.sram, fun r hr => (k.regs r hr).trans (h.regs r hr)⟩

theorem Halts.getFld {b d : Block} (h : Halts b d) {r : Reg} (hr : faultReg r = false) (lo wid : Nat) : getFld d r lo wid = getFld b r lo wid := by
  simp only [Machine.getFld, h.regs r hr]

theorem ReadOnly.halts {b d : Block} (h : ReadOnly b d) : Halts b d := ⟨h.fabTags, h.grants, h.sram, h.regs⟩

theorem raise_halts (b : Block) (code : Code) (t : Site) : Halts b (raise b code t) := ReadOnly.halts (raise_readOnly ..)

theorem quarantineEnd_halts (b : Block) (c : Ctx) : Halts b (quarantineEnd b c) := by
  unfold quarantineEnd
  split
  · exact Halts.trans (d := modCtx b c (fun x => { x with state := .free })) ⟨rfl, rfl, rfl, fun _ _ => rfl⟩ (ReadOnly.halts (notify_readOnly ..))
  · exact .refl b

theorem stopStream_halts (b : Block) (x : Stream) : Halts b (stopStream b x) := by
  unfold stopStream
  extract_lets +lift c m
  have hm : m.fabTags = b.fabTags ∧ m.grants = b.grants ∧ m.sram = b.sram ∧ m.regs = b.regs := by
    have hc : c.fabTags = b.fabTags ∧ c.grants = b.grants ∧ c.sram = b.sram ∧ c.regs = b.regs := by
      simp only [c]
      split
      · split <;> exact ⟨rfl, rfl, rfl, rfl⟩
      · exact ⟨rfl, rfl, rfl, rfl⟩
    exact hc
  clear_value m
  obtain ⟨h1, h2, h3, h4⟩ := hm
  have hregs : ∀ d : Block, d.regs = m.regs → ∀ r, faultReg r = false → rawReg d r = rawReg b r := fun d h r _ => by simp only [rawReg, h, h4]
  split
  · exact ⟨h1, h2, h3, hregs _ rfl⟩
  · split
    · split <;> exact ⟨h1, h2, h3, hregs _ rfl⟩
    · exact ⟨h1, h2, h3, hregs _ rfl⟩
  · exact ⟨h1, h2, h3, hregs _ rfl⟩

theorem failEntry_halts (b : Block) (e : Entry) (code : Code) (t : Site) : Halts b (failEntry b e code t) :=
  Halts.trans (d := modEntry b e.id (fun x => { x with phase := 255 })) ⟨rfl, rfl, rfl, fun _ _ => rfl⟩ (raise_halts ..)

/-- The request of a tag has failed: its tag is free (R296). -/
theorem tagFailed_halts (b : Block) (x : FabTag) (code : Code) : Halts (dropTag b x.tag) (tagFailed b x code) := by
  unfold tagFailed
  dsimp only
  split
  · exact .refl _
  · split
    · exact (stopStream_halts _ _).trans (raise_halts _ _ _)
    · exact raise_halts ..
  · split
    · exact failEntry_halts ..
    · exact raise_halts ..
  · have hless : ∀ c, Halts (dropTag b x.tag) (lessUnacked (dropTag b x.tag) c) := fun c => ⟨rfl, rfl, rfl, fun _ _ => rfl⟩
    split
    · exact (hless _).trans (failEntry_halts ..)
    · exact (hless _).trans (raise_halts ..)

theorem dropTag_frees (b : Block) (n : Nat) : tagFree (dropTag b n) n := fun y hy => by simpa using (List.mem_filter.mp hy).2

theorem tagFree_of_tags {b d : Block} {n : Nat} (h : d.fabTags = b.fabTags) (k : tagFree b n) : tagFree d n := fun y hy => k y (h ▸ hy)

theorem tag_times_out {s : State} {tag : BitVec 10} {x : FabTag} (hl : live s.blk = true) (hx : s.blk.fabTags.find? (fun y => y.tag == tag.toNat) = some x)
    (hd : getFld s.blk .fabPeerTimeout 0 32 ≤ s.blk.beat - x.first) : ∃ t : State, exec (.fabTagTimeout tag) s = .next t ∧ tagFree t.blk tag.toNat
    ∧ getFld t.blk .fabCount 16 16 = min (2 ^ 16 - 1) (getFld s.blk .fabCount 16 16 + 1) ∧ t.blk.sram = s.blk.sram := by
  have htag : x.tag = tag.toNat := by simpa using List.find?_some hx
  have hhalts : Halts (dropTag (bumpFld s.blk .fabCount 16 16 1) tag.toNat) (fabTagTimedOut s.blk tag.toNat) := by
    unfold fabTagTimedOut
    rw [hx]
    dsimp only
    rw [if_neg (by omega)]
    split
    · exact quarantineEnd_halts ..
    · exact htag ▸ tagFailed_halts ..
  refine ⟨_, onLive_live (fun b => fabTagTimedOut b tag.toNat) hl, tagFree_of_tags hhalts.tags (dropTag_frees _ _), ?_, hhalts.sram⟩
  exact (hhalts.getFld rfl 16 16).trans (getFld_bumpFld s.blk .fabCount 1 (by decide))

/-! ### Grants and revokes (R298, R299) -/

/-- A grant that is freed leaves its slot, and takes its record with it (R298). -/
theorem freeGrant_frees (b : Block) (x : Grant) : (freeGrant b x).grants = b.grants.filter (fun y => y.slot != x.slot) ∧ (freeGrant b x).groups = b.groups
    ∧ (freeGrant b x).regs = b.regs ∧ (freeGrant b x).sram = b.sram ∧ (freeGrant b x).fabTags = b.fabTags := by
  unfold freeGrant
  dsimp only
  split
  · split <;> exact ⟨rfl, rfl, rfl, rfl, rfl⟩
  · exact ⟨rfl, rfl, rfl, rfl, rfl⟩

theorem grant_times_out {s : State} {slot : BitVec 10} {x : Grant} (hl : live s.blk = true) (hx : s.blk.grants.find? (fun y => y.slot == slot.toNat) = some x)
    (hd : getFld s.blk .fabPeerTimeout 0 32 ≤ s.blk.beat - x.last) : ∃ t : State, exec (.grantTimeout slot) s = .next t
    ∧ t.blk.grants = s.blk.grants.filter (fun y => y.slot != x.slot) ∧ t.blk.groups = s.blk.groups ∧ t.blk.regs = s.blk.regs ∧ t.blk.sram = s.blk.sram := by
  have hdone : grantTimeout s.blk slot.toNat = freeGrant s.blk x := by
    rw [grantTimeout, hx]
    exact if_pos hd
  obtain ⟨h1, h2, h3, h4, -⟩ := freeGrant_frees s.blk x
  rw [← hdone] at h1 h2 h3 h4
  exact ⟨_, onLive_live (fun b => grantTimeout b slot.toNat) hl, h1, h2, h3, h4⟩

/-- What a revoke does to one of the requests that went through its entry. -/
def revokeTag (b : Block) (x : FabTag) : Block := if x.zombie then quarantineEnd (dropTag b x.tag) x.ctx else tagFailed b x .contextRevoked

theorem revokeTag_halts (b : Block) (x : FabTag) : Halts (dropTag b x.tag) (revokeTag b x) := by
  unfold revokeTag
  split
  · exact quarantineEnd_halts ..
  · exact tagFailed_halts ..

/-- The tags of a list are revoked: none of them is left, no other has come, and nothing else has changed but what halts do. -/
theorem revokeTags_halt (l : List FabTag) (b : Block) : (∀ x ∈ (l.foldl revokeTag b).fabTags, x ∈ b.fabTags ∧ ∀ y ∈ l, x.tag ≠ y.tag)
    ∧ (l.foldl revokeTag b).grants = b.grants ∧ (l.foldl revokeTag b).sram = b.sram ∧ ∀ r, faultReg r = false → rawReg (l.foldl revokeTag b) r = rawReg b r := by
  induction l generalizing b with
  | nil => exact ⟨fun x hx => ⟨hx, fun y hy => absurd hy List.not_mem_nil⟩, rfl, rfl, fun _ _ => rfl⟩
  | cons y l ih =>
    obtain ⟨htags, hgrants, hsram, hregs⟩ := ih (revokeTag b y)
    have h := revokeTag_halts b y
    refine ⟨fun x hx => ?_, hgrants.trans h.grants, hsram.trans h.sram, fun r hr => (hregs r hr).trans (h.regs r hr)⟩
    obtain ⟨hin, hne⟩ := htags x hx
    rw [h.tags] at hin
    obtain ⟨hb, hy⟩ := List.mem_filter.mp hin
    exact ⟨hb, List.forall_mem_cons.mpr ⟨by simpa using hy, hne⟩⟩

theorem freeGrants_free (l : List Grant) (b : Block) : (∀ x ∈ (l.foldl freeGrant b).grants, x ∈ b.grants ∧ ∀ y ∈ l, x.slot ≠ y.slot)
    ∧ (l.foldl freeGrant b).regs = b.regs ∧ (l.foldl freeGrant b).sram = b.sram ∧ (l.foldl freeGrant b).fabTags = b.fabTags := by
  induction l generalizing b with
  | nil => exact ⟨fun x hx => ⟨hx, fun y hy => absurd hy List.not_mem_nil⟩, rfl, rfl, rfl⟩
  | cons y l ih =>
    obtain ⟨hgrants, hregs, hsram, htags⟩ := ih (freeGrant b y)
    obtain ⟨h1, -, h3, h4, h5⟩ := freeGrant_frees b y
    refine ⟨fun x hx => ?_, hregs.trans h3, hsram.trans h4, htags.trans h5⟩
    obtain ⟨hin, hne⟩ := hgrants x hx
    rw [h1] at hin
    obtain ⟨hb, hy⟩ := List.mem_filter.mp hin
    exact ⟨hb, List.forall_mem_cons.mpr ⟨by simpa using hy, hne⟩⟩

/-- The block after entry `i` is marked REVOKED and the requests through it are ended. -/
def tagsRevoked (b : Block) (i : Nat) : Block := (b.fabTags.filter (fun x => x.peer == i)).foldl revokeTag (setFld b (.fabPeer (Fin.ofNat 4096 i)) 56 1 1)

/-- What a REVOKE of entry `i` leaves (R299). -/
def entryRevoked (b : Block) (i : Nat) : Block := ((tagsRevoked b i).grants.filter (fun x => x.peer == i)).foldl freeGrant (tagsRevoked b i)

structure Revoked (b : Block) (i : Nat) (d : Block) : Prop where
  self : SameSelf b d
  closed : getFld d (.fabPeer (Fin.ofNat 4096 i)) 56 1 = 1
  tags : ∀ x ∈ d.fabTags, x.peer ≠ i
  grants : ∀ x ∈ d.grants, x.peer ≠ i
  sram : d.sram = b.sram

theorem entryRevoked_revokes (b : Block) (i : Nat) : Revoked b i (entryRevoked b i) := by
  obtain ⟨htags, -, hsram, hregs⟩ := revokeTags_halt (b.fabTags.filter (fun x => x.peer == i)) (setFld b (.fabPeer (Fin.ofNat 4096 i)) 56 1 1)
  obtain ⟨egrants, eregs, esram, etags⟩ := freeGrants_free ((tagsRevoked b i).grants.filter (fun x => x.peer == i)) (tagsRevoked b i)
  have hraw : ∀ r, faultReg r = false → rawReg (entryRevoked b i) r = rawReg (setFld b (.fabPeer (Fin.ofNat 4096 i)) 56 1 1) r := fun r hr =>
    (rawReg_congr eregs r).trans (hregs r hr)
  refine ⟨?_, ?_, fun x hx hp => ?_, fun x hx hp => ?_, esram.trans hsram⟩
  · exact (setFld_sameSelf b (r := .fabPeer (Fin.ofNat 4096 i)) 56 1 1 (by simp) (by simp)).trans ⟨hraw _ rfl, hraw _ rfl⟩
  · have h1 : getFld (entryRevoked b i) (.fabPeer (Fin.ofNat 4096 i)) 56 1 = getFld (setFld b (.fabPeer (Fin.ofNat 4096 i)) 56 1 1) (.fabPeer (Fin.ofNat 4096 i)) 56 1 := by
      simp only [getFld, hraw (.fabPeer (Fin.ofNat 4096 i)) rfl]
    exact h1.trans (getFld_setFld b (.fabPeer (Fin.ofNat 4096 i)) 1 (by decide))
  · obtain ⟨hin, hne⟩ := htags x (etags ▸ hx)
    exact hne x (List.mem_filter.mpr ⟨hin, by simp [hp]⟩) rfl
  · obtain ⟨hin, hne⟩ := egrants x hx
    exact hne x (List.mem_filter.mpr ⟨hin, by simp [hp]⟩) rfl

/-- A REVOKE closes its entry and ends what went through it (R299). -/
theorem entry_revoked {s : State} {hdr : BitVec 512} (hm : RxMeets s.blk hdr 9 0) (ht : rxEntryTest s.blk hdr.toNat = none) :
    ∃ t : State, exec (.fabRxRevoke hdr) s = .next t
    ∧ getFld t.blk (.fabPeer (Fin.ofNat 4096 (pkBack hdr.toNat))) 56 1 = 1 ∧ (∀ x ∈ t.blk.fabTags, x.peer ≠ pkBack hdr.toNat) ∧ (∀ x ∈ t.blk.grants, x.peer ≠ pkBack hdr.toNat)
    ∧ answered s.blk t.blk (ansHdr hdr.toNat 10 stOK 0) ∧ t.blk.sram = s.blk.sram := by
  have hdone : rxRevoke s.blk hdr = sendAnswer (entryRevoked s.blk (pkBack hdr.toNat)) (ansHdr hdr.toNat 10 stOK 0) := by
    rw [rxRevoke, rxRequest_meets hm, ht]
    dsimp only
    rw [answer, hm.isKind]
    rfl
  have h := entryRevoked_revokes s.blk (pkBack hdr.toNat)
  generalize entryRevoked s.blk (pkBack hdr.toNat) = d at *
  have hans := sendAnswer_answers h.self (ansHdr hdr.toNat 10 stOK 0)
  obtain ⟨u, v, hs⟩ := sendAnswer_frame d (ansHdr hdr.toNat 10 stOK 0)
  rw [← hdone] at hans
  rw [hs] at hdone
  refine ⟨_, onLive_live (fun b => rxRevoke b hdr) hm.live, ?_, fun x hx => h.tags x ?_, fun x hx => h.grants x ?_, answered_pins hans _, (congrArg (·.sram) hdone).trans h.sram⟩
  · exact (getFld_congr (congrArg (·.regs) hdone) _ _ _).trans h.closed
  · exact congrArg (·.fabTags) hdone ▸ hx
  · exact congrArg (·.grants) hdone ▸ hx

/-! ### Answers to this engine's requests (R296) -/

/-- An answer finds the live tag that it names. -/
theorem tag_found {b : Block} {hdr : BitVec 512} {k : Nat} {x : FabTag} (h : RxAnswers b hdr k x) {is : FabKind → Bool} (his : is x.kind = true) :
    b.fabTags.find? (fun t => t.tag == pkTag hdr.toNat && is t.kind) = some x := by
  cases hf : b.fabTags.find? (fun t => t.tag == pkTag hdr.toNat && is t.kind) with
  | none => exact absurd (List.find?_eq_none.mp hf x h.held) (by simp [h.named, his])
  | some y =>
    have hy : y.tag = pkTag hdr.toNat := by
      have hp := List.find?_some hf
      rw [Bool.and_eq_true] at hp
      simpa using hp.1
    rw [h.only y (List.mem_of_find?_eq_some hf) (hy.trans h.named.symm)]

theorem rxAnswer_ok {b : Block} {hdr : BitVec 512} {k : Nat} {x : FabTag} (h : RxAnswers b hdr k x) {is : FabKind → Bool} (his : is x.kind = true)
    (ok : Block → FabTag → Nat → Block) (hst : pkStatus hdr.toNat = stOK) : rxAnswer b k hdr is ok = ok b x hdr.toNat := by
  unfold rxAnswer
  dsimp only
  rw [tag_found h his, if_neg (by simp [live_lanes h.live]), if_neg (by simp [h.isKind]), if_neg (by simp [h.beats])]
  dsimp only
  rw [if_neg (by simp [h.ctx, h.gen]), if_neg (by simp [h.current]), if_pos (by simp [hst])]

/-- RETRY has the request sent again after the interval (R296). -/
theorem rxAnswer_retry {b : Block} {hdr : BitVec 512} {k : Nat} {x : FabTag} (h : RxAnswers b hdr k x) {is : FabKind → Bool} (his : is x.kind = true)
    (ok : Block → FabTag → Nat → Block) (hst : pkStatus hdr.toNat = stRetry) : rxAnswer b k hdr is ok
      = { b with fabTags := b.fabTags.map (fun y => if y.tag == x.tag then { y with retryAt := some (b.beat + max 1 (getFld b .fabCfg 0 16)) } else y) } := by
  unfold rxAnswer
  dsimp only
  rw [tag_found h his, if_neg (by simp [live_lanes h.live]), if_neg (by simp [h.isKind]), if_neg (by simp [h.beats])]
  dsimp only
  rw [if_neg (by simp [h.ctx, h.gen]), if_neg (by simp [h.current]), if_neg (by simp [hst, stRetry, stOK]), if_pos (by simp [hst])]

/-- The end of a stream touches no tag and no memory. -/
theorem streamEnd_keeps (b : Block) (i : Nat) : (streamEnd b i).fabTags = b.fabTags ∧ (streamEnd b i).sram = b.sram ∧ (streamEnd b i).jobs = b.jobs := by
  unfold streamEnd
  split
  · split
    · split
      · exact ⟨rfl, rfl, rfl⟩
      · rename_i h _
        obtain ⟨u, v, hs⟩ := sendAnswer_frame (freeInbuf (dropStream b i) _ h) (ansHdr h.toNat 2 0 0)
        rw [answerWrite, hs]
        exact ⟨rfl, rfl, rfl⟩
      · exact ⟨rfl, rfl, rfl⟩
    · exact ⟨rfl, rfl, rfl⟩
  · exact ⟨rfl, rfl, rfl⟩

theorem write_acknowledged {s : State} {hdr : BitVec 512} {x : FabTag} {i : Nat} {sg : List Seg} (h : RxAnswers s.blk hdr 2 x) (hk : x.kind = .write i sg) (hj : s.blk.jobs = []) :
    ∃ t : State, exec (.fabRxWack hdr) s = .next t
    ∧ (pkStatus hdr.toNat = stOK → tagFree t.blk x.tag ∧ t.blk.sram = s.blk.sram)
    ∧ (pkStatus hdr.toNat = stRetry → t.blk = { s.blk with fabTags := s.blk.fabTags.map (fun y => if y.tag == x.tag then
        { y with retryAt := some (s.blk.beat + max 1 (getFld s.blk .fabCfg 0 16)) } else y) }) := by
  refine ⟨_, onLive_live (fun b => jobAdvance (rxWack b hdr)) h.live, fun hst => ?_, fun hst => ?_⟩
  · have hdone : rxWack s.blk hdr = streamEnd (progress (dropTag s.blk x.tag) x.ctx) i := by
      rw [rxWack, rxAnswer_ok h (by rw [hk]) _ hst, hk]
    obtain ⟨htags, hsram, hjobs⟩ := streamEnd_keeps (progress (dropTag s.blk x.tag) x.ctx) i
    rw [← hdone] at htags hsram hjobs
    have hidle : jobAdvance (rxWack s.blk hdr) = rxWack s.blk hdr := jobAdvance_idle (jobRunning_nil (hjobs.trans hj))
    dsimp only
    rw [hidle]
    exact ⟨tagFree_of_tags htags (dropTag_frees _ _), hsram⟩
  · have hdone : rxWack s.blk hdr = { s.blk with fabTags := s.blk.fabTags.map (fun y => if y.tag == x.tag then
        { y with retryAt := some (s.blk.beat + max 1 (getFld s.blk .fabCfg 0 16)) } else y) } := by
      rw [rxWack]
      exact rxAnswer_retry h (by rw [hk]) _ hst
    have hidle : jobAdvance (rxWack s.blk hdr) = rxWack s.blk hdr := jobAdvance_idle (jobRunning_nil ((congrArg (·.jobs) hdone).trans hj))
    dsimp only
    rw [hidle, hdone]

/-- The rows of a close start without a change of tag, group or register (R297). -/
theorem startRows_keeps (b : Block) (e : Entry) (k : ReadKind) : (startRows b e k).fabTags = b.fabTags ∧ (startRows b e k).groups = b.groups ∧ (startRows b e k).regs = b.regs := by
  obtain ⟨f, hw, -⟩ := wakeArr_does b (closeArr e)
  unfold startRows
  dsimp only
  rw [hw]
  split
  · exact ⟨rfl, rfl, rfl⟩
  · split <;> exact ⟨rfl, rfl, rfl⟩
  · exact ⟨rfl, rfl, rfl⟩

/-- The tag of an OFFER that has been granted: its packets go out under the header `w`. -/
def regranted (w : BitVec 512) (y : FabTag) : FabTag := { y with granted := true, retryAt := none, pkt := { y.pkt with hdr := w } }

theorem regranted_fields (w : BitVec 512) (y : FabTag) : (regranted w y).tag = y.tag ∧ (regranted w y).granted = true ∧ (regranted w y).retryAt = none := ⟨rfl, rfl, rfl⟩

/-- The tag of an OFFER that the slot of `h` was granted to. -/
def grantedTag (h : Nat) (y : FabTag) : FabTag := regranted (BitVec.ofNat 512 (y.pkt.hdr.toNat % 2 ^ 256 + bitsOf (pkArg h) 9 0 * 2 ^ 256)) y

theorem granted_tag (h : Nat) (y : FabTag) : { y with granted := true, retryAt := none, pkt := { y.pkt with hdr := BitVec.ofNat 512 (y.pkt.hdr.toNat % 2 ^ 256 + bitsOf (pkArg h) 9 0 * 2 ^ 256) } }
    = grantedTag h y := rfl

theorem grantedTag_fields (h : Nat) (y : FabTag) : (grantedTag h y).tag = y.tag ∧ (grantedTag h y).granted = true ∧ (grantedTag h y).retryAt = none := regranted_fields _ y

/-- The rows of the close whose OFFER was granted start. -/
def rowsFrom (b : Block) (g : Grp) : Block := (offerEntry b g).elim b (fun e => startRows b e .peer)

theorem rowsFrom_keeps (b : Block) (g : Grp) : (rowsFrom b g).fabTags = b.fabTags ∧ (rowsFrom b g).groups = b.groups ∧ (rowsFrom b g).regs = b.regs := by
  unfold rowsFrom
  cases offerEntry b g with
  | none => exact ⟨rfl, rfl, rfl⟩
  | some e => exact startRows_keeps b e .peer

theorem rxGrant_grants {b : Block} {hdr : BitVec 512} {x : FabTag} {g : Grp} (h : RxAnswers b hdr 4 x) (hk : x.kind = .offer g) (hg : x.granted = false)
    (hst : pkStatus hdr.toNat = stOK) : rxGrant b hdr = rowsFrom { b with fabTags := b.fabTags.map (fun y => if y.tag == x.tag then grantedTag hdr.toNat y else y) } g := by
  have hrows : ∀ d, rowsFrom d g = (match offerEntry d g with | some e => startRows d e .peer | none => d) := fun d => by
    unfold rowsFrom
    cases offerEntry d g <;> rfl
  rw [rxGrant, rxAnswer_ok h (by rw [hk]) _ hst, hk]
  dsimp only
  rw [if_neg (by simp [hg])]
  simp only [granted_tag]
  generalize b.fabTags.map _ = l
  exact (hrows _).symm

theorem offer_accepted {s : State} {hdr : BitVec 512} {x : FabTag} {g : Grp} (h : RxAnswers s.blk hdr 4 x) (hk : x.kind = .offer g) (hg : x.granted = false)
    (hst : pkStatus hdr.toNat = stOK) : ∃ t : State, exec (.fabRxGrant hdr) s = .next t ∧ (∃ y ∈ t.blk.fabTags, y.tag = x.tag ∧ y.granted = true ∧ y.retryAt = none)
    ∧ t.blk.groups = s.blk.groups ∧ t.blk.regs = s.blk.regs := by
  have hdone := rxGrant_grants h hk hg hst
  have hfields := grantedTag_fields hdr.toNat x
  generalize grantedTag hdr.toNat = f at hdone hfields
  obtain ⟨htags, hgroups, hregs⟩ := rowsFrom_keeps { s.blk with fabTags := s.blk.fabTags.map (fun y => if y.tag == x.tag then f y else y) } g
  rw [← hdone] at htags hgroups hregs
  have hin : f x ∈ (rxGrant s.blk hdr).fabTags := by
    rw [htags]
    exact List.mem_map.mpr ⟨x, h.held, if_pos (beq_self_eq_true x.tag)⟩
  exact ⟨_, onLive_live (fun b => rxGrant b hdr) h.live, ⟨f x, hin, hfields⟩, hgroups, hregs⟩

theorem close_done {s : State} {hdr : BitVec 512} {x : FabTag} {g : Grp} {e : Entry} (h : RxAnswers s.blk hdr 6 x) (hk : x.kind = .offer g)
    (hst : pkStatus hdr.toNat = stOK) (he : offerEntry s.blk g = some e) : ∃ t : State, exec (.fabRxCdone hdr) s = .next t ∧ tagFree t.blk x.tag
    ∧ (getGrp t.blk g).state = .free ∧ (∀ q, q ≠ g → getGrp t.blk q = getGrp s.blk q) ∧ t.blk.arrays = s.blk.arrays := by
  have hdone : rxCdone s.blk hdr = partDone (freeGroup (dropTag s.blk x.tag) g) e.id := by
    rw [rxCdone, rxAnswer_ok h (by rw [hk]) _ hst, hk]
    dsimp only
    rw [show offerEntry (dropTag s.blk x.tag) g = some e from he]
  refine ⟨_, onLive_live (fun b => rxCdone b hdr) h.live, ?_, ?_, fun q hq => ?_, ?_⟩
  · exact tagFree_of_tags (congrArg (·.fabTags) hdone) (dropTag_frees s.blk x.tag)
  · have hfree : (getGrp (rxCdone s.blk hdr) g).state = .free := by
      rw [hdone]
      show (getGrp (freeGroup (dropTag s.blk x.tag) g) g).state = .free
      rw [freeGroup, getGrp_modGrp]
    exact hfree
  · have hkept : getGrp (rxCdone s.blk hdr) q = getGrp s.blk q := by
      rw [hdone]
      show getGrp (freeGroup (dropTag s.blk x.tag) g) q = _
      rw [freeGroup, getGrp_modGrp_ne _ _ hq]
      rfl
    exact hkept
  · exact congrArg (·.arrays) hdone

theorem post_acknowledged {s : State} {hdr : BitVec 512} {x : FabTag} {i : Nat} (h : RxAnswers s.blk hdr 8 x) (hk : x.kind = .post i)
    (hst : pkStatus hdr.toNat = stOK) : ∃ t : State, exec (.fabRxPack hdr) s = .next t ∧ tagFree t.blk x.tag
    ∧ (getCtx t.blk x.ctx).unacked = (getCtx s.blk x.ctx).unacked - 1 ∧ sameUnits s.blk t.blk := by
  obtain ⟨l, hdone⟩ : ∃ l, rxPack s.blk hdr = { lessUnacked (dropTag s.blk x.tag) x.ctx with entries := l } := by
    rw [rxPack, rxAnswer_ok h (by rw [hk]) _ hst, hk]
    dsimp only
    split
    · exact ⟨s.blk.entries, rfl⟩
    · exact ⟨_, rfl⟩
  refine ⟨_, onLive_live (fun b => rxPack b hdr) h.live, ?_, ?_, ?_⟩
  · exact tagFree_of_tags (congrArg (·.fabTags) hdone) (dropTag_frees s.blk x.tag)
  · have hless : (getCtx (rxPack s.blk hdr) x.ctx).unacked = (getCtx s.blk x.ctx).unacked - 1 := by
      rw [hdone]
      show (getCtx (lessUnacked (dropTag s.blk x.tag) x.ctx) x.ctx).unacked = _
      rw [lessUnacked, getCtx_modCtx]
      rfl
    exact hless
  · have hunits : sameUnits s.blk (rxPack s.blk hdr) := by
      rw [hdone]
      exact ⟨rfl, rfl, rfl, rfl, rfl, rfl, rfl, rfl, rfl, rfl, rfl, rfl⟩
    exact hunits

theorem revoke_acknowledged {s : State} {hdr : BitVec 512} {x : FabTag} (h : RxAnswers s.blk hdr 10 x) (hk : x.kind = .revoke)
    (hst : pkStatus hdr.toNat = stOK) (hf : ∀ f, (getCtx s.blk x.ctx).fence = some f → f.unsent = []) :
    ∃ t : State, exec (.fabRxRack hdr) s = .next t ∧ tagFree t.blk x.tag ∧ sameUnits s.blk t.blk := by
  have hdone : rxRack s.blk hdr = dropTag s.blk x.tag := by
    rw [rxRack, rxAnswer_ok h (by rw [hk]) _ hst, sendRevokes]
    split
    · rfl
    · rename_i f hfence
      rw [hf f hfence]
      rfl
  refine ⟨_, onLive_live (fun b => rxRack b hdr) h.live, tagFree_of_tags (congrArg (·.fabTags) hdone) (dropTag_frees s.blk x.tag), ?_⟩
  have hunits : sameUnits s.blk (rxRack s.blk hdr) := by
    rw [hdone]
    exact ⟨rfl, rfl, rfl, rfl, rfl, rfl, rfl, rfl, rfl, rfl, rfl, rfl⟩
  exact hunits

/-! ### Resends (R296) -/

/-- A request goes out by the loopback or behind the packets of its lane (R291, R294). -/
theorem sendRequest_sends {b d : Block} (h : SameSelf b d) (hl : d.fabLoop = b.fabLoop) (ht : d.fabTx = b.fabTx) (hdr : BitVec 512) (data : List Byte) :
    ∃ u v, sendRequest d hdr data = { d with fabLoop := u, fabTx := v }
      ∧ if isLoop b hdr = true then u = b.fabLoop ++ [⟨hdr, data, pickLane b⟩] else v = b.fabTx ++ [⟨hdr, data, pickLane b⟩] := by
  have hbytes : ∀ l, laneBytes d l = laneBytes b l := fun l => by rw [laneBytes, ht, laneBytes]
  have hlane : pickLane d = pickLane b := by rw [pickLane, hbytes, hbytes, pickLane]
  rw [sendRequest, hlane, h.isLoop, hl, ht]
  split
  · exact ⟨_, b.fabTx, rfl, rfl⟩
  · exact ⟨b.fabLoop, _, rfl, rfl⟩

theorem request_resent {s : State} {tag : BitVec 10} {x : FabTag} {due : Nat} (hl : live s.blk = true)
    (hx : s.blk.fabTags.find? (fun y => y.tag == tag.toNat && !y.zombie) = some x) (hd : x.retryAt = some due) (hdue : due ≤ s.blk.beat) {n : Nat}
    (hn : n = if x.pkt.data = [] then 64 else x.pkt.data.length) (hr : n ≤ (getCtx s.blk x.ctx).regRemote) :
    ∃ (t : State) (p : FabPkt), exec (.fabRetryResend tag) s = .next t ∧ p.hdr = x.pkt.hdr ∧ p.data = x.pkt.data
    ∧ p.lane = (if laneBytes s.blk 1 < laneBytes s.blk 0 then 1 else 0)
    ∧ (if isLoop s.blk x.pkt.hdr = true then t.blk.fabLoop = s.blk.fabLoop ++ [p] else t.blk.fabTx = s.blk.fabTx ++ [p])
    ∧ getFld t.blk .fabCount 0 16 = min (2 ^ 16 - 1) (getFld s.blk .fabCount 0 16 + 1) ∧ (getCtx t.blk x.ctx).regRemote = (getCtx s.blk x.ctx).regRemote - n ∧ sameUnits s.blk t.blk := by
  obtain ⟨l, hdone⟩ : ∃ l, retryResend s.blk tag.toNat = sendRequest { bumpFld (modCtx s.blk x.ctx (fun y => { y with regRemote := y.regRemote - n })) .fabCount 0 16 1 with fabTags := l }
      x.pkt.hdr x.pkt.data := by
    have hcharge : chargeRemote s.blk x.ctx (if x.pkt.data.isEmpty then 64 else x.pkt.data.length) = some (modCtx s.blk x.ctx (fun y => { y with regRemote := y.regRemote - n })) := by
      have hsize : (if x.pkt.data.isEmpty = true then 64 else x.pkt.data.length) = n := by rw [hn]; simp
      rw [hsize]
      exact if_pos hr
    unfold retryResend
    rw [hx]
    dsimp only
    rw [hd]
    dsimp only
    rw [if_neg (by omega), hcharge]
    exact ⟨_, rfl⟩
  have hcount := getFld_bumpFld (modCtx s.blk x.ctx (fun y => { y with regRemote := y.regRemote - n })) .fabCount (lo := 0) (wid := 16) 1 (by decide)
  have hreg : (getCtx (bumpFld (modCtx s.blk x.ctx (fun y => { y with regRemote := y.regRemote - n })) .fabCount 0 16 1) x.ctx).regRemote = (getCtx s.blk x.ctx).regRemote - n := by
    show (getCtx (modCtx s.blk x.ctx (fun y => { y with regRemote := y.regRemote - n })) x.ctx).regRemote = _
    rw [getCtx_modCtx]
  have hself : SameSelf s.blk (bumpFld (modCtx s.blk x.ctx (fun y => { y with regRemote := y.regRemote - n })) .fabCount 0 16 1) :=
    ⟨rawReg_setFld_ne _ _ _ _ (by decide), rawReg_setFld_ne _ _ _ _ (by decide)⟩
  obtain ⟨c, r, k, hc⟩ : ∃ c r k, bumpFld (modCtx s.blk x.ctx (fun y => { y with regRemote := y.regRemote - n })) .fabCount 0 16 1 = { s.blk with ctxs := c, regs := r, coins := k } := ⟨_, _, _, rfl⟩
  rw [hc] at hdone hcount hreg hself
  obtain ⟨u, v, hs, hsent⟩ := sendRequest_sends (d := { s.blk with ctxs := c, regs := r, coins := k, fabTags := l }) (b := s.blk) ⟨hself.self, hself.config⟩ rfl rfl x.pkt.hdr x.pkt.data
  rw [← hdone] at hs
  refine ⟨_, ⟨x.pkt.hdr, x.pkt.data, pickLane s.blk⟩, onLive_live (fun b => retryResend b tag.toNat) hl, rfl, rfl, rfl, ?_, ?_, ?_, ?_⟩
  · dsimp only
    rw [hs]
    exact hsent
  · exact (getFld_congr (congrArg (·.regs) hs) _ _ _).trans hcount
  · have hctx : getCtx (retryResend s.blk tag.toNat) x.ctx = getCtx { s.blk with ctxs := c, regs := r, coins := k } x.ctx := by
      rw [hs]
      rfl
    exact (congrArg (·.regRemote) hctx).trans hreg
  · have hunits : sameUnits s.blk (retryResend s.blk tag.toNat) := by
      rw [hs]
      exact ⟨rfl, rfl, rfl, rfl, rfl, rfl, rfl, rfl, rfl, rfl, rfl, rfl⟩
    exact hunits

end Sys2Proof.Proofs.Fabric

namespace Sys2Proof

open Machine Proofs.Fabric Proofs.Strands

/-- Settles O60, packet by packet: a request that meets its tests, an answer that names its one tag, a timeout. That an OFFER is given the lowest free slot
and that a packet without payload counts as 64 bytes in its lane are the model's choices (log 13), and so is the queue of the loopback (log 19). -/
theorem fabricPort : Obligations.FabricPort := by
  refine ⟨fun s hdr i k len st hi hm ht => request_turned_away hi hm ht, fun s hdr data hm ht hq ha hs => write_streams hm ht hq ha hs,
    fun s hdr g rank k r hm ht hg hr ha hrec hk => offer_granted hm ht hg hr ha hrec hk,
    fun s hdr data x hm ht hx hp htag hkind hlen hlt hnew hmore => row_landed hm ht hx hp htag hkind rfl rfl hlen hlt hnew hmore,
    fun s hdr p r hm ht hp hr hen hposter hpeer hact => ?_, fun s hdr hm ht => entry_revoked hm ht, fun s hdr x i sg h hk hj => write_acknowledged h hk hj,
    fun s hdr x g h hk hg hst => offer_accepted h hk hg hst, fun s hdr x g e h hk hst he => close_done h hk hst he, fun s hdr x i h hk hst => post_acknowledged h hk hst,
    fun s hdr x h hk hst hf => revoke_acknowledged h hk hst hf, fun s tag x due hl hx hd hdue hr => request_resent hl hx hd hdue rfl hr,
    fun s tag x hl hx hd => tag_times_out hl hx hd, fun s slot x hl hx hd => grant_times_out hl hx hd⟩
  have hdone := rxPost_posts hm ht hp hr hen (by cases r <;> exact hposter) hpeer hact
  obtain ⟨t, ht', hpeg, hrest⟩ := post_counts hm.live hdone
  have hadd := (pegAdd_does s.blk p r (pkArg hdr.toNat / 2 ^ 9 % 2 ^ 16)).1.1
  exact ⟨t, ht', by cases r <;> exact hpeg.trans hadd, hrest⟩

end Sys2Proof

/-! SUPPORT. The steward's restart, at the end of an engine reset and at the exit from P2. O22 stays open. Its clause of the engine reset holds
(`engineReset_endsReady`), and its clause of the exit from P2 holds of every engine whose list of registers names none twice (`p2Exit_endsReady`).
O22 quantifies over every list, though: class V returns by a pass over the list, and where the pass drops the first entry of a register, a second one
comes to light and Verify may then answer otherwise. So O22 as it stands says that the firmware key has signed no image below the greatest version
(`engineResetEndsReady_iff`), and the digest of that key is a constant without a body (log 10). -/

namespace Sys2Proof.Proofs.EngineRestart

open Sys2Proof Sys2Proof.Machine Sys2Proof.Laws Sys2Proof.Proofs.IssueStage Sys2Proof.Proofs.EngReset Sys2Proof.Proofs.Fields
open Sys2Proof.Proofs.Reports Sys2Proof.Proofs.Reads Sys2Proof.Proofs.StartUp Sys2Proof.Proofs.Store

/-! ### What a restart leaves alone -/

/-- A restart leaves SRAM, pins, contexts, MGT_PWR and the flags of ENG_STATUS above START_FAIL as they are. -/
structure Restarted (b d : Block) : Prop where
  sram : d.sram = b.sram
  pins : d.pins = b.pins
  ctxs : d.ctxs = b.ctxs
  power : rawReg d .mgtPwr = rawReg b .mgtPwr
  flags : ∀ lo, 2 ≤ lo → lo + 1 ≤ 64 → getFld d .engStatus lo 1 = getFld b .engStatus lo 1

theorem Restarted.trans {b d e : Block} (h : Restarted b d) (k : Restarted d e) : Restarted b e :=
  ⟨k.sram.trans h.sram, k.pins.trans h.pins, k.ctxs.trans h.ctxs, k.power.trans h.power,
    fun lo h2 h64 => (k.flags lo h2 h64).trans (h.flags lo h2 h64)⟩

theorem restarted_of_start {b d : Block} (h : StartOnly b d)
    (hf : ∀ lo, 2 ≤ lo → lo + 1 ≤ 64 → getFld d .engStatus lo 1 = getFld b .engStatus lo 1) : Restarted b d :=
  ⟨h.sram, h.pins, by rw [h.frame], h.regs _ rfl, hf⟩

theorem notify_restarted (b : Block) (k : Nat) (c : Option Ctx) (x e : Nat) (j : Bool) : Restarted b (notify b k c x e j) :=
  restarted_of_start (notify_startOnly b k c x e j) fun lo _ _ => notify_fld b k c x e j rfl lo 1

theorem placeChallenge_restarted (b : Block) : Restarted b (placeChallenge b) :=
  restarted_of_start (placeChallenge_startOnly b) fun lo _ _ => placeChallenge_fld b (by simp) (by simp) lo 1

theorem failStart_restarted (b : Block) (reason : Nat) : Restarted b (failStart b reason) :=
  restarted_of_start (failStart_startOnly b reason) fun lo h2 h64 => by
    unfold failStart
    rw [notify_fld _ _ _ _ _ _ rfl]
    simp (disch := omega) only [getFld_at, setFld_at, fldAt_putFld_apart]
    simp

theorem firmwareStart_restarted (b : Block) : Restarted b (firmwareStart b) :=
  restarted_of_start (firmwareStart_startOnly b) fun lo h2 h64 => by
    unfold firmwareStart
    simp (disch := omega) only [getFld_at, setFld_at, fldAt_putFld_apart]
    simp

theorem testRetire_restarted (b : Block) (fails : Nat) : Restarted b (testRetire b fails) :=
  have hregs := (testRetire_does b fails).2.1
  ⟨rfl, rfl, rfl, hregs _ (by simp) (by simp), fun lo _ _ => by simp only [getFld, hregs .engStatus (by simp) (by simp)]⟩

/-! ### How a restart ends (R364, R365) -/

/-- The REASON with which a restart fails, or 0: what Verify finds, unless an earlier start has failed for good (R364). -/
def restartReason (b : Block) : Nat := if b.steward.dead = 0 then verifyReason b else b.steward.dead

/-- The reset and the exit from P2 are over. -/
def resetOver (b : Block) : Block := { b with rst := .idle, steward := { b.steward with p2Exit := false } }

/-- A restart that succeeds: arrays that fail are retired, the firmware starts and `told` tells of it. -/
def restartReady (b : Block) (fails : Nat) (told : Bool) : Block :=
  let d := firmwareStart (testRetire (resetOver b) fails)
  if told then notify d 7 none 0 0 false else d

theorem restartSteward_eq (b : Block) (fails : Nat) (told : Bool) :
    restartSteward b fails told = if restartReason b = 0 then restartReady b fails told else failStart b (restartReason b) := by
  have hreason : restartReason b = if b.steward.dead == 0 then verifyReason b else b.steward.dead := by simp only [restartReason, beq_iff_eq]
  unfold restartSteward
  rw [← hreason]
  cases restartReason b <;> rfl

/-- A restart that has succeeded: READY, with the reset and the exit from P2 over. -/
structure Restart (d : Block) : Prop where
  ready : ∃ left, Ready d left
  rst : d.rst = .idle
  p2Exit : d.steward.p2Exit = false

theorem Restart.told {d : Block} (h : Restart d) (k : Nat) (c : Option Ctx) (x e : Nat) (j : Bool) : Restart (notify d k c x e j) := by
  obtain ⟨left, hleft⟩ := h.ready
  refine ⟨⟨left, hleft.told k c x e j⟩, (notify_startOnly d k c x e j).rst.trans h.rst, ?_⟩
  obtain ⟨n, hn⟩ := notify_frame d k c x e j
  rw [hn]
  exact h.p2Exit

theorem Restart.challenge {d : Block} (h : Restart d) : Restart (placeChallenge d) := by
  obtain ⟨left, hleft⟩ := h.ready
  exact ⟨⟨left, hleft.challenge⟩, (placeChallenge_startOnly d).rst.trans h.rst, h.p2Exit⟩

theorem firmwareStart_p2Exit (b : Block) : (firmwareStart b).steward.p2Exit = b.steward.p2Exit := by
  unfold firmwareStart
  dsimp only
  rfl

theorem testRetire_steward (b : Block) (fails : Nat) : (testRetire b fails).steward = b.steward ∧ (testRetire b fails).rst = b.rst := by
  unfold testRetire
  exact ⟨rfl, rfl⟩

theorem restartReady_restart (b : Block) (fails : Nat) (told : Bool) : Restart (restartReady b fails told) := by
  obtain ⟨hsteward, hrst⟩ := testRetire_steward (resetOver b) fails
  have hstart : Restart (firmwareStart (testRetire (resetOver b) fails)) :=
    ⟨⟨_, firmwareStart_ready _⟩, (firmwareStart_startOnly _).rst.trans hrst, (firmwareStart_p2Exit _).trans (congrArg (·.p2Exit) hsteward)⟩
  unfold restartReady
  dsimp only
  split
  · exact hstart.told ..
  · exact hstart

theorem restartReady_restarted (b : Block) (fails : Nat) (told : Bool) : Restarted b (restartReady b fails told) := by
  have hover : Restarted b (resetOver b) := ⟨rfl, rfl, rfl, rfl, fun _ _ _ => rfl⟩
  have hstart := hover.trans ((testRetire_restarted (resetOver b) fails).trans (firmwareStart_restarted _))
  unfold restartReady
  dsimp only
  split
  · exact hstart.trans (notify_restarted ..)
  · exact hstart

/-- Either way a restart leaves alone what it leaves alone. -/
theorem restartSteward_restarted (b : Block) (fails : Nat) (told : Bool) : Restarted b (restartSteward b fails told) := by
  rw [restartSteward_eq]
  split
  · exact restartReady_restarted b fails told
  · exact failStart_restarted b _

/-! ### The end of an engine reset -/

/-- The challenge of a locked debug page is placed anew after the restart (R404). -/
def afterRestart (b : Block) : Block := if getFld b .dbgChalStatus 0 1 == 1 then b else placeChallenge b

theorem afterRestart_restarted (b : Block) : Restarted b (afterRestart b) := by
  unfold afterRestart
  split
  · exact ⟨rfl, rfl, rfl, rfl, fun _ _ _ => rfl⟩
  · exact placeChallenge_restarted b

theorem Restart.after {d : Block} (h : Restart d) : Restart (afterRestart d) := by
  unfold afterRestart
  split
  · exact h
  · exact h.challenge

theorem Failed.after {d : Block} {reason : Nat} (h : Failed d reason) : Failed (afterRestart d) reason := by
  unfold afterRestart
  split
  · exact h
  · exact h.challenge

theorem afterRestart_rst (b : Block) : (afterRestart b).rst = b.rst := by
  unfold afterRestart
  split
  · rfl
  · exact (placeChallenge_startOnly b).rst

theorem stewardReady_reset {b : Block} (fails : Nat) (hr : b.rst = .steward) (hh : dbgHalted b = false) (hv : frozenV b = false)
    (h2 : getFld b .engStatus 2 1 = 0) : stewardReady b fails = afterRestart (restartSteward { b with rst := .failed } fails true) := by
  unfold stewardReady
  rw [if_neg (by simp [hh, hv, h2]), if_pos hr]
  rfl

theorem exec_engineResetReady {s : State} (f : BitVec 4) (h : live s.blk = true) (hp : (stewardReady s.blk f.toNat).pins = s.blk.pins) :
    exec (.engineResetReady f) s = .next { s with blk := stewardReady s.blk f.toNat } :=
  onLive_pins (f := fun b => stewardReady b f.toNat) h hp

/-- The steward phases of an engine reset end READY or FAILED (R330, R364, R365). -/
theorem engineReset_endsReady (s : State) (f : BitVec 4) (hl : live s.blk = true) (hr : s.blk.rst = .steward) (hh : dbgHalted s.blk = false)
    (hv : frozenV s.blk = false) (h2 : getFld s.blk .engStatus 2 1 = 0) : ∃ t : State, exec (.engineResetReady f) s = .next t
      ∧ t.blk.sram = s.blk.sram
      ∧ (if restartReason s.blk = 0 then t.blk.rst = .idle ∧ getFld t.blk .engStatus 0 1 = 1 ∧ getFld t.blk .mgtBootStatus 0 4 = 7
            ∧ t.blk.steward.running = true
          else t.blk.rst = .failed ∧ getFld t.blk .engStatus 0 1 = 0 ∧ getFld t.blk .mgtBootStatus 0 4 = 8
            ∧ getFld t.blk .mgtBootStatus 4 4 = restartReason s.blk % 16) := by
  have hset := stewardReady_reset f.toNat hr hh hv h2
  have hkeep := (restartSteward_restarted { s.blk with rst := .failed } f.toNat true).trans (afterRestart_restarted _)
  rw [← hset] at hkeep
  refine ⟨_, exec_engineResetReady f hl hkeep.pins, hkeep.sram, ?_⟩
  have hreason : restartReason { s.blk with rst := .failed } = restartReason s.blk := rfl
  rw [hset, restartSteward_eq, hreason]
  split
  · have hend := (restartReady_restart { s.blk with rst := .failed } f.toNat true).after
    obtain ⟨left, hleft⟩ := hend.ready
    exact ⟨hend.rst, hleft.ready, hleft.phase, hleft.running⟩
  · have hend := Failed.after (failStart_failed { s.blk with rst := .failed } (restartReason s.blk))
    exact ⟨(afterRestart_rst _).trans (failStart_startOnly _ _).rst, hend.ready, hend.phase, hend.reason⟩

/-! ### The exit from P2 -/

/-- The counters that start again: class V of the registers, and the time of every context (R11, R350). -/
theorem restartCounters_does (b : Block) : (∀ c, (getCtx (restartCounters b) c).elapsed = 0#64) ∧ getFld (restartCounters b) .engStatus 4 1 = 1
    ∧ (restartCounters b).steward = b.steward := by
  unfold restartCounters
  dsimp only
  generalize hd : hwSet { resetRegs (fun k => decide (k = .V)) b with coins := [] } .engStatus 4 = d
  obtain ⟨honly, hget⟩ := allFin_modCtx (step := fun b c => modCtx b c (fun x => { x with elapsed := 0#64 }))
    (F := fun _ _ x => { x with elapsed := 0#64 }) (fun _ _ => rfl) (fun _ _ _ _ => rfl) d
  refine ⟨fun c => by rw [hget], ?_, ?_⟩
  · rw [getFld_congr (show _ = d.regs by rw [honly]), ← hd]
    exact getFld_hwSet _ .engStatus (by omega)
  · rw [honly, ← hd]
    rfl

theorem restartCounters_regs (b : Block) {r : Reg} (hr : r ≠ .engStatus) :
    rawReg (restartCounters b) r = rawReg (resetRegs (fun k => decide (k = .V)) b) r := by
  unfold restartCounters
  dsimp only
  generalize hd : hwSet { resetRegs (fun k => decide (k = .V)) b with coins := [] } .engStatus 4 = d
  obtain ⟨honly, -⟩ := allFin_modCtx (step := fun b c => modCtx b c (fun x => { x with elapsed := 0#64 }))
    (F := fun _ _ x => { x with elapsed := 0#64 }) (fun _ _ => rfl) (fun _ _ _ _ => rfl) d
  rw [rawReg_congr (show _ = d.regs by rw [honly]), ← hd, rawReg_hwSet, rawReg_setFld_ne _ _ _ _ hr]
  rfl

/-- Power, registers and class V counters at the exit from P2 (R11, R350). -/
structure Restored (b d : Block) : Prop where
  store : store d = store b
  steward : d.steward = b.steward
  state : getFld d .mgtPwr 2 2 = 0
  restored : getFld d .engStatus 3 1 = 1
  counters : getFld d .engStatus 4 1 = 1
  elapsed : ∀ c, (getCtx d c).elapsed = 0#64
  minver : rawReg d .mgtBootMinver = rawReg (resetRegs (fun k => decide (k = .V)) b) .mgtBootMinver

theorem p2Restore_does {b : Block} (h : getFld b .mgtPwr 2 2 = 2) : Restored b (p2Restore b) := by
  obtain ⟨helapsed, hcounters, hsteward⟩ := restartCounters_does b
  have hset : p2Restore b = setFld (hwSet (restartCounters b) .engStatus 3) .mgtPwr 2 2 0 := if_pos (by simp [inP2, h])
  have hminver := restartCounters_regs b (r := .mgtBootMinver) (by simp)
  have hstore := store_p2Restore b
  rw [hset] at hstore ⊢
  generalize restartCounters b = r at *
  refine ⟨hstore, hsteward, ?_, ?_, ?_, helapsed, ?_⟩
  · exact getFld_setFld _ _ _ (by omega)
  · rw [getFld_setFld_ne _ _ _ _ _ _ (by simp)]
    exact getFld_hwSet _ .engStatus (by omega)
  · rw [getFld_setFld_ne _ _ _ _ _ _ (by simp)]
    exact (getFld_setFld_apart r .engStatus 1 (by omega) (by omega)).trans hcounters
  · rw [rawReg_setFld_ne _ _ _ _ (by simp), rawReg_hwSet, rawReg_setFld_ne _ _ _ _ (by simp), hminver]

theorem stewardReady_p2Exit {b : Block} (fails : Nat) (hp : b.steward.p2Exit = true) (hr : b.rst ≠ .steward)
    (h8 : getFld b .mgtBootStatus 0 4 ≠ 8) (hh : dbgHalted b = false) (hv : frozenV b = false) (h2 : getFld b .engStatus 2 1 = 0) :
    stewardReady b fails = restartSteward (p2Restore b) fails false := by
  unfold stewardReady
  rw [if_neg (by simp [hh, hv, h2]), if_neg hr, if_pos (by simp [hp, h8])]

/-- The exit from P2 begins in `s`: the steward runs and no failed start is in its way. -/
structure ExitsP2 (s : State) : Prop where
  live : live s.blk = true
  state : getFld s.blk .mgtPwr 2 2 = 2
  p2Exit : s.blk.steward.p2Exit = true
  rst : s.blk.rst ≠ .steward
  phase : getFld s.blk .mgtBootStatus 0 4 ≠ 8
  halted : dbgHalted s.blk = false
  frozen : frozenV s.blk = false
  absent : getFld s.blk .engStatus 2 1 = 0

/-- The block after the exit from P2: restored, and restarted from there. -/
theorem exec_p2Exit {s : State} (h : ExitsP2 s) (f : BitVec 4) :
    exec (.engineResetReady f) s = .next { s with blk := restartSteward (p2Restore s.blk) f.toNat false } := by
  have hset := stewardReady_p2Exit f.toNat h.p2Exit h.rst h.phase h.halted h.frozen h.absent
  have hpins : (p2Restore s.blk).pins = s.blk.pins := congrArg (·.2.2) (p2Restore_does h.state).store
  rw [← hset]
  exact exec_engineResetReady f h.live (by rw [hset, (restartSteward_restarted _ _ _).pins, hpins])

/-- How the exit from P2 ends, where Verify answers `reason`: in P0, the registers restored, the class V counters started again, and READY or FAILED. -/
def EndsP2 (s : State) (f : BitVec 4) (reason : Nat) : Prop :=
  ∃ t : State, exec (.engineResetReady f) s = .next t ∧ t.blk.sram = s.blk.sram ∧ getFld t.blk .mgtPwr 2 2 = 0
    ∧ getFld t.blk .engStatus 3 1 = 1 ∧ getFld t.blk .engStatus 4 1 = 1 ∧ (∀ c, (getCtx t.blk c).elapsed = 0#64)
    ∧ (s.blk.steward.dead = 0 → reason = 0 → getFld t.blk .engStatus 0 1 = 1 ∧ t.blk.steward.running = true ∧ t.blk.steward.p2Exit = false)
    ∧ (s.blk.steward.dead = 0 → reason ≠ 0 → getFld t.blk .engStatus 0 1 = 0 ∧ getFld t.blk .mgtBootStatus 0 4 = 8)

/-- Verify judges the image by the registers as they are restored (R11, R350, R365). -/
theorem p2Exit_ends {s : State} (h : ExitsP2 s) (f : BitVec 4) : EndsP2 s f (verifyReason (p2Restore s.blk)) := by
  have hres := p2Restore_does h.state
  have hkeep := restartSteward_restarted (p2Restore s.blk) f.toNat false
  have hreason : s.blk.steward.dead = 0 → restartReason (p2Restore s.blk) = verifyReason (p2Restore s.blk) := fun h0 => by
    rw [restartReason, hres.steward, if_pos h0]
  refine ⟨_, exec_p2Exit h f, hkeep.sram.trans (congrArg (·.1) hres.store), ?_, (hkeep.flags 3 (by omega) (by omega)).trans hres.restored,
    (hkeep.flags 4 (by omega) (by omega)).trans hres.counters, fun c => ?_, fun h0 hv => ?_, fun h0 hv => ?_⟩
  · simp only [getFld, hkeep.power]
    exact hres.state
  · have hctx : getCtx (restartSteward (p2Restore s.blk) f.toNat false) c = getCtx (p2Restore s.blk) c := congrArg (·.get c) hkeep.ctxs
    rw [hctx]
    exact hres.elapsed c
  · dsimp only
    rw [restartSteward_eq, if_pos ((hreason h0).trans hv)]
    have hend := restartReady_restart (p2Restore s.blk) f.toNat false
    obtain ⟨left, hleft⟩ := hend.ready
    exact ⟨hleft.ready, hleft.running, hend.p2Exit⟩
  · dsimp only
    rw [restartSteward_eq, if_neg (by rwa [hreason h0])]
    have hend := failStart_failed (p2Restore s.blk) (restartReason (p2Restore s.blk))
    exact ⟨hend.ready, hend.phase⟩

/-! ### Verify before and after the registers are restored -/

/-- What Verify finds in the image itself, its version left aside: 0 when it is signed. -/
def imageReason (b : Block) : Nat := verifyReason { b with regs := [] }

/-- Verify judges the image and then its version (R360). -/
theorem verifyReason_eq (b : Block) : verifyReason b =
    if imageReason b = 0 then (if bootLe b 8 4 < getFld b .mgtBootMinver 0 32 then 4 else 0) else imageReason b := by
  have hzero : getFld { b with regs := [] } .mgtBootMinver 0 32 = 0 := rfl
  have hboot : ∀ a n, bootBytes { b with regs := [] } a n = bootBytes b a n := fun _ _ => rfl
  have hle : ∀ a n, bootLe { b with regs := [] } a n = bootLe b a n := fun _ _ => rfl
  unfold imageReason verifyReason
  dsimp only
  rw [hzero]
  simp only [hboot, hle, Nat.not_lt_zero, if_false]
  split
  · rfl
  · split
    · rfl
    · split <;> rfl

theorem imageReason_congr {b d : Block} (h : d.boot = b.boot) : imageReason d = imageReason b := by
  unfold imageReason verifyReason bootBytes bootLe bootBytes
  simp only [h]
  rfl

/-- Where the version is not below MINVER before and after, or MINVER has not changed, Verify answers the same. -/
theorem verifyReason_restored {b : Block} (h : getFld b .mgtPwr 2 2 = 2)
    (hmin : imageReason b = 0 → (bootLe b 8 4 < getFld (p2Restore b) .mgtBootMinver 0 32 ↔ bootLe b 8 4 < getFld b .mgtBootMinver 0 32)) :
    verifyReason (p2Restore b) = verifyReason b := by
  have hboot : (p2Restore b).boot = b.boot := congrArg (·.2.1) (p2Restore_does h).store
  have hver : bootLe (p2Restore b) 8 4 = bootLe b 8 4 := by simp only [bootLe, bootBytes, hboot]
  rw [verifyReason_eq, verifyReason_eq b, imageReason_congr hboot, hver]
  by_cases h0 : imageReason b = 0
  · simp only [hmin h0]
  · simp only [if_neg h0]

/-! ### Class V of a list of registers -/

/-- What a pass that returns classes leaves of one entry of the list. -/
def entryReturned (gone : RClass → Bool) (p : Nat × W64) : Option (Nat × W64) :=
  match Reg.ofAddr p.1 with
  | some r => if resetClasses gone r p.2 = r.resetVal then none else some (p.1, resetClasses gone r p.2)
  | none => none

theorem resetRegs_regs (gone : RClass → Bool) (b : Block) : (resetRegs gone b).regs = b.regs.filterMap (entryReturned gone) := rfl

theorem entryReturned_addr (gone : RClass → Bool) (r : Reg) (v : W64) : entryReturned gone (r.addr, v) =
    if resetClasses gone r v = r.resetVal then none else some (r.addr, resetClasses gone r v) := by
  unfold entryReturned
  rw [ofAddr_addr]

/-- An entry keeps its key. -/
theorem entryReturned_key {gone : RClass → Bool} {p q : Nat × W64} (h : entryReturned gone p = some q) : q.1 = p.1 := by
  unfold entryReturned at h
  split at h
  · split at h
    · cases h
    · rw [← Option.some.inj h]
  · cases h

theorem spGet_of_unlisted {α : Type} {d : α} {a : Nat} : ∀ {l : List (Nat × α)}, a ∉ l.map Prod.fst → spGet d l a = d
  | [], _ => rfl
  | (k, v) :: l, h => by
    rw [List.map_cons, List.mem_cons, not_or] at h
    rw [spGet, if_neg (Ne.symm h.1), spGet_of_unlisted h.2]

/-- The pass over a list that names no register twice reads as the classes of the one register returned (R11). A second entry of a register would
come to light where the pass drops the first. -/
theorem spGet_entriesReturned {gone : RClass → Bool} {r : Reg} (hr : resetClasses gone r r.resetVal = r.resetVal) :
    ∀ {l : List (Nat × W64)}, (l.map Prod.fst).Nodup →
      spGet r.resetVal (l.filterMap (entryReturned gone)) r.addr = resetClasses gone r (spGet r.resetVal l r.addr)
  | [], _ => hr.symm
  | (k, v) :: l, h => by
    obtain ⟨hk, hl⟩ := List.nodup_cons.mp h
    have ih := spGet_entriesReturned hr hl
    rw [List.filterMap_cons, spGet]
    by_cases hkr : k = r.addr
    · subst hkr
      rw [entryReturned_addr, if_pos rfl]
      rw [spGet_of_unlisted hk, hr] at ih
      split
      · next hnone =>
        split at hnone
        · next hv => rw [ih, hv]
        · cases hnone
      · next hsome =>
        split at hsome
        · cases hsome
        · obtain rfl := Option.some.inj hsome
          exact if_pos rfl
    · rw [if_neg hkr, ← ih]
      split
      · rfl
      · next q hq => exact if_neg (fun e => hkr ((entryReturned_key hq).symm.trans e))

/-- MINVER is class K: class V's return leaves it (R11, R367). -/
theorem minver_restored {b : Block} (h : getFld b .mgtPwr 2 2 = 2) (hkeys : (b.regs.map Prod.fst).Nodup) :
    getFld (p2Restore b) .mgtBootMinver 0 32 = getFld b .mgtBootMinver 0 32 := by
  have hraw : rawReg (resetRegs (fun k => decide (k = .V)) b) .mgtBootMinver = rawReg b .mgtBootMinver := by
    rw [rawReg, resetRegs_regs]
    exact spGet_entriesReturned rfl hkeys
  simp only [getFld, (p2Restore_does h).minver, hraw]

/-- Where the list of registers names none twice, the exit from P2 ends as Verify answers before it. -/
theorem p2Exit_endsReady {s : State} (h : ExitsP2 s) (hkeys : (s.blk.regs.map Prod.fst).Nodup) (f : BitVec 4) : EndsP2 s f (verifyReason s.blk) := by
  rw [← verifyReason_restored h.state (fun _ => by rw [minver_restored h.state hkeys])]
  exact p2Exit_ends h f

/-! ### What O22 says of every list of registers -/

/-- Registers of an engine in P2 that list MINVER twice: it reads 0, and the greatest version once class V has returned. -/
def minverTwice : RegMap := [(Reg.mgtPwr.addr, 8#64), (Reg.mgtBootMinver.addr, 0#64), (Reg.mgtBootMinver.addr, 0xFFFFFFFF#64)]

/-- What that list reads as, and MINVER after the pass over it. -/
theorem minverTwice_reads : fldAt minverTwice .mgtPwr 2 2 = 2 ∧ fldAt minverTwice .mgtBootStatus 0 4 = 0 ∧ fldAt minverTwice .dbgSteward 0 1 = 0
    ∧ fldAt minverTwice .mgtVwarn 25 1 = 0 ∧ fldAt minverTwice .engStatus 2 1 = 0 ∧ fldAt minverTwice .mgtBootMinver 0 32 = 0
    ∧ fldAt (minverTwice.filterMap (entryReturned (fun k => decide (k = .V)))) .mgtBootMinver 0 32 = 2 ^ 32 - 1 := by decide

/-- An engine at the exit from P2 with that list. -/
def listsMinverTwice (boot : Mem) : Block :=
  { Block.reset with
    boot := boot
    pins := { Pins.reset with rstCold := true }
    steward := { StewardSt.reset with p2Exit := true }
    regs := minverTwice }

theorem listsMinverTwice_exits (boot : Mem) : ExitsP2 ⟨listsMinverTwice boot, []⟩ := by
  obtain ⟨hpwr, hphase, hhalt, hwarn, habsent, -, -⟩ := minverTwice_reads
  have hreads : ∀ r lo wid, getFld (listsMinverTwice boot) r lo wid = fldAt minverTwice r lo wid := fun _ _ _ => rfl
  refine ⟨?_, (hreads ..).trans hpwr, rfl, nofun, ?_, ?_, ?_, (hreads ..).trans habsent⟩
  · rw [live, hreads, hpwr]
    rfl
  · rw [hreads, hphase]
    omega
  · rw [dbgHalted, hreads, hhalt]
    rfl
  · rw [frozenV, hreads, hwarn]
    rfl

theorem listsMinverTwice_minver (boot : Mem) : getFld (listsMinverTwice boot) .mgtBootMinver 0 32 = 0
    ∧ getFld (p2Restore (listsMinverTwice boot)) .mgtBootMinver 0 32 = 2 ^ 32 - 1 := by
  obtain ⟨-, -, -, -, -, hbefore, hafter⟩ := minverTwice_reads
  refine ⟨hbefore, ?_⟩
  simp only [getFld, (p2Restore_does (listsMinverTwice_exits boot).state).minver]
  exact hafter

/-- An accepted image is signed, and its version is as it is. -/
theorem imageReason_of_accepted {b : Block} (h : verifyReason b = 0) : imageReason b = 0 := by
  by_contra h0
  rw [verifyReason_eq, if_neg h0] at h
  exact h0 h

/-- O22 fails where an accepted image has any version but the greatest: the engine that lists MINVER twice accepts it before its registers are restored
and refuses it after. -/
theorem not_engineResetEndsReady_of_accepted {b : Block} (h : verifyReason b = 0) (hver : bootLe b 8 4 < 2 ^ 32 - 1) :
    ¬ Obligations.EngineResetEndsReady := by
  rintro ⟨-, hexit⟩
  obtain ⟨hbefore, hafter⟩ := listsMinverTwice_minver b.boot
  have hx := listsMinverTwice_exits b.boot
  have himage : imageReason (listsMinverTwice b.boot) = 0 := (imageReason_congr (b := b) rfl).trans (imageReason_of_accepted h)
  have hboot : (p2Restore (listsMinverTwice b.boot)).boot = b.boot := congrArg (·.2.1) (p2Restore_does hx.state).store
  have haccepts : verifyReason (listsMinverTwice b.boot) = 0 := by
    rw [verifyReason_eq, if_pos himage, hbefore, if_neg (Nat.not_lt_zero _)]
  have hrefuses : verifyReason (p2Restore (listsMinverTwice b.boot)) ≠ 0 := by
    have hlt : bootLe (p2Restore (listsMinverTwice b.boot)) 8 4 < 2 ^ 32 - 1 := by
      simp only [bootLe, bootBytes, hboot]
      exact hver
    rw [verifyReason_eq, imageReason_congr (b := listsMinverTwice b.boot) hboot, if_pos himage, hafter, if_pos hlt]
    omega
  obtain ⟨t, ht, -, -, -, -, -, hready, -⟩ := hexit _ 0#4 hx.live hx.state hx.p2Exit hx.rst hx.phase hx.halted hx.frozen hx.absent
  obtain ⟨t', ht', -, -, -, -, -, -, hfailed⟩ := p2Exit_ends hx 0#4
  obtain rfl : t = t' := Host.Outcome.next.inj (ht.symm.trans ht')
  have h1 := (hready rfl haccepts).1
  rw [(hfailed rfl hrefuses).1] at h1
  cases h1

/-- O22 holds where every accepted image has the greatest version: no value of MINVER is above it. -/
theorem engineResetEndsReady_of_newest (h : ∀ b, verifyReason b = 0 → 2 ^ 32 - 1 ≤ bootLe b 8 4) : Obligations.EngineResetEndsReady := by
  refine ⟨engineReset_endsReady, fun s f hl hst hp hr h8 hh hv h2 => ?_⟩
  have hx : ExitsP2 s := ⟨hl, hst, hp, hr, h8, hh, hv, h2⟩
  have hsame : verifyReason (p2Restore s.blk) = verifyReason s.blk := verifyReason_restored hst fun h0 => by
    have hver : 2 ^ 32 - 1 ≤ bootLe s.blk 8 4 := h { s.blk with regs := [] } h0
    have hbefore := getFld_lt s.blk .mgtBootMinver 0 32
    have hafter := getFld_lt (p2Restore s.blk) .mgtBootMinver 0 32
    omega
  have hends := p2Exit_ends hx f
  rw [hsame] at hends
  exact hends

/-- What is left of O22: whether the firmware key, whose digest has no value in the model (log 10), has signed an image below the greatest version. -/
theorem engineResetEndsReady_iff : Obligations.EngineResetEndsReady ↔ ∀ b, verifyReason b = 0 → 2 ^ 32 - 1 ≤ bootLe b 8 4 :=
  ⟨fun h _ hb => Nat.not_lt.mp fun hlt => not_engineResetEndsReady_of_accepted hb hlt h, engineResetEndsReady_of_newest⟩

end Sys2Proof.Proofs.EngineRestart
